-- ==== Sys2Proof/Word.lean ====
section
/-! DEFINITION. Word types of the LX9 and their plainest arithmetic. Bit 0 is the least significant bit (R3, R4). -/

namespace Sys2Proof

/-- A byte. -/
abbrev Byte := BitVec 8
/-- A 64-bit word: the atomic granule (R139), a tag, a bit address, a frame register. -/
abbrev Word := BitVec 64
/-- A 32-bit lane. -/
abbrev Lane := BitVec 32
/-- The value of a token: 1,024 bits, words 3 to 18 of a token image (Table 2.1). -/
abbrev Value := BitVec 1024
/-- A node record: 96 bits (Table 3.6). -/
abbrev RecordWord := BitVec 96
/-- A block image: 2,048 bytes, image bit j is bit j (R81). -/
abbrev Image := BitVec 16384
/-- A sector: 32 bytes (R139). -/
abbrev Sector := BitVec 256

/-- The unsigned bits [lo + n - 1 : lo] of a number, as a number (R4). -/
def bits (x lo n : Nat) : Nat := x / 2 ^ lo % 2 ^ n

/-- The signed reading of the low `w` bits of a number (R113). -/
def signedOf (w x : Nat) : Int :=
  let y := x % 2 ^ w
  if y < 2 ^ (w - 1) then (y : Int) else (y : Int) - (2 ^ w : Nat)

/-- The two's complement pattern of an integer in `w` bits: narrowing modulo 2^w (R342). -/
def patternOf (w : Nat) (x : Int) : Nat := (x % ((2 ^ w : Nat) : Int)).toNat

/-- Lane `j` of a value: bits [32 j + 31 : 32 j] (R30). -/
def laneOf (v : Value) (j : Nat) : Lane := v.extractLsb' (32 * j) 32

/-- Word `j` of a value: bits [64 j + 63 : 64 j]. -/
def wordOf (v : Value) (j : Nat) : Word := v.extractLsb' (64 * j) 64

/-- A value whose bits are those of a number, cut at 1,024 bits. -/
def valueOfNat (n : Nat) : Value := BitVec.ofNat 1024 n

/-- The number that lanes in ascending order make: lane 0 lowest (R30). -/
def natOfLanes : List Nat → Nat
  | [] => 0
  | x :: xs => x % 2 ^ 32 + 2 ^ 32 * natOfLanes xs

/-- The number that elements of width `w` in ascending order make. -/
def natOfElems (w : Nat) : List Nat → Nat
  | [] => 0
  | x :: xs => x % 2 ^ w + 2 ^ w * natOfElems w xs

/-- Little-endian bytes of a number, `n` of them. -/
def bytesOfNat : Nat → Nat → List Byte
  | 0, _ => []
  | n + 1, x => BitVec.ofNat 8 x :: bytesOfNat n (x / 256)

/-- The number that little-endian bytes make. -/
def natOfBytes : List Byte → Nat
  | [] => 0
  | b :: bs => b.toNat + 256 * natOfBytes bs

end Sys2Proof
end

