-- ==== Sys2Proof/Syntax.lean ====
section
/-! DEFINITION. The instructions of the LX9 as data: the node-record forms of Table 3.13 with their fields
(Tables 3.6 to 3.12), and the device events of the opcode table with their operands. -/

namespace Sys2Proof

/-- Type codes (Table 3.8). Code 7 is reserved and names nothing. -/
inductive Ty where
  | i64 | i32 | i16 | i8 | i6 | i4 | i3 | f32 | bf16 | f16 | e5m2 | e4m3 | e3m2 | e2m3 | e2m1
  deriving DecidableEq, Repr

/-- Rounding modes (Table 4.3). -/
inductive Rnd where
  | rne | rtz | rup | rdn | rna | rsr
  deriving DecidableEq, Repr

/-- Saturation codes (Table 3.9). -/
inductive Sat where
  | none | sat | satn
  deriving DecidableEq, Repr

/-- Float operand modifier on A (Table 3.9, NA). -/
inductive Modifier where
  | keep | neg | abs | nabs
  deriving DecidableEq, Repr

/-- Lane modes (Table 3.9, LM). -/
inductive LaneMode where
  | scalar | vector | packed
  deriving DecidableEq, Repr

/-- Predication (Table 3.6, PM). -/
inductive PredMode where
  | always | onTrue | onFalse
  deriving DecidableEq, Repr

/-- Operand ports that a record requires (Table 3.6, AR). -/
inductive Arity where
  | start | a | ab | abc
  deriving DecidableEq, Repr

/-- Tag operations (Table 2.3). -/
inductive TagOp where
  | keep | wave | push | pop | colour | retag
  deriving DecidableEq, Repr

/-- Operand ports (Table 2.1). -/
inductive Port where
  | a | b | c | p
  deriving DecidableEq, Repr

/-- Targets (Table 3.7). -/
inductive Target where
  /-- Kind 00. -/
  | none
  /-- Kind 01: a node of this block. -/
  | node (index : BitVec 7) (port : Port) (tga : Bool)
  /-- Kind 10: a write slot. -/
  | slot (index : BitVec 7) (tga : Bool)
  /-- Kind 11: a node of another block (R91). -/
  | far (index : BitVec 7) (port : Port) (tga : Bool)
  deriving DecidableEq, Repr

/-- Reduction codes (Table 3.14, red). -/
inductive Red where
  | add | min | max | and | or | xor
  deriving DecidableEq, Repr

/-- Conditions (Table 3.14, cond). -/
inductive Cond where
  | eq | ne | lt | le | gt | ge | un | or
  deriving DecidableEq, Repr

/-- Scopes (Table 6.1). -/
inductive Scope where
  | act | slv | grd | dev | pod | sys
  deriving DecidableEq, Repr

/-- Order codes of an M-format record (Table 3.10, ORDR). -/
inductive Order where
  | relaxed | acquire | release | acqRel
  deriving DecidableEq, Repr

/-- The fields every record has besides its opcode (Table 3.6). -/
structure Common where
  fn : BitVec 4
  ty : Ty
  pm : PredMode
  ar : Arity
  tg : TagOp
  t0 : Target
  t1 : Target
  deriving DecidableEq, Repr

/-- Format G (Table 3.9). -/
structure GRec where
  c   : Common
  rnd : Rnd
  sat : Sat
  na  : Modifier
  lm  : LaneMode
  aux : BitVec 8
  lit : BitVec 32
  deriving DecidableEq, Repr

/-- Format M (Table 3.10). -/
structure MRec where
  c    : Common
  own  : BitVec 5
  pred : BitVec 5
  succ : BitVec 5
  ordr : Order
  ofs  : BitVec 32
  deriving DecidableEq, Repr

/-- Format T (Table 3.11). AUX [33:32] is `fmt`, its low two bits. -/
structure TRec where
  c    : Common
  isl  : BitVec 5
  all  : Bool
  slot : BitVec 3
  aux  : BitVec 8
  row  : BitVec 12
  nrow : BitVec 12
  col  : BitVec 7
  deriving DecidableEq, Repr

/-- Format C (Table 3.12). -/
structure CRec where
  c    : Common
  exn  : BitVec 3
  bofs : BitVec 32
  deriving DecidableEq, Repr

/-- Format X (Table 3.12). -/
structure XRec where
  c     : Common
  hslot : BitVec 9
  full  : Bool
  ha    : Bool
  hb    : Bool
  lit   : BitVec 32
  deriving DecidableEq, Repr

/-- Who writes a system register: the management window (R321), or an SWR of a partition and a sleeve (R428). A host's access over CXL.io to
BAR0, a read or a write of some bytes, names its byte offset in BAR0 for a register number (R321). -/
inductive Via where
  | mgmt
  | swr (part sleeve : Nat)
  | bar (width : Nat) (write : Bool)
  deriving DecidableEq, Repr

/-- The operands of an inbound READ or WRITE (Table 11.3). -/
structure AccessMsg where
  len  : BitVec 8
  addr : BitVec 42
  data : BitVec 192
  rid  : BitVec 32
  deriving DecidableEq, Repr

/-- The contents of a READ_DATA or ATOMIC_DATA (Table 11.3). -/
structure DataMsg where
  poi  : Bool
  data : BitVec 192
  rid  : BitVec 32
  deriving DecidableEq, Repr

/-- The operands of an inbound ATOMIC (Table 11.3): `op` is OPC - 0x70. -/
structure AtomicMsg where
  op   : BitVec 4
  ty   : BitVec 2
  u    : Bool
  addr : BitVec 42
  b    : Word
  c    : Word
  rid  : BitVec 32
  deriving DecidableEq, Repr

/-- A DELTA or PDELTA (Table 11.3): sector index 2,048 p + s, the low 26 bits of DSEQ, and old XOR new. -/
structure DeltaMsg where
  sector : BitVec 34
  dseq   : BitVec 26
  delta  : Sector
  deriving DecidableEq, Repr

/-- Collective and rebuild traffic (Table 11.3, MTYPE 11; its layout is not architected). -/
inductive CollMsg where
  /-- A member states what it runs in a collective of a group: its number there, form code 0-3, TY code, operation, count and
  member count, and its group slot with the partition and its number among that slot's collectives (R238, log 54). -/
  | agree (group : List Nat) (num form ty op count members slot place : Nat)
  /-- A member's value of one source element, or of one sector of a unit, with its poison. -/
  | elem (group : List Nat) (num index : Nat) (value : BitVec 256) (poi : Bool)
  /-- A member has ended its part with a status: 1 LOST, 2 MISMATCH. -/
  | ended (group : List Nat) (num status : Nat)
  /-- A member that begins a REBUILD asks whether this one is held and drained (R298). -/
  | askHeld
  /-- A member that rebuilds asks for a sector of the stripe units, by sector index 2,048 p + s. -/
  | askUnit (sector : Nat)
  /-- A member's answer to the check that REBUILD makes first: whether it is held and drained (R298). -/
  | held (ok : Bool)
  /-- A member's sector of one stripe unit, for REBUILD (R298). -/
  | unit (sector : Nat) (value : Sector) (poi : Bool)
  deriving DecidableEq, Repr

/-- A Helup flit (Table 11.2). -/
structure Flit where
  dst  : BitVec 22
  src  : BitVec 22
  lseq : BitVec 12
  lack : BitVec 12
  fk   : BitVec 4
  rsv  : BitVec 24
  /-- Six message slots of 40 bytes, slot i at bits [320 i + 319 : 320 i]. -/
  slots : BitVec 1920
  crc  : BitVec 32
  deriving DecidableEq, Repr

/-- What stands at the other end of a CXL link. -/
inductive CxlPartner where
  | host | switch | pool | device
  deriving DecidableEq, Repr

/-- What a CXL link partner offers (Table 11.1): whether it is restricted, whether a host takes a device of type 2, protocols, flit mode, speeds,
width, coherent device memory, and port-based and hierarchy-based routing. -/
structure CxlOffer where
  partner : CxlPartner
  restricted : Bool
  type2   : Bool
  io      : Bool
  cache   : Bool
  mem     : Bool
  flit256 : Bool
  gts64   : Bool
  gts32   : Bool
  width   : BitVec 5
  hdmDb   : Bool
  pbr     : Bool
  hbr     : Bool
  code    : Word
  deriving DecidableEq, Repr

/-- A firmware bundle as the management controller receives it (R338). -/
structure Bundle where
  /-- The bytes of the firmware; with `svn` they are what is signed. -/
  image  : List Byte
  svn    : BitVec 32
  sigR   : BitVec 528
  sigS   : BitVec 528
  key    : BitVec 1056
  deriving DecidableEq, Repr

/-- A far atomic on an element of a pod line (R195): its operation and element type as in an ATOMIC message, the bit within the line at which
the element begins, and the operands. -/
structure PodAtomic where
  op  : BitVec 4
  ty  : BitVec 2
  u   : Bool
  ofs : BitVec 9
  b   : Word
  c   : Word
  deriving DecidableEq, Repr

/-- What a request over CXL asks of a line of the exported HDM-DB range (R323). -/
inductive PodAsk where
  /-- Read the line without caching it. -/
  | read
  /-- Take the line shared. -/
  | share
  /-- Take the line exclusive. -/
  | own
  /-- Write back the line and give it up. -/
  | writeBack (data : BitVec 512)
  /-- Give up the line unchanged. -/
  | drop
  /-- A plain write of the line. -/
  | write (data : BitVec 512)
  /-- A far atomic on an element of the line (R195). -/
  | atomic (m : PodAtomic)
  deriving DecidableEq, Repr

/-- A request of a pod agent to a line, named by its linear byte address divided by 64 (R323). -/
structure PodRequest where
  agent : Nat
  line  : Nat
  ask   : PodAsk
  deriving DecidableEq, Repr

/-- The answer of an exclusive owner to a snoop: its dirty copy, or none (R313). -/
inductive SnoopAnswer where
  | clean
  | dirty (data : BitVec 512)
  deriving DecidableEq, Repr

/-- What the home of a pod line sends this device's L2: a snoop that takes the dirty copy, one that takes the line away, an error reply
about a line that it has declared owner-lost, or one that takes the line away for an agent of the pod that has then written it, with the
contents it has left there and whether they are poisoned (R187, R313, R314). -/
inductive SnoopKind where
  | share
  | invalidate
  | lost
  | written (data : BitVec 512) (poi : Bool)
  deriving DecidableEq, Repr

/-- One constructor per row of spec/opcode_table.json. The node-record forms carry their record's fields; the device
events carry the operands that say which entry of the state, or which message, the step is about. -/
inductive Instr where
  /-- MOV. Copies operand A with its lane count, marker bits and poison bit to both targets. (R403) -/
  | mov (r : GRec)
  /-- MOVI. Sends LIT, sign-extended to 64 bits, as a scalar on the start trigger. (R404) -/
  | movi (r : GRec)
  /-- NULL. Sends a null token to both targets, on the start trigger or on A. (R405) -/
  | null (r : GRec)
  /-- GATE. Passes A with its markers and poison bit once B has arrived. (R385) -/
  | gate (r : GRec)
  /-- JOIN. Counts tokens at port A under one tag and fires with N when the count reaches LIT. (R387) -/
  | join (r : GRec)
  /-- TAGR. Sends the 64-bit tag of its matched set as a scalar value. (R442) -/
  | tagr (r : GRec)
  /-- TAGS. Sends A as a far token under a tag computed from B. (R443) -/
  | tags (r : GRec)
  /-- EXIT.B. Produces an exit that continues the thread at the block named by BOFS at commit. (R373) -/
  | exitB (r : CRec)
  /-- EXIT.EOI. Produces an end-of-iteration exit that ends the loop iteration at commit. (R373) -/
  | exitEoi (r : CRec)
  /-- EXIT.LEAVE. Produces the leaving exit of a loop iteration. (R373) -/
  | exitLeave (r : CRec)
  /-- EXIT.EOC. Produces an end-of-colour exit that sends the colour to Ending at commit. (R373) -/
  | exitEoc (r : CRec)
  /-- EXITX. Produces an exit to the block whose bit address is operand A. (R375) -/
  | exitx (r : CRec)
  /-- WAVE. Sends a back-edge token under the waved tag to the loop head. (R447) -/
  | wave (r : GRec)
  /-- LENT. Enters a loop by sending push tokens to the loop head. (R399) -/
  | lent (r : GRec)
  /-- LEAV. Sends popped tokens towards the loop continuation block. (R399) -/
  | leav (r : GRec)
  /-- LBND. Increments A and sends it to T0 while below the bound, otherwise to T1. (R392) -/
  | lbnd (r : GRec)
  /-- LCNT. Creates the generator of a counted loop of trip count A. (R394) -/
  | lcnt (r : GRec)
  /-- CTXA. Creates a colour with no return and starts its thread at the named block. (R361) -/
  | ctxa (r : CRec)
  /-- CTXF. Ends the named colour or its own colour at commit. (R362) -/
  | ctxf (r : GRec)
  /-- CTXJ. Waits until the named colour reaches Free and then sends its number. (R363) -/
  | ctxj (r : GRec)
  /-- CTXS. Sets the lane grant of a colour for activations that start after commit. (R364) -/
  | ctxs (r : GRec)
  /-- CALL. Allocates a called colour, places its arguments and starts the callee's thread. (R353) -/
  | call (r : CRec)
  /-- RET. Ends a called colour and delivers its values to the caller's continuation at commit. (R419) -/
  | ret (r : CRec)
  /-- SPAWN. Creates a colour with no return on a target sleeve and starts its thread. (R422) -/
  | spawn (r : CRec)
  /-- ADD. Adds integer elements, wrapping or saturating. (R347) -/
  | add (r : GRec)
  /-- SUB. Subtracts integer elements, wrapping or saturating. (R402) -/
  | sub (r : GRec)
  /-- MUL. Multiplies integer elements, wrapping or saturating. (R402) -/
  | mul (r : GRec)
  /-- MULH. Returns the upper w bits of the product of integer elements. (R402) -/
  | mulh (r : GRec)
  /-- DIV. Divides integer elements towards zero, giving all ones on division by zero. (R370) -/
  | div (r : GRec)
  /-- REM. Returns the truncated remainder of integer elements. (R402) -/
  | rem (r : GRec)
  /-- NEG. Negates signed integer elements, wrapping or saturating. (R402) -/
  | neg (r : GRec)
  /-- ABS. Returns the absolute value of signed integer elements. (R347) -/
  | abs (r : GRec)
  /-- MIN. Returns the smaller of two integer elements. (R402) -/
  | min (r : GRec)
  /-- MAX. Returns the larger of two integer elements. (R402) -/
  | max (r : GRec)
  /-- AND. Bitwise AND of integer element patterns. (R347) -/
  | and (r : GRec)
  /-- OR. Bitwise OR of integer element patterns. (R402) -/
  | or (r : GRec)
  /-- XOR. Bitwise XOR of integer element patterns. (R453) -/
  | xor (r : GRec)
  /-- ANDN. Bitwise AND of A with the complement of B. (R347) -/
  | andn (r : GRec)
  /-- SHL. Shifts integer elements left. (R402) -/
  | shl (r : GRec)
  /-- SHR. Shifts integer element patterns right logically. (R402) -/
  | shr (r : GRec)
  /-- SHRA. Shifts signed integer elements right arithmetically. (R402) -/
  | shra (r : GRec)
  /-- ROT. Rotates integer element patterns towards the high bit. (R402) -/
  | rot (r : GRec)
  /-- CLZ. Counts leading zero bits of each integer element. (R355) -/
  | clz (r : GRec)
  /-- CTZ. Counts trailing zero bits of each integer element. (R355) -/
  | ctz (r : GRec)
  /-- POPC. Counts the one bits of each integer element. (R402) -/
  | popc (r : GRec)
  /-- BFX. Extracts a bit field from each integer element. (R349) -/
  | bfx (r : GRec)
  /-- BFI. Inserts a bit field into each integer element. (R350) -/
  | bfi (r : GRec)
  /-- CMP. Compares integer elements and returns 1 or 0 per element. (R356) -/
  | cmp (r : GRec)
  /-- SEL. Selects B or C per element by whether A is non-zero. (R402) -/
  | sel (r : GRec)
  /-- PADD. Adds a signed bit offset to a bit address. (R144) -/
  | padd (r : GRec)
  /-- PDIF. Returns the signed bit distance between two addresses. (R144) -/
  | pdif (r : GRec)
  /-- PALN. Clears the low n bits of a bit address. (R144) -/
  | paln (r : GRec)
  /-- PCLS. Returns the alignment class of an element at an address. (R144) -/
  | pcls (r : GRec)
  /-- PBYT. Converts a bit address to the byte address holding it. (R144) -/
  | pbyt (r : GRec)
  /-- PBIT. Converts a byte address to a bit address. (R144) -/
  | pbit (r : GRec)
  /-- FADD. Adds float elements with one rounding. (R377) -/
  | fadd (r : GRec)
  /-- FSUB. Subtracts float elements with one rounding. (R377) -/
  | fsub (r : GRec)
  /-- FMUL. Multiplies float elements with one rounding. (R377) -/
  | fmul (r : GRec)
  /-- FFMA. Computes a times b plus c with a single rounding. (R377) -/
  | ffma (r : GRec)
  /-- FMIN. Returns the smaller float operand unchanged. (R379) -/
  | fmin (r : GRec)
  /-- FMAX. Returns the larger float operand unchanged. (R379) -/
  | fmax (r : GRec)
  /-- FDIV. Divides float elements with one rounding. (R377) -/
  | fdiv (r : GRec)
  /-- FSQRT. Computes the correctly rounded square root. (R377) -/
  | fsqrt (r : GRec)
  /-- FRCP. Computes the correctly rounded reciprocal. (R377) -/
  | frcp (r : GRec)
  /-- FRSQ. Computes the correctly rounded reciprocal square root. (R377) -/
  | frsq (r : GRec)
  /-- FEX2. Computes the correctly rounded power of two. (R377) -/
  | fex2 (r : GRec)
  /-- FLG2. Computes the correctly rounded base-2 logarithm. (R377) -/
  | flg2 (r : GRec)
  /-- FTNH. Computes the correctly rounded hyperbolic tangent. (R377) -/
  | ftnh (r : GRec)
  /-- FCMP. Compares float elements under a condition including unordered. (R380) -/
  | fcmp (r : GRec)
  /-- FCLS. Returns a one-hot class mask for each float element. (R381) -/
  | fcls (r : GRec)
  /-- FSCL. Scales float elements by a power of two with one rounding. (R377) -/
  | fscl (r : GRec)
  /-- CVT. Converts elements between types under the rounding and saturation mode. (R366) -/
  | cvt (r : GRec)
  /-- CVTS. Converts each element multiplied by an F32 factor with one rounding. (R367) -/
  | cvts (r : GRec)
  /-- QBLK. Quantises a block of F32 lanes into a packed vector and a scale. (R411) -/
  | qblk (r : GRec)
  /-- DQBK. Scales a narrow vector back to F32 lanes. (R371) -/
  | dqbk (r : GRec)
  /-- PACK. Converts the lanes of two vectors and packs them into one. (R407) -/
  | pack (r : GRec)
  /-- UNPK. Widens part of a packed vector to one element per lane. (R445) -/
  | unpk (r : GRec)
  /-- BCST. Broadcasts one element into every position of a vector. (R348) -/
  | bcst (r : GRec)
  /-- LANE. Extracts one element of a vector as a scalar. (R391) -/
  | lane (r : GRec)
  /-- SHUF. Rearranges whole lanes of a vector by rotation or by index. (R420) -/
  | shuf (r : GRec)
  /-- REDL. Reduces the elements of a vector by a fixed tree. (R417) -/
  | redl (r : GRec)
  /-- SCNL. Scans the elements of a vector by tree reductions of prefixes. (R417) -/
  | scnl (r : GRec)
  /-- CMPX. Compresses the lanes selected by a mask into a shorter vector. (R357) -/
  | cmpx (r : GRec)
  /-- VLEN. Sends the element count of its operand. (R446) -/
  | vlen (r : GRec)
  /-- LD. Loads one element after LSID resolution and translation. (R395) -/
  | ld (r : MRec)
  /-- ST. Enters one element store into the store buffer for performance after commit. (R430) -/
  | st (r : MRec)
  /-- LDV. Loads a vector of elements sized by the lane grant. (R398) -/
  | ldv (r : MRec)
  /-- STV. Enters a vector store into the store buffer for performance after commit. (R432) -/
  | stv (r : MRec)
  /-- LDS. Reads a Full word or waits at the bank until it becomes Full. (R163) -/
  | lds (r : MRec)
  /-- LDS.E. Reads a Full word and makes it Empty, waiting while it is not Full. (R163) -/
  | ldsE (r : MRec)
  /-- STF. Stores an element at commit, making the word Full and answering its readers. (R163) -/
  | stf (r : MRec)
  /-- STE. Makes a Full word Empty at commit. (R163) -/
  | ste (r : MRec)
  /-- LDI. Reads a Full word or appends a deferral entry and makes the word Deferred. (R163) -/
  | ldi (r : MRec)
  /-- STI. Stores into an Empty or Deferred word at commit, or raises DOUBLE_WRITE on a Full one. (R165) -/
  | sti (r : MRec)
  /-- SPLD. Loads an element from the sleeve's scratchpad. (R424) -/
  | spld (r : MRec)
  /-- SPST. Stores an element into the sleeve's forwarding table at commit. (R424) -/
  | spst (r : MRec)
  /-- PREF. Brings a line into the L2 ahead of use without faulting. (R409) -/
  | pref (r : MRec)
  /-- FLSH. Writes back a dirty line held by this device to its home memory. (R383) -/
  | flsh (r : MRec)
  /-- INVL. Drops this device's read copy of a remote line at scope SYS. (R383) -/
  | invl (r : MRec)
  /-- FENCE. Orders earlier and later accesses of its thread at a scope, optionally awaiting survivability. (R191) -/
  | fence (r : MRec)
  /-- AADD. Atomically adds to an integer element at its bank. (R344) -/
  | aadd (r : MRec)
  /-- AFAD. Atomically adds to a float element with RNE rounding. (R344) -/
  | afad (r : MRec)
  /-- AMIN. Atomically replaces an element by the minimum. (R344) -/
  | amin (r : MRec)
  /-- AMAX. Atomically replaces an element by the maximum. (R344) -/
  | amax (r : MRec)
  /-- AAND. Atomically ANDs into an element. (R344) -/
  | aand (r : MRec)
  /-- AOR. Atomically ORs into an element. (R344) -/
  | aor (r : MRec)
  /-- AXOR. Atomically XORs into an element. (R344) -/
  | axor (r : MRec)
  /-- AXCH. Atomically exchanges an element. (R344) -/
  | axch (r : MRec)
  /-- ACAS. Atomically compares an element with B and writes C on equality. (R344) -/
  | acas (r : MRec)
  /-- COMB. Combines every token arriving at port A under one tag until a count or EOS. (R359) -/
  | comb (r : GRec)
  /-- CBIN. Initialises a circular buffer descriptor and its counts. (R169) -/
  | cbin (r : GRec)
  /-- CBPT. Writes a value into the next free slot of a circular buffer, waiting while none is free. (R169) -/
  | cbpt (r : GRec)
  /-- CBAQ. Acquires the oldest filled slot of a circular buffer, waiting while none is filled. (R169) -/
  | cbaq (r : GRec)
  /-- CBRL. Releases the oldest held slot of a circular buffer. (R169) -/
  | cbrl (r : GRec)
  /-- XCPY. Issues a bit copy from source to destination to the transfer island. (R450) -/
  | xcpy (r : XRec)
  /-- XTIL. Issues a row transfer between memory and an island tile store. (R450) -/
  | xtil (r : XRec)
  /-- XGAT. Issues a gather of elements by an index list. (R450) -/
  | xgat (r : XRec)
  /-- XSCT. Issues a scatter of elements by an index list. (R450) -/
  | xsct (r : XRec)
  /-- XFIL. Issues a fill of a destination with a 64-bit pattern. (R450) -/
  | xfil (r : XRec)
  /-- XBAT. Closes the colour's open batch and sends its number. (R451) -/
  | xbat (r : XRec)
  /-- XWAIT. Closes the open batch and waits until at most n closed batches are incomplete. (R198) -/
  | xwait (r : XRec)
  /-- XHND. Writes a handle-table entry, bumps its generation and sends the handle value. (R226) -/
  | xhnd (r : XRec)
  /-- XREL. Invalidates a matching handle and bumps its generation. (R226) -/
  | xrel (r : XRec)
  /-- XSTA. Sends the status word of a batch. (R231) -/
  | xsta (r : XRec)
  /-- TLDA. Sends a command writing A-vector elements into an island tile store. (R211) -/
  | tlda (r : TRec)
  /-- TLDB. Sends a command loading a B latch from tile-store rows. (R212) -/
  | tldb (r : TRec)
  /-- TSCL. Sends A or B scales over the scale network to an island. (R213) -/
  | tscl (r : TRec)
  /-- TMMA. Sends a matrix multiply-accumulate command to islands of the ring segment. (R214) -/
  | tmma (r : TRec)
  /-- TROT. Sends a rotation of a latch around every island of the segment. (R219) -/
  | trot (r : TRec)
  /-- TZRO. Sends a command zeroing accumulator rows and their poison bits. (R215) -/
  | tzro (r : TRec)
  /-- TACS. Reads 32 columns of an accumulator row as a vector. (R216) -/
  | tacsRead (r : TRec)
  /-- TACS. Writes vector lanes into accumulator columns and clears the row's poison. (R216) -/
  | tacsWrite (r : TRec)
  /-- TACS. Copies accumulator rows as F32 into the tile store. (R216) -/
  | tacsStore (r : TRec)
  /-- TCVQ. Quantises accumulator rows into the tile store and returns their scales. (R217) -/
  | tcvq (r : TRec)
  /-- TWAIT. Completes once every earlier command of its islands has completed. (R218) -/
  | twait (r : TRec)
  /-- KRSC. Issues a reduce-scatter collective across the group. (R235) -/
  | krsc (r : XRec)
  /-- KAGT. Issues an all-gather collective across the group. (R235) -/
  | kagt (r : XRec)
  /-- KARD. Issues an all-reduce collective across the group. (R235) -/
  | kard (r : XRec)
  /-- KXPR. Issues a parity build over a gusset group. (R237) -/
  | kxpr (r : XRec)
  /-- KWAIT. Waits until at most n of the colour's collectives are incomplete. (R390) -/
  | kwait (r : XRec)
  /-- SEND. Appends a message to a stream port, waiting for room. (R413) -/
  | send (r : GRec)
  /-- RECV. Removes the head message of a stream port, waiting while it is empty. (R414) -/
  | recv (r : GRec)
  /-- HVYA. Requests budget units from the partition regulator. (R262) -/
  | hvya (r : GRec)
  /-- HVYR. Returns budget units held by the colour. (R262) -/
  | hvyr (r : GRec)
  /-- TRAP. Raises a precise SOFTWARE_TRAP. (R444) -/
  | trap (r : GRec)
  /-- ERET. Waits until committed replay actions are carried out and then sends 0. (R372) -/
  | eret (r : GRec)
  /-- SRD. Reads a system register at issue. (R427) -/
  | srd (r : GRec)
  /-- SWR. Writes a system register when its activation commits. (R428) -/
  | swr (r : GRec)
  /-- BKPT. Raises a precise BREAKPOINT. (R351) -/
  | bkpt (r : GRec)
  /-- FRZ. Arms a freeze of its partition that begins when its activation commits. (R384) -/
  | frz (r : GRec)
  /-- TLBI.PAGE. Removes the translations of the pages containing A from every cache of the partition. (R276) -/
  | tlbiPage (r : GRec)
  /-- TLBI.PART. Removes every translation of the partition. (R276) -/
  | tlbiPart (r : GRec)
  /-- PMIG. Locks, copies and switches a page to a new leaf entry. (R277) -/
  | pmig (r : GRec)
  /-- DRCL. Reclaims an owner-lost line with new or home contents. (R316) -/
  | drcl (r : GRec)
  /-- LCMP. Compares operands of the original with its lining twin and passes them on. (R306) -/
  | lcmp (r : GRec)
  /-- TOKEN_DELIVERY. A token reaches its destination quad and is matched, allocated an entry or made far-waiting. (R47) -/
  | tokenDelivery (i : Nat)
  /-- TOKEN_REFILL. A spilled token is refilled into the matching store once its quad has room. (R75) -/
  | tokenRefill (i : Nat)
  /-- ACTIVATION_START. An activation is mapped and receives its read-table values and start triggers. (R45) -/
  | activationStart (act : Nat)
  /-- BLOCK_FETCH_VERIFY. An unlisted block is fetched and verified at its first mapping. (R103) -/
  | blockFetchVerify (act : Nat)
  /-- PREDICT_SUCCESSOR. The sleeve predictor starts a predicted successor activation. (R68) -/
  | predictSuccessor (act : Nat) (blk : Word)
  /-- IMAGE_PREFETCH. The predictor prefetches block images ahead without faulting. (R284) -/
  | imagePrefetch (sleeve : Nat) (blk : Word)
  /-- ITERATION_START. A loop iteration starts at the head once the window admits it and its quad is Open. (R54) -/
  | iterationStart (loop : Nat)
  /-- LCNT_ITERATION_TOKEN. The counted-loop generator produces the next iteration's token once admitted. (R394) -/
  | lcntIterationToken (loop : Nat)
  /-- ACTIVATION_COMMIT. A complete activation commits in order, releasing stores, frame writes and its exit. (R66) -/
  | activationCommit (act : Nat)
  /-- COLOUR_FREE. An Ending colour whose activations are all terminal is purged and becomes Free. (R42) -/
  | colourFree (part col : Nat)
  /-- COLOUR_RESIDENT. A colour waiting in the colour-spill area becomes resident as an entry frees. (R39) -/
  | colourResident (part col : Nat)
  /-- SPAWN_RETRY_REISSUE. A killed child with its retry flag set is re-issued under a fresh colour. (R312) -/
  | spawnRetryReissue (i : Nat)
  /-- STORE_PERFORM. A committed store passes the bank steps and is merged into its sector. (R142) -/
  | storePerform (sid : Nat)
  /-- LOAD_DATA_RETURN. The data of an issued load returns and its result is sent. (R180) -/
  | loadDataReturn (op : Nat)
  /-- FORWARDING_TABLE_DRAIN. A committed SPST drains from the forwarding table into the scratchpad. (R148) -/
  | forwardingTableDrain (sleeve : Nat)
  /-- WRITE_BACK. A line is written back to HBM and its block offered for compression. (R160) -/
  | writeBack (line : Nat)
  /-- HBM_SCRUB. A stack scrubs within refresh and marks uncorrectable data poisoned. (R174) -/
  | hbmScrub (sector : Nat) (uncorrectable : Bool)
  /-- FENCE_COMPLETE. A waiting fence completes once its awaited accesses and deltas are done. (R191) -/
  | fenceComplete (op : Nat)
  /-- TLBI_COMPLETE. TLBI sends its token once every access using a removed translation is done. (R276) -/
  | tlbiComplete (op : Nat)
  /-- PMIG_SWITCH. A migration copy finishes, the leaf is written, translations removed and the lock released. (R277) -/
  | pmigSwitch (op : Nat)
  /-- ERET_COMPLETE. ERET sends its token once its replay actions are carried out. (R372) -/
  | eretComplete (op : Nat)
  /-- HEAVY_GRANT. The regulator grants the head budget request once both limits allow it. (R261) -/
  | heavyGrant (part : Nat)
  /-- HEM_COMMAND_ARRIVAL. A hem command arrives at an island and is queued or carried out in arrival order. (R208) -/
  | hemCommandArrival (i : Nat)
  /-- TMMA_START. A TMMA starts on an island, checks its operands and loads its weights. (R214) -/
  | tmmaStart (isl : Nat)
  /-- TROT_START. A TROT starts once every island reaches it and latches begin rotating. (R219) -/
  | trotStart (sleeve : Nat)
  /-- HEM_COMMAND_COMPLETE. A hem command completes on every island named and its result token is sent. (R437) -/
  | hemCommandComplete (cmd : Nat)
  /-- TRANSFER_ACCEPT. The transfer island takes up a transfer and checks its handles and operands. (R449) -/
  | transferAccept (xisl : Nat)
  /-- TRANSFER_UNIT_WRITE. A transfer writes its next destination unit. (R228) -/
  | transferUnitWrite (tid : Nat)
  /-- COLLECTIVE_START. A collective island begins a queued collective request. (R235) -/
  | collectiveStart (cisl : Nat)
  /-- COLLECTIVE_COMPLETE. A collective completes on this device and waiting KWAITs are answered. (R239) -/
  | collectiveComplete (cid : Nat)
  /-- TOKLO_WRITE. A write to TOKLO holds the low half of the next token. (R242) -/
  | tokloWrite (cuff : Nat) (v : Word)
  /-- TOKHI_WRITE. A write to TOKHI accepts or drops the formed ingress token. (R244) -/
  | tokhiWrite (cuff : Nat) (v : Word)
  /-- SYNC. A SYNC token is answered at once with a SYNC_REPLY record. (R246) -/
  | sync (cuff : Nat) (seq : BitVec 32)
  /-- CONFIG. The loader selects or loads a configuration and writes a LOADED record. (R250) -/
  | config (cuff : Nat)
  /-- ARG. Sets one frame register of the cuff's pending root frame. (R243) -/
  | arg (cuff : Nat)
  /-- START. Creates a root colour of the selected configuration. (R253) -/
  | start (cuff : Nat)
  /-- UNLOAD. Dissolves a named configuration once it is idle and writes UNLOADED. (R256) -/
  | unload (cuff : Nat)
  /-- FREEZE. Begins the freeze wave of the partition. (R286) -/
  | freeze (cuff : Nat)
  /-- FREEZE_END. The freeze wave ends: FIMG is set and the FROZEN record written. (R286) -/
  | freezeEnd (part : Nat)
  /-- RESUME. Resumes a frozen partition in place or from an image. (R288) -/
  | resume (cuff : Nat)
  /-- RESET. Resets the partition and writes RESET records. (R267) -/
  | reset (cuff : Nat)
  /-- WATCHDOG_EXPIRY. A queue watchdog expires: the partition is frozen, imaged and reset. (R266) -/
  | watchdogExpiry (queue : Nat)
  /-- EGACK_WRITE. Software acknowledges egress records, freeing places for held records. (R259) -/
  | egackWrite (cuff : Nat) (v : Word)
  /-- QCFG_WRITE. Writes queue configuration, emptying the FIFO when EN clears. (R268) -/
  | qcfgWrite (cuff : Nat) (v : Word)
  /-- REPLAY. Re-issues every access parked under a fault record. (R282) -/
  | replay (part : Nat) (fseq : BitVec 32)
  /-- REPLAY_ALL. Re-issues every parked access of the partition. (R282) -/
  | replayAll (part : Nat)
  /-- ABANDON. Abandons the accesses parked under a fault record. (R282) -/
  | abandon (part : Nat) (fseq : BitVec 32)
  /-- END. Sends the record's colour to Ending and discards its parked accesses. (R282) -/
  | replayEnd (part : Nat) (fseq : BitVec 32)
  /-- THAW. Lets a master-frozen sleeve issue again. (R282) -/
  | thaw (part : Nat) (fseq : BitVec 32)
  /-- FQSEQ_WRITE. Software acknowledges fault records, freeing places for waiting records. (R280) -/
  | fqseqWrite (part : Nat) (v : Word)
  /-- OLSEQ_WRITE. Software acknowledges owner-lost log entries. (R315) -/
  | olseqWrite (v : Word)
  /-- GCFG_WRITE. Sets or clears group participation and moves the group state. (R299) -/
  | gcfgWrite (v : Word)
  /-- GMEM_WRITE. Writes a member entry, setting LOST or restarting its delta numbering. (R296) -/
  | gmemWrite (k : Nat) (v : Word)
  /-- MEMBER_LOST_TIMEOUT. A holder leaves a delta unacknowledged for GLTO and is marked lost. (R296) -/
  | memberLostTimeout (rank : Nat)
  /-- OWNER_LOST_TIMEOUT. A snoop stays unanswered for OWNTO and the line becomes owner-lost. (R313) -/
  | ownerLostTimeout (line : Nat)
  /-- REMOTE_TIMEOUT. A remote request unanswered for HXCFG.TO is answered locally as ERROR TIMEOUT. (R330) -/
  | remoteTimeout (rid : BitVec 32)
  /-- HEATK_WRITE. Sets the sampling exponent and restarts every bank's miss numbering. (R171) -/
  | heatkWrite (v : Word)
  /-- HEATD_WRITE. Starts a decay of the heat table. (R173) -/
  | heatdWrite (v : Word)
  /-- CMBAS_WRITE. Sets the compression metadata base and enable. (R158) -/
  | cmbasWrite (v : Word)
  /-- BAD_UNIT_WRITE. ORs the written value into a bad-unit register. (R25) -/
  | badUnitWrite (num : Nat) (v : Word)
  /-- REGISTER_WRITE. Writes a system register that has no row of its own, under its row's rules. (R428) -/
  | registerWrite (num : Nat) (v : Word) (via : Via)
  /-- READ. An inbound Helup read is served at the home bank. (R329) -/
  | read (src : Nat) (m : AccessMsg)
  /-- READ_DATA. A read reply delivers remote data to the requester. (R328) -/
  | readData (src : Nat) (m : DataMsg)
  /-- WRITE. An inbound Helup write is performed at the home bank. (R329) -/
  | write (src : Nat) (m : AccessMsg)
  /-- WRITE_ACK. A write acknowledgement marks a remote store performed. (R330) -/
  | writeAck (src : Nat) (rid : BitVec 32)
  /-- ATOMIC. An inbound Helup atomic is performed at the home bank. (R346) -/
  | atomic (src : Nat) (m : AtomicMsg)
  /-- ATOMIC_DATA. An atomic reply returns the old value to the requester. (R328) -/
  | atomicData (src : Nat) (m : DataMsg)
  /-- DELTA. A holder applies a sender's delta to its parity sector in DSEQ order. (R294) -/
  | delta (src : Nat) (m : DeltaMsg)
  /-- PDELTA. A holder applies a poison delta and marks the parity sector poisoned. (R295) -/
  | pdelta (src : Nat) (m : DeltaMsg)
  /-- DACK. A cumulative delta acknowledgement frees delta places and completes survivable waits. (R294) -/
  | dack (src : Nat) (dseq : BitVec 32)
  /-- ERROR. An error reply is handled at the requester as PROTECTION REMOTE. (R330) -/
  | error (src : Nat) (status : BitVec 8) (rid : BitVec 32)
  /-- COLL. Collective and rebuild traffic arrives over Helup. (R328) -/
  | coll (src : Nat) (m : CollMsg)
  /-- LINK_RETRY_REQUEST. A retry request makes the sender resend every flit from LACK + 1. (R326) -/
  | linkRetryRequest (port : Nat) (lack : BitVec 12)
  /-- HELUP_PORT_OUT. A flit resent 8 times takes its port out of service. (R326) -/
  | helupPortOut (port : Nat)
  /-- CXL_LINK_TRAIN. A CXL port trains with its partner or stays down and logs the offer. (R320) -/
  | cxlLinkTrain (port : Nat) (offer : CxlOffer)
  /-- FIRMWARE_UPDATE. The management controller accepts or rejects a signed firmware bundle. (R338) -/
  | firmwareUpdate (b : Bundle)
  /-- ATTESTATION_REQUEST. The device returns a signed attestation report for a nonce. (R339) -/
  | attestationRequest (nonce : BitVec 512)
  /-- BAD_BIT_CLEAR. The management controller clears a bad bit over MCTP. (R25) -/
  | badBitClear (num bit : Nat)
  /-- HELUP_FLIT. A Helup flit arrives at a port and is accepted in LSEQ order, answered with a retry request, or discarded, and its LACK frees the sender's retry buffer. (R326) -/
  | helupFlit (port : Nat) (f : Flit)
  /-- POD_LINE_REQUEST. A host, peer or pool request over CXL to a line of this device's exported HDM-DB range is served by the line's home bank directory. (R323) -/
  | podLineRequest (r : PodRequest)
  /-- SNOOP. A back-invalidate snoop from a pod line's home reaches this device's L2 and is answered with the line's copy or its invalidation. (R187) -/
  | snoop (line : Nat) (kind : SnoopKind)
  /-- SNOOP_REPLY. A snoop reply from the exclusive owner reaches the home, which completes the waiting requests or discards the reply if the line is owner-lost. (R313) -/
  | snoopReply (line : Nat) (m : SnoopAnswer)
  /-- PAGE_WALK_DONE. A page walk, coalesced for all waiting accesses of one page, finishes its table reads and delivers a translation, a park or a fault to each. (R274) -/
  | pageWalkDone (walk : Nat)
  /-- BAD_BIT_SET. The management controller sets a bad bit over MCTP and records it in its non-volatile list. (R25) -/
  | badBitSet (num bit : Nat)
  /-- HEAT_DECAY_DONE. A heat decay finishes halving every entry and RUN clears. (R173) -/
  | heatDecayDone
  /-- HOLD. Holds write-class accesses to data units and awaits the delta drain. (R298) -/
  | hold
  /-- RELEASE. Performs held accesses and returns the group to active. (R298) -/
  | release
  /-- REBUILD. Starts rebuilding every unit from the seven other members. (R298) -/
  | rebuild
  /-- REBUILD_DONE. A rebuild ends or stops and the state returns to held. (R298) -/
  | rebuildDone
  /-- DEVICE_RESET. A device reset restores reset values and counts DBOOT. (R332) -/
  | deviceReset
  /-- THERMAL_THROTTLE. Junction temperature above 105 °C steps the arithmetic clock down. (R340) -/
  | thermalThrottle
  /-- THERMAL_SHUTDOWN. At 115 °C the management controller removes power. (R340) -/
  | thermalShutdown
  /-- ERROR_COUNT_MIRROR. The management controller mirrors the stacks' per-bank error counts into the counts that ECNT reads, at least every 100 ms. (R174) -/
  | errorCountMirror
  /-- ERROR_COUNT_CLEAR. The management controller clears the per-bank error counts over MCTP. (R174) -/
  | errorCountClear
  deriving DecidableEq, Repr

end Sys2Proof
end

