-- ==== Sys2Proof/WellFormed.lean ====
section
/-! DEFINITION. Which instructions are well formed: the field rules of Tables 3.6 to 3.14 and of each form's entry, for
one record by itself. A record that breaks one is BAD_ENCODING (R89, R98, R341). The rules that need the rest of the
block (R82 to R87, R99, R100, R305) are in Machine/Image.lean. For a device event: its operands name units that exist. -/

namespace Sys2Proof

/-- Width in bits of a type (Table 3.8, R113, Table 4.1). -/
def Ty.width : Ty → Nat
  | .i64 => 64 | .i32 => 32 | .i16 => 16 | .i8 => 8 | .i6 => 6 | .i4 => 4 | .i3 => 3
  | .f32 => 32 | .bf16 => 16 | .f16 => 16 | .e5m2 => 8 | .e4m3 => 8 | .e3m2 => 6 | .e2m3 => 6 | .e2m1 => 4

/-- Float types are codes 8 to 15 (Table 3.8). -/
def Ty.isFloat : Ty → Bool
  | .f32 | .bf16 | .f16 | .e5m2 | .e4m3 | .e3m2 | .e2m3 | .e2m1 => true
  | .i64 | .i32 | .i16 | .i8 | .i6 | .i4 | .i3 => false

/-- TY 0 to 6. -/
def intTy (t : Ty) : Bool := !t.isFloat
/-- TY 0 to 3. -/
def wordInt (t : Ty) : Bool := t == .i64 || t == .i32 || t == .i16 || t == .i8
/-- TY 8 to 10. -/
def wideFloat (t : Ty) : Bool := t == .f32 || t == .bf16 || t == .f16
/-- TY 2 to 6 or 9 to 15: 16 bits wide or narrower. -/
def narrow (t : Ty) : Bool := decide (t.width ≤ 16)
/-- TY 9 to 15. -/
def narrowFloat16 (t : Ty) : Bool := t.isFloat && narrow t

/-- FN is zero. -/
def fnZero (c : Common) : Bool := c.fn == 0
/-- FN has a given value. -/
def fnIs (c : Common) (k : BitVec 4) : Bool := c.fn == k
/-- FN has no bit outside a mask. -/
def fnMask (c : Common) (m : BitVec 4) : Bool := c.fn &&& m == c.fn
/-- TY is zero. -/
def untyped (c : Common) : Bool := c.ty == .i64
/-- AR is one of the listed values. -/
def arIs (c : Common) (l : List Arity) : Bool := l.contains c.ar
/-- TG has a given value. -/
def tgIs (c : Common) (t : TagOp) : Bool := c.tg == t

/-- A target of kind 11. -/
def isFar : Target → Bool
  | .far _ _ _ => true
  | .none | .node _ _ _ | .slot _ _ => false
/-- The record has a far target. -/
def hasFar (c : Common) : Bool := isFar c.t0 || isFar c.t1
/-- Only G-format and C-format records carry far targets (R91). -/
def noFar (c : Common) : Bool := !hasFar c
/-- T0 and T1 are of kind 00. -/
def noTargets (c : Common) : Bool := c.t0 == .none && c.t1 == .none
/-- A target of kind 01 or 11 with a given TGA. -/
def nodeOrFar (t : Target) (tga : Bool) : Bool :=
  match t with
  | .node _ _ g | .far _ _ g => g == tga
  | .none | .slot _ _ => false
/-- A target of kind 00, or of kind 11 with TGA 0 (R418). -/
def noneOrFar (t : Target) : Bool :=
  match t with
  | .none => true
  | .far _ _ g => !g
  | .node _ _ _ | .slot _ _ => false
/-- A target of kind 10. -/
def isSlot : Target → Bool
  | .slot _ _ => true
  | .none | .node _ _ _ | .far _ _ _ => false
/-- Whether TG applies to a target (Table 3.7, TGA). -/
def Target.tga : Target → Bool
  | .none => false
  | .node _ _ g | .slot _ g | .far _ _ g => g
/-- No target is a write slot. -/
def noSlots (c : Common) : Bool := !isSlot c.t0 && !isSlot c.t1
/-- No target has TGA set. -/
def noTga (c : Common) : Bool := !c.t0.tga && !c.t1.tga

/-- LIT is not an operand or a parameter: it is the far-block offset, or zero (R91, R341). -/
def litFree (r : GRec) : Bool := hasFar r.c || r.lit == 0
/-- LIT is an operand or a parameter, so no target is far (R91), and it meets a condition. -/
def litParam (r : GRec) (ok : Bool) : Bool := noFar r.c && ok
/-- LIT supplies the last operand at arity `l` (an L arity of Table 3.14), and is free at every other. -/
def litLast (r : GRec) (l : Arity) (ok : Bool) : Bool := if r.c.ar = l then litParam r ok else litFree r

/-- No rounding, saturation, modifier or AUX. -/
def gExact (r : GRec) : Bool := r.rnd == .rne && r.sat == .none && r.na == .keep && r.aux == 0
/-- `gExact` and LM 00. -/
def gPlain (r : GRec) : Bool := gExact r && r.lm == .scalar
/-- LM 10 only with a type of 16 bits or fewer (R93). -/
def lmFits (r : GRec) : Bool := r.lm != .packed || narrow r.c.ty
/-- The fields of an integer element form (R342). -/
def gInt (r : GRec) : Bool := gExact r && intTy r.c.ty && lmFits r
/-- The fields of a float element form (R376); `rounds` by Table 13.2. -/
def gFloat (r : GRec) (rounds : Bool) : Bool :=
  wideFloat r.c.ty && lmFits r && r.aux &&& 1 == r.aux && r.rnd != .rsr && (rounds || (r.rnd == .rne && r.sat == .none))
/-- A float literal of a 16-bit type has LIT[31:16] zero (R376). -/
def floatLit (r : GRec) : Bool := r.c.ty == .f32 || decide (r.lit.toNat < 65536)
/-- Whether a type code is not the reserved code 7, and names a float. -/
def tyCodeFloat (n : Nat) : Bool := decide (8 ≤ n)
/-- Width of a type code (Table 3.8). -/
def tyCodeWidth (n : Nat) : Nat :=
  [64, 32, 16, 8, 6, 4, 3, 0, 32, 16, 16, 8, 8, 6, 6, 4].getD n 0
/-- AUX of CVT and CVTS (R93, R365). -/
def cvtOk (r : GRec) : Bool :=
  let src := bits r.aux.toNat 0 4
  src != 7 && !(r.aux.getLsbD 4 && tyCodeFloat src) && !(r.aux.getLsbD 5 && r.c.ty.isFloat)
    && decide (bits r.aux.toNat 6 2 = 0) && r.na == .keep
    && (r.lm != .packed || (narrow r.c.ty && decide (tyCodeWidth src ≤ 16)))
/-- FN is a red code that the type admits (R358, R416). -/
def redFnOk (c : Common) : Bool := decide (c.fn.toNat ≤ 5) && (!c.ty.isFloat || decide (c.fn.toNat ≤ 2))
/-- RND of a reduction (R358, R416). -/
def redRound (r : GRec) : Bool := if r.c.ty.isFloat then r.rnd != .rsr else r.rnd == .rne

/-- FN[2:0] is a scope (Table 3.14). -/
def scopeOk (c : Common) : Bool := decide (c.fn.toNat % 8 ≤ 5)
/-- OWN, PRED and SUCC of one record (Table 3.10, R183). -/
def lsidsOk (r : MRec) : Bool :=
  decide (r.own.toNat ≤ 30) && (r.pred == 31 || decide (r.pred.toNat < r.own.toNat))
    && (r.succ == 31 || decide (r.own.toNat < r.succ.toNat))
/-- ORDR is one of the listed values. -/
def ordIs (r : MRec) (l : List Order) : Bool := l.contains r.ordr
/-- The fields of LDS, LDS.E and LDI, and of LD, LDV and SPLD beside U (R98, R397). -/
def loadOk (r : MRec) : Bool := lsidsOk r && scopeOk r.c && arIs r.c [.a]
/-- U of LD, LDV and SPLD stands with an integer type only (R395, R398, R423). -/
def uFits (r : MRec) : Bool := !r.c.fn.getLsbD 3 || intTy r.c.ty
/-- The fields of the store forms (R429, R423). -/
def storeOk (r : MRec) : Bool := lsidsOk r && scopeOk r.c && fnMask r.c 7
/-- The fields of the memory atomics (R343). -/
def atomicOk (r : MRec) : Bool := lsidsOk r && scopeOk r.c

/-- ALL with ISL zero (Table 3.11) and FN zero. -/
def tOk (r : TRec) : Bool := fnZero r.c && (!r.all || r.isl == 0)
/-- AUX[39:34] zero. -/
def auxLow (r : TRec) : Bool := decide (r.aux.toNat < 4)
/-- The element format of TLDA, TLDB and TMMA (Table 7.2); `f32` for TLDA. -/
def islandFmt (r : TRec) (f32 : Bool) : Bool :=
  auxLow r && r.c.ty.isFloat && (if r.c.ty = .f32 then f32 || r.aux != 0 else r.aux == 0)

/-- EXN zero. -/
def exnZero (r : CRec) : Bool := r.exn == 0
/-- BOFS zero. -/
def bofsZero (r : CRec) : Bool := r.bofs == 0

/-- X format with the operand marks of Table 7.7. -/
def xOk (r : XRec) (full ha hb : Bool) : Bool :=
  fnZero r.c && untyped r.c && r.hslot == 0 && (full || !r.full) && (ha || !r.ha) && (hb || !r.hb)
/-- The collective forms (R388): TY 0 or 8 to 12. -/
def kOk (r : XRec) : Bool :=
  fnZero r.c && !r.full && arIs r.c [.ab]
    && (r.c.ty == .i64 || r.c.ty == .f32 || r.c.ty == .bf16 || r.c.ty == .f16 || r.c.ty == .e5m2 || r.c.ty == .e4m3)

/-- An instruction is well formed: Tables 3.6 to 3.14 and the entries of the instruction reference for a record; units
that exist for a device event. -/
def Instr.wf : Instr → Bool
  | .mov r => gPlain r && fnZero r.c && untyped r.c && arIs r.c [.a] && litFree r
  | .movi r => gPlain r && fnZero r.c && untyped r.c && arIs r.c [.start] && litParam r true
  | .null r => gPlain r && fnZero r.c && untyped r.c && arIs r.c [.start, .a] && litFree r
  | .gate r => gPlain r && fnZero r.c && untyped r.c && arIs r.c [.ab] && litFree r
  | .join r => gPlain r && fnZero r.c && untyped r.c && arIs r.c [.a] && litParam r (decide (1 ≤ r.lit.toNat) && decide (r.lit.toNat ≤ 65535))
  | .tagr r => gPlain r && fnZero r.c && untyped r.c && arIs r.c [.start, .a] && litFree r
  | .tags r => gPlain r && fnZero r.c && untyped r.c && arIs r.c [.ab] && litFree r && tgIs r.c .keep && noSlots r.c && noTga r.c
  | .exitB r => fnIs r.c 0 && untyped r.c && arIs r.c [.start, .a] && tgIs r.c .keep && noTargets r.c
  | .exitEoi r => fnIs r.c 1 && untyped r.c && arIs r.c [.start, .a] && tgIs r.c .keep && noTargets r.c && bofsZero r
  | .exitLeave r => fnIs r.c 2 && untyped r.c && arIs r.c [.start, .a] && tgIs r.c .keep && noTargets r.c && bofsZero r
  | .exitEoc r => fnIs r.c 3 && untyped r.c && arIs r.c [.start, .a] && tgIs r.c .keep && noTargets r.c && bofsZero r
  | .exitx r => fnZero r.c && untyped r.c && arIs r.c [.a] && tgIs r.c .keep && noTargets r.c && bofsZero r
  | .wave r => gPlain r && fnZero r.c && untyped r.c && arIs r.c [.a] && litFree r && tgIs r.c .wave && nodeOrFar r.c.t0 true && (r.c.t1 == .none || nodeOrFar r.c.t1 false)
  | .lent r => gPlain r && fnZero r.c && untyped r.c && arIs r.c [.a] && litFree r && tgIs r.c .push && nodeOrFar r.c.t0 true
  | .leav r => gPlain r && fnZero r.c && untyped r.c && arIs r.c [.a] && litFree r && tgIs r.c .pop && nodeOrFar r.c.t0 true
  | .lbnd r => gPlain r && fnZero r.c && untyped r.c && arIs r.c [.a, .ab] && litLast r .a true
  | .lcnt r => gPlain r && fnZero r.c && untyped r.c && arIs r.c [.a] && tgIs r.c .push && nodeOrFar r.c.t0 true && nodeOrFar r.c.t1 false && (isFar r.c.t0 || r.lit.extractLsb' 16 16 == 0) && (isFar r.c.t1 || r.lit.extractLsb' 0 16 == 0)
  | .ctxa r => fnZero r.c && untyped r.c && arIs r.c [.start, .a, .ab, .abc] && exnZero r
  | .ctxf r => gPlain r && fnZero r.c && untyped r.c && arIs r.c [.start, .a] && litFree r
  | .ctxj r => gPlain r && fnZero r.c && untyped r.c && arIs r.c [.a] && litFree r
  | .ctxs r => gPlain r && fnZero r.c && untyped r.c && arIs r.c [.ab] && litFree r
  | .call r => fnZero r.c && untyped r.c && arIs r.c [.start, .a, .ab, .abc] && exnZero r
  | .ret r => fnZero r.c && untyped r.c && arIs r.c [.start, .a, .ab, .abc] && tgIs r.c .keep && noneOrFar r.c.t0 && noneOrFar r.c.t1 && bofsZero r
  | .spawn r => fnZero r.c && untyped r.c && arIs r.c [.a, .ab, .abc] && exnZero r
  | .add r => gInt r && fnMask r.c 9 && arIs r.c [.a, .ab] && litLast r .a true
  | .sub r => gInt r && fnMask r.c 9 && arIs r.c [.a, .ab] && litLast r .a true
  | .mul r => gInt r && fnMask r.c 9 && arIs r.c [.a, .ab] && litLast r .a true
  | .mulh r => gInt r && fnMask r.c 8 && arIs r.c [.a, .ab] && litLast r .a true
  | .div r => gInt r && fnMask r.c 8 && arIs r.c [.a, .ab] && litLast r .a true
  | .rem r => gInt r && fnMask r.c 8 && arIs r.c [.a, .ab] && litLast r .a true
  | .neg r => gInt r && fnMask r.c 1 && arIs r.c [.a] && litFree r
  | .abs r => gInt r && fnMask r.c 1 && arIs r.c [.a] && litFree r
  | .min r => gInt r && fnMask r.c 8 && arIs r.c [.a, .ab] && litLast r .a true
  | .max r => gInt r && fnMask r.c 8 && arIs r.c [.a, .ab] && litLast r .a true
  | .and r => gInt r && fnZero r.c && arIs r.c [.a, .ab] && litLast r .a true
  | .or r => gInt r && fnZero r.c && arIs r.c [.a, .ab] && litLast r .a true
  | .xor r => gInt r && fnZero r.c && arIs r.c [.a, .ab] && litLast r .a true
  | .andn r => gInt r && fnZero r.c && arIs r.c [.a, .ab] && litLast r .a true
  | .shl r => gInt r && fnZero r.c && arIs r.c [.a, .ab] && litLast r .a true
  | .shr r => gInt r && fnZero r.c && arIs r.c [.a, .ab] && litLast r .a true
  | .shra r => gInt r && fnZero r.c && arIs r.c [.a, .ab] && litLast r .a true
  | .rot r => gInt r && fnZero r.c && arIs r.c [.a, .ab] && litLast r .a true
  | .clz r => gInt r && fnZero r.c && arIs r.c [.a] && litFree r
  | .ctz r => gInt r && fnZero r.c && arIs r.c [.a] && litFree r
  | .popc r => gInt r && fnZero r.c && arIs r.c [.a] && litFree r
  | .bfx r => gInt r && fnMask r.c 8 && arIs r.c [.ab, .abc] && litLast r .ab true && r.lm != .packed
  | .bfi r => gInt r && fnZero r.c && arIs r.c [.ab, .abc] && litLast r .ab (decide (r.lit.toNat < 65536)) && r.lm != .packed
  | .cmp r => gInt r && decide (r.c.fn.toNat % 8 ≤ 5) && arIs r.c [.a, .ab] && litLast r .a true
  | .sel r => gInt r && fnZero r.c && arIs r.c [.abc] && litFree r
  | .padd r => gPlain r && fnZero r.c && untyped r.c && arIs r.c [.a, .ab] && litLast r .a true
  | .pdif r => gPlain r && fnZero r.c && untyped r.c && arIs r.c [.a, .ab] && litLast r .a true
  | .paln r => gPlain r && fnZero r.c && untyped r.c && arIs r.c [.a, .ab] && litLast r .a true
  | .pcls r => gPlain r && fnZero r.c && untyped r.c && arIs r.c [.ab] && litFree r
  | .pbyt r => gPlain r && fnZero r.c && untyped r.c && arIs r.c [.a] && litFree r
  | .pbit r => gPlain r && fnZero r.c && untyped r.c && arIs r.c [.a] && litFree r
  | .fadd r => gFloat r true && fnZero r.c && arIs r.c [.a, .ab] && litLast r .a (floatLit r)
  | .fsub r => gFloat r true && fnZero r.c && arIs r.c [.a, .ab] && litLast r .a (floatLit r)
  | .fmul r => gFloat r true && fnZero r.c && arIs r.c [.a, .ab] && litLast r .a (floatLit r)
  | .ffma r => gFloat r true && fnZero r.c && arIs r.c [.ab, .abc] && litLast r .ab (floatLit r)
  | .fmin r => gFloat r false && fnZero r.c && arIs r.c [.a, .ab] && litLast r .a (floatLit r)
  | .fmax r => gFloat r false && fnZero r.c && arIs r.c [.a, .ab] && litLast r .a (floatLit r)
  | .fdiv r => gFloat r true && fnZero r.c && arIs r.c [.a, .ab] && litLast r .a (floatLit r)
  | .fsqrt r => gFloat r true && fnZero r.c && arIs r.c [.a] && litFree r
  | .frcp r => gFloat r true && fnZero r.c && arIs r.c [.a] && litFree r
  | .frsq r => gFloat r true && fnZero r.c && arIs r.c [.a] && litFree r
  | .fex2 r => gFloat r true && fnZero r.c && arIs r.c [.a] && litFree r
  | .flg2 r => gFloat r true && fnZero r.c && arIs r.c [.a] && litFree r
  | .ftnh r => gFloat r true && fnZero r.c && arIs r.c [.a] && litFree r
  | .fcmp r => gFloat r false && decide (r.c.fn.toNat ≤ 7) && arIs r.c [.a, .ab] && litLast r .a (floatLit r)
  | .fcls r => gFloat r false && fnZero r.c && arIs r.c [.a] && litFree r
  | .fscl r => gFloat r true && fnZero r.c && arIs r.c [.a, .ab] && litLast r .a true
  | .cvt r => fnZero r.c && arIs r.c [.a] && cvtOk r && litParam r (decide (r.lit.toNat < 65536))
  | .cvts r => fnZero r.c && arIs r.c [.ab] && cvtOk r && litParam r (decide (r.lit.toNat < 65536))
  | .qblk r => fnZero r.c && arIs r.c [.a] && narrow r.c.ty && r.lm == .packed && r.na == .keep && r.aux == 0 && litParam r (decide (r.lit.toNat < 65536))
  | .dqbk r => fnZero r.c && arIs r.c [.ab] && r.rnd != .rsr && r.na == .keep && r.aux == 0 && lmFits r && litFree r
  | .pack r => fnZero r.c && arIs r.c [.ab] && narrow r.c.ty && r.lm == .packed && r.rnd != .rsr && r.na == .keep && r.aux == 0 && litFree r
  | .unpk r => gExact r && fnZero r.c && arIs r.c [.a] && narrow r.c.ty && r.lm == .packed && litParam r (decide (r.lit.toNat ≤ 319))
  | .bcst r => gExact r && fnZero r.c && arIs r.c [.a] && lmFits r && r.lm != .scalar && litParam r (decide (r.lit.toNat ≤ 32))
  | .lane r => gExact r && fnZero r.c && arIs r.c [.a, .ab] && lmFits r && r.lm != .scalar && litLast r .a true
  | .shuf r => gExact r && fnZero r.c && arIs r.c [.a, .ab] && lmFits r && r.lm != .scalar && litLast r .a (decide (r.lit.toNat < 32))
  | .redl r => redFnOk r.c && redRound r && r.na == .keep && r.aux == 0 && lmFits r && r.lm != .scalar && arIs r.c [.a] && litFree r && (r.c.ty.isFloat || r.sat == .none)
  | .scnl r => redFnOk r.c && redRound r && r.na == .keep && r.aux == 0 && lmFits r && r.lm != .scalar && arIs r.c [.a] && litFree r && (r.c.ty.isFloat || r.sat == .none)
  | .cmpx r => gExact r && fnZero r.c && arIs r.c [.a, .ab] && r.lm == .vector && litLast r .a true
  | .vlen r => gExact r && fnZero r.c && arIs r.c [.a] && lmFits r && litFree r
  | .ld r => noFar r.c && loadOk r && uFits r && ordIs r [.relaxed, .acquire]
  | .st r => noFar r.c && storeOk r && arIs r.c [.ab] && ordIs r [.relaxed, .release]
  | .ldv r => noFar r.c && loadOk r && uFits r && ordIs r [.relaxed, .acquire]
  | .stv r => noFar r.c && storeOk r && arIs r.c [.ab] && ordIs r [.relaxed, .release]
  | .lds r => noFar r.c && loadOk r && ordIs r [.relaxed, .acquire]
  | .ldsE r => noFar r.c && loadOk r && ordIs r [.acqRel]
  | .stf r => noFar r.c && storeOk r && arIs r.c [.ab] && ordIs r [.relaxed, .release]
  | .ste r => noFar r.c && storeOk r && untyped r.c && arIs r.c [.a] && ordIs r [.relaxed, .release]
  | .ldi r => noFar r.c && loadOk r && ordIs r [.relaxed, .acquire]
  | .sti r => noFar r.c && storeOk r && arIs r.c [.ab] && ordIs r [.relaxed, .release]
  | .spld r => noFar r.c && loadOk r && uFits r && decide (r.c.fn.toNat % 8 ≤ 1) && ordIs r [.relaxed, .acquire]
  | .spst r => noFar r.c && storeOk r && decide (r.c.fn.toNat ≤ 1) && arIs r.c [.ab] && ordIs r [.relaxed, .release]
  | .pref r => noFar r.c && lsidsOk r && scopeOk r.c && fnMask r.c 7 && untyped r.c && arIs r.c [.a] && ordIs r [.relaxed]
  | .flsh r => noFar r.c && lsidsOk r && scopeOk r.c && fnMask r.c 7 && untyped r.c && arIs r.c [.a] && ordIs r [.relaxed]
  | .invl r => noFar r.c && lsidsOk r && scopeOk r.c && fnMask r.c 7 && untyped r.c && arIs r.c [.a] && ordIs r [.relaxed]
  | .fence r => noFar r.c && lsidsOk r && scopeOk r.c && untyped r.c && arIs r.c [.start, .a] && r.ofs == 0
  | .aadd r => noFar r.c && atomicOk r && fnMask r.c 7 && wordInt r.c.ty && arIs r.c [.ab]
  | .afad r => noFar r.c && atomicOk r && fnMask r.c 7 && wideFloat r.c.ty && arIs r.c [.ab]
  | .amin r => noFar r.c && atomicOk r && wordInt r.c.ty && arIs r.c [.ab]
  | .amax r => noFar r.c && atomicOk r && wordInt r.c.ty && arIs r.c [.ab]
  | .aand r => noFar r.c && atomicOk r && fnMask r.c 7 && wordInt r.c.ty && arIs r.c [.ab]
  | .aor r => noFar r.c && atomicOk r && fnMask r.c 7 && wordInt r.c.ty && arIs r.c [.ab]
  | .axor r => noFar r.c && atomicOk r && fnMask r.c 7 && wordInt r.c.ty && arIs r.c [.ab]
  | .axch r => noFar r.c && atomicOk r && fnMask r.c 7 && wordInt r.c.ty && arIs r.c [.ab]
  | .acas r => noFar r.c && atomicOk r && fnMask r.c 7 && wordInt r.c.ty && arIs r.c [.abc]
  | .comb r => redFnOk r.c && redRound r && (intTy r.c.ty || wideFloat r.c.ty) && r.na == .keep && r.aux == 0 && lmFits r && arIs r.c [.a] && litParam r (decide (r.lit.toNat < 65536))
  | .cbin r => gPlain r && fnZero r.c && untyped r.c && arIs r.c [.a] && litFree r
  | .cbpt r => gPlain r && fnZero r.c && untyped r.c && arIs r.c [.ab] && litFree r
  | .cbaq r => gPlain r && fnZero r.c && untyped r.c && arIs r.c [.a] && litFree r
  | .cbrl r => gPlain r && fnZero r.c && untyped r.c && arIs r.c [.a] && litFree r
  | .xcpy r => noFar r.c && xOk r true true true && arIs r.c [.ab]
  | .xtil r => noFar r.c && xOk r true true false && arIs r.c [.ab]
  | .xgat r => noFar r.c && xOk r true true true && arIs r.c [.abc]
  | .xsct r => noFar r.c && xOk r true true true && arIs r.c [.abc]
  | .xfil r => noFar r.c && xOk r true true false && arIs r.c [.ab]
  | .xbat r => noFar r.c && xOk r false false false && arIs r.c [.start, .a] && r.lit == 0
  | .xwait r => noFar r.c && xOk r false false false && arIs r.c [.start, .a] && decide (r.lit.toNat < 16)
  | .xhnd r => fnZero r.c && untyped r.c && !r.full && !r.ha && !r.hb && arIs r.c [.ab] && decide (r.lit.toNat < 4) && noFar r.c
  | .xrel r => noFar r.c && xOk r false false false && arIs r.c [.a] && r.lit == 0
  | .xsta r => noFar r.c && xOk r false false false && arIs r.c [.a] && r.lit == 0
  | .tlda r => noFar r.c && tOk r && islandFmt r true && arIs r.c [.a] && r.slot == 0 && r.nrow == 0
  | .tldb r => noFar r.c && tOk r && islandFmt r false && arIs r.c [.a] && decide (r.slot.toNat ≤ 1) && r.nrow == 0 && r.col == 0
  | .tscl r => noFar r.c && tOk r && r.c.ty == .f32 && arIs r.c [.ab] && r.slot == 0 && auxLow r && r.col == 0 && (r.aux.getLsbD 0 == false || r.row == 0) && (if r.aux.toNat = 2 then decide (1 ≤ r.nrow.toNat) && decide (r.nrow.toNat ≤ 64) else r.nrow == 0)
  | .tmma r => noFar r.c && tOk r && islandFmt r false && arIs r.c [.start, .a] && decide (1 ≤ r.nrow.toNat) && decide (r.nrow.toNat ≤ 64) && r.col == 0
  | .trot r => noFar r.c && tOk r && untyped r.c && arIs r.c [.start, .a] && r.all && decide (r.slot.toNat ≤ 1) && r.aux == 0 && r.row == 0 && r.nrow == 0 && r.col == 0
  | .tzro r => noFar r.c && tOk r && untyped r.c && arIs r.c [.start, .a] && r.slot == 0 && r.aux == 0 && r.col == 0
  | .tacsRead r => noFar r.c && tOk r && r.c.ty == .f32 && arIs r.c [.a] && r.aux == 0 && r.slot == 0 && !r.all
  | .tacsWrite r => noFar r.c && tOk r && r.c.ty == .f32 && arIs r.c [.ab] && r.aux == 1 && r.slot == 0
  | .tacsStore r => noFar r.c && tOk r && r.c.ty == .f32 && arIs r.c [.a] && r.aux == 2 && r.slot == 0
  | .tcvq r => noFar r.c && tOk r && narrowFloat16 r.c.ty && arIs r.c [.a] && !r.all && decide (1 ≤ r.nrow.toNat) && decide (r.nrow.toNat ≤ 32) && decide (bits r.col.toNat 0 3 ≤ 5) && decide (bits r.col.toNat 3 2 ≤ 2) && decide (bits r.col.toNat 5 2 = 0)
  | .twait r => noFar r.c && tOk r && untyped r.c && arIs r.c [.start, .a] && r.slot == 0 && r.aux == 0 && r.row == 0 && r.nrow == 0 && r.col == 0
  | .krsc r => noFar r.c && kOk r && decide (r.lit.toNat / 2 ^ 28 ≤ 5) && (r.c.ty == .i64 || decide (r.lit.toNat / 2 ^ 28 ≤ 2))
  | .kagt r => noFar r.c && kOk r && decide (r.lit.toNat / 2 ^ 28 = 0)
  | .kard r => noFar r.c && kOk r && decide (r.lit.toNat / 2 ^ 28 ≤ 5) && (r.c.ty == .i64 || decide (r.lit.toNat / 2 ^ 28 ≤ 2))
  | .kxpr r => noFar r.c && kOk r && r.c.ty == .i64 && decide (r.lit.toNat / 2 ^ 28 = 5)
  | .kwait r => noFar r.c && xOk r false false false && arIs r.c [.start, .a] && decide (r.lit.toNat < 16)
  | .send r => gPlain r && fnZero r.c && untyped r.c && arIs r.c [.a] && litParam r (decide (bits r.lit.toNat 16 15 = 0) && (decide (r.lit.toNat < 2 ^ 31) || decide (bits r.lit.toNat 4 12 = 0)))
  | .recv r => gPlain r && fnZero r.c && untyped r.c && arIs r.c [.start, .a] && litParam r (decide (r.lit.toNat < 16))
  | .hvya r => gPlain r && fnZero r.c && untyped r.c && arIs r.c [.start, .a] && (if r.c.ar = .start then litParam r (decide (1 ≤ r.lit.toNat) && decide (r.lit.toNat ≤ 65535)) else litFree r)
  | .hvyr r => gPlain r && fnZero r.c && untyped r.c && arIs r.c [.start, .a] && (if r.c.ar = .start then litParam r (decide (r.lit.toNat ≤ 65535)) else litFree r)
  | .trap r => gPlain r && fnZero r.c && untyped r.c && arIs r.c [.start, .a] && tgIs r.c .keep && noTargets r.c && decide (r.lit.toNat < 65536)
  | .eret r => gPlain r && fnZero r.c && untyped r.c && arIs r.c [.start] && r.lit == 0
  | .srd r => gPlain r && fnZero r.c && untyped r.c && arIs r.c [.start, .a] && (if r.c.ar = .start then litParam r (decide (r.lit.toNat < 65536)) else litFree r)
  | .swr r => gPlain r && fnZero r.c && untyped r.c && arIs r.c [.a] && litParam r (decide (r.lit.toNat < 65536))
  | .bkpt r => gPlain r && fnZero r.c && untyped r.c && arIs r.c [.start] && r.lit == 0 && tgIs r.c .keep && noTargets r.c
  | .frz r => gPlain r && fnZero r.c && untyped r.c && arIs r.c [.start, .a] && noTargets r.c && r.lit == 0
  | .tlbiPage r => gPlain r && fnIs r.c 0 && untyped r.c && arIs r.c [.a] && r.lit == 0
  | .tlbiPart r => gPlain r && fnIs r.c 1 && untyped r.c && arIs r.c [.a] && r.lit == 0
  | .pmig r => gPlain r && fnZero r.c && untyped r.c && arIs r.c [.a] && r.lit == 0
  | .drcl r => gPlain r && fnZero r.c && untyped r.c && arIs r.c [.ab] && r.lit == 0
  | .lcmp r => gPlain r && fnZero r.c && untyped r.c && arIs r.c [.ab] && tgIs r.c .keep && r.lit == 0
  | .tokenDelivery _ => true
  | .tokenRefill _ => true
  | .activationStart _ => true
  | .blockFetchVerify _ => true
  | .predictSuccessor _ blk => decide (blk.toNat % 16384 = 0)
  | .imagePrefetch _ blk => decide (blk.toNat % 16384 = 0)
  | .iterationStart _ => true
  | .lcntIterationToken _ => true
  | .activationCommit _ => true
  | .colourFree part col => decide (part < 16 ∧ col < 65536)
  | .colourResident part col => decide (part < 16 ∧ col < 65536)
  | .spawnRetryReissue _ => true
  | .storePerform _ => true
  | .loadDataReturn _ => true
  | .forwardingTableDrain _ => true
  | .writeBack _ => true
  | .hbmScrub _ _ => true
  | .heatDecayDone => true
  | .fenceComplete _ => true
  | .tlbiComplete _ => true
  | .pmigSwitch _ => true
  | .eretComplete _ => true
  | .heavyGrant part => decide (part < 16)
  | .hemCommandArrival _ => true
  | .tmmaStart isl => decide (isl < 512)
  | .trotStart _ => true
  | .hemCommandComplete _ => true
  | .transferAccept xisl => decide (xisl < 64)
  | .transferUnitWrite _ => true
  | .collectiveStart cisl => decide (cisl < 4)
  | .collectiveComplete _ => true
  | .tokloWrite cuff _ => decide (cuff < 64)
  | .tokhiWrite cuff _ => decide (cuff < 64)
  | .sync cuff _ => decide (cuff < 64)
  | .config cuff => decide (cuff < 64)
  | .arg cuff => decide (cuff < 64)
  | .start cuff => decide (cuff < 64)
  | .unload cuff => decide (cuff < 64)
  | .freeze cuff => decide (cuff < 64)
  | .freezeEnd part => decide (part < 16)
  | .resume cuff => decide (cuff < 64)
  | .reset cuff => decide (cuff < 64)
  | .watchdogExpiry queue => decide (queue < 64)
  | .egackWrite cuff _ => decide (cuff < 64)
  | .qcfgWrite cuff _ => decide (cuff < 64)
  | .replay part _ => decide (part < 16)
  | .replayAll part => decide (part < 16)
  | .abandon part _ => decide (part < 16)
  | .replayEnd part _ => decide (part < 16)
  | .thaw part _ => decide (part < 16)
  | .fqseqWrite part _ => decide (part < 16)
  | .olseqWrite _ => true
  | .hold => true
  | .release => true
  | .rebuild => true
  | .rebuildDone => true
  | .gcfgWrite _ => true
  | .gmemWrite k _ => decide (k < 8)
  | .memberLostTimeout rank => decide (rank < 8)
  | .ownerLostTimeout _ => true
  | .remoteTimeout _ => true
  | .heatkWrite _ => true
  | .heatdWrite _ => true
  | .cmbasWrite _ => true
  | .badUnitWrite num _ => decide (0x400 ≤ num ∧ num ≤ 0x429)
  | .registerWrite num _ via => match via with
    | .mgmt | .swr _ _ => decide (num < 65536)
    | .bar width _ => decide (num + width ≤ 2 ^ 21)
  | .read src m => decide (src < 2 ^ 22 ∧ m.len.toNat ≤ 192)
  | .readData src _ => decide (src < 2 ^ 22)
  | .write src m => decide (src < 2 ^ 22 ∧ m.len.toNat ≤ 192)
  | .writeAck src _ => decide (src < 2 ^ 22)
  | .atomic src m => decide (src < 2 ^ 22 ∧ m.op.toNat ≤ 8)
  | .atomicData src _ => decide (src < 2 ^ 22)
  | .delta src _ => decide (src < 2 ^ 22)
  | .pdelta src _ => decide (src < 2 ^ 22)
  | .dack src _ => decide (src < 2 ^ 22)
  | .error src _ _ => decide (src < 2 ^ 22)
  | .coll src _ => decide (src < 2 ^ 22)
  | .linkRetryRequest port _ => decide (port < 24)
  | .helupPortOut port => decide (port < 24)
  | .cxlLinkTrain port _ => decide (port < 6)
  | .firmwareUpdate _ => true
  | .attestationRequest _ => true
  | .badBitClear num bit => decide (0x400 ≤ num ∧ num ≤ 0x429 ∧ bit < 64)
  | .deviceReset => true
  | .thermalThrottle => true
  | .thermalShutdown => true
  | .helupFlit port _ => decide (port < 24)
  | .podLineRequest r => decide (r.agent < 256)
  | .snoop _ _ => true
  | .snoopReply _ _ => true
  | .pageWalkDone _ => true
  | .errorCountMirror => true
  | .errorCountClear => true
  | .badBitSet num bit => decide (0x400 ≤ num ∧ num ≤ 0x429 ∧ bit < 64)

end Sys2Proof
end

