-- ==== Sys2Proof/Decode.lean ====
section
/-! DEFINITION. Decoding of node records (Tables 3.6 to 3.14) from 12 little-endian bytes, total and rejecting by name, and
the encoder. Below them, the words that name device events: ingress tokens (Table 8.2), replay commands (Table 9.8), group
commands (Table 10.1) and Helup message slots (Table 11.3). -/

namespace Sys2Proof

/-- Why a record is refused. All but `short` are BAD_ENCODING (R89, R97, R98). -/
inductive DecodeError where
  /-- Fewer than 12 bytes. -/
  | short
  /-- A reserved OPC (R97). -/
  | reservedOpc (opc : BitVec 8)
  /-- A field that holds a reserved code (Tables 3.6 to 3.12). -/
  | reservedField
  /-- A value that the form does not take (Table 3.14, R341). -/
  | formRule
  deriving DecidableEq, Repr

/-! ## Codes of the field types -/

/-- TY of a code (Table 3.8). -/
def Ty.ofCode (x : BitVec 4) : Option Ty :=
  match x.toNat with
  | 0 => some .i64 | 1 => some .i32 | 2 => some .i16 | 3 => some .i8 | 4 => some .i6 | 5 => some .i4 | 6 => some .i3
  | 8 => some .f32 | 9 => some .bf16 | 10 => some .f16 | 11 => some .e5m2 | 12 => some .e4m3
  | 13 => some .e3m2 | 14 => some .e2m3 | 15 => some .e2m1
  | _ => none
/-- Code of a TY (Table 3.8). -/
def Ty.code : Ty → BitVec 4
  | .i64 => 0 | .i32 => 1 | .i16 => 2 | .i8 => 3 | .i6 => 4 | .i4 => 5 | .i3 => 6
  | .f32 => 8 | .bf16 => 9 | .f16 => 10 | .e5m2 => 11 | .e4m3 => 12 | .e3m2 => 13 | .e2m3 => 14 | .e2m1 => 15
/-- RND of a code (Table 3.9). -/
def Rnd.ofCode (x : BitVec 3) : Option Rnd :=
  match x.toNat with
  | 0 => some .rne | 1 => some .rtz | 2 => some .rup | 3 => some .rdn | 4 => some .rna | 5 => some .rsr | _ => none
/-- Code of a RND. -/
def Rnd.code : Rnd → BitVec 3
  | .rne => 0 | .rtz => 1 | .rup => 2 | .rdn => 3 | .rna => 4 | .rsr => 5
/-- SAT of a code (Table 3.9). -/
def Sat.ofCode (x : BitVec 2) : Option Sat :=
  match x.toNat with
  | 0 => some .none | 1 => some .sat | 2 => some .satn | _ => Option.none
/-- Code of a SAT. -/
def Sat.code : Sat → BitVec 2
  | .none => 0 | .sat => 1 | .satn => 2
/-- NA of a code (Table 3.9). -/
def Modifier.ofCode (x : BitVec 2) : Modifier :=
  match x.toNat with
  | 0 => .keep | 1 => .neg | 2 => .abs | _ => .nabs
/-- Code of a NA. -/
def Modifier.code : Modifier → BitVec 2
  | .keep => 0 | .neg => 1 | .abs => 2 | .nabs => 3
/-- LM of a code (Table 3.9). -/
def LaneMode.ofCode (x : BitVec 2) : Option LaneMode :=
  match x.toNat with
  | 0 => some .scalar | 1 => some .vector | 2 => some .packed | _ => none
/-- Code of a LM. -/
def LaneMode.code : LaneMode → BitVec 2
  | .scalar => 0 | .vector => 1 | .packed => 2
/-- PM of a code (Table 3.6). -/
def PredMode.ofCode (x : BitVec 2) : Option PredMode :=
  match x.toNat with
  | 0 => some .always | 1 => some .onTrue | 2 => some .onFalse | _ => none
/-- Code of a PM. -/
def PredMode.code : PredMode → BitVec 2
  | .always => 0 | .onTrue => 1 | .onFalse => 2
/-- AR of a code (Table 3.6). -/
def Arity.ofCode (x : BitVec 2) : Arity :=
  match x.toNat with
  | 0 => .start | 1 => .a | 2 => .ab | _ => .abc
/-- Code of an AR. -/
def Arity.code : Arity → BitVec 2
  | .start => 0 | .a => 1 | .ab => 2 | .abc => 3
/-- TG of a code (Table 2.3). -/
def TagOp.ofCode (x : BitVec 3) : Option TagOp :=
  match x.toNat with
  | 0 => some .keep | 1 => some .wave | 2 => some .push | 3 => some .pop | 4 => some .colour | 5 => some .retag | _ => none
/-- Code of a TG. -/
def TagOp.code : TagOp → BitVec 3
  | .keep => 0 | .wave => 1 | .push => 2 | .pop => 3 | .colour => 4 | .retag => 5
/-- Port of a code (Table 2.1). -/
def Port.ofCode (x : BitVec 2) : Port :=
  match x.toNat with
  | 0 => .a | 1 => .b | 2 => .c | _ => .p
/-- Code of a port. -/
def Port.code : Port → BitVec 2
  | .a => 0 | .b => 1 | .c => 2 | .p => 3
/-- ORDR of a code (Table 3.10). -/
def Order.ofCode (x : BitVec 2) : Order :=
  match x.toNat with
  | 0 => .relaxed | 1 => .acquire | 2 => .release | _ => .acqRel
/-- Code of an ORDR. -/
def Order.code : Order → BitVec 2
  | .relaxed => 0 | .acquire => 1 | .release => 2 | .acqRel => 3

/-- A bit as a field of one bit. -/
def bit1 (b : Bool) : BitVec 1 := BitVec.ofBool b

/-- Target of a 12-bit field (Table 3.7). A non-zero field of kind 00, and a port on kind 10, are refused. -/
def Target.ofCode (x : BitVec 12) : Option Target :=
  let index := x.extractLsb' 3 7
  let port := Port.ofCode (x.extractLsb' 1 2)
  let tga := x.getLsbD 0
  match (x.extractLsb' 10 2).toNat with
  | 0 => if x = 0 then some .none else Option.none
  | 1 => some (.node index port tga)
  | 2 => if x.extractLsb' 1 2 = 0 then some (.slot index tga) else Option.none
  | _ => some (.far index port tga)
/-- The 12-bit field of a target (Table 3.7). -/
def Target.code : Target → BitVec 12
  | .none => 0
  | .node i p g => (1 : BitVec 2) ++ i ++ p.code ++ bit1 g
  | .slot i g => (2 : BitVec 2) ++ i ++ (0 : BitVec 2) ++ bit1 g
  | .far i p g => (3 : BitVec 2) ++ i ++ p.code ++ bit1 g

/-! ## Records -/

/-- The common fields of a record (Table 3.6). -/
def Common.ofWord (w : RecordWord) : Option Common := do
  let ty ← Ty.ofCode (w.extractLsb' 80 4)
  let pm ← PredMode.ofCode (w.extractLsb' 78 2)
  let tg ← TagOp.ofCode (w.extractLsb' 73 3)
  let t0 ← Target.ofCode (w.extractLsb' 61 12)
  let t1 ← Target.ofCode (w.extractLsb' 49 12)
  some { fn := w.extractLsb' 84 4, ty := ty, pm := pm, ar := Arity.ofCode (w.extractLsb' 76 2), tg := tg, t0 := t0, t1 := t1 }

/-- Format G (Table 3.9). -/
def GRec.ofWord (w : RecordWord) : Option GRec := do
  let c ← Common.ofWord w
  let rnd ← Rnd.ofCode (w.extractLsb' 46 3)
  let sat ← Sat.ofCode (w.extractLsb' 44 2)
  let lm ← LaneMode.ofCode (w.extractLsb' 40 2)
  some { c := c, rnd := rnd, sat := sat, na := Modifier.ofCode (w.extractLsb' 42 2), lm := lm,
         aux := w.extractLsb' 32 8, lit := w.extractLsb' 0 32 }

/-- Format M (Table 3.10). -/
def MRec.ofWord (w : RecordWord) : Option MRec := do
  let c ← Common.ofWord w
  some { c := c, own := w.extractLsb' 44 5, pred := w.extractLsb' 39 5, succ := w.extractLsb' 34 5,
         ordr := Order.ofCode (w.extractLsb' 32 2), ofs := w.extractLsb' 0 32 }

/-- Format T (Table 3.11). Bit 7 is reserved. -/
def TRec.ofWord (w : RecordWord) : Option TRec := do
  let c ← Common.ofWord w
  if w.getLsbD 7 then Option.none
  else some { c := c, isl := w.extractLsb' 44 5, all := w.getLsbD 43, slot := w.extractLsb' 40 3, aux := w.extractLsb' 32 8,
              row := w.extractLsb' 20 12, nrow := w.extractLsb' 8 12, col := w.extractLsb' 0 7 }

/-- Format C (Table 3.12). Bits [45:32] are reserved. -/
def CRec.ofWord (w : RecordWord) : Option CRec := do
  let c ← Common.ofWord w
  if w.extractLsb' 32 14 = 0 then some { c := c, exn := w.extractLsb' 46 3, bofs := w.extractLsb' 0 32 } else Option.none

/-- Format X (Table 3.12). Bits [36:32] are reserved. -/
def XRec.ofWord (w : RecordWord) : Option XRec := do
  let c ← Common.ofWord w
  if w.extractLsb' 32 5 = 0 then
    some { c := c, hslot := w.extractLsb' 40 9, full := w.getLsbD 39, ha := w.getLsbD 38, hb := w.getLsbD 37,
           lit := w.extractLsb' 0 32 }
  else Option.none

/-- Bits [95:49] of a record (Table 3.6). -/
def Common.word (opc : BitVec 8) (c : Common) : BitVec 47 :=
  opc ++ c.fn ++ c.ty.code ++ c.pm.code ++ c.ar.code ++ c.tg.code ++ c.t0.code ++ c.t1.code

/-- A G-format record's word. -/
def GRec.word (opc : BitVec 8) (r : GRec) : RecordWord :=
  r.c.word opc ++ r.rnd.code ++ r.sat.code ++ r.na.code ++ r.lm.code ++ r.aux ++ r.lit
/-- An M-format record's word. -/
def MRec.word (opc : BitVec 8) (r : MRec) : RecordWord :=
  r.c.word opc ++ r.own ++ r.pred ++ r.succ ++ r.ordr.code ++ r.ofs
/-- A T-format record's word. -/
def TRec.word (opc : BitVec 8) (r : TRec) : RecordWord :=
  r.c.word opc ++ r.isl ++ bit1 r.all ++ r.slot ++ r.aux ++ r.row ++ r.nrow ++ (0 : BitVec 1) ++ r.col
/-- A C-format record's word. -/
def CRec.word (opc : BitVec 8) (r : CRec) : RecordWord :=
  r.c.word opc ++ r.exn ++ (0 : BitVec 14) ++ r.bofs
/-- An X-format record's word. -/
def XRec.word (opc : BitVec 8) (r : XRec) : RecordWord :=
  r.c.word opc ++ r.hslot ++ bit1 r.full ++ bit1 r.ha ++ bit1 r.hb ++ (0 : BitVec 5) ++ r.lit

/-- The form that a record's OPC names (Table 3.13), with FN, ORDR or AUX telling apart the rows that share an OPC: EXIT by
its kind (R373), LDS by ORDR (R397), TACS by OP (R216), TLBI by FN (Table 9.4). -/
def formOf (w : RecordWord) : Except DecodeError Instr :=
  let bad : Except DecodeError Instr := .error .reservedField
  let g (f : GRec → Instr) : Except DecodeError Instr := match GRec.ofWord w with | some r => .ok (f r) | none => bad
  let m (f : MRec → Instr) : Except DecodeError Instr := match MRec.ofWord w with | some r => .ok (f r) | none => bad
  let t (f : TRec → Instr) : Except DecodeError Instr := match TRec.ofWord w with | some r => .ok (f r) | none => bad
  let c (f : CRec → Instr) : Except DecodeError Instr := match CRec.ofWord w with | some r => .ok (f r) | none => bad
  let x (f : XRec → Instr) : Except DecodeError Instr := match XRec.ofWord w with | some r => .ok (f r) | none => bad
  match (w.extractLsb' 88 8).toNat with
  | 0x01 => g .mov
  | 0x02 => g .movi
  | 0x03 => g .null
  | 0x04 => g .gate
  | 0x05 => g .join
  | 0x06 => g .tagr
  | 0x07 => g .tags
  | 0x08 => c fun r => match r.c.fn.toNat with | 0 => .exitB r | 1 => .exitEoi r | 2 => .exitLeave r | _ => .exitEoc r
  | 0x09 => c .exitx
  | 0x10 => g .wave
  | 0x11 => g .lent
  | 0x12 => g .leav
  | 0x13 => g .lbnd
  | 0x14 => g .lcnt
  | 0x15 => c .ctxa
  | 0x16 => g .ctxf
  | 0x17 => g .ctxj
  | 0x18 => g .ctxs
  | 0x19 => c .call
  | 0x1A => c .ret
  | 0x1B => c .spawn
  | 0x20 => g .add
  | 0x21 => g .sub
  | 0x22 => g .mul
  | 0x23 => g .mulh
  | 0x24 => g .div
  | 0x25 => g .rem
  | 0x26 => g .neg
  | 0x27 => g .abs
  | 0x28 => g .min
  | 0x29 => g .max
  | 0x2A => g .and
  | 0x2B => g .or
  | 0x2C => g .xor
  | 0x2D => g .andn
  | 0x2E => g .shl
  | 0x2F => g .shr
  | 0x30 => g .shra
  | 0x31 => g .rot
  | 0x32 => g .clz
  | 0x33 => g .ctz
  | 0x34 => g .popc
  | 0x35 => g .bfx
  | 0x36 => g .bfi
  | 0x37 => g .cmp
  | 0x38 => g .sel
  | 0x39 => g .padd
  | 0x3A => g .pdif
  | 0x3B => g .paln
  | 0x3C => g .pcls
  | 0x3D => g .pbyt
  | 0x3E => g .pbit
  | 0x40 => g .fadd
  | 0x41 => g .fsub
  | 0x42 => g .fmul
  | 0x43 => g .ffma
  | 0x44 => g .fmin
  | 0x45 => g .fmax
  | 0x46 => g .fdiv
  | 0x47 => g .fsqrt
  | 0x48 => g .frcp
  | 0x49 => g .frsq
  | 0x4A => g .fex2
  | 0x4B => g .flg2
  | 0x4C => g .ftnh
  | 0x4D => g .fcmp
  | 0x4E => g .fcls
  | 0x4F => g .fscl
  | 0x50 => g .cvt
  | 0x51 => g .cvts
  | 0x52 => g .qblk
  | 0x53 => g .dqbk
  | 0x54 => g .pack
  | 0x55 => g .unpk
  | 0x58 => g .bcst
  | 0x59 => g .lane
  | 0x5A => g .shuf
  | 0x5B => g .redl
  | 0x5C => g .scnl
  | 0x5D => g .cmpx
  | 0x5E => g .vlen
  | 0x60 => m .ld
  | 0x61 => m .st
  | 0x62 => m .ldv
  | 0x63 => m .stv
  | 0x64 => m fun r => if r.ordr = .acqRel then .ldsE r else .lds r
  | 0x65 => m .stf
  | 0x66 => m .ste
  | 0x67 => m .ldi
  | 0x68 => m .sti
  | 0x69 => m .spld
  | 0x6A => m .spst
  | 0x6B => m .pref
  | 0x6C => m .flsh
  | 0x6D => m .invl
  | 0x6E => m .fence
  | 0x70 => m .aadd
  | 0x71 => m .afad
  | 0x72 => m .amin
  | 0x73 => m .amax
  | 0x74 => m .aand
  | 0x75 => m .aor
  | 0x76 => m .axor
  | 0x77 => m .axch
  | 0x78 => m .acas
  | 0x79 => g .comb
  | 0x7C => g .cbin
  | 0x7D => g .cbpt
  | 0x7E => g .cbaq
  | 0x7F => g .cbrl
  | 0x80 => x .xcpy
  | 0x81 => x .xtil
  | 0x82 => x .xgat
  | 0x83 => x .xsct
  | 0x84 => x .xfil
  | 0x85 => x .xbat
  | 0x86 => x .xwait
  | 0x87 => x .xhnd
  | 0x88 => x .xrel
  | 0x89 => x .xsta
  | 0x90 => t .tlda
  | 0x91 => t .tldb
  | 0x92 => t .tscl
  | 0x93 => t .tmma
  | 0x94 => t .trot
  | 0x95 => t .tzro
  | 0x96 => t fun r => match bits r.aux.toNat 0 2 with | 0 => .tacsRead r | 1 => .tacsWrite r | _ => .tacsStore r
  | 0x97 => t .tcvq
  | 0x98 => t .twait
  | 0xA0 => x .krsc
  | 0xA1 => x .kagt
  | 0xA2 => x .kard
  | 0xA3 => x .kxpr
  | 0xA4 => x .kwait
  | 0xA8 => g .send
  | 0xA9 => g .recv
  | 0xAA => g .hvya
  | 0xAB => g .hvyr
  | 0xB0 => g .trap
  | 0xB1 => g .eret
  | 0xB2 => g .srd
  | 0xB3 => g .swr
  | 0xB4 => g .bkpt
  | 0xB5 => g .frz
  | 0xB6 => g fun r => if r.c.fn = 0 then .tlbiPage r else .tlbiPart r
  | 0xB7 => g .pmig
  | 0xB8 => g .drcl
  | 0xB9 => g .lcmp
  | _ => .error (.reservedOpc (w.extractLsb' 88 8))

/-- Decoding of a record's 96 bits: the form, then the form's rules; what breaks one is refused (R98). -/
def decodeRecord (w : RecordWord) : Except DecodeError Instr :=
  match formOf w with
  | .error e => .error e
  | .ok i => if i.wf then .ok i else .error .formRule

/-- Decoding of a record from bytes: the first 12, least significant first (R3, R81). Total on any bytes. -/
def decode (bs : List Byte) : Except DecodeError Instr :=
  if bs.length < 12 then .error .short else decodeRecord (BitVec.ofNat 96 (natOfBytes (bs.take 12)))

/-- The record word of a node-record form. A device event has none. -/
def encodeRecord : Instr → Option RecordWord
  | .mov r => some (r.word 0x01)
  | .movi r => some (r.word 0x02)
  | .null r => some (r.word 0x03)
  | .gate r => some (r.word 0x04)
  | .join r => some (r.word 0x05)
  | .tagr r => some (r.word 0x06)
  | .tags r => some (r.word 0x07)
  | .exitB r => some (r.word 0x08)
  | .exitEoi r => some (r.word 0x08)
  | .exitLeave r => some (r.word 0x08)
  | .exitEoc r => some (r.word 0x08)
  | .exitx r => some (r.word 0x09)
  | .wave r => some (r.word 0x10)
  | .lent r => some (r.word 0x11)
  | .leav r => some (r.word 0x12)
  | .lbnd r => some (r.word 0x13)
  | .lcnt r => some (r.word 0x14)
  | .ctxa r => some (r.word 0x15)
  | .ctxf r => some (r.word 0x16)
  | .ctxj r => some (r.word 0x17)
  | .ctxs r => some (r.word 0x18)
  | .call r => some (r.word 0x19)
  | .ret r => some (r.word 0x1A)
  | .spawn r => some (r.word 0x1B)
  | .add r => some (r.word 0x20)
  | .sub r => some (r.word 0x21)
  | .mul r => some (r.word 0x22)
  | .mulh r => some (r.word 0x23)
  | .div r => some (r.word 0x24)
  | .rem r => some (r.word 0x25)
  | .neg r => some (r.word 0x26)
  | .abs r => some (r.word 0x27)
  | .min r => some (r.word 0x28)
  | .max r => some (r.word 0x29)
  | .and r => some (r.word 0x2A)
  | .or r => some (r.word 0x2B)
  | .xor r => some (r.word 0x2C)
  | .andn r => some (r.word 0x2D)
  | .shl r => some (r.word 0x2E)
  | .shr r => some (r.word 0x2F)
  | .shra r => some (r.word 0x30)
  | .rot r => some (r.word 0x31)
  | .clz r => some (r.word 0x32)
  | .ctz r => some (r.word 0x33)
  | .popc r => some (r.word 0x34)
  | .bfx r => some (r.word 0x35)
  | .bfi r => some (r.word 0x36)
  | .cmp r => some (r.word 0x37)
  | .sel r => some (r.word 0x38)
  | .padd r => some (r.word 0x39)
  | .pdif r => some (r.word 0x3A)
  | .paln r => some (r.word 0x3B)
  | .pcls r => some (r.word 0x3C)
  | .pbyt r => some (r.word 0x3D)
  | .pbit r => some (r.word 0x3E)
  | .fadd r => some (r.word 0x40)
  | .fsub r => some (r.word 0x41)
  | .fmul r => some (r.word 0x42)
  | .ffma r => some (r.word 0x43)
  | .fmin r => some (r.word 0x44)
  | .fmax r => some (r.word 0x45)
  | .fdiv r => some (r.word 0x46)
  | .fsqrt r => some (r.word 0x47)
  | .frcp r => some (r.word 0x48)
  | .frsq r => some (r.word 0x49)
  | .fex2 r => some (r.word 0x4A)
  | .flg2 r => some (r.word 0x4B)
  | .ftnh r => some (r.word 0x4C)
  | .fcmp r => some (r.word 0x4D)
  | .fcls r => some (r.word 0x4E)
  | .fscl r => some (r.word 0x4F)
  | .cvt r => some (r.word 0x50)
  | .cvts r => some (r.word 0x51)
  | .qblk r => some (r.word 0x52)
  | .dqbk r => some (r.word 0x53)
  | .pack r => some (r.word 0x54)
  | .unpk r => some (r.word 0x55)
  | .bcst r => some (r.word 0x58)
  | .lane r => some (r.word 0x59)
  | .shuf r => some (r.word 0x5A)
  | .redl r => some (r.word 0x5B)
  | .scnl r => some (r.word 0x5C)
  | .cmpx r => some (r.word 0x5D)
  | .vlen r => some (r.word 0x5E)
  | .ld r => some (r.word 0x60)
  | .st r => some (r.word 0x61)
  | .ldv r => some (r.word 0x62)
  | .stv r => some (r.word 0x63)
  | .lds r => some (r.word 0x64)
  | .ldsE r => some (r.word 0x64)
  | .stf r => some (r.word 0x65)
  | .ste r => some (r.word 0x66)
  | .ldi r => some (r.word 0x67)
  | .sti r => some (r.word 0x68)
  | .spld r => some (r.word 0x69)
  | .spst r => some (r.word 0x6A)
  | .pref r => some (r.word 0x6B)
  | .flsh r => some (r.word 0x6C)
  | .invl r => some (r.word 0x6D)
  | .fence r => some (r.word 0x6E)
  | .aadd r => some (r.word 0x70)
  | .afad r => some (r.word 0x71)
  | .amin r => some (r.word 0x72)
  | .amax r => some (r.word 0x73)
  | .aand r => some (r.word 0x74)
  | .aor r => some (r.word 0x75)
  | .axor r => some (r.word 0x76)
  | .axch r => some (r.word 0x77)
  | .acas r => some (r.word 0x78)
  | .comb r => some (r.word 0x79)
  | .cbin r => some (r.word 0x7C)
  | .cbpt r => some (r.word 0x7D)
  | .cbaq r => some (r.word 0x7E)
  | .cbrl r => some (r.word 0x7F)
  | .xcpy r => some (r.word 0x80)
  | .xtil r => some (r.word 0x81)
  | .xgat r => some (r.word 0x82)
  | .xsct r => some (r.word 0x83)
  | .xfil r => some (r.word 0x84)
  | .xbat r => some (r.word 0x85)
  | .xwait r => some (r.word 0x86)
  | .xhnd r => some (r.word 0x87)
  | .xrel r => some (r.word 0x88)
  | .xsta r => some (r.word 0x89)
  | .tlda r => some (r.word 0x90)
  | .tldb r => some (r.word 0x91)
  | .tscl r => some (r.word 0x92)
  | .tmma r => some (r.word 0x93)
  | .trot r => some (r.word 0x94)
  | .tzro r => some (r.word 0x95)
  | .tacsRead r => some (r.word 0x96)
  | .tacsWrite r => some (r.word 0x96)
  | .tacsStore r => some (r.word 0x96)
  | .tcvq r => some (r.word 0x97)
  | .twait r => some (r.word 0x98)
  | .krsc r => some (r.word 0xA0)
  | .kagt r => some (r.word 0xA1)
  | .kard r => some (r.word 0xA2)
  | .kxpr r => some (r.word 0xA3)
  | .kwait r => some (r.word 0xA4)
  | .send r => some (r.word 0xA8)
  | .recv r => some (r.word 0xA9)
  | .hvya r => some (r.word 0xAA)
  | .hvyr r => some (r.word 0xAB)
  | .trap r => some (r.word 0xB0)
  | .eret r => some (r.word 0xB1)
  | .srd r => some (r.word 0xB2)
  | .swr r => some (r.word 0xB3)
  | .bkpt r => some (r.word 0xB4)
  | .frz r => some (r.word 0xB5)
  | .tlbiPage r => some (r.word 0xB6)
  | .tlbiPart r => some (r.word 0xB6)
  | .pmig r => some (r.word 0xB7)
  | .drcl r => some (r.word 0xB8)
  | .lcmp r => some (r.word 0xB9)
  | .tokenDelivery _ => none
  | .tokenRefill _ => none
  | .activationStart _ => none
  | .blockFetchVerify _ => none
  | .predictSuccessor _ _ => none
  | .imagePrefetch _ _ => none
  | .iterationStart _ => none
  | .lcntIterationToken _ => none
  | .activationCommit _ => none
  | .colourFree _ _ => none
  | .colourResident _ _ => none
  | .spawnRetryReissue _ => none
  | .storePerform _ => none
  | .loadDataReturn _ => none
  | .forwardingTableDrain _ => none
  | .writeBack _ => none
  | .hbmScrub _ _ => none
  | .heatDecayDone => none
  | .fenceComplete _ => none
  | .tlbiComplete _ => none
  | .pmigSwitch _ => none
  | .eretComplete _ => none
  | .heavyGrant _ => none
  | .hemCommandArrival _ => none
  | .tmmaStart _ => none
  | .trotStart _ => none
  | .hemCommandComplete _ => none
  | .transferAccept _ => none
  | .transferUnitWrite _ => none
  | .collectiveStart _ => none
  | .collectiveComplete _ => none
  | .tokloWrite _ _ => none
  | .tokhiWrite _ _ => none
  | .sync _ _ => none
  | .config _ => none
  | .arg _ => none
  | .start _ => none
  | .unload _ => none
  | .freeze _ => none
  | .freezeEnd _ => none
  | .resume _ => none
  | .reset _ => none
  | .watchdogExpiry _ => none
  | .egackWrite _ _ => none
  | .qcfgWrite _ _ => none
  | .replay _ _ => none
  | .replayAll _ => none
  | .abandon _ _ => none
  | .replayEnd _ _ => none
  | .thaw _ _ => none
  | .fqseqWrite _ _ => none
  | .olseqWrite _ => none
  | .hold => none
  | .release => none
  | .rebuild => none
  | .rebuildDone => none
  | .gcfgWrite _ => none
  | .gmemWrite _ _ => none
  | .memberLostTimeout _ => none
  | .ownerLostTimeout _ => none
  | .remoteTimeout _ => none
  | .heatkWrite _ => none
  | .heatdWrite _ => none
  | .cmbasWrite _ => none
  | .badUnitWrite _ _ => none
  | .registerWrite _ _ _ => none
  | .read _ _ => none
  | .readData _ _ => none
  | .write _ _ => none
  | .writeAck _ _ => none
  | .atomic _ _ => none
  | .atomicData _ _ => none
  | .delta _ _ => none
  | .pdelta _ _ => none
  | .dack _ _ => none
  | .error _ _ _ => none
  | .coll _ _ => none
  | .linkRetryRequest _ _ => none
  | .helupPortOut _ => none
  | .cxlLinkTrain _ _ => none
  | .firmwareUpdate _ => none
  | .attestationRequest _ => none
  | .badBitClear _ _ => none
  | .deviceReset => none
  | .thermalThrottle => none
  | .thermalShutdown => none
  | .helupFlit _ _ => none
  | .podLineRequest _ => none
  | .snoop _ _ => none
  | .snoopReply _ _ => none
  | .pageWalkDone _ => none
  | .errorCountMirror => none
  | .errorCountClear => none
  | .badBitSet _ _ => none

/-- The 12 bytes of a node-record form. -/
def encode (i : Instr) : Option (List Byte) := (encodeRecord i).map fun w => bytesOfNat 12 w.toNat

/-- The instruction read from a table word: bit 0 is the least significant bit of the first byte. Bits above `nbits` are zero. -/
def decodeTableWord (nbits w : Nat) : Option Instr :=
  match decode (bytesOfNat 12 (w % 2 ^ nbits)) with
  | .ok i => some i
  | .error _ => none
/-! ## Words that name device events -/

/-- An ingress token (Table 8.2). -/
structure Ingress where
  kind    : BitVec 4
  rsv     : BitVec 12
  param   : BitVec 16
  seq     : BitVec 32
  payload : Word
  deriving DecidableEq, Repr

/-- The token that TOKHI and TOKLO form (R242, R243). -/
def Ingress.ofWords (hi lo : Word) : Ingress :=
  { kind := hi.extractLsb' 60 4, rsv := hi.extractLsb' 48 12, param := hi.extractLsb' 32 16, seq := hi.extractLsb' 0 32, payload := lo }

/-- The high half of a token (Table 8.2). -/
def Ingress.hi (t : Ingress) : Word := t.kind ++ t.rsv ++ t.param ++ t.seq

/-- A token whose fields Table 8.2 or 8.3 refuses: BAD_TOKEN when it is served (R243). -/
def Ingress.malformed (t : Ingress) : Bool :=
  t.rsv != 0 || decide (t.kind.toNat = 0) || decide (9 ≤ t.kind.toNat)
    || (if t.kind = 2 then decide (64 ≤ t.param.toNat) else t.param != 0)

/-- The device event that serving a token of cuff `c` is (Table 8.3). A malformed token names none. -/
def serviceOf (c : Nat) (t : Ingress) : Option Instr :=
  if t.malformed then none
  else match t.kind.toNat with
    | 1 => some (.config c)
    | 2 => some (.arg c)
    | 3 => some (.start c)
    | 4 => some (.unload c)
    | 5 => some (.sync c t.seq)
    | 6 => some (.freeze c)
    | 7 => some (.resume c)
    | 8 => some (.reset c)
    | _ => none

/-- The replay action that a value written to RPLY of partition `p` is (R282, Table 9.8): ACT in [63:56], bits [55:32]
zero, ARG in [31:0]. Any other value names none. -/
def decodeRply (p : Nat) (v : Word) : Option Instr :=
  if v.extractLsb' 32 24 = 0 then
    match (v.extractLsb' 56 8).toNat with
    | 1 => some (.replay p (v.extractLsb' 0 32))
    | 2 => some (.replayAll p)
    | 3 => some (.abandon p (v.extractLsb' 0 32))
    | 4 => some (.replayEnd p (v.extractLsb' 0 32))
    | 5 => some (.thaw p (v.extractLsb' 0 32))
    | _ => none
  else none

/-- The group command that a value written to GCMD is (Tables 10.1, 10.9). -/
def decodeGcmd (v : Word) : Option Instr :=
  if v.extractLsb' 0 56 = 0 then
    match (v.extractLsb' 56 8).toNat with
    | 1 => some .hold
    | 2 => some .release
    | 3 => some .rebuild
    | _ => none
  else none

/-- What a Helup message slot holds (R328): nothing, a message, or a slot to be discarded; `req` tells a request, to which
an ERROR with status REFUSED is sent, with its RID. -/
inductive SlotRead where
  | empty
  | msg (i : Instr)
  | discard (req : Bool) (rid : BitVec 32)
  deriving DecidableEq, Repr

/-- A message slot of 40 bytes from device `src` (Table 11.3). MTYPE 0 is empty; 12 to 15, and a non-zero reserved bit, discard
the slot. COLL has no architected layout: its contents reach the device as an event of their own. -/
def decodeSlot (src : Nat) (w : BitVec 320) : SlotRead :=
  let w0 : Word := w.extractLsb' 0 64
  let data : BitVec 192 := w.extractLsb' 64 192
  let w4 : Word := w.extractLsb' 256 64
  let rid : BitVec 32 := w4.extractLsb' 32 32
  let low4 := w4.extractLsb' 0 32 == 0
  let acc : AccessMsg := { len := w0.extractLsb' 52 8, addr := w0.extractLsb' 0 42, data := data, rid := rid }
  let dat : DataMsg := { poi := w0.getLsbD 59, data := data, rid := rid }
  let del : DeltaMsg := { sector := w0.extractLsb' 26 34, dseq := w0.extractLsb' 0 26, delta := w.extractLsb' 64 256 }
  let keep (ok req : Bool) (i : Instr) : SlotRead := if ok then .msg i else .discard req rid
  match (w0.extractLsb' 60 4).toNat with
  | 0 => .empty
  | 1 => keep (low4 && w0.extractLsb' 42 10 == 0 && data == 0 && decide (1 ≤ acc.len.toNat) && decide (acc.len.toNat ≤ 192)) true (.read src acc)
  | 2 => keep (low4 && w0.extractLsb' 0 59 == 0) false (.readData src dat)
  | 3 => keep (low4 && w0.extractLsb' 42 10 == 0 && decide (1 ≤ acc.len.toNat) && decide (acc.len.toNat ≤ 192)) true (.write src acc)
  | 4 => keep (low4 && w0.extractLsb' 0 60 == 0 && data == 0) false (.writeAck src rid)
  | 5 => keep (low4 && w0.extractLsb' 42 11 == 0 && decide ((w0.extractLsb' 56 4).toNat ≤ 8) && data.extractLsb' 128 64 == 0) true
      (.atomic src { op := w0.extractLsb' 56 4, ty := w0.extractLsb' 54 2, u := w0.getLsbD 53, addr := w0.extractLsb' 0 42,
                     b := data.extractLsb' 0 64, c := data.extractLsb' 64 64, rid := rid })
  | 6 => .msg (.delta src del)
  | 7 => keep (del.delta == 0) false (.pdelta src del)
  | 8 => keep (w0.extractLsb' 32 28 == 0 && data == 0 && w4 == 0) false (.dack src (w0.extractLsb' 0 32))
  | 9 => keep (low4 && w0.extractLsb' 0 59 == 0 && data.extractLsb' 64 128 == 0) false (.atomicData src dat)
  | 10 => keep (low4 && w0.extractLsb' 0 52 == 0 && data == 0) false (.error src (w0.extractLsb' 52 8) rid)
  | 11 => .empty
  | _ => .discard false rid

end Sys2Proof
end

