-- ==== Sys2Proof/Config.lean ====
section
/-! DEFINITION. What an implementation of the LX9 fixes and the manual leaves open. Every constant here is opaque: nothing can
be proved of its value, so what holds of the model holds whatever the value is. -/

namespace Sys2Proof.Config

/-- A free choice, taken with a counter of the state: which free colour number (R37), which legal origin, ring segment and
transfer island (R23, R26, R223), which free deferral entry (R164). Log 3. -/
opaque pick : Nat → Nat

/-- A free word, taken with a counter of the state: words that a layout leaves unarchitected (R75, R76, R164, R287). Log 3. -/
opaque word : Nat → BitVec 64

/-- The last lane of a SCNL of a 64-bit type over an odd number of lanes, by the operand: it holds no element, and R417 states no value. Log 3. -/
opaque oddLane : BitVec 1024 → BitVec 32

/-- The home bank of a line, 0 to 511 on its home die: a fixed function of its canonical address (R151). Log 9. -/
opaque homeBank : Nat → Nat

/-- Bytes into which the compression method compresses a block of 256 bytes (R160). Log 9. -/
opaque compressedSize : Nat → Nat

/-- The fixed hash of the route choice: source, destination and line (R327). Log 9. -/
opaque routeHash : Nat → Nat → Nat → Nat

/-- Format number of this device's freeze images (R287). Log 9. -/
opaque imgId : BitVec 32

/-- The digest of the root key fused in the device, and the fused minimum security version (R338). Log 9. -/
opaque rootKeyDigest : BitVec 512
@[inherit_doc rootKeyDigest] opaque minSvn : BitVec 32

/-- The signature that the fused attestation key makes of a report's bytes 0 to 207 (R339). Log 9. -/
opaque attestSign : List Byte → BitVec 528 × BitVec 528

/-- The digest of the firmware that runs after device reset (R339). Log 9. -/
opaque firmwareDigest : BitVec 512

end Sys2Proof.Config
end

