-- ==== Sys2Proof/Machine/State.lean ====
section
/-! DEFINITION. The state of the LX9 as plain data, its faults and refusals, and the machine right after device reset.
Sparse collections are lists of key and value pairs in rising key order (`Map`); a key that is not listed reads as the default
that the field's docstring gives. -/

namespace Sys2Proof.Machine

open Sys2Proof

/-- A sparse table: keys strictly rising. -/
abbrev Map (α : Type) := List (Nat × α)

/-! ## Tokens (02) -/

/-- Token kinds (Table 2.1, KIND). -/
inductive TokKind where
  | null | scalar | vector
  deriving DecidableEq, Repr

/-- What a token carries besides its destination: KIND, LN, markers, poison and value (Table 2.1, R30). -/
structure TokVal where
  kind : TokKind := .null
  ln   : Nat := 0
  eor  : Bool := false
  eot  : Bool := false
  eos  : Bool := false
  poi  : Bool := false
  val  : Value := 0
  deriving DecidableEq, Repr

/-- A token (Table 2.1): `blk` is the bit address of the destination block image. -/
structure Token where
  tag  : Word := 0
  blk  : Word := 0
  node : Nat := 0
  port : Port := .a
  v    : TokVal := {}
  deriving DecidableEq, Repr

/-- Where a token goes: a node of an activation that exists, a write slot of one, or the activation that R46 names. -/
inductive Dest where
  | node (act : Nat)
  | slot (act index : Nat)
  | far
  deriving DecidableEq, Repr

/-- A token in flight, with the parity it carries, the sender's retained copy (R31, R308) and its origin. -/
structure NetToken where
  tok     : Token := {}
  par     : BitVec 8 := 0
  kept    : Token := {}
  keptPar : BitVec 8 := 0
  dest    : Dest := .far
  /-- The tag operation that made it: a back-edge token is `wave`, a push token `push` (R53, R54). -/
  made    : TagOp := .keep
  /-- The producing activation, its thread's tag and its place in the thread (R46); 0 when there is none. -/
  prod    : Nat := 0
  prodTag : Word := 0
  prodSeq : Nat := 0
  /-- Coordinate of the producing unit (Table 1.3). -/
  unit    : BitVec 16 := 0
  part    : Nat := 0
  /-- The sleeve on which R46 looks for the activation. -/
  sleeve  : Nat := 0
  /-- The token is one of a RET that has committed (R419). -/
  ret     : Bool := false
  /-- The producing node; and the token is one of an LCMP, which a lining twin receives too (R304, R306). -/
  prodNode : Nat := 0
  both    : Bool := false
  deriving DecidableEq, Repr

/-- A far token that has arrived and waits in the matching store of its colour's home quad (R46). -/
structure FarToken where
  t    : NetToken := {}
  quad : Nat := 0
  deriving DecidableEq, Repr

/-- A matching-store entry (R49): the tokens of one (node, activation) pair; JOIN and COMB keep their count and partial
value in it (R62, R359). `stamp` is the cycle in which the set completed; `bytes` the operand-buffer space taken. -/
structure Entry where
  quad  : Nat := 0
  en    : Nat := 0
  act   : Nat := 0
  node  : Nat := 0
  a     : Option TokVal := none
  b     : Option TokVal := none
  c     : Option TokVal := none
  p     : Option TokVal := none
  count : Nat := 0
  bytes : Nat := 0
  stamp : Option Nat := none
  /-- Producing activation by port code (R70). -/
  prods : List (Nat × Nat) := []
  /-- JOIN and COMB: the tokens counted, by producing activation, in arrival order (R70, R359). -/
  parts : List (Nat × TokVal) := []
  deriving DecidableEq, Repr

/-- A token in the token-spill area, with the index of its entry (R75). -/
structure Spilled where
  t    : NetToken := {}
  quad : Nat := 0
  slot : Nat := 0
  deriving DecidableEq, Repr

/-- The matched set that is firing: what a meaning reads. -/
structure Firing where
  part   : Nat := 0
  sleeve : Nat := 0
  act    : Nat := 0
  node   : Nat := 0
  en     : Nat := 0
  tag    : Word := 0
  blk    : Word := 0
  grant  : Nat := 1
  a      : Option TokVal := none
  b      : Option TokVal := none
  c      : Option TokVal := none
  p      : Option TokVal := none
  /-- COMB and JOIN: tokens counted (R359, R387). -/
  count  : Nat := 0
  /-- The hem unit that sends its result; none when its EN does (R17, R308). -/
  unit   : Option (BitVec 16) := none
  /-- Targets of the record that fires, set when its meaning begins. -/
  com    : Common := { fn := 0, ty := .i64, pm := .always, ar := .start, tg := .keep, t0 := .none, t1 := .none }
  /-- LIT or BOFS of the record: the offset of far targets (R91). -/
  ofs    : BitVec 32 := 0
  deriving DecidableEq, Repr

/-! ## Faults (09) -/

/-- The fault classes that write records (Table 9.5, R7). -/
inductive FaultClass where
  | badEncoding | blockShape | tagDepth | tagExhaust | translation | protection | alignClass | staleHandle | doubleWrite
  | poison | heavyWithoutLeave | ownerLost | compressOverflow | liningMismatch | parityPeerLost | softwareTrap | breakpoint
  deriving DecidableEq, Repr

/-- What a fault record says (Table 9.6), before FSEQ and TIME. -/
structure FaultInfo where
  cls   : FaultClass := .blockShape
  cause : Nat := 0
  src   : Nat := 0
  wr    : Bool := false
  fetch : Bool := false
  lvl   : Nat := 7
  va    : Word := 0
  tag   : Word := 0
  blk   : Word := 0
  node  : Nat := 0
  width : Nat := 0
  coord : BitVec 16 := 0
  slv   : BitVec 16 := 0
  info  : Word := 0
  unit  : Word := 0
  /-- The cycle in which it was raised, when its record is written later (R69). -/
  time  : Option Nat := none
  deriving DecidableEq, Repr

/-- A parked access (R278): what is done again at replay. -/
inductive ParkedKind where
  /-- A matched set whose form is issued again. -/
  | form (e : Entry)
  /-- The image fetch of an activation at its first mapping (R103). -/
  | fetch (act : Nat)
  /-- A token that could not be spilled (R77). -/
  | token (t : NetToken) (quad : Nat)
  /-- A colour that could not be placed (R77). -/
  | colour (key : Nat)
  /-- A committed store (R161, R433). -/
  | store (sid : Nat)
  /-- A survivable fence (R192). -/
  | fence (op : Nat)
  /-- Units of a transfer (R232). -/
  | range (tid : Nat) (lo hi : Nat)
  /-- The TMMA at the head of an island (R222). -/
  | tmma (isl : Nat)
  /-- A TSCL with an address at an island (R438). -/
  | tscl (isl cmd : Nat)
  /-- A collective at its next element (R389). -/
  | coll (cid : Nat)
  deriving DecidableEq, Repr

/-- A parked access with the record it is parked under. -/
structure Parked where
  part : Nat := 0
  fseq : Nat := 0
  /-- The activation parked, 0 when none. -/
  act  : Nat := 0
  what : ParkedKind := .colour 0
  deriving DecidableEq, Repr

/-- A fault that a Predicted activation met (R69): raised when it becomes Running. -/
structure Deferred where
  info : FaultInfo := {}
  park : Option ParkedKind := none
  deriving DecidableEq, Repr

/-- An outstanding fault record (R279, R282). -/
structure Outstanding where
  part   : Nat := 0
  fseq   : Nat := 0
  info   : FaultInfo := {}
  /-- The colour the record names, by key and serial. -/
  colour : Nat := 0
  serial : Nat := 0
  act    : Nat := 0
  sleeve : Nat := 0
  /-- A sleeve was frozen and THAW has not come (R282). -/
  frozen : Bool := false
  /-- The colour is held after commit under this record (R165, R433). -/
  holds  : Bool := false
  /-- Accesses park under it; and it was discarded, with FQN.LOG 0: no RPLY names it, and its accesses await REPLAY_ALL (R280). -/
  parks  : Bool := false
  gone   : Bool := false
  deriving DecidableEq, Repr

/-! ## Activations, threads, loops and colours (02) -/

/-- Activation states (Table 2.7). -/
inductive ActState where
  | held | predicted | running | parked | complete | committed | squashed | killed | faulted
  deriving DecidableEq, Repr

/-- An exit that an activation has produced (R373, R375, R419). -/
inductive ExitTo where
  | block (blk : Word)
  | endIteration
  | leave
  | endColour
  | ret
  deriving DecidableEq, Repr

/-- Where a part of an access lies: its address and the leaf that translates it. -/
structure Spot where
  va   : Word := 0
  leaf : Word := 0
  big  : Bool := false
  deriving DecidableEq, Repr

/-- A part of a store: the bits of an element in one sector (R143). -/
structure StoreElem where
  va    : Word := 0
  /-- The leaf entry it was translated with, and whether that is of a 32 MiB page. -/
  leaf  : Word := 0
  big   : Bool := false
  width : Nat := 0
  pat   : Word := 0
  deriving DecidableEq, Repr

/-- The spot of a part of a store. -/
def StoreElem.spot (e : StoreElem) : Spot := { va := e.va, leaf := e.leaf, big := e.big }

/-- Store forms that differ at the bank (Table 5.7, R148). -/
inductive StoreKind where
  | plain | fill | empty | single | scratch
  deriving DecidableEq, Repr

/-- A store-buffer entry (R180, R430). -/
structure Store where
  part    : Nat := 0
  sleeve  : Nat := 0
  act     : Nat := 0
  colour  : Nat := 0
  serial  : Nat := 0
  tag     : Word := 0
  blk     : Word := 0
  node    : Nat := 0
  seq     : Nat := 0
  lsid    : Nat := 0
  kind    : StoreKind := .plain
  scope   : Scope := .act
  release : Bool := false
  elems   : List StoreElem := []
  /-- Its activation has committed. -/
  committed : Bool := false
  /-- Held at step 1 of Table 5.2, or parked: not performed now. -/
  parked  : Bool := false
  /-- Its translation must be made again: its leaf was removed, or it is replayed, and a table line is with a pod agent (R276, R283). -/
  stale   : Bool := false
  /-- The remote requests that its elements wait for (R330). -/
  rids    : List Nat := []
  /-- Its elements that have been performed. -/
  past    : List StoreElem := []
  deriving DecidableEq, Repr

/-- A load that an activation has performed, for the conflict rule R185: bits [va + width - 1 : va], and the memory and the bit
address in it where they lie. -/
structure LoadMark where
  va    : Word := 0
  space : Nat := 0
  bit   : Nat := 0
  width : Nat := 0
  lsid  : Nat := 0
  scratch : Bool := false
  deriving DecidableEq, Repr

/-- An activation (R43 to R48, R63 to R70). -/
structure Act where
  part     : Nat := 0
  sleeve   : Nat := 0
  colour   : Nat := 0
  serial   : Nat := 0
  tag      : Word := 0
  blk      : Word := 0
  st       : ActState := .held
  /-- Its place in its thread, from 1, and the loop and iteration of that thread (0 outside loops). -/
  seq      : Nat := 0
  loop     : Nat := 0
  iter     : Nat := 0
  /-- The activation before it in its thread, or its creator; 0 when there is none (R67). -/
  pred     : Nat := 0
  creator  : Nat := 0
  /-- The block has been mapped with its verified image: node `k` is in node slot `place[k]` (16 to an EN). -/
  started  : Bool := false
  place    : List Nat := []
  image    : Image := 0
  grant    : Nat := 1
  fired    : BitVec 128 := 0
  /-- Write slots delivered (R63). -/
  slots    : List (Nat × TokVal) := []
  /-- LSIDs issued, and LSIDs resolved (R183). -/
  issued   : BitVec 32 := 0
  resolved : BitVec 32 := 0
  /-- Exits produced: number, node and where to (R64). -/
  exits    : List (Nat × Nat × ExitTo) := []
  /-- Values that a RET holds: target node and port of the continuation block, and the token (R419). -/
  rets     : List (Nat × Port × TokVal) := []
  /-- SWRs by node: register number and value (R428). -/
  swrs     : List (Nat × Nat × Word) := []
  /-- Armed freeze (R384): none, or its image address. -/
  frz      : Option (Option Word) := none
  /-- CTXF and CTXS that take effect at commit: colour key and serial; and new grant (R362, R364). -/
  ends     : List (Nat × Nat) := []
  grants   : List (Nat × Nat × Nat) := []
  /-- Mode tokens produced: sleeve, block, node and token (R122). -/
  modes    : List (Nat × Word × Nat × TokVal) := []
  /-- The head block that it pushed towards, and whether an LCNT did (R53, R394). -/
  pushed   : Option (Word × Bool) := none
  /-- It has sent a popped token (R400). -/
  popped   : Bool := false
  /-- TMMA commands that have not passed their operand check (R209). -/
  checks   : List Nat := []
  /-- Far tokens delivered to it (R70). -/
  inbox    : List NetToken := []
  /-- Loads performed (R185). -/
  loads    : List LoadMark := []
  deferred : List Deferred := []
  /-- The twin on the lining sleeve, or the original of a twin (R304). -/
  twin     : Nat := 0
  isTwin   : Bool := false
  /-- LCMP firings by node: EN and the images compared (R306). -/
  lcmps    : List (Nat × Nat × TokVal × TokVal) := []
  /-- LCMPs of the original that have compared equal. -/
  equal    : List Nat := []
  /-- Lining mismatches of (B, t) so far (R307). -/
  mismatches : Nat := 0
  /-- Loops that it continues: started only when this instance is Done (R53). -/
  awaits   : Nat := 0
  /-- Its frame registers have been read (R45). -/
  reads    : Bool := false
  /-- Records of R165 that were written when it was already Complete. -/
  exempt   : List Nat := []
  deriving DecidableEq, Repr

/-- A thread of control: its tag within a partition, the activations not committed in thread order, the number committed
(R40), and for an iteration its loop and index, the held writes and the frame it reads (R57). -/
structure Thread where
  part      : Nat := 0
  tag       : Word := 0
  acts      : List Nat := []
  committed : Nat := 0
  next      : Nat := 1
  loop      : Nat := 0
  iter      : Nat := 0
  writes    : List (Nat × Value) := []
  inner     : List (Nat × Value) := []
  creator   : Nat := 0
  ended     : Bool := false
  /-- The node that the starting token of an iteration names (R74). -/
  entryNode : Nat := 0
  deriving DecidableEq, Repr

/-- A loop instance (R52 to R58). -/
structure Loop where
  part    : Nat := 0
  sleeve  : Nat := 0
  colour  : Nat := 0
  serial  : Nat := 0
  parent  : Word := 0
  head    : Word := 0
  /-- Window and order, once the head's image has been verified (R52). -/
  window  : Option Nat := none
  ordered : Bool := false
  /-- The generator of a counted loop: trip count, quad of the LCNT, its firing, and the next index (R394). -/
  counted : Option Nat := none
  quad    : Nat := 0
  gen     : Firing := {}
  genNext : Nat := 0
  /-- The entering activation. -/
  entry   : Nat := 0
  /-- Next iteration to start, iterations ended, the leaving iteration (R55, R56). -/
  next    : Nat := 0
  ended   : List Nat := []
  left    : Option Nat := none
  done    : Bool := false
  /-- Push, back-edge and LCNT tokens that wait for their iteration (R54), by index. -/
  waiting : List (Nat × NetToken) := []
  /-- Writes of the delivering iteration (R57). -/
  writes  : List (Nat × Value) := []
  failed  : Bool := false
  /-- The frame that its iterations read, from the commit of the entering activation on (R57). -/
  view    : Option (Map Word × Map Value) := none
  deriving DecidableEq, Repr

/-- Colour states (Table 2.4); `queued` is a spawn or a retried child waiting for a place (Table 2.13, STATE 10). -/
inductive ColourState where
  | free | resident | spilled | ending | queued
  deriving DecidableEq, Repr

/-- A batch of transfers (R230, Table 7.9). -/
structure Batch where
  num    : Nat := 0
  closed : Bool := false
  nxfr   : Nat := 0
  /-- Transfers that are not complete. -/
  left   : Nat := 0
  stale  : Bool := false
  fault  : Bool := false
  bits   : Nat := 0
  deriving DecidableEq, Repr

/-- Who made an access that is held at step 1 of Table 5.2: a store, a form, a transfer, or a request that waits at this home. -/
inductive HeldBy where
  | store (sid : Nat)
  | form (act node : Nat)
  | xfer (tid : Nat)
  | inbound (n : Nat)
  deriving DecidableEq, Repr

/-- The launch that a root colour answers to (R253), and the accesses of its START's writer that its first activation waits for (R255). -/
structure Root where
  queue  : Nat := 0
  iseq   : BitVec 32 := 0
  cookie : Word := 0
  after  : List HeldBy := []
  deriving DecidableEq, Repr

/-- A colour (R38, R42). Frame registers that are not listed are zero. -/
structure Colour where
  part    : Nat := 0
  num     : Nat := 0
  serial  : Nat := 0
  st      : ColourState := .free
  f       : Map Word := []
  w       : Map Value := []
  grant   : Nat := 1
  key     : BitVec 32 := 0
  called  : Bool := false
  rtag    : Word := 0
  /-- The caller's activation until its exit is known, then the continuation block (R59). -/
  cblk    : Word := 0
  caller  : Nat := 0
  callerKey : Nat := 0
  callerSerial : Nat := 0
  retry   : Bool := false
  reissued : Bool := false
  /-- Kept arguments of a SPAWN: start block and frame (R312). -/
  sblk    : Word := 0
  args    : Map Word := []
  sleeve  : Nat := 0
  creator : Nat := 0
  /-- What the edge of its creation orders before its accesses: activations, and answers that earlier ones await, by their numbers (R194). -/
  edges   : List Nat := []
  /-- Units held (R261). -/
  holding : Nat := 0
  /-- No new activation starts (R278). -/
  held    : Bool := false
  /-- Records under which Complete activations do not commit (R165). -/
  dw      : List Nat := []
  root    : Option Root := none
  /-- Batches, the latest last; collectives incomplete and the flags of KWAIT (R230, R239). -/
  batches : List Batch := []
  colls   : List Nat := []
  lost    : Bool := false
  mismatch : Bool := false
  /-- Cycle of its last activity (R39), the order in which it entered the spill area, and its entry there. -/
  active  : Nat := 0
  entered : Nat := 0
  slot    : Nat := 0
  /-- Its entry is in the colour-spill area, from its spilling until it is resident or Free (R76). -/
  inArea  : Bool := false
  killed  : Bool := false
  deriving DecidableEq, Repr

/-! ## Waiting forms -/

/-- What a form that has issued waits for (R369, R401, R435). -/
inductive Wait where
  /-- Data of a load whose value is fixed (R180). -/
  | data (v : TokVal)
  /-- Replies of remote requests: element place, width and data so far (R330). -/
  | remote (pieces : List (Nat × Nat × Nat × Option (Bool × Nat))) (ty : Ty) (zero vector : Bool)
  | remoteAtomic (rid : Nat) (ty : Ty) (zero : Bool)
  /-- LDS at the bank: word address, leaf, element offset, type, zero extension, empties (R166). -/
  | lds (cda ofs : Nat) (ty : Ty) (zero empties : Bool)
  /-- FENCE (R191, R192): survivable, what it orders, the stores of its colour that had committed at its issue, and whether it
  waits again after a replay. -/
  | fence (srv loads stores : Bool) (await : List Nat) (again : Bool)
  /-- A load of a device-register page: byte offset of the register space (R430). -/
  | window (ofs : Nat)
  /-- TLBI: the page, none for the whole partition, and the committed stores that it awaits. -/
  | tlbi (page : Option Word) (await : List Nat)
  /-- PMIG: page, leaf address, new and old leaf, and the next sector to be copied. -/
  | pmig (va loc new old : Word) (next : Nat)
  | eret (seq : Nat)
  | ctxj (key serial : Nat)
  | hvya (n : Nat)
  | kwait (n : Nat)
  /-- XWAIT: its count, and whether it has closed the open batch. -/
  | xwait (n : Nat) (closed : Bool)
  /-- XBAT, and a transfer, that wait for a close that is held (R230), and a transfer that waits for acceptance (R449). -/
  | xbat
  | xferJoin
  | xferAccept (tid : Nat)
  | send (sleeve port : Nat) (m : TokVal)
  | recv (port : Nat)
  /-- A circular-buffer form at its buffer: one that is blocked, or whose activation is not Running (R170). -/
  | cbin (d : Word)
  | cbpt (buf : Nat) (v : TokVal)
  | cbaq (buf : Nat)
  | cbrl (buf : Nat)
  | hem (cmd : Nat)
  /-- A colour that waits for its placement (R77). -/
  | place (key : Nat)
  /-- The original of an LCMP waits for its twin (R306). -/
  | lcmp
  deriving DecidableEq, Repr

/-- A form that has issued and waits outside the ready queue; `order` is its arrival. -/
structure Op where
  f     : Firing := {}
  w     : Wait := .xbat
  order : Nat := 0
  deriving DecidableEq, Repr

/-! ## Matrix islands, transfers and collectives (07) -/

/-- Island element formats (Table 7.2). -/
inductive IslFmt where
  | f (t : Ty)
  | i6 | i4 | i3
  deriving DecidableEq, Repr

/-- A B latch (Table 7.1). -/
structure Latch where
  present : Bool := false
  rows    : List (BitVec 1024) := []
  bad     : Bool := false
  fmt     : IslFmt := .f .e4m3
  tag     : Nat := 0
  scale   : Option Lane := none
  deriving DecidableEq, Repr

/-- A scale-buffer entry (R213): A scales by vector, their addresses, and a waiting B scale. -/
structure ScaleEntry where
  tag  : Nat := 0
  sa   : Map Lane := []
  /-- A scales to be read when the first TMMA that uses the entry starts: vector and address. -/
  ind  : List (Nat × Word) := []
  sb   : Option Lane := none
  deriving DecidableEq, Repr

/-- A hem command at or on its way to an island (R208). -/
structure HemCmd where
  id      : Nat := 0
  instr   : Instr := .heatDecayDone
  /-- Operands of the form. -/
  a       : TokVal := {}
  b       : TokVal := {}
  /-- NVER and SEED at issue (R124). -/
  nver    : Nat := 9
  seed    : Word := 0
  /-- The TSCLs that stood parked at the island when the command arrived: it waits for them (R438). -/
  behind  : List Nat := []
  deriving DecidableEq, Repr

/-- A matrix island (Table 7.1). Unlisted tile rows and accumulator columns are zero. -/
structure Island where
  tile   : Map (BitVec 1024) := []
  /-- Quarter rows that read as uncorrectable: 4 * row + quarter (R450). -/
  bad    : List Nat := []
  acc    : Map Lane := []
  poi    : List Nat := []
  l0     : Latch := {}
  l1     : Latch := {}
  scales : List ScaleEntry := []
  queue  : List HemCmd := []
  deriving DecidableEq, Repr

/-- A hem command as its form waits for it: the islands that have not completed, and the result so far (R437). -/
structure HemOp where
  f      : Firing := {}
  left   : List Nat := []
  result : TokVal := {}
  /-- The island that completed last: it sends the result. -/
  last   : Nat := 0
  deriving DecidableEq, Repr

/-- A hem command in flight to a matrix island, or a transfer in flight to its transfer island (`xfer`, 0 for a command), with its operands
as tokens that carry parity (R17, R31, R308). -/
structure HemFlight where
  isl  : Nat := 0
  cmd  : HemCmd := {}
  xfer : Nat := 0
  a    : NetToken := {}
  b    : NetToken := {}
  c    : NetToken := {}
  deriving DecidableEq, Repr

/-- A handle-table entry (R225). -/
structure Handle where
  valid : Bool := false
  kind  : Nat := 0
  r     : Bool := false
  w     : Bool := false
  base  : Word := 0
  len   : Nat := 0
  gen   : Nat := 0
  /-- MODEL: the sleeve whose XHND wrote it, for scratchpad ranges and buffers (log 14). -/
  sleeve : Nat := 0
  deriving DecidableEq, Repr

/-- States of a transfer (R17, R198, R223, R229, R232): `flying` on its way to the transfer island, `stopped` by a fault with writes that are not
answered. -/
inductive XferState where
  | flying | queued | running | fifth | passed | stopped
  deriving DecidableEq, Repr

/-- A transfer (R227 to R233). -/
structure Xfer where
  f      : Firing := {}
  instr  : Instr := .heatDecayDone
  xisl   : Nat := 0
  colour : Nat := 0
  serial : Nat := 0
  batch  : Nat := 0
  /-- What its issue edge orders first, as `Colour.edges` (R194). -/
  edges  : List Nat := []
  st     : XferState := .queued
  /-- Next unit, and ranges of units to be performed after a replay, in order (R232). -/
  next   : Nat := 0
  redo   : List (Nat × Nat) := []
  /-- The record of a fifth fault. -/
  fifth  : Nat := 0
  /-- The op of a slot write that waits at a circular buffer (R233). -/
  slot   : Nat := 0
  /-- The colour held two units at acceptance (R240). -/
  fast   : Bool := false
  seq    : Nat := 0
  order  : Nat := 0
  deriving DecidableEq, Repr

/-- A collective of this device (R235 to R239). -/
structure Coll where
  f       : Firing := {}
  instr   : Instr := .heatDecayDone
  colour  : Nat := 0
  serial  : Nat := 0
  isl     : Nat := 0
  /-- Device numbers of the members by rank, this device's rank, and its number among the group's collectives. -/
  group   : List Nat := []
  rank    : Nat := 0
  num     : Nat := 0
  /-- 512 * partition + group slot, and its number among the collectives of that slot (log 54). -/
  slot    : Nat := 0
  place   : Nat := 0
  src     : Word := 0
  dst     : Word := 0
  /-- What its issue edge orders first, as `Colour.edges` (R194). -/
  edges   : List Nat := []
  begun   : Bool := false
  /-- Members that agree, by rank, and values received: rank, index, value, poison. -/
  agreed  : List Nat := []
  got     : List (Nat × Nat × Nat × Bool) := []
  /-- Source elements sent and destination elements written. -/
  sent    : Nat := 0
  next    : Nat := 0
  /-- 0 running, 1 ended with LOST, 2 with MISMATCH; the other members are still to be told. -/
  status  : Nat := 0
  tell    : Bool := false
  deriving DecidableEq, Repr

/-! ## Sleeves, configurations and queues (01, 08) -/

/-- A block mapped on a sleeve (R21, R45). -/
structure Mapped where
  blk   : Word := 0
  place : List Nat := []
  img   : Image := 0
  deriving DecidableEq, Repr

/-- A sleeve (R20, R21). -/
structure Sleeve where
  part    : Nat := 0
  cfg     : Nat := 0
  desc    : BitVec 16 := 0
  index   : Nat := 0
  /-- Its ENs that BADN did not list when it was formed (R21, R309). -/
  good    : List Nat := []
  lining  : Bool := false
  /-- The lining sleeve of a first placement. -/
  liner   : Nat := 0
  /-- First island and size of the ring segment; the transfer island. -/
  seg     : Option (Nat × Nat) := none
  xisl    : Option Nat := none
  g       : Map Word := []
  /-- Current modes by (block, node): RND and SAT (R123). -/
  modes   : List (Word × Nat × Nat × Nat) := []
  /-- Nodes whose next firing takes a poisoned mode token (R122). -/
  badModes : List (Word × Nat) := []
  maps    : List Mapped := []
  /-- Verified images in the block-image caches of its quads, by quad, the oldest first (R11, R105). -/
  images  : Map (List (Word × Image)) := []
  scratch : List Host.Cell := []
  scratchBad : List Nat := []
  /-- Forwarding table: committed SPSTs not yet drained, address, width, pattern (R148). -/
  fwd     : List (Nat × Nat × Word) := []
  cbd     : Map Word := []
  cbc     : Map Word := []
  /-- Stream-port queues by quad of the sleeve (R412). -/
  ports   : Map (List TokVal) := []
  /-- Round robin of the mapper: the colour whose activation it started last (R79). -/
  lastColour : Nat := 0
  /-- FSEQs of the records that froze it as a master (R263). -/
  frozen  : List Nat := []
  deriving DecidableEq, Repr

/-- A loaded configuration (R247 to R252). -/
structure Configuration where
  part    : Nat := 0
  addr    : Word := 0
  gen     : BitVec 32 := 0
  queue   : Nat := 0
  nslv    : Nat := 1
  seg     : Nat := 0
  xfr     : Bool := false
  lin     : Bool := false
  images  : List (Word × Image) := []
  entry   : Word := 0
  shape   : Nat := 0
  draw    : BitVec 32 := 0
  budget  : Nat := 0
  colmax  : Nat := 0
  wdt     : Nat := 0
  lanes   : Nat := 1
  /-- Sleeve ids in index order, and the lining sleeves. -/
  sleeves : List Nat := []
  liners  : List Nat := []
  /-- Cycle of its last START (R252); 0 before its first. -/
  started : Nat := 0
  /-- Its descriptors were given (PIN). -/
  pin     : Bool := false
  deriving DecidableEq, Repr

/-- An egress record that waits for a place (R259). -/
structure Egress where
  eseq  : Nat := 0
  words : List Word := []
  deriving DecidableEq, Repr

/-- A token accepted by a cuff, with its acceptance order (R244) and what its writer had not yet performed (R255). -/
structure Accepted where
  hi    : Word := 0
  lo    : Word := 0
  order : Nat := 0
  after : List HeldBy := []
  deriving DecidableEq, Repr

/-- A cuff and its queue (Tables 8.1, 8.10). -/
structure Queue where
  en     : Bool := false
  pri    : Nat := 0
  age    : Nat := 16
  xoff   : Nat := 192
  xon    : Nat := 64
  qegb   : Word := 0
  qegn   : Nat := 0
  qwdt   : Nat := 0
  qwdc   : Nat := 0
  eseq   : BitVec 32 := 0
  next   : BitVec 32 := 0
  qimg   : Word := 0
  toklo  : Word := 0
  on     : Bool := true
  ack    : BitVec 32 := 0xFFFFFFFF
  cdrop  : Word := 0
  fifo   : List Accepted := []
  /-- Selected configuration (0 none) and pending frame (R253). -/
  cfg    : Nat := 0
  frame  : Map Word := []
  /-- The CONFIG of a load that a freeze abandoned, served before the tokens that follow it (R286, R288). -/
  pend   : Option Accepted := none
  /-- The last token was dropped, so later drops of the run are silent (R244). -/
  dropping : Bool := false
  /-- Effective priority and age counter (R258). -/
  eff    : Nat := 0
  aged   : Nat := 0
  hold   : List Egress := []
  /-- Reserved records that wait outside a full buffer (R259). -/
  extra  : List (List Word) := []
  deriving DecidableEq, Repr

/-- Partition states (Table 9.9). -/
inductive PartState where
  | running | freezing | frozen | empty
  deriving DecidableEq, Repr

/-- Causes of a freeze (R286). -/
inductive FreezeCause where
  | token (queue : Nat) (iseq : BitVec 32)
  | form (queue : Nat)
  /-- The queues that expired, with their thresholds. -/
  | watchdog (l : List (Nat × Nat))
  deriving DecidableEq, Repr

/-- A sector of a freeze image that is to be written, with its translation (R286). -/
structure ImageSector where
  va   : Word := 0
  leaf : Word := 0
  big  : Bool := false
  v    : Nat := 0
  deriving DecidableEq, Repr

/-- A partition: its registers (Tables 2.8, 4.6, 8.9, 9.3) and its fault queue. -/
structure Partition where
  on     : Nat := 56
  off    : Nat := 48
  tksb   : Word := 0
  tksn   : Nat := 0
  clsb   : Word := 0
  clsn   : Nat := 0
  tksc   : Word := 0
  tkrc   : Word := 0
  thrc   : Word := 0
  clsc   : Word := 0
  deadc  : Word := 0
  mshw   : Nat := 0
  seed   : Word := 0
  nver   : Nat := 9
  grids  : BitVec 16 := 0
  hvcap  : Nat := 0
  ptbr   : Word := 0
  sup    : Bool := false
  fqb    : Word := 0
  fqn    : Nat := 0
  fseq   : BitVec 32 := 0
  fack   : BitVec 32 := 0xFFFFFFFF
  pstate : PartState := .empty
  fimg   : Word := 0
  /-- Freeze under way: cause and image address. -/
  freeze : Option (FreezeCause × Option Word) := none
  /-- Once step 5 of R286 has been done: the status of the freeze and whether an image was written; and a load was abandoned. -/
  frozen : Option (Nat × Bool) := none
  ldab   : Bool := false
  /-- The sectors of a freeze image that are still to be written, and whether those before them found their way. -/
  imgLeft : Option (List ImageSector × Bool) := none
  /-- Fault records waiting for a place (R280). -/
  frecs  : List (Nat × List Word) := []
  /-- Writes to RPLY that are held (R259, R286), each with the order of the SWR that made it, 0 for the window's. -/
  rply   : List (Word × Nat) := []
  handles : Map Handle := []
  /-- Requests at the regulator, by op, in arrival order (R261). -/
  regulator : List Nat := []
  /-- What replay actions of committed SWRs have re-issued, with the orders of the SWRs (R372). -/
  replays : List (Nat × List ParkedKind) := []
  deriving DecidableEq, Repr

/-! ## Memory levels (05) -/

/-- A line of the L2 or of a victim cache: presence and dirty state of its two sectors, and the C mark (R151, R152, R160). -/
structure L2Line where
  s0    : Bool := false
  s1    : Bool := false
  d0    : Bool := false
  d1    : Bool := false
  cmark : Bool := false
  /-- It was written last through a leaf of a 32 MiB page, which R161 holds as a whole. -/
  big   : Bool := false
  deriving DecidableEq, Repr

/-- A line is dirty when one of its sectors is. -/
def L2Line.dirty (x : L2Line) : Bool := x.d0 || x.d1

/-- An access held at step 1 of Table 5.2, or that came to the same sector after one (R142, R200). -/
structure Held where
  who   : HeldBy := .store 0
  spots : List Spot := []
  /-- A switch has sent it to the new copy (R200). -/
  moved : Bool := false
  deriving DecidableEq, Repr

/-- A request of another device or a pod agent that waits at its home bank, with its arrival number. -/
structure Inbound where
  n : Nat := 0
  i : Instr := .heatDecayDone
  deriving DecidableEq, Repr

/-- The state of a full/empty word that is not Full (R162). -/
inductive WordState where
  | empty | deferred
  deriving DecidableEq, Repr

/-- A read copy of a line of a remote device (Table 6.3), or one that is being filled: `got` has a bit for each of its three
pieces of at most 192 bits. -/
structure Copy where
  dev  : Nat := 0
  line : Nat := 0
  data : Nat := 0
  got  : Nat := 0
  poi  : Bool := false
  /-- The home answered with an error (R330), and the cycle in which it did. -/
  err  : Bool := false
  since : Nat := 0
  deriving DecidableEq, Repr

/-- A page under a migration lock: PMIG's op, old and new leaf (R277). -/
structure Lock where
  part : Nat := 0
  va   : Word := 0
  old  : Word := 0
  new  : Word := 0
  deriving DecidableEq, Repr

/-- A cached translation: partition, page address, leaf (R274). -/
structure TlbEntry where
  part : Nat := 0
  va   : Word := 0
  big  : Bool := false
  leaf : Word := 0
  deriving DecidableEq, Repr

/-- What an access is for, as translation and the aperture rules tell uses apart (R155, R156, R272): `sync` is a full/empty form
that reads and writes, `empty` STE, `full` a transfer write with FULL. -/
inductive Use where
  | read | write | atomic | sync | empty | full | fetch
  deriving DecidableEq, Repr

/-- A matched set whose access waits for a page walk: the address that missed, its element's width, the width of the part that missed, and
the use. -/
structure Waiter where
  e     : Entry := {}
  va    : Word := 0
  width : Nat := 0
  part  : Nat := 0
  use   : Use := .read
  /-- The parts of its record by address and width, and the leaves that walks have read for it. -/
  parts  : List (Word × Nat) := []
  leaves : List TlbEntry := []
  deriving DecidableEq, Repr

/-- A page walk and what it serves (R274). -/
structure Walk where
  part    : Nat := 0
  va      : Word := 0
  waiting : List Waiter := []
  deriving DecidableEq, Repr

/-- What a request to a remote device is made for (R330). -/
inductive RemoteFor where
  /-- A piece of a load or an atomic that waits as an op. -/
  | load (op piece : Nat)
  | atomic (op : Nat)
  /-- A part of a committed store. -/
  | store (sid : Nat)
  /-- A write of a transfer. -/
  | xfer (tid : Nat)
  /-- A piece of a read copy. -/
  | copy (line piece : Nat)
  /-- A part of a freeze image. -/
  | image (part : Nat)
  deriving DecidableEq, Repr

/-- An outstanding request to a remote device (R330), with the bits that the thread's own earlier stores give (R184). -/
structure Remote where
  dst   : Nat := 0
  what  : RemoteFor := .load 0 0
  addr  : Nat := 0
  len   : Nat := 0
  mask  : Nat := 0
  given : Nat := 0
  /-- For a write of a transfer, a collective or a migration: the virtual address, and its unit or element (Table 9.6). -/
  va    : Word := 0
  unit  : Nat := 0
  sys   : Bool := false
  sent  : Nat := 0
  deriving DecidableEq, Repr

/-! ## Reliability, Helup, CXL and the management controller (10, 11) -/

/-- A delta queued or unacknowledged (R293, R294). -/
structure Delta where
  rank   : Nat := 0
  sector : Nat := 0
  dseq   : BitVec 32 := 0
  poison : Bool := false
  delta  : Sector := 0
  /-- The store it covers, for R192: its activation and LSID, its colour's key and serial, and its number. -/
  part   : Nat := 0
  act    : Nat := 0
  lsid   : Nat := 0
  colour : Nat := 0
  serial : Nat := 0
  sid    : Nat := 0
  /-- Discarded because its holder was lost; it counts no more but for the fences that await it (R192, R296). -/
  lost   : Bool := false
  sent   : Nat := 0
  deriving DecidableEq, Repr

/-- What a PREF asks for: its partition and quad, its address, and whether its scope is SYS (R409). -/
structure Prefetch where
  part : Nat := 0
  quad : Nat := 0
  va   : Word := 0
  sys  : Bool := false
  deriving DecidableEq, Repr

/-- A request that waits at the directory for an owner (R313, R323). -/
structure DirLine where
  owner   : Option Nat := none
  sharers : List Nat := []
  /-- Requests waiting for the owner's reply to a snoop, this device's forms among them, and when it was first sent. -/
  waiting : List PodRequest := []
  forms   : List Entry := []
  asked   : Option Nat := none
  /-- PREFs that wait for the same reply (R409). -/
  prefs   : List Prefetch := []
  deriving DecidableEq, Repr

/-- A Helup port (R325, R326). -/
structure HelupPort where
  up     : Bool := false
  /-- It has left service (R326). -/
  out    : Bool := false
  sent   : BitVec 12 := 0
  acked  : BitVec 12 := 0
  rx     : BitVec 12 := 0
  /-- Flits sent and not acknowledged, with the times each was resent. -/
  buf    : List (Flit × Nat) := []
  deriving DecidableEq, Repr

/-- A message that leaves the device: over Helup, CXL, or MCTP. -/
inductive OutMsg where
  | coll (port dst : Nat) (m : CollMsg)
  | flit (port : Nat) (f : Flit)
  /-- A reply over CXL to a pod request: the agent, line, error, and data with their poison. -/
  | pod (agent line : Nat) (error poi : Bool) (data : BitVec 512)
  /-- A back-invalidate snoop to an owner. -/
  | snoop (agent line : Nat)
  /-- A far atomic of this device to the home of a pod line (R195). -/
  | podAtomic (line : Nat) (m : PodAtomic)
  /-- This device's answer to a snoop. -/
  | snoopAnswer (line : Nat) (dirty : Option (BitVec 512))
  /-- An attestation report of 340 bytes (R339). -/
  | report (bytes : List Byte)
  /-- The answer to a firmware bundle (R338). -/
  | firmware (accepted : Bool)
  /-- The completion of a host's access to BAR0: the value of a read, or an Unsupported Request (R321). -/
  | bar (ofs : Nat) (v : Option Word)
  deriving DecidableEq, Repr

/-- A CXL port (R320). -/
structure CxlPort where
  up    : Bool := false
  width : Nat := 0
  gts   : Nat := 0
  deriving DecidableEq, Repr

/-- Device-wide registers (Tables 5.10, 10.9, 11.4) that are not held elsewhere. -/
structure Regs where
  badn   : Map Word := []
  badi   : Map Word := []
  badx   : Word := 0
  badc   : Word := 0
  heatk  : Nat := 6
  heatb  : Word := 0
  heatRun : Bool := false
  heats  : Word := 0
  cmbas  : Word := 0
  cmraw  : Word := 0
  cmmcm  : Word := 0
  cmovf  : Word := 0
  cmpsn  : Word := 0
  dfrb   : Word := 0
  dfrn   : Nat := 0
  ecsel  : BitVec 14 := 0
  gen    : Bool := false
  rank   : Nat := 0
  gmem   : Map Word := []
  gpb    : Word := 0
  gpn    : Nat := 0
  gstate : Nat := 0
  drained : Bool := false
  rberr  : Bool := false
  glto   : Nat := 50000
  gdlt   : Word := 0
  gpps   : Word := 0
  plog   : BitVec 18 := 0
  tptc   : Word := 0
  tplc   : Word := 0
  lmis   : Word := 0
  lmlc   : Word := 0
  ownto  : Nat := 2000
  olb    : Word := 0
  oln    : Nat := 0
  olnext : BitVec 32 := 0
  olack  : BitVec 32 := 0xFFFFFFFF
  devn   : BitVec 22 := 0
  dfeat  : Word := 0x3F
  dmask  : Word := 0
  dboot  : Word := 0
  cxwb   : Word := 0
  cxws   : Nat := 0
  hxen   : Bool := false
  hxto   : Nat := 10000
  hxpart : Nat := 0
  hxwb   : Nat := 0
  hxwn   : Nat := 0
  hrtb   : Word := 0
  hlrt   : Word := 0
  hldr   : Word := 0
  deriving DecidableEq, Repr

/-- The management controller (R174, R320, R338, R340). Its list of bad bits (R25) is the bad-unit registers themselves, which device
reset keeps. -/
structure Mc where
  /-- Live per-bank counts of the stacks, as ECNT holds them, and the mirror that ECNT reads. -/
  counts  : Map (Nat × Nat) := []
  mirror  : Map (Nat × Nat) := []
  /-- Logged partner offers of CXL ports. -/
  log     : List (Nat × CxlOffer) := []
  powered : Bool := true
  /-- Arithmetic clock in MHz. -/
  clock   : Nat := 1600
  svn     : BitVec 32 := 0
  /-- Digest of the running firmware, once a bundle has been accepted. -/
  running : Option (BitVec 512) := none
  deriving DecidableEq, Repr

/-- The next move that the arbiters or the outside world make: issue the head eligible record of an EN, or a device event. -/
inductive Move where
  | issue (en : Nat)
  | event (i : Instr)
  deriving DecidableEq, Repr

/-- A CONFIG, UNLOAD or START that is being served or waits (R250, R252, R256). -/
structure Loading where
  cuff : Nat := 0
  part : Nat := 0
  /-- Step 1 of the load is done: SEED and NVER have been written (R250). -/
  seeded : Bool := false
  deriving DecidableEq, Repr

/-- MODEL: what a freeze image holds of a partition (R287), kept by the number that the image carries (log 19). -/
structure Snapshot where
  num      : Nat := 0
  grids    : List Nat := []
  ids      : Nat := 0
  part     : Partition := {}
  queues   : Map Queue := []
  sleeves  : Map Sleeve := []
  cfgs     : Map Configuration := []
  colours  : Map Colour := []
  acts     : Map Act := []
  threads  : List Thread := []
  loops    : Map Loop := []
  net      : List NetToken := []
  far      : List FarToken := []
  unsorted : List NetToken := []
  entries  : List Entry := []
  spilled  : List Spilled := []
  ops      : Map Op := []
  stores   : Map Store := []
  parked   : List Parked := []
  records  : List Outstanding := []
  retries  : List Colour := []
  islands  : Map Island := []
  flights  : List HemFlight := []
  hemOps   : Map HemOp := []
  xfers    : Map Xfer := []
  colls    : Map Coll := []
  deriving DecidableEq, Repr

end Sys2Proof.Machine

/-- What an image that another device wrote holds in the sections whose layouts are not architected, by the type, sleeve index and words of its
sections; none for an image that is invalid (R287, R288). Log 19. -/
opaque Sys2Proof.Config.foreignWork : List (Nat × Nat × List Sys2Proof.Word) → Option Sys2Proof.Machine.Snapshot

namespace Sys2Proof.Machine

/-- The machine. -/
structure State where
  /-- MODEL: which agents move next; empty leaves it to `autoMove` (log 2). -/
  agenda  : List Move := []
  /-- MODEL: candidates for the default order of moves, the longest unserved first (log 2). -/
  turns   : List Move := []
  /-- MODEL: selects free values (log 3). -/
  free    : Nat := 0
  /-- MODEL: next identifier (log 4). -/
  ids     : Nat := 1
  cycle   : Nat := 0
  cur     : Firing := {}
  parts   : Map Partition := []
  queues  : Map Queue := []
  sleeves : Map Sleeve := []
  cfgs    : Map Configuration := []
  /-- By 65536 * partition + number. -/
  colours : Map Colour := []
  acts    : Map Act := []
  threads : List Thread := []
  loops   : Map Loop := []
  net     : List NetToken := []
  far     : List FarToken := []
  /-- Far tokens for port C of a block whose image is not known on its sleeve: until it is, nothing tells a mode token from another, and they
  take no entry (R122, log 53). -/
  unsorted : List NetToken := []
  entries : List Entry := []
  spilled : List Spilled := []
  /-- Quads that are Throttled (R73). -/
  throttled : List Nat := []
  ops     : Map Op := []
  stores  : Map Store := []
  parked  : List Parked := []
  records : List Outstanding := []
  /-- Retried children that wait for a number and a place (R312): the colour that was killed. -/
  retries : List Colour := []
  /-- Images that a sleeve's predictor has read ahead, the oldest first; they lie in the cache of its first quad (R11, R104). -/
  prefetched : List (Nat × Word × Image) := []
  islands : Map Island := []
  flights : List HemFlight := []
  hemOps  : Map HemOp := []
  xfers   : Map Xfer := []
  colls   : Map Coll := []
  /-- Collectives of each group that this device has begun to count, and messages for those that have not begun here. -/
  collSeq : List (List Nat × Nat) := []
  /-- Collectives accepted under each group slot of a partition, by 512 * partition + slot (log 54). -/
  slotSeq : Map Nat := []
  collBox : List (Nat × CollMsg) := []
  mem     : List Host.Cell := []
  podMem  : List Host.Cell := []
  poison  : List Nat := []
  podPoison : List Nat := []
  fe      : Map WordState := []
  /-- Deferral entries in use (R164), by index: the firing of the LDI that each holds. -/
  dfr     : Map Firing := []
  l2      : Map L2Line := []
  /-- The stacks' victim caches, exclusive of the L2 (R152). -/
  victim  : Map L2Line := []
  misses  : Map Nat := []
  /-- Metadata lines that the stack controllers' caches hold, as 8 * line + stack (R158). -/
  mdLines : List Nat := []
  /-- The form in which HBM stores a block that is not raw, by linear unit: a code 0x1 to 0x8 of Table 5.8. -/
  packed  : Map Nat := []
  /-- Pinned compact blocks, by 256-byte unit of the compact space, and overflow-held compact pages: a 64 KiB page by its number in the
  compact space, a 32 MiB page by 2^40 + that number / 512 (R161). -/
  pinned  : List Nat := []
  overflow : List Nat := []
  locks   : List Lock := []
  /-- Accesses held at step 1 of Table 5.2, in order of arrival (R142, R200, R294). -/
  waits   : List Held := []
  /-- Matched sets whose access is held at step 1 of Table 5.2; they issue again when that may have changed. -/
  stalled : List Entry := []
  tlbQuad : Map (List TlbEntry) := []
  tlbGrid : Map (List TlbEntry) := []
  tlbColl : List TlbEntry := []
  walks   : Map Walk := []
  remotes : Map Remote := []
  copies  : List Copy := []
  dir     : Map DirLine := []
  ownerLost : List Nat := []
  /-- Pod lines, by host physical address / 64, whose home has answered with an error (R313, R314). -/
  podLost : List Nat := []
  olrecs  : List (Nat × List Word) := []
  /-- Deltas sent and not acknowledged, by rank in DSEQ order; next DSEQ to and expected from each rank. -/
  deltas  : List Delta := []
  dseqTo  : Map (BitVec 32) := []
  dseqFrom : Map (BitVec 32) := []
  /-- Deltas that arrived beyond a gap (R294). -/
  early   : List Delta := []
  /-- Progress of a REBUILD: members that answered, unit sectors received, next sector (R298). -/
  rebuilt : Nat := 0
  rbHeld  : List Nat := []
  rbGot   : List (Nat × Nat × Sector × Bool) := []
  /-- By lost rank: the sectors that the device which takes it has rebuilt, as its requests tell (R297). -/
  rbTo    : Map Nat := []
  helup   : Map HelupPort := []
  cxl     : Map CxlPort := []
  out     : List OutMsg := []
  /-- Requests of other devices and pod agents that wait at their home bank, in arrival order (R142, R200, R313). -/
  inbound : List Inbound := []
  regs    : Regs := {}
  mc      : Mc := {}
  loading : List Loading := []
  /-- MODEL: the copies of the freeze images that have been written (log 19). -/
  snaps   : Map Snapshot := []
  /-- Round-robin position of each die's loader: the cuff it served last (R258). -/
  lastServed : Map Nat := []
  deriving DecidableEq, Repr

/-- Why the machine stops. The LX9 reports its faults in records and goes on; only a device without power stops. -/
inductive Fault where
  /-- Raised by `step` when the device has no power and the next move is no device reset (R332, R340). Safe: the device does
  nothing then. -/
  | noPower
  deriving DecidableEq, Repr

/-- Why an instruction has no meaning. -/
inductive Refusal where
  /-- Raised by `exec` for an instruction that has no meaning yet: none has been left so. Safe. -/
  | notModelled (mnemonic : String)
  /-- Raised by `step` when the head record of an EN does not decode. Unreachable from a verified image (R101). Safe. -/
  | undecoded
  deriving DecidableEq, Repr

/-- The machine right after device reset: every register at the value its table states (see INVENTORY.md), every
collection empty. DBOOT counts this reset as 0 (log 8). -/
def State.reset : State := {}

end Sys2Proof.Machine
end

