-- ==== Sys2Proof/Machine/Memory.lean ====
section
/-! DEFINITION. Sparse tables, and the bytes of device memory, pod memory and scratchpads: apertures (R153, R154), bits at a
bit address (R3, R136), poison (R159) and the metadata nibbles (R157, R158). -/

namespace Sys2Proof.Machine

open Sys2Proof

/-! ## Sparse tables -/

/-- The entry of a key. -/
def lookup {α : Type} : Map α → Nat → Option α
  | [], _ => none
  | (k, v) :: m, x => if k = x then some v else lookup m x

/-- The entry of a key, or a default. -/
def lookupD {α : Type} (m : Map α) (x : Nat) (d : α) : α := (lookup m x).getD d

/-- Put an entry, keeping keys rising. -/
def insertAt {α : Type} : Map α → Nat → α → Map α
  | [], x, v => [(x, v)]
  | (k, u) :: m, x, v => if x < k then (x, v) :: (k, u) :: m else if x = k then (x, v) :: m else (k, u) :: insertAt m x v

/-- Remove an entry. -/
def eraseAt {α : Type} (m : Map α) (x : Nat) : Map α := m.filter fun e => e.1 != x

/-- Put a number in a rising list of numbers. -/
def insertNat : List Nat → Nat → List Nat
  | [], x => [x]
  | k :: l, x => if x < k then x :: k :: l else if x = k then k :: l else k :: insertNat l x

/-! ## Bytes (canonical cell lists: addresses rising, no zero byte listed) -/

/-- What an unlisted byte reads as: zero (log 6, DESIGN CHOICE: the spec gives HBM no reset contents). -/
def unlisted : Byte := 0

/-- A byte of a cell list. -/
def cellRead : List Host.Cell → Nat → Byte
  | [], _ => unlisted
  | (k, v) :: m, x => if k = x then v else cellRead m x

/-- Write a byte, keeping the canonical form: what an unlisted byte reads as is not listed. -/
def cellWrite (m : List Host.Cell) (x : Nat) (v : Byte) : List Host.Cell :=
  if v = unlisted then m.filter fun c => c.1 != x else insertAt m x v

/-- Whether a list of cells from an address on is in canonical form. -/
def cellsFrom : Nat → List Host.Cell → Bool
  | _, [] => true
  | lo, (k, v) :: m => decide (lo ≤ k) && v != unlisted && cellsFrom (k + 1) m

/-- The canonical form of a memory: addresses strictly rising and no entry equal to what an unlisted address reads as. -/
abbrev memWf (m : List Host.Cell) : Prop := cellsFrom 0 m = true

/-! ## Bits of bytes -/

/-- The number that bytes `b`, `b + 1`, … (`n` of them) make under a reader of bytes. -/
def gatherBytes (rd : Nat → Byte) (b : Nat) : Nat → Nat
  | 0 => 0
  | n + 1 => (rd b).toNat + 256 * gatherBytes rd (b + 1) n

/-- Bits [a + w - 1 : a] under a reader of bytes (R3). -/
def gatherBits (rd : Nat → Byte) (a w : Nat) : Nat :=
  gatherBytes rd (a / 8) ((a % 8 + w + 7) / 8) / 2 ^ (a % 8) % 2 ^ w

/-- The bytes that a write of bits [a + w - 1 : a] changes: (byte address, new byte), bits outside kept (R141). -/
def spreadBits (rd : Nat → Byte) (a w v : Nat) : List (Nat × Byte) :=
  let b := a / 8
  let sh := a % 8
  let n := (sh + w + 7) / 8
  let old := gatherBytes rd b n
  let new := old % 2 ^ sh + (v % 2 ^ w) * 2 ^ sh + old / 2 ^ (sh + w) * 2 ^ (sh + w)
  (List.range n).map fun i => (b + i, BitVec.ofNat 8 (new / 256 ^ i))

/-- Write a list of bytes. -/
def writeBytes (m : List Host.Cell) (l : List (Nat × Byte)) : List Host.Cell := l.foldl (fun m x => cellWrite m x.1 x.2) m

/-! ## Canonical DRAM addresses (R153, R154) -/

/-- Bytes of device memory: 480 GiB. -/
def deviceBytes : Nat := 480 * 2 ^ 30

/-- UnitToCda (R154). -/
def unitToCda (stk pc v b : Nat) : Nat :=
  let bank := v % 16
  let w := v / 16
  stk * 2 ^ 37 + pc * 2 ^ 30 + bank * 2 ^ 26 + w / 4 * 2 ^ 10 + w % 4 * 2 ^ 8 + b

/-- LinearToCda (R154). -/
def linearToCda (o : Nat) : Nat :=
  let u := o / 256
  let c := u % 768
  unitToCda (c % 8) (c / 8) (u / 768) (o % 256)

/-- TiledToCda (R154). -/
def tiledToCda (o : Nat) : Nat :=
  let f := o / 2 ^ 14
  let k := o / 256 % 64
  let g := f % 96
  unitToCda (g % 8) (8 * (g / 8) + k % 8) (8 * (f / 96) + k / 8) (o % 256)

/-- Whether a canonical address names memory (Table 5.6). -/
def cdaExists (c : Nat) : Bool := decide (c < 2 ^ 40) && decide (bits c 30 7 < 96) && decide (bits c 10 16 < 40960)

/-- Whether an aperture byte offset names memory (R154): 0 linear, 1 tiled, 2 bank-private; 3 is the contents of compact pages,
64 KiB at PPN × 65,536 for a page backed at PPN × 32,768 of the linear aperture (R161, log 13). -/
def apertureExists (apr o : Nat) : Bool := if apr = 2 then cdaExists o else decide (o < if apr = 3 then 2 * deviceBytes else deviceBytes)

/-- The canonical address of an aperture byte offset; the contents of compact pages have addresses of their own, past those of
Table 5.6 (log 13). -/
def cdaOf (apr o : Nat) : Nat := if apr = 0 then linearToCda o else if apr = 1 then tiledToCda o else if apr = 2 then o else 2 ^ 40 + o

/-- The linear byte offset of a canonical address: the inverse of LinearToCda on addresses that name memory. -/
def cdaToLinear (c : Nat) : Nat :=
  let stk := bits c 37 3
  let pc := bits c 30 7
  let v := (bits c 10 16 * 4 + bits c 8 2) * 16 + bits c 26 4
  (v * 768 + pc * 8 + stk) * 256 + c % 256

/-- Lines, by number: device memory by canonical address / 64 (the contents of compact pages from 2^34 on), pod memory by host physical
address / 64 from 2^45 on, and remote memory by device and address from 2^50 on (R151). -/
def podLine0 : Nat := 2 ^ 45
@[inherit_doc podLine0] def compactLine0 : Nat := 2 ^ 34
@[inherit_doc podLine0] def remoteLine (dst a : Nat) : Nat := 2 ^ 50 + dst * 2 ^ 40 + a / 512
/-- The stack of a 256-byte unit of the compact space: that of its backing (R161). -/
def compactStack (u : Nat) : Nat := u / 2 % 768 % 8
/-- The stack that a line of device memory lies on (R152, Table 5.6). -/
def stackOfLine (line : Nat) : Nat := if line < compactLine0 then line / 2 ^ 31 else compactStack ((line - compactLine0) / 4)

/-! ## Device memory and pod memory -/

/-- A byte of device memory by aperture. -/
def devByte (s : State) (apr o : Nat) : Byte := cellRead s.mem (cdaOf apr o)

/-- Bits of device memory at a bit address of an aperture. -/
def readDev (s : State) (apr a w : Nat) : Nat := gatherBits (devByte s apr) a w

/-- Write bits of device memory at a bit address of an aperture. -/
def writeDev (s : State) (apr a w v : Nat) : State :=
  { s with mem := writeBytes s.mem ((spreadBits (devByte s apr) a w v).map fun x => (cdaOf apr x.1, x.2)) }

/-- Bits of pod memory at a host physical bit address. -/
def readPod (s : State) (a w : Nat) : Nat := gatherBits (cellRead s.podMem) a w

/-- Write bits of pod memory. -/
def writePod (s : State) (a w v : Nat) : State :=
  { s with podMem := writeBytes s.podMem (spreadBits (cellRead s.podMem) a w v) }

/-- Bits at the bit address of an area register (QEGB, FQB, OLB, DFRB, TKSB, CLSB, HEATB, HRTB, FIMG): the linear aperture,
and host physical memory from 480 GiB on (log 10, DESIGN CHOICE). -/
def readArea (s : State) (a w : Nat) : Nat := if a < 8 * deviceBytes then readDev s 0 a w else readPod s a w
@[inherit_doc readArea] def writeArea (s : State) (a w v : Nat) : State :=
  if a < 8 * deviceBytes then writeDev s 0 a w v else writePod s a w v

/-- Put words in ascending order at an area's bit address. -/
def putAreaWords (s : State) (a : Nat) : List Word → State
  | [] => s
  | w :: ws => putAreaWords (writeArea s a 64 w.toNat) (a + 64) ws

/-- Put a record: words 1 and up first, word 0 last (R259, R280). -/
def putRecord (s : State) (a : Nat) : List Word → State
  | [] => s
  | w :: ws => writeArea (putAreaWords s (a + 64) ws) a 64 w.toNat

/-! ## Poison (R159) -/

/-- Mark or clear the poison of a sector of device memory, by canonical address / 32. -/
def setPoison (s : State) (sector : Nat) (on : Bool) : State :=
  { s with poison := if on then insertNat s.poison sector else s.poison.filter (· != sector) }

/-- Mark or clear the poison of a sector of pod memory, by host physical byte address / 32. -/
def setPodPoison (s : State) (sector : Nat) (on : Bool) : State :=
  { s with podPoison := if on then insertNat s.podPoison sector else s.podPoison.filter (· != sector) }

/-! ## Scratchpads (R147) -/

/-- Bits of a sleeve's scratchpads at a scratchpad address. -/
def readScratch (v : Sleeve) (a w : Nat) : Nat := gatherBits (cellRead v.scratch) a w
/-- Write bits of a sleeve's scratchpads. -/
def writeScratch (v : Sleeve) (a w x : Nat) : Sleeve :=
  { v with scratch := writeBytes v.scratch (spreadBits (cellRead v.scratch) a w x) }

end Sys2Proof.Machine
end

