-- ==== Sys2Proof/Machine/Base.lean ====
section
/-! DEFINITION. Accessors of the state and the update of one of its entries, free choices, tags, and the count of tokens discarded. -/

namespace Sys2Proof.Machine

open Sys2Proof

/-! ## Accessors -/

def partOf (s : State) (p : Nat) : Partition := lookupD s.parts p {}
def queueOf (s : State) (q : Nat) : Queue := lookupD s.queues q {}
def sleeveOf (s : State) (v : Nat) : Sleeve := lookupD s.sleeves v {}
def cfgOf (s : State) (c : Nat) : Configuration := lookupD s.cfgs c {}
def colourOf (s : State) (k : Nat) : Colour := lookupD s.colours k {}
/-- An activation; one that is no longer listed, because its colour is Free, had ended. -/
def actOf (s : State) (a : Nat) : Act := lookupD s.acts a { st := .committed }
def loopOf (s : State) (l : Nat) : Loop := lookupD s.loops l {}
def islandOf (s : State) (i : Nat) : Island := lookupD s.islands i {}

def updPart (s : State) (p : Nat) (f : Partition → Partition) : State := { s with parts := insertAt s.parts p (f (partOf s p)) }
def updQueue (s : State) (q : Nat) (f : Queue → Queue) : State := { s with queues := insertAt s.queues q (f (queueOf s q)) }
def updSleeve (s : State) (v : Nat) (f : Sleeve → Sleeve) : State :=
  match lookup s.sleeves v with | some x => { s with sleeves := insertAt s.sleeves v (f x) } | none => s
def updCfg (s : State) (c : Nat) (f : Configuration → Configuration) : State :=
  match lookup s.cfgs c with | some x => { s with cfgs := insertAt s.cfgs c (f x) } | none => s
def updColour (s : State) (k : Nat) (f : Colour → Colour) : State :=
  match lookup s.colours k with | some x => { s with colours := insertAt s.colours k (f x) } | none => s
def updAct (s : State) (a : Nat) (f : Act → Act) : State :=
  match lookup s.acts a with | some x => { s with acts := insertAt s.acts a (f x) } | none => s
def updLoop (s : State) (l : Nat) (f : Loop → Loop) : State :=
  match lookup s.loops l with | some x => { s with loops := insertAt s.loops l (f x) } | none => s
def updIsland (s : State) (i : Nat) (f : Island → Island) : State := { s with islands := insertAt s.islands i (f (islandOf s i)) }
def updRegs (s : State) (f : Regs → Regs) : State := { s with regs := f s.regs }
def updMc (s : State) (f : Mc → Mc) : State := { s with mc := f s.mc }

/-- The next identifier, and the state that has used it (log 4). -/
def fresh (s : State) : Nat × State := (s.ids, { s with ids := s.ids + 1 })

/-- A free choice below `n`, and the state that has used it (log 3). -/
def choose (s : State) (n : Nat) : Nat × State := (Config.pick s.free % n, { s with free := s.free + 1 })

/-- A free word (log 3). -/
def freeWord (s : State) : Word × State := (Config.word s.free, { s with free := s.free + 1 })

/-- Rotate a list so that the element at `i` comes first: the model's free order of trying places. -/
def rotate {α : Type} (l : List α) (i : Nat) : List α := l.drop (i % max l.length 1) ++ l.take (i % max l.length 1)

/-- The key of a colour number of a partition. -/
def colourKey (p n : Nat) : Nat := 65536 * p + n
/-- The colour number of a tag (Table 2.2). -/
def tagColour (t : Word) : Nat := (t.extractLsb' 48 16).toNat
/-- The depth of a tag (Table 2.2). -/
def tagDepth (t : Word) : Nat := (t.extractLsb' 40 3).toNat
/-- The colour of a tag within a partition is live: from its allocation to the end of its colour (R37, R41); colour 0 never is. -/
def live (s : State) (k : Nat) : Bool := k % 65536 != 0 && match lookup s.colours k with | some c => c.st != .free | none => false

def actLive (a : Act) : Bool :=
  match a.st with
  | .held | .predicted | .running | .parked | .complete => true
  | .committed | .squashed | .killed | .faulted => false

/-- The thread of a tag in a partition. -/
def threadOf (s : State) (p : Nat) (t : Word) : Thread :=
  (s.threads.find? fun h => h.part == p && h.tag == t && !h.ended).getD { part := p, tag := t }
/-- The last thread of a tag, whether or not it has ended. -/
def threadAny (s : State) (p : Nat) (t : Word) : Thread :=
  (s.threads.find? fun h => h.part == p && h.tag == t).getD { part := p, tag := t }
/-- Replace or add a thread. -/
def putThread (s : State) (h : Thread) : State :=
  { s with threads := h :: s.threads.filter fun g => !(g.part == h.part && g.tag == h.tag) }
def updThread (s : State) (p : Nat) (t : Word) (f : Thread → Thread) : State := putThread s (f (threadOf s p t))

/-- Count tokens discarded or purged (DEADC, Table 2.8). -/
def dead (s : State) (p n : Nat) : State := updPart s p fun x => { x with deadc := x.deadc + BitVec.ofNat 64 n }

end Sys2Proof.Machine
end

