-- ==== Sys2Proof/Machine/Level.lean ====
section
/-! DEFINITION. Places in memory, the L2 (R151, R152), its misses and page heat (R171, R172), the compression state of a block (R157, R158),
the fill of a sector, values and poison at the bank (R159), and the device's own accesses to its areas. -/

namespace Sys2Proof.Machine

open Sys2Proof

/-! ## Places -/

/-- Where an address lies: a bit address of an aperture of device memory, of host physical memory, of another device's linear
aperture, or a byte offset of this device's register space. -/
inductive Loc where
  | dev (apr a : Nat)
  | pod (a : Nat)
  | remote (dst a : Nat)
  | reg (ofs : Nat)
  deriving DecidableEq, Repr

/-- First byte of the CXL memory window (R322). -/
def windowBase (s : State) : Nat := bits s.regs.cxwb.toNat 16 32 * 65536
/-- The memory that a place lies in and its bit address there, the same for every alias: device memory by canonical address, pod
memory, the register space, scratchpads (2), and the memory of each other device. -/
def placeOf : Loc → Nat × Nat
  | .dev apr a => (0, 8 * cdaOf apr (a / 8) + a % 8)
  | .pod a => (1, a)
  | .reg o => (3, 8 * o)
  | .remote d a => (4 + d, a)

/-! ## The L2 (R151, R171, R172) -/

/-- The tag of the line of a place, its heat region and page (a page past the table's entries where the table has none, R172); none for
device registers. -/
def lineOf (s : State) : Loc → Option (Nat × Nat × Nat)
  | .dev apr a => some (cdaOf apr (a / 8) / 64, if apr = 3 then 0 else apr, if apr = 3 then a / 8 / 131072 else a / 8 / 65536)
  | .pod a => some (podLine0 + a / 512, 3, (a / 8 - windowBase s) / 65536)
  | .remote d a => some (remoteLine d a, 3, 2 ^ 24)
  | .reg _ => none

/-- The bank of a line (R9, R151): one of the 512 of the die of its stack; one of either die for pod and remote lines (log 9). -/
def bankOf (line : Nat) : Nat :=
  if line < podLine0 then stackOfLine line / 4 * 512 + Config.homeBank line % 512 else Config.homeBank line % 1024

/-- A counted miss (R171, R172). -/
def countMiss (s : State) (line region page : Nat) : State :=
  let b := bankOf line
  let n := lookupD s.misses b 0
  let s := { s with misses := insertAt s.misses b (n + 1) }
  let r := s.regs
  if r.heatb.getLsbD 0 ∧ n % 2 ^ r.heatk = 0 ∧ page < 2 ^ 24 then
    let a := bits r.heatb.toNat 30 30 * 2 ^ 30 + 16 * (2 ^ 24 * region + page)
    updRegs (writeArea s a 16 (Nat.min 0xFFFF (readArea s a 16 + 1))) fun r => { r with heats := r.heats + 1 }
  else s

/-! ## Compression state (R157 to R159) -/

/-- Bit address of the state of a block in the metadata region. -/
def metaAddr (s : State) (u : Nat) : Nat := bits s.regs.cmbas.toNat 33 27 * 2 ^ 33 + 4 * u
def blockState (s : State) (u : Nat) : Nat := readDev s 0 (metaAddr s u) 4
def setBlockState (s : State) (u c : Nat) : State := writeDev s 0 (metaAddr s u) 4 c
/-- A linear unit lies in the metadata region itself, whose blocks are never compressed (R158). -/
def inMetadata (s : State) (u : Nat) : Bool :=
  let lo := bits s.regs.cmbas.toNat 33 27 * 2 ^ 30
  decide (lo ≤ 256 * u) && decide (256 * u < lo + 960 * 2 ^ 20)
/-- The canonical sectors of a linear unit. -/
def unitSectors (u : Nat) : List Nat := (List.range 8).map fun k => linearToCda (256 * u + 32 * k) / 32
/-- The L2 or a victim cache holds a sector of device memory. -/
def sectorCached (s : State) (sec : Nat) : Bool :=
  let has (m : Map L2Line) : Bool := let x := lookupD m (sec / 2) {}; if sec % 2 = 1 then x.s1 else x.s0
  has s.l2 || has s.victim
/-- Record the form in which HBM stores a block (Table 5.8). -/
def setPacked (s : State) (u c : Nat) : State := { s with packed := if c = 0 then eraseAt s.packed u else insertAt s.packed u c }
/-- Poison the sectors of a list of canonical sector numbers. -/
def poisonSectors (s : State) (l : List Nat) : State := l.foldl (fun s x => setPoison s x true) s

/-- The stack controller reads the state of a block: a metadata-cache miss is counted, and an uncorrectable metadata line sets
every block that it covers to 0x9. -/
def readMeta (s : State) (u : Nat) : State :=
  let line := metaAddr s u / 512
  let key := 8 * line + u % 768 % 8
  let s := if s.mdLines.contains key then s
    else updRegs { s with mdLines := key :: s.mdLines } fun r => { r with cmmcm := r.cmmcm + 1 }
  let sec (k : Nat) : Nat := linearToCda (64 * line + 32 * k) / 32
  if s.poison.contains (sec 0) ∨ s.poison.contains (sec 1) then
    let s := (List.range 128).foldl (fun s i => setBlockState s (u / 128 * 128 + i) 9) s
    updRegs (setPoison (setPoison s (sec 0) false) (sec 1) false) fun r => { r with cmpsn := r.cmpsn + 128 }
  else s

/-- Put free words in 256 bits of a sector. -/
def freeSector (s : State) (sec : Nat) : State :=
  (List.range 4).foldl (fun s k => let (w, s) := freeWord s; writeDev s 2 (256 * sec + 64 * k) 64 w.toNat) s
/-- Software has written a block's state itself, so that it does not say how HBM stores the block: the sectors that no cache holds read as
zeros in state 0x8, and as free words in the others (R157, R158, log 13). -/
def respell (s : State) (u c : Nat) : State :=
  if lookupD s.packed u 0 = c then s
  else
    let l := (unitSectors u).filter fun x => !sectorCached s x
    let s := if c = 8 then l.foldl (fun s x => writeDev s 2 (256 * x) 256 0) s else l.foldl freeSector s
    setPacked s u c

/-- The blocks whose state in the metadata region is not 0x0, with their states. -/
def statedBlocks (s : State) : List (Nat × Nat) :=
  let lo := bits s.regs.cmbas.toNat 33 27 * 2 ^ 30
  (s.mem.filter fun c => decide (c.1 < 2 ^ 40) && decide (lo ≤ cdaToLinear c.1) && decide (cdaToLinear c.1 < lo + 960 * 2 ^ 20)).flatMap fun c =>
    let u := 2 * (cdaToLinear c.1 - lo)
    [(u, c.2.toNat % 16), (u + 1, c.2.toNat / 16)].filter fun x => x.2 != 0
/-- EN is cleared: the blocks in state 0x1 to 0x8 at that moment are those that fill poisoned from now on (R158); HBM no longer gives any other
block a meaning but its raw bytes. -/
def leavePacked (s : State) : State :=
  let l := (statedBlocks s).filter fun x => decide (x.2 ≤ 8) && !inMetadata s x.1
  let s := (s.packed.filter fun x => !(l.any fun y => y.1 == x.1)).foldl (fun s x => respell s x.1 0) s
  l.foldl (fun s x => respell s x.1 x.2) s

/-- A fill of a sector of device memory consults its block's state: the flag is the C mark. With compression off, a block that was in state 0x1
to 0x8 when EN was cleared fills poisoned (R158). -/
def fillState (s : State) (cda : Nat) : Bool × State :=
  if 2 ^ 40 ≤ cda then (false, s)
  else if !s.regs.cmbas.getLsbD 0 then
    (false, if s.packed.isEmpty || (lookup s.packed (cdaToLinear cda / 256)).isNone then s else setPoison s (cda / 32) true)
  else
    let u := cdaToLinear cda / 256
    let s := readMeta s u
    let c := if inMetadata s u then 0 else blockState s u
    if c ≤ 8 then (c != 0, respell s u c)
    else
      let s := setPoison s (cda / 32) true
      (false, if c = 9 then s else updRegs (setBlockState s u 9) fun r => { r with cmpsn := r.cmpsn + 1 })

/-- The second sector of its line. -/
def hiSector : Loc → Bool
  | .dev apr a => cdaOf apr (a / 8) / 32 % 2 == 1
  | .pod a | .remote _ a => a / 256 % 2 == 1
  | .reg _ => false
/-- A miss that hits the victim cache moves the line to the L2 (R152). -/
def fromVictim (s : State) (line : Nat) : State :=
  match lookup s.victim line with
  | some v => { s with victim := eraseAt s.victim line, l2 := insertAt s.l2 line v }
  | none => s
/-- Bring the sector of a place into the L2 (step 3 of Table 5.2); `counts` tells whether an absent one is a miss for page
heat. -/
def touch (s : State) (loc : Loc) (counts : Bool) : State :=
  match loc, lineOf s loc with
  | .remote _ _, _ | .reg _, _ | _, none => s
  | _, some (line, region, page) =>
    let hi := hiSector loc
    let has (x : L2Line) : Bool := if hi then x.s1 else x.s0
    if has (lookupD s.l2 line {}) then s
    else
      let s := fromVictim (if counts then countMiss s line region page else s) line
      let x := lookupD s.l2 line {}
      if has x then s
      else
        let (c, s) := match loc with | .dev apr a => fillState s (cdaOf apr (a / 8)) | _ => (false, s)
        { s with l2 := insertAt s.l2 line { x with s0 := x.s0 || !hi, s1 := x.s1 || hi, cmark := x.cmark || c } }

/-! ## Values at the bank -/

/-- Bits at a place; of a remote place zero (its bits travel as messages). -/
def readLoc (s : State) (loc : Loc) (w : Nat) : Nat :=
  match loc with
  | .dev apr a => readDev s apr a w
  | .pod a => readPod s a w
  | .remote _ _ | .reg _ => 0
/-- Write bits at a place, without any other effect. -/
def writeLoc (s : State) (loc : Loc) (w v : Nat) : State :=
  match loc with
  | .dev apr a => writeDev s apr a w v
  | .pod a => writePod s a w v
  | .remote _ _ | .reg _ => s
/-- The sector of a place is poisoned (R159). -/
def poisonLoc (s : State) (loc : Loc) : Bool :=
  match loc with
  | .dev apr a => s.poison.contains (cdaOf apr (a / 8) / 32)
  | .pod a => s.podPoison.contains (a / 256)
  | .remote _ _ | .reg _ => false
/-- Mark or clear the poison of the sector of a place. -/
def setPoisonLoc (s : State) (loc : Loc) (on : Bool) : State :=
  match loc with
  | .dev apr a => setPoison s (cdaOf apr (a / 8) / 32) on
  | .pod a => setPodPoison s (a / 256) on
  | .remote _ _ | .reg _ => s
/-- The linear line number of a place of device memory. -/
def dirKey : Loc → Option Nat
  | .dev apr a => if apr = 3 then none else some (cdaToLinear (cdaOf apr (a / 8)) / 64)
  | .pod _ | .remote _ _ | .reg _ => none
/-- A request to the line of a place gets an error reply: the line is owner-lost here, or at its home in the pod (R313, R314). -/
def lostLoc (s : State) (loc : Loc) : Bool :=
  match loc with
  | .pod a => s.podLost.contains (a / 512)
  | _ => match dirKey loc with | some l => s.ownerLost.contains l | none => false

/-- The sector of a place is dirty now, with the C mark of a page with the compress attribute, written through a page of 32 MiB or not. -/
def soilAt (s : State) (loc : Loc) (cmark big : Bool) : State :=
  match loc, lineOf s loc with
  | .dev _ _, some (line, _, _) | .pod _, some (line, _, _) =>
    let x := lookupD s.l2 line {}
    { s with l2 := insertAt s.l2 line { x with d0 := x.d0 || !hiSector loc, d1 := x.d1 || hiSector loc, cmark := x.cmark || cmark, big := big } }
  | _, _ => s

/-! ## The device's own areas (R171) -/

/-- Where the bit address of an area lies (log 10). -/
def areaLoc (a : Nat) : Loc := if a < 8 * deviceBytes then .dev 0 a else .pod a
/-- The places of the sectors that `n` bits at the bit address of an area lie in. -/
def areaSectors (a n : Nat) : List Loc := (List.range ((a % 256 + n + 255) / 256)).map fun k => areaLoc (a / 256 * 256 + 256 * k)
/-- The device reads `n` bits of an area of its own: their sectors come into the L2, and absent ones are misses (R171). -/
def touchArea (s : State) (a n : Nat) : State := (areaSectors a n).foldl (fun s x => touch s x true) s
/-- The device is about to write `n` bits of an area of its own: their sectors come into the L2 and are dirty. -/
def soilArea (s : State) (a n : Nat) : State := (areaSectors a n).foldl (fun s x => soilAt s x false false) (touchArea s a n)
/-- Write words in ascending order at an area's bit address. -/
def writeAreaWords (s : State) (a : Nat) (ws : List Word) : State := putAreaWords (soilArea s a (64 * ws.length)) a ws
/-- Write a record: words 1 and up first, word 0 last (R259, R280). -/
def writeRecord (s : State) (a : Nat) (ws : List Word) : State := putRecord (soilArea s a (64 * ws.length)) a ws

end Sys2Proof.Machine
end

