-- ==== Sys2Proof/Machine/Ops.lean ====
section
/-! DEFINITION. The named operations of the machine: units and coordinates (R14 to R26), tokens (R30,
R31, R46), egress records (R259, R260), taking a fault (R278 to R280), squash, kill and the end of a colour (R42, R44, R70,
R310), and disposing of a fault record (R282). -/

namespace Sys2Proof.Machine

open Sys2Proof

/-! ## Units, coordinates and sleeves (01) -/

/-- Rows and columns of a shape code (Table 1.4). -/
def shapeDims (c : Nat) : Nat × Nat :=
  match c % 8 with | 0 => (1, 2) | 1 => (2, 1) | 2 => (2, 2) | 3 => (1, 4) | 4 => (2, 4) | 5 => (4, 2) | 6 => (4, 4) | _ => (2, 8)
/-- Quads of a shape. -/
def shapeQuads (c : Nat) : Nat := (shapeDims c).1 * (shapeDims c).2
def descShape (d : BitVec 16) : Nat := (d.extractLsb' 9 3).toNat
/-- Grid index 8 * die + grid of a descriptor or coordinate. -/
def descGrid (d : BitVec 16) : Nat := (d.extractLsb' 12 4).toNat
def descRow (d : BitVec 16) : Nat := (d.extractLsb' 5 2).toNat
def descCol (d : BitVec 16) : Nat := (d.extractLsb' 2 3).toNat
/-- A descriptor (Table 1.5). -/
def mkDesc (grid shape row col : Nat) : BitVec 16 := BitVec.ofNat 16 (grid * 4096 + shape * 512 + row * 32 + col * 4)
/-- A legal descriptor (R19, Table 1.5). -/
def descLegal (d : BitVec 16) : Bool :=
  let (r, c) := shapeDims (descShape d)
  d.extractLsb' 7 2 == 0 && d.extractLsb' 0 2 == 0 && decide (descRow d % r = 0) && decide (descCol d % c = 0)
    && decide (descRow d + r ≤ 4) && decide (descCol d + c ≤ 8)
/-- Quad numbers of a sleeve in row-major order from the origin (R15, R39). -/
def descQuads (d : BitVec 16) : List Nat :=
  let (r, c) := shapeDims (descShape d)
  (List.range (r * c)).map fun i => 32 * descGrid d + 8 * (descRow d + i / c) + (descCol d + i % c)
def sleeveQuads (v : Sleeve) : List Nat := descQuads v.desc
def quadCount (v : Sleeve) : Nat := shapeQuads (descShape v.desc)
/-- The quad of port, home or scratchpad index `i` of a sleeve. -/
def sleeveQuad (v : Sleeve) (i : Nat) : Nat := (sleeveQuads v).getD i 0

/-- Whether bit `n` of a family of bad-unit registers is set (R24). -/
def badBit (m : Map Word) (n : Nat) : Bool := (lookupD m (n / 64) 0).getLsbD (n % 64)
def enBad (s : State) (e : Nat) : Bool := badBit s.regs.badn e
def islBad (s : State) (i : Nat) : Bool := badBit s.regs.badi i
def xislBad (s : State) (i : Nat) : Bool := s.regs.badx.getLsbD i
def cuffBad (s : State) (c : Nat) : Bool := s.regs.badc.getLsbD c

/-- ENs of a descriptor that BADN does not list, in order: the good slots are 16 of each (R21). -/
def goodEns (s : State) (d : BitVec 16) : List Nat :=
  ((descQuads d).flatMap fun q => [4 * q, 4 * q + 1, 4 * q + 2, 4 * q + 3]).filter fun e => !enBad s e

/-- Coordinate of an EN (R14, R15). -/
def enCoord (e : Nat) : BitVec 16 :=
  BitVec.ofNat 16 (e / 128 * 4096 + (e % 128 / 32) * 32 + (e % 32 / 4) * 4 + e % 4)
/-- Coordinate of a matrix island, of a transfer island, of a collective island (Table 1.3). -/
def islCoord (i : Nat) : BitVec 16 := BitVec.ofNat 16 (i / 32 * 4096 + 512 + i % 32)
@[inherit_doc islCoord] def xislCoord (i : Nat) : BitVec 16 := BitVec.ofNat 16 (i / 4 * 4096 + 1024 + i % 4)
@[inherit_doc islCoord] def collCoord (i : Nat) : BitVec 16 := BitVec.ofNat 16 (i / 2 * 32768 + 2048 + i % 2)
/-- Coordinate of a cuff, of an L2 bank by its number on its die, and of an HBM stack (Table 1.3). -/
def cuffCoord (c : Nat) : BitVec 16 := BitVec.ofNat 16 (c / 4 * 4096 + 1536 + c % 4)
@[inherit_doc cuffCoord] def bankCoord (die b : Nat) : BitVec 16 := BitVec.ofNat 16 (die * 32768 + 2560 + b % 512)
@[inherit_doc cuffCoord] def stackCoord (k : Nat) : BitVec 16 := BitVec.ofNat 16 (k / 4 * 32768 + 3072 + k % 4)

/-- A unit that a coordinate can name: an EN, a matrix, transfer or collective island, a cuff, an HBM stack, by its number in the device,
or an L2 bank of a die (Table 1.3). -/
inductive UnitName where
  | en (n : Nat) | island (n : Nat) | xisl (n : Nat) | cuff (n : Nat) | coll (n : Nat) | bank (die n : Nat) | stack (n : Nat)
  deriving DecidableEq, Repr

/-- The unit that a coordinate names (R14); none for a reserved class or a reserved field that is not zero. -/
def unitNamed (c : BitVec 16) : Option UnitName :=
  let grid := descGrid c
  let idx := (c.extractLsb' 0 9).toNat
  match (c.extractLsb' 9 3).toNat with
  | 0 => if idx < 128 then some (.en (128 * grid + idx)) else none
  | 1 => if idx < 32 then some (.island (32 * grid + idx)) else none
  | 2 => if idx < 4 then some (.xisl (4 * grid + idx)) else none
  | 3 => if idx < 4 then some (.cuff (4 * grid + idx)) else none
  | 4 => if grid % 8 = 0 ∧ idx < 2 then some (.coll (2 * (grid / 8) + idx)) else none
  | 5 => if grid % 8 = 0 then some (.bank (grid / 8) idx) else none
  | 6 => if grid % 8 = 0 ∧ idx < 4 then some (.stack (4 * (grid / 8) + idx)) else none
  | _ => none

/-- The partition that a grid index belongs to (R27, PGRD). -/
def partOfGrid (s : State) (g : Nat) : Option Nat := (List.range 16).find? fun p => (partOf s p).grids.getLsbD g
/-- The partition of a cuff (R242, R257). -/
def partOfCuff (s : State) (c : Nat) : Option Nat := partOfGrid s (c / 4)
def partOfQuad (s : State) (q : Nat) : Option Nat := partOfGrid s (q / 32)
/-- Grid indices of a partition in ascending PGRD bit order. -/
def partGrids (s : State) (p : Nat) : List Nat := (List.range 16).filter fun g => (partOf s p).grids.getLsbD g
/-- Cuffs of a partition. -/
def partCuffs (s : State) (p : Nat) : List Nat := (partGrids s p).flatMap fun g => [4 * g, 4 * g + 1, 4 * g + 2, 4 * g + 3]
/-- Sleeves of a partition. -/
def partSleeves (s : State) (p : Nat) : List Nat := (s.sleeves.filter fun x => x.2.part == p).map (·.1)

/-- The EN of node `k` of an activation (R21). -/
def enOf (a : Act) (k : Nat) : Nat := a.place.getD k 0 / 16
/-- The home quad of a colour on a sleeve (R39). -/
def homeQuad (v : Sleeve) (num : Nat) : Nat := sleeveQuad v (num % max (quadCount v) 1)

/-! ## Values of tokens -/

/-- A scalar token value: marker bits and poison zero. -/
def scalarOf (w : Word) : TokVal := { kind := .scalar, ln := 1, val := w.setWidth 1024 }
/-- A null token value. -/
def nullTok : TokVal := {}
/-- A vector token value from its lanes. -/
def vectorOf (lanes : List Nat) : TokVal := { kind := .vector, ln := lanes.length, val := valueOfNat (natOfLanes lanes) }
/-- Lane `j` of a token value; a scalar's lanes 0 and 1 are its two halves. -/
def TokVal.lane (v : TokVal) (j : Nat) : Nat := (laneOf v.val j).toNat
/-- The 64 bits of an operand: a scalar's value, or lanes 0 and 1 of a vector (R344). -/
def TokVal.word (v : TokVal) : Word := v.val.extractLsb' 0 64
/-- Cut a vector to a lane count, clearing the lanes above (R38). -/
def TokVal.cut (v : TokVal) (g : Nat) : TokVal :=
  if v.kind = .vector ∧ g < v.ln then { v with ln := g, val := valueOfNat (v.val.toNat % 2 ^ (32 * g)) } else v
/-- Clear the marker bits. -/
def TokVal.unmarked (v : TokVal) : TokVal := { v with eor := false, eot := false, eos := false }
def isNull : Option TokVal → Bool
  | some v => v.kind == .null
  | none => false
def isPoisoned : Option TokVal → Bool
  | some v => v.poi
  | none => false
def opWord : Option TokVal → Word
  | some v => v.word
  | none => 0

/-- Words 1 and 2 of a token image without PAR, and the whole image as a number (Table 2.1). -/
def tokenWord1 (t : Token) : Nat := t.blk.toNat % 2 ^ 60 / 2 ^ 14 * 2 ^ 18 + t.node % 128 * 2 ^ 11 + t.port.code.toNat * 2 ^ 9
@[inherit_doc tokenWord1] def tokenWord2 (v : TokVal) : Nat :=
  (match v.kind with | .null => 0 | .scalar => 1 | .vector => 2) * 2 ^ 14 + v.ln % 64 * 2 ^ 8
    + (if v.eor then 128 else 0) + (if v.eot then 64 else 0) + (if v.eos then 32 else 0) + (if v.poi then 16 else 0)
def tokenImage (t : Token) : Nat :=
  t.tag.toNat + tokenWord1 t * 2 ^ 64 + tokenWord2 t.v * 2 ^ 128 + t.v.val.toNat * 2 ^ 192

/-- Exclusive or of `n` bytes of a number. -/
def xorBytes : Nat → Nat → BitVec 8
  | 0, _ => 0
  | n + 1, x => BitVec.ofNat 8 x ^^^ xorBytes n (x / 256)
/-- PAR of a token (R31). -/
def parityOf (t : Token) : BitVec 8 := xorBytes 152 (tokenImage t)

/-! ## Tag operations (R34 to R36) -/

/-- Bits of a tag's field `d`, 1 to 5. -/
def tagField (t : Word) (d : Nat) : Nat := bits t.toNat (8 * (d - 1)) 8
/-- A tag with another field `d`. -/
def setTagField (t : Word) (d v : Nat) : Word :=
  BitVec.ofNat 64 (t.toNat - tagField t d * 2 ^ (8 * (d - 1)) + v % 256 * 2 ^ (8 * (d - 1)))
def setTagDepth (t : Word) (d : Nat) : Word := BitVec.ofNat 64 (t.toNat - tagDepth t * 2 ^ 40 + d % 8 * 2 ^ 40)
/-- A tag with [47:43] and the fields above its depth cleared (retag, TAGS). -/
def cleanTag (t : Word) : Word :=
  BitVec.ofNat 64 (t.toNat / 2 ^ 48 * 2 ^ 48 + tagDepth t * 2 ^ 40 + t.toNat % 2 ^ (8 * min (tagDepth t) 5))

/-- The tag that a tag operation sends (Table 2.3); none is TAG_DEPTH. `a` and `c` are the operands of retag and colour. -/
def applyTag (op : TagOp) (t a c : Word) : Option Word :=
  let d := tagDepth t
  match op with
  | .keep => some t
  | .wave => if d = 0 then none else some (setTagField t d (tagField t d + 1))
  | .push => if d = 5 then none else some (setTagField (setTagDepth t (d + 1)) (d + 1) 0)
  | .pop => if d = 0 then none else some (setTagDepth (setTagField t d 0) (d - 1))
  | .colour => some (BitVec.ofNat 64 (c.toNat % 65536 * 2 ^ 48 + t.toNat % 2 ^ 48))
  | .retag => if 6 ≤ tagDepth a then none else some (cleanTag a)

/-- Whether an iteration value is older than another (R35). -/
def olderValue (a b : Nat) : Bool := decide (1 ≤ (b + 256 - a) % 256) && decide ((b + 256 - a) % 256 ≤ 127)
/-- Whether a tag is older than another (R35). -/
def olderTag (x y : Word) : Bool :=
  tagColour x == tagColour y && tagDepth x == tagDepth y &&
    match ([1, 2, 3, 4, 5].filter fun d => decide (d ≤ tagDepth x)).find? fun d => tagField x d != tagField y d with
    | some d => olderValue (tagField x d) (tagField y d)
    | none => false

/-! ## Egress records (R259, R260) -/

/-- Write the waiting egress records whose places are free, in ESEQ order; a waiting reserved record then takes a place. -/
def flushEgress : Nat → State → Nat → State
  | 0, s, _ => s
  | n + 1, s, q =>
    let x := queueOf s q
    match x.hold with
    | [] => s
    | r :: rs =>
      if (r.eseq + 2 ^ 32 - x.ack.toNat - 1 + 2 ^ 32) % 2 ^ 32 < 2 ^ x.qegn then
        let s := writeRecord s (x.qegb.toNat + 512 * (r.eseq % 2 ^ x.qegn)) r.words
        let (h, e) := match x.extra with
          | [] => (rs, [])
          | w :: ws => (rs ++ [{ eseq := (w.getD 0 0).toNat % 2 ^ 32, words := w }], ws)
        flushEgress n (updQueue s q fun x => { x with hold := h, extra := e }) q
      else s

/-- The waiting egress records of a queue whose places are free are written; with QEGN.LOG 0 all are discarded. -/
def drainEgress (s : State) (q : Nat) : State :=
  let x := queueOf s q
  if x.qegn = 0 then updQueue s q fun x => { x with hold := [], extra := [] } else flushEgress (x.hold.length + x.extra.length) s q

/-- The holding buffer holds 56 or more records (R259). -/
def egressFull (s : State) (q : Nat) : Bool := decide (56 ≤ (queueOf s q).hold.length)

/-- Write an egress record of queue `q` (Tables 8.6 to 8.8): type, status, ISEQ and words 2 to 7. With QEGN.LOG 0 it is
discarded. -/
def egress (s : State) (q type status : Nat) (iseq : BitVec 32) (ws : List Word) : State :=
  let x := queueOf s q
  let e := x.eseq
  let p := (partOfCuff s q).getD 0
  let w0 : Word := BitVec.ofNat 64 (type * 2 ^ 56 + status * 2 ^ 48 + q % 64 * 2 ^ 32 + e.toNat)
  let w1 : Word := BitVec.ofNat 64 (p * 2 ^ 32 + iseq.toNat)
  let r := [w0, w1] ++ (ws ++ List.replicate 6 0).take 6
  let s := updQueue s q fun x => { x with eseq := e + 1 }
  if x.qegn = 0 then s
  else if x.hold.length < 64 then
    drainEgress (updQueue s q fun x => { x with hold := x.hold ++ [{ eseq := e.toNat, words := r }] }) q
  else updQueue s q fun x => { x with extra := x.extra ++ [r] }

/-- Status codes (Table 8.8). -/
inductive Status where
  | ok | badEncoding | protection | translation | noPlacement | badCoord | badConfig | abandoned | evicted | noBudget | gap
  | full | watchdog | host | notLoaded
  deriving DecidableEq, Repr
def Status.code : Status → Nat
  | .ok => 0 | .badEncoding => 1 | .protection => 2 | .translation => 3 | .noPlacement => 4 | .badCoord => 5 | .badConfig => 6
  | .abandoned => 7 | .evicted => 8 | .noBudget => 9 | .gap => 10 | .full => 11 | .watchdog => 12 | .host => 13 | .notLoaded => 14

/-- Grid mask of a partition, as egress records carry it. -/
def gridMask (s : State) (p : Nat) : Word := (partOf s p).grids.setWidth 64

/-! ## Fault records (R279, R280) -/

/-- Code of a class (Table 9.5). -/
def FaultClass.code : FaultClass → Nat
  | .badEncoding => 1 | .blockShape => 2 | .tagDepth => 3 | .tagExhaust => 4 | .translation => 5 | .protection => 6
  | .alignClass => 7 | .staleHandle => 8 | .doubleWrite => 9 | .poison => 10 | .heavyWithoutLeave => 11 | .ownerLost => 13
  | .compressOverflow => 14 | .liningMismatch => 15 | .parityPeerLost => 16 | .softwareTrap => 17 | .breakpoint => 18

/-- The classes that freeze the issuing sleeve as a master when an activation raises them (Table 9.5). -/
def FaultClass.freezes : FaultClass → Bool
  | .protection | .heavyWithoutLeave => true
  | _ => false

/-- The eight words of a fault record (Table 9.6). -/
def faultWords (i : FaultInfo) (park prec mfrz : Bool) (fseq : Nat) (time : Nat) : List Word :=
  let b (x : Bool) (n : Nat) : Nat := if x then 2 ^ n else 0
  [ BitVec.ofNat 64 (i.cls.code * 2 ^ 56 + i.cause * 2 ^ 48 + i.src * 2 ^ 40 + b park 39 + b prec 38 + b mfrz 37 + b i.wr 36
      + b i.fetch 35 + i.lvl % 8 * 2 ^ 32 + fseq % 2 ^ 32),
    i.va, i.tag,
    BitVec.ofNat 64 (i.blk.toNat % 2 ^ 60 / 2 ^ 14 * 2 ^ 18 + i.node % 128 * 2 ^ 11 + i.width % 128 * 2 ^ 4),
    BitVec.ofNat 64 (i.coord.toNat * 2 ^ 48 + i.slv.toNat * 2 ^ 32),
    i.info, i.unit, BitVec.ofNat 64 time ]

/-- Write the waiting fault records whose places are free, in order (R280). -/
def flushFaults : Nat → State → Nat → State
  | 0, s, _ => s
  | n + 1, s, p =>
    let x := partOf s p
    match x.frecs with
    | [] => s
    | (f, ws) :: rs =>
      if (f + 2 ^ 32 - x.fack.toNat - 1 + 2 ^ 32) % 2 ^ 32 < 2 ^ x.fqn then
        flushFaults n (updPart (writeRecord s (x.fqb.toNat + 512 * (f % 2 ^ x.fqn)) ws) p fun x => { x with frecs := rs }) p
      else s

/-- The waiting fault records whose places are free are written; with FQN.LOG 0 all are discarded. -/
def drainFaults (s : State) (p : Nat) : State :=
  if (partOf s p).fqn = 0 then updPart s p fun x => { x with frecs := [] } else flushFaults (partOf s p).frecs.length s p

/-- Write one fault record of a partition and return its FSEQ (R279, R280); TIME is the cycle in which the fault was raised. -/
def faultRecord (s : State) (p : Nat) (i : FaultInfo) (park prec mfrz : Bool) : Nat × State :=
  let x := partOf s p
  let f := x.fseq.toNat
  let s := updPart s p fun x => { x with fseq := x.fseq + 1 }
  if x.fqn = 0 then (f, s)
  else (f, drainFaults (updPart s p fun x => { x with frecs := x.frecs ++ [(f, faultWords i park prec mfrz f (i.time.getD s.cycle))] }) p)

/-- The part of a fault record that names an activation's node (Table 9.6). -/
def faultAt (s : State) (a : Nat) (node : Nat) (i : FaultInfo) : FaultInfo :=
  let x := actOf s a
  { i with tag := x.tag, blk := x.blk, node := node, coord := if i.src = 0 then enCoord (enOf x node) else i.coord,
           slv := (sleeveOf s x.sleeve).desc }

/-! ## Parking (R278, R279) -/

/-- An outstanding record at the end of their list. -/
def addRecord (s : State) (r : Outstanding) : State := { s with records := s.records ++ [{ r with gone := decide ((partOf s r.part).fqn = 0) }] }
/-- A parked access at the end of their list. -/
def addParked (s : State) (q : Parked) : State := { s with parked := s.parked ++ [q] }
/-- A record has been written to its queue, and was not discarded: it is outstanding from then on (R279, R280). -/
def recordWritten (s : State) (r : Outstanding) : Bool := !r.gone && !((partOf s r.part).frecs.any fun x => x.1 == r.fseq)

/-- A fault that is kept carries the cycle in which it was raised. -/
def raisedNow (s : State) (i : FaultInfo) : FaultInfo := { i with time := some (i.time.getD s.cycle) }

/-- A fault that writes a record only (R229, R238, R329): its record is outstanding too, and names the colour and the activation of the work
that met the fault, 0 where none did. -/
def recordOnly (s : State) (p colour serial act : Nat) (i : FaultInfo) : State :=
  let (f, s) := faultRecord s p i false false false
  addRecord s { part := p, fseq := f, info := i, colour := colour, serial := serial, act := act }

/-- Two faults are on one page: that of the linear address which COMPRESS_OVERFLOW gives, or the 64 KiB page of the virtual address. -/
def onePage (i j : FaultInfo) : Bool :=
  if i.cls = .compressOverflow then i.info == j.info else decide (i.va.toNat / 2 ^ 19 = j.va.toNat / 2 ^ 19)

/-- The outstanding record of a partition under which an access to the same page with the same class and cause parks (R279). -/
def sharedRecord (s : State) (p : Nat) (i : FaultInfo) : Option Nat :=
  if i.cls = .translation ∨ i.cls = .compressOverflow then
    (s.records.find? fun r => r.part == p && r.parks && recordWritten s r && r.info.cls == i.cls && r.info.cause == i.cause
      && onePage r.info i).map (·.fseq)
  else none

/-- Park an access under the record of its page, or a new one that names a colour (R278, R279); `a` is the activation that parks
with it, 0 when none does. -/
def parkUnder (s : State) (p a colour serial sleeve : Nat) (i : FaultInfo) (what : ParkedKind) : Nat × State :=
  let (f, s) := match sharedRecord s p i with
    | some f => (f, s)
    | none =>
      let (f, s) := faultRecord s p i true false false
      (f, addRecord s { part := p, fseq := f, info := i, colour := colour, serial := serial, act := a, sleeve := sleeve, parks := true })
  (f, addParked s { part := p, fseq := f, act := a, what := what })

/-- Park an access of an activation, or one of a committed activation's. -/
def parkAccess (s : State) (p a : Nat) (i : FaultInfo) (what : ParkedKind) : State :=
  let x := actOf s a
  (parkUnder s p a x.colour x.serial x.sleeve i what).2

/-- A parking fault of an activation (R67, R278): it waits without a record while Predicted, and else the activation parks. -/
def park (s : State) (a node : Nat) (i : FaultInfo) (what : ParkedKind) : State :=
  let x := actOf s a
  let i := faultAt s a node i
  if !actLive x then s
  else if x.st = .predicted ∨ x.st = .held then
    updAct s a fun x => { x with deferred := x.deferred ++ [{ info := raisedNow s i, park := some what }] }
  else parkAccess (updAct s a fun x => { x with st := .parked }) x.part a i what

/-! ## Waiting and spilled tokens (R46, R49, R54, R75, R77) -/

/-- Tokens that wait at a quad for an activation or an iteration: far tokens, and tokens of iterations that the window has not
admitted, at their colour's home quad (R46, R54). -/
def waitingAt (s : State) (q : Nat) : List NetToken :=
  (s.far.filter fun x => x.quad == q).map (·.t)
    ++ s.loops.flatMap fun x =>
      if homeQuad (sleeveOf s x.2.sleeve) (tagColour x.2.parent) = q then x.2.waiting.map (·.2) else []

/-- Operand-buffer bytes that a far token takes. -/
def farBytes (n : NetToken) : Nat := if n.tok.v.kind = .vector then 128 else 8

/-- Entries of a quad and their bytes: matching-store entries, and far tokens that wait there (R46, R49, R54). A set whose first token
completes it takes no entry at a quad that holds 2,048 of them. -/
def quadEntries (s : State) (q : Nat) : Nat :=
  min 2048 ((s.entries.filter fun e => e.quad == q).length + (waitingAt s q).length)
@[inherit_doc quadEntries] def quadBytes (s : State) (q : Nat) : Nat :=
  ((s.entries.filter fun e => e.quad == q).map (·.bytes)).foldl (· + ·) 0
    + ((waitingAt s q).map farBytes).foldl (· + ·) 0
/-- Occupancy in 64ths (R49). -/
def occupancy (s : State) (q : Nat) : Nat := max ((64 * quadEntries s q + 2047) / 2048) ((64 * quadBytes s q + 262143) / 262144)

/-- A quad can give an entry and bytes. -/
def quadRoom (s : State) (q : Nat) (need : Nat × Nat) : Bool :=
  decide (quadEntries s q + need.1 ≤ 2048) && decide (quadBytes s q + need.2 ≤ 262144)

/-- A token-spill area has room (R75, TKSN). -/
def spillRoom (s : State) (p : Nat) : Bool :=
  let x := partOf s p
  x.tksn != 0 && decide ((s.spilled.filter fun y => y.t.part == p).length < 2 ^ x.tksn)

/-- The 24 words of a token-spill entry: a token image with its PAR; words 19 to 23 are free (R30, R75). -/
def spillWords (t : NetToken) (free : Word) : List Word :=
  [t.tok.tag, BitVec.ofNat 64 (tokenWord1 t.tok), BitVec.ofNat 64 (t.par.toNat * 2 ^ 56 + tokenWord2 t.tok.v)]
    ++ (List.range 16).map (wordOf t.tok.v.val) ++ List.replicate 5 free

/-- Spill a token, or raise TAG_EXHAUST to the activation that produced it (R75, R77). DESIGN CHOICE (log 23), for R77 names only a producer: a
token of the read table, which no activation produced, parks the activation that receives it, at its destination node; any other that no
live activation produced stays in the network. -/
def spill (s : State) (n : NetToken) (a q : Nat) : State :=
  if spillRoom s n.part then
    let used := (s.spilled.filter fun y => y.t.part == n.part).map (·.slot)
    let size := 2 ^ (partOf s n.part).tksn
    let (i, s) := choose s size
    let slot := (((List.range (used.length + 1)).map fun j => (i + j) % size).find? fun k => !used.contains k).getD 0
    let (w, s) := freeWord s
    let s := writeAreaWords s ((partOf s n.part).tksb.toNat + 1536 * slot) (spillWords n w)
    updPart { s with spilled := s.spilled ++ [{ t := n, quad := q, slot := slot }] } n.part fun x => { x with tksc := x.tksc + 1 }
  else
    let (b, k) := if n.prod = 0 then (a, n.tok.node) else (n.prod, n.prodNode)
    if actLive (actOf s b) then park s b k { cls := .tagExhaust } (.token n q) else { s with net := s.net ++ [n] }

/-- Keep a far token in the matching store of its colour's home quad (R46), or spill it when that quad is full (R75). -/
def waitFar (s : State) (n : NetToken) : State :=
  let n := { n with dest := .far }
  let q := homeQuad (sleeveOf s n.sleeve) (tagColour n.tok.tag)
  if quadRoom s q (1, farBytes n) then { s with far := s.far ++ [{ t := n, quad := q }] }
  else spill s n 0 q

/-! ## Tokens purged, activations squashed, colours ended (R42, R44, R70) -/

/-- The forms whose wait is withdrawn with their activation (R369, R401, R435). A migration that has begun runs on, and the result of a hem
command is purged and counted when it comes (R408, R441); a transfer runs on without a result. -/
def withdrawn : Wait → Bool
  | .pmig _ _ _ _ _ | .hem _ => false
  | _ => true

/-- One round of the squash relation: activations created by, later in the thread of, or twin of a squashed one (R44, R70). -/
def squashRound (s : State) (l : List Nat) : List Nat :=
  (s.acts.filter fun x =>
    actLive x.2 && !l.contains x.1 &&
      l.any fun i =>
        let y := actOf s i
        x.2.creator == i || x.2.twin == i && x.2.isTwin ||
          (y.part == x.2.part && y.tag == x.2.tag && y.serial == x.2.serial && !y.isTwin && !x.2.isTwin && decide (y.seq < x.2.seq))).map (·.1)

/-- All activations that a squash of `l` takes with it. -/
def squashSet : Nat → State → List Nat → List Nat
  | 0, _, l => l
  | n + 1, s, l =>
    match squashRound s l with
    | [] => l
    | m => squashSet n s (l ++ m)

/-- Return an entry without the ports that squashed producers fed; an entry with none left is dropped. A JOIN or COMB loses the tokens of
squashed producers from its count, and its partial value is combined anew from the rest (R70, `recount`). -/
def purgeEntry (l : List Nat) (e : Entry) : Entry :=
  let bad (k : Nat) : Bool := e.prods.any fun x => x.1 == k && l.contains x.2
  let parts := e.parts.filter fun x => !l.contains x.1
  { e with parts := parts, count := if e.parts.isEmpty then e.count else parts.length,
           a := if bad 0 then none else e.a, b := if bad 1 then none else e.b, c := if bad 2 then none else e.c,
           p := if bad 3 then none else e.p, prods := e.prods.filter fun x => !l.contains x.2,
           stamp := if e.prods.any fun x => l.contains x.2 then none else e.stamp }

/-- A copy, for the twin of a lined activation, of a token that another activation made: only its original counts in DEADC. -/
def twinCopy (s : State) (a prod : Nat) : Bool := (actOf s a).isTwin && prod != a

/-- How many tokens a set of entries loses to a purge. -/
def purgedPorts (s : State) (l : List Nat) (es : List Entry) : Nat :=
  (es.map fun e => (e.prods.filter fun x => l.contains x.2 && !twinCopy s e.act x.2).length).foldl (· + ·) 0

/-- The activation that a token was delivered to, 0 for none. -/
def receiverOf (n : NetToken) : Nat := match n.dest with | .node a => a | .slot a _ => a | .far => 0

/-- Two tokens are one: what their producer sent to one port. -/
def sameToken (x y : NetToken) : Bool :=
  x.prod == y.prod && x.prodNode == y.prodNode && x.tok.tag == y.tok.tag && x.tok.node == y.tok.node && x.tok.port == y.tok.port

/-- The home quad of a token's colour. -/
def homeOf (s : State) (n : NetToken) : Nat := homeQuad (sleeveOf s n.sleeve) (tagColour n.tok.tag)

/-- A far token that was delivered to one of the activations that are taken out waits under R46 again (R70). -/
def keptOf (s : State) (l : List Nat) (n : NetToken) : Bool :=
  l.contains (receiverOf n) && !(actOf s (receiverOf n)).isTwin && n.prod != 0 && !l.contains n.prod

/-- A parked token that was delivered to one of the activations that are taken out is placed under R46 at its replay (R70, R77). -/
def parkedHome (s : State) (l : List Nat) (k : ParkedKind) : ParkedKind :=
  match k with
  | .token n q => if keptOf s l n then .token { n with dest := .far } (homeOf s n) else .token n q
  | k => k

/-- The token that a parked access is. -/
def parkedToken : ParkedKind → Option NetToken
  | .token n _ => some n
  | _ => none

/-- Take activations out of the machine with a terminal state: their tokens, entries, waits, parked accesses and stores that
are not committed go; tokens that living producers sent them are kept, and wait again in their colour's home quad, in the token-spill area,
or parked (R70, R75, R77). -/
def retire (s : State) (l : List Nat) (st : ActState) (p : Nat) : State :=
  let mine (n : NetToken) : Bool := l.contains n.prod
  let counted (n : NetToken) : Bool := mine n && !twinCopy s (receiverOf n) n.prod
  let toMine (n : NetToken) : Bool := l.contains (receiverOf n)
  let away : List NetToken := (s.spilled.map (·.t)).filter (keptOf s l)
    ++ (s.parked.filterMap fun x => if l.contains x.act then none else parkedToken x.what).filter (keptOf s l)
    ++ ((s.acts.filter fun x => !l.contains x.1).flatMap fun x => x.2.deferred.filterMap fun d => d.park.bind parkedToken).filter (keptOf s l)
  let kept : List NetToken :=
    away.foldl (fun k n => k.eraseP (sameToken n)) (l.flatMap fun i => (actOf s i).inbox.filter fun n => !mine n)
  let gone := s.entries.filter fun e => !l.contains e.act
  let stays (n : NetToken) : Bool := !mine n && (keptOf s l n || !toMine n)
  let count := (s.net.filter counted).length + (s.far.filter fun x => mine x.t).length + (s.spilled.filter fun x => !stays x.t).length
    + (s.unsorted.filter mine).length
    + (((s.parked.filter fun x => l.contains x.act).filterMap fun x => parkedToken x.what).filter counted).length
    + (((l.flatMap fun i => (actOf s i).deferred).filterMap fun d => d.park.bind parkedToken).filter counted).length
    + purgedPorts s l s.entries + (s.loops.map fun x => (x.2.waiting.filter fun y => mine y.2).length).foldl (· + ·) 0
  let t := { s with
    loops := s.loops.map fun x => (x.1, { x.2 with waiting := x.2.waiting.filter fun y => !mine y.2 }),
    net := s.net.filter fun n => !mine n && !toMine n,
    far := s.far.filter fun x => !mine x.t,
    unsorted := s.unsorted.filter fun n => !mine n,
    spilled := (s.spilled.filter fun x => stays x.t).map fun x =>
      if keptOf s l x.t then { x with t := { x.t with dest := .far }, quad := homeOf s x.t } else x,
    entries := (gone.map (purgeEntry l)).filter fun e =>
      e.a.isSome || e.b.isSome || e.c.isSome || e.p.isSome || e.stamp.isSome || decide (0 < e.count),
    ops := s.ops.filter fun x => !(l.contains x.2.f.act && withdrawn x.2.w),
    parked := (s.parked.filter fun x => !l.contains x.act).map fun x => { x with what := parkedHome s l x.what },
    stores := s.stores.filter fun x => !(l.contains x.2.act && !x.2.committed),
    stalled := s.stalled.filter fun e => !l.contains e.act,
    walks := s.walks.map fun x => (x.1, { x.2 with waiting := x.2.waiting.filter fun y => !l.contains y.e.act }),
    acts := s.acts.map fun x =>
      if l.contains x.1 then (x.1, { x.2 with st := st, frz := none, inbox := [], deferred := [] })
      else (x.1, { x.2 with inbox := x.2.inbox.filter fun n => !mine n,
                            deferred := x.2.deferred.map fun d => { d with park := d.park.map (parkedHome s l) } }),
    threads := s.threads.map fun h => { h with acts := h.acts.filter fun a => !l.contains a } }
  let t := updPart t p fun x => { x with regulator := x.regulator.filter fun o => (lookup t.ops o).isSome }
  kept.foldl waitFar (dead t p count)

/-- The next iteration of a loop once the threads that a squash undoes are gone. -/
def nextAfter (s : State) (l : List Nat) (k : Nat) (x : Loop) : Nat :=
  s.threads.foldl (fun n h => if h.loop = k ∧ l.contains h.creator ∧ !h.ended then min n h.iter else n) x.next

/-- A token that waits only to be told from a mode token (R122) and that, were it none, would be purged with its thread or its colour: its
tag names colour 0, which is never live, so that it is counted in DEADC once its block's image tells. -/
def unwanted (gone : NetToken → Bool) (n : NetToken) : NetToken :=
  if gone n then { n with tok := { n.tok with tag := n.tok.tag &&& 0xFFFFFFFFFFFF#64 } } else n

/-- Threads that a test selects end for good: far tokens that wait for an activation of one, in a store or spilled, are purged and counted
in DEADC (R46, R70). -/
def endThreads (s : State) (gone : Thread → Bool) : State :=
  let ends := (s.threads.filter fun h => !h.ended && gone h).map fun h => (h.part, h.tag)
  let mine (n : NetToken) : Bool := n.dest == .far && ends.contains (n.part, n.tok.tag)
  let s' := { s with
    threads := s.threads.map fun h => if gone h then { h with ended := true } else h
    far := s.far.filter fun w => !mine w.t
    unsorted := s.unsorted.map (unwanted mine)
    spilled := s.spilled.filter fun w => !mine w.t }
  (s.far.map (·.t) ++ s.spilled.map (·.t)).foldl (fun t n => if mine n then dead t n.part 1 else t) s'

/-- Loops, iterations and colours whose creation a squash undoes: instances entered by, iterations and colours created by, the
activations (R44, R353); such a colour returns to Free. -/
def undoCreations (s : State) (l : List Nat) : State :=
  let s := endThreads { s with loops := (s.loops.filter fun x => !l.contains x.2.entry).map fun x => (x.1, { x.2 with next := nextAfter s l x.1 x.2 }) }
    fun h => h.creator != 0 && l.contains h.creator
  { s with
    parked := s.parked.filter fun x =>
      match x.what with | .colour k => !l.contains (colourOf s k).creator | _ => true,
    colours := s.colours.filter fun x => !(x.2.creator != 0 && l.contains x.2.creator && (actOf s x.2.creator).st != .committed) }

/-- Squash activations and everything that goes with them (R44, R70). -/
def squash (s : State) (l : List Nat) (p : Nat) : State :=
  let m := squashSet (s.acts.length + 1) s l
  undoCreations (retire s m .squashed p) m

/-- The colour, by key and serial, that a parked access belongs to. -/
def parkedColour (s : State) (q : Parked) : Nat × Nat :=
  let ofAct (a : Nat) : Nat × Nat := ((actOf s a).colour, (actOf s a).serial)
  match q.what with
  | .range t _ _ => match lookup s.xfers t with | some x => (x.colour, x.serial) | none => (0, 0)
  | .store i => match lookup s.stores i with | some x => (x.colour, x.serial) | none => (0, 0)
  | .coll c => match lookup s.colls c with | some x => (x.colour, x.serial) | none => (0, 0)
  | .tscl _ c => match lookup s.hemOps c with | some x => ofAct x.f.act | none => (0, 0)
  | .form _ | .fetch _ | .token _ _ | .colour _ | .fence _ | .tmma _ => ofAct q.act

/-- What becomes of a parked access that is discarded beside leaving the list: a store is not performed, a TSCL deposits nothing
and has completed, a collective ends with LOST, the batch of a range has FAULT set (Table 9.8). -/
def dropParked (s : State) (q : Parked) : State :=
  match q.what with
  | .store i => { s with stores := eraseAt s.stores i }
  | .tscl isl c =>
    { s with flights := s.flights.filter (fun x => !(x.isl == isl && x.cmd.id == c))
             hemOps := s.hemOps.map fun x => if x.1 = c then (x.1, { x.2 with left := x.2.left.erase isl }) else x }
  | .coll c => match lookup s.colls c with
    | some x =>
      if x.status ≠ 0 then s
      else { s with colls := insertAt s.colls c { x with status := 1, tell := true } }
    | none => s
  | .range t _ _ => match lookup s.xfers t with
    | some x => updColour s x.colour fun c =>
        if c.serial = x.serial then { c with batches := c.batches.map fun b => if b.num = x.batch then { b with fault := true } else b } else c
    | none => s
  | .form _ | .fetch _ | .token _ _ | .colour _ | .fence _ | .tmma _ => s

/-- Discard the parked accesses that a test selects. -/
def discardParked (s : State) (gone : Parked → Bool) : State :=
  { (s.parked.filter gone).foldl dropParked s with parked := s.parked.filter fun q => !gone q }

/-- A colour goes to Ending (R42): its activations that have not committed are squashed and its parked accesses discarded. -/
def endColour (s : State) (k : Nat) : State :=
  match lookup s.colours k with
  | none => s
  | some c =>
    if c.st = .free ∨ c.st = .ending then s
    else
      let l := (s.acts.filter fun x => x.2.colour == k && x.2.serial == c.serial && actLive x.2).map (·.1)
      let s := discardParked s fun q => parkedColour s q == (k, c.serial)
      updColour (squash s l c.part) k fun c => { c with st := .ending }

/-! ## Taking a fault (R278) -/

/-- The queue that loaded the configuration of a sleeve. -/
def sleeveQueue (s : State) (v : Nat) : Nat := (cfgOf s (sleeveOf s v).cfg).queue

/-- Hold a colour: no new activation of it starts (R278). -/
def holdColour (s : State) (k : Nat) : State := updColour s k fun c => { c with held := true }

/-- Freeze a sleeve as a master under a record, and write MASTER_FROZEN (R263, R278). -/
def freezeMaster (s : State) (v f : Nat) : State :=
  let x := sleeveOf s v
  let s := updSleeve s v fun x => { x with frozen := x.frozen ++ [f] }
  egress s (sleeveQueue s v) 0x0D 0 0 [0, x.desc.setWidth 64, BitVec.ofNat 64 f]

/-- Kill a colour (R310, R311): POISON record, purge, Ending; a called colour kills its caller's, whose record has COORD zero, which R311
leaves open (log 53). A SPAWN with its retry flag set is re-issued once (R312). -/
def killColour : Nat → State → Nat → FaultInfo → State
  | 0, s, _, _ => s
  | n + 1, s, k, i =>
    let c := colourOf s k
    if c.st = .free ∨ c.killed then s
    else
      let s := recordOnly s c.part k c.serial 0 i
      let s := endColour (updColour s k fun c => { c with killed := true }) k
      let s := if c.retry && !c.reissued then { s with retries := s.retries ++ [c] } else s
      if c.called && (colourOf s c.callerKey).serial == c.callerSerial then
        killColour n s c.callerKey { i with tag := c.rtag, blk := c.cblk, node := 0, va := 0, coord := 0, time := none }
      else s

/-- An activation becomes Faulted: its twin and what it created go with it, and its colour is held (R278). -/
def faultAct (s : State) (a : Nat) : State :=
  let x := actOf s a
  let l := squashSet (s.acts.length + 1) s [a] |>.filter fun b =>
    b != a && !((actOf s b).tag == x.tag && (actOf s b).part == x.part && !(actOf s b).isTwin)
  holdColour (undoCreations (retire (retire s [a] .faulted x.part) l .squashed x.part) (a :: l)) x.colour

/-- A fault of an activation, of a class that does not park (R278): kept while it is Predicted (R69); for a twin, a mismatch
is left to the commit of the original; POISON kills; every other class Faults it, holds its colour, and PROTECTION and
HEAVY_WITHOUT_LEAVE freeze its sleeve. -/
def raise (s : State) (a : Nat) (node : Nat) (i : FaultInfo) : State :=
  let x := actOf s a
  let i := faultAt s a node i
  if !actLive x then s
  else if x.isTwin then retire s [a] .faulted x.part
  else if x.st = .predicted ∨ x.st = .held then updAct s a fun x => { x with deferred := x.deferred ++ [{ info := raisedNow s i }] }
  else if i.cls = .poison then
    let l := (squashSet (s.acts.length + 1) s [a]).filter fun b => b != a
    let s := undoCreations (retire (retire s [a] .killed x.part) l .squashed x.part) (a :: l)
    killColour (s.colours.length + 1) s x.colour i
  else
    let m := i.cls.freezes && i.src == 0
    let (f, s) := faultRecord s x.part i false true m
    let s := faultAct s a
    let s := addRecord s { part := x.part, fseq := f, info := i, colour := x.colour, serial := x.serial, act := a, sleeve := x.sleeve, frozen := m }
    if m then freezeMaster s x.sleeve f else s

/-- A Parked activation returns to Running once none of its accesses is parked (Table 2.7, R283; log 56). -/
def unpark (s : State) (a : Nat) : State :=
  if s.parked.any fun q => q.act == a then s else updAct s a fun x => if x.st = .parked then { x with st := .running } else x

/-- Hold a colour after commit under a record (DOUBLE_WRITE, and the errors of R433): its Complete activations stay. -/
def holdAfterCommit (s : State) (st : Store) (i : FaultInfo) (sid : Nat) : State :=
  let m := i.cls == .protection
  let (f, s) := faultRecord s st.part i false false m
  let s := updColour s st.colour fun c => if c.serial = st.serial then { c with dw := c.dw ++ [f] } else c
  let s := { s with acts := s.acts.map fun x =>
    if x.2.colour = st.colour ∧ x.2.serial = st.serial ∧ x.2.st = .complete then (x.1, { x.2 with exempt := x.2.exempt ++ [f] }) else x }
  let s := addRecord s { part := st.part, fseq := f, info := i, colour := st.colour, serial := st.serial, act := 0, sleeve := st.sleeve, frozen := m, holds := true }
  let s := if i.cls = .doubleWrite then s
    else addParked s { part := st.part, fseq := f, act := 0, what := .store sid }
  if m then freezeMaster s st.sleeve f else s

/-- Discard a record: it is no longer outstanding (R279). -/
def dispose (s : State) (p f : Nat) : State :=
  { s with records := s.records.filter fun r => !(r.part == p && r.fseq == f) }

end Sys2Proof.Machine
end

