-- ==== Sys2Proof/Machine/Helup.lean ====
section
/-! DEFINITION. Sending over Helup: message slots (R328, Table 11.3), flits (R325), routes (R327), the retry buffer of a port
(R326), and outstanding requests (R330). -/

namespace Sys2Proof.Machine

open Sys2Proof

/-! ## Slots (Table 11.3) -/

/-- A slot from its five words. -/
def slotOf (w0 : Word) (data : BitVec 192) (w4 : Word) : BitVec 320 := w4 ++ data ++ w0
/-- Word 0 from MTYPE and the bits below it. -/
def slotWord0 (mtype low : Nat) : Word := BitVec.ofNat 64 (mtype * 2 ^ 60 + low % 2 ^ 60)
/-- Word 4 from a RID. -/
def ridWord (rid : BitVec 32) : Word := rid ++ 0#32
/-- READ of `len` bits at an address of the target's linear aperture. -/
def readSlot (len addr : Nat) (rid : BitVec 32) : BitVec 320 := slotOf (slotWord0 1 (len * 2 ^ 52 + addr % 2 ^ 42)) 0 (ridWord rid)
def readDataSlot (m : DataMsg) : BitVec 320 := slotOf (slotWord0 2 (if m.poi then 2 ^ 59 else 0)) m.data (ridWord m.rid)
def writeSlot (len addr data : Nat) (rid : BitVec 32) : BitVec 320 :=
  slotOf (slotWord0 3 (len * 2 ^ 52 + addr % 2 ^ 42)) (BitVec.ofNat 192 data) (ridWord rid)
def writeAckSlot (rid : BitVec 32) : BitVec 320 := slotOf (slotWord0 4 0) 0 (ridWord rid)
def atomicSlot (m : AtomicMsg) : BitVec 320 :=
  slotOf (slotWord0 5 (m.op.toNat * 2 ^ 56 + m.ty.toNat * 2 ^ 54 + (if m.u then 2 ^ 53 else 0) + m.addr.toNat)) (0#64 ++ m.c ++ m.b) (ridWord m.rid)
def deltaSlot (poison : Bool) (sector : Nat) (dseq : BitVec 32) (delta : Sector) : BitVec 320 :=
  delta ++ slotWord0 (if poison then 7 else 6) (sector % 2 ^ 34 * 2 ^ 26 + dseq.toNat % 2 ^ 26)
def dackSlot (dseq : BitVec 32) : BitVec 320 := slotOf (slotWord0 8 dseq.toNat) 0 0
def atomicDataSlot (m : DataMsg) : BitVec 320 := slotOf (slotWord0 9 (if m.poi then 2 ^ 59 else 0)) m.data (ridWord m.rid)
def errorSlot (status : Nat) (rid : BitVec 32) : BitVec 320 := slotOf (slotWord0 10 (status % 256 * 2 ^ 52)) 0 (ridWord rid)

/-! ## Flits (Table 11.2) -/

/-- Bytes 0 to 251 of a flit, as a number. -/
def flitBody (f : Flit) : Nat :=
  (f.dst ++ f.src ++ f.lseq ++ f.lack ++ f.fk ++ f.rsv).toNat + f.slots.toNat * 2 ^ 96
/-- One byte of CRC-32C, reflected. -/
def crc32cByte (c b : Nat) : Nat :=
  (List.range 8).foldl (fun c _ => if c % 2 = 1 then (c / 2) ^^^ 0x82F63B78 else c / 2) (c ^^^ b)
/-- CRC-32C of `n` bytes of a number. -/
def crc32c : Nat → Nat → Nat → Nat
  | 0, _, c => c ^^^ 0xFFFFFFFF
  | n + 1, x, c => crc32c n (x / 256) (crc32cByte c (x % 256))
/-- A flit with its CRC. -/
def sealFlit (f : Flit) : Flit := { f with crc := BitVec.ofNat 32 (crc32c 252 (flitBody f) 0xFFFFFFFF) }
/-- The CRC of a flit is right. -/
def flitGood (f : Flit) : Bool := f.crc == (sealFlit f).crc

/-! ## Ports and routes -/

def portOf (s : State) (p : Nat) : HelupPort := lookupD s.helup p {}
def updPort (s : State) (p : Nat) (f : HelupPort → HelupPort) : State := { s with helup := insertAt s.helup p (f (portOf s p)) }
/-- A message leaves the device. -/
def emit (s : State) (m : OutMsg) : State := { s with out := s.out ++ [m] }

/-- The ports of the route to a device that are in service (R327). -/
def routePorts (s : State) (dst : Nat) : List Nat :=
  let own := s.regs.devn.toNat
  let idx := if dst / 256 = own / 256 then 16384 + dst % 256 else dst / 256
  let mask := readArea s (s.regs.hrtb.toNat + 32 * idx) 32
  (List.range 24).filter fun p => bits mask p 1 = 1 && (portOf s p).up
/-- The one of several ports that the hash chooses. -/
def hashPort (src dst line : Nat) (l : List Nat) : Option Nat := if l.isEmpty then none else l[Config.routeHash src dst line % l.length]?
/-- The port of a message of a device to another about a line (R327): none when no port of the route's mask is in service. Deltas and
their acknowledgements are routed with line 0. -/
def routeFrom (s : State) (src dst line : Nat) : Option Nat := hashPort src dst line (routePorts s dst)
/-- The port of a message of this device. -/
def routePort (s : State) (dst line : Nat) : Option Nat := routeFrom s s.regs.devn.toNat dst line

/-- The die of a Helup port and of a CXL port, and the Helup ports that a collective island serves (R10). -/
def helupDie (p : Nat) : Nat := p / 12
@[inherit_doc helupDie] def cxlDie (p : Nat) : Nat := p / 3
@[inherit_doc helupDie] def collPorts (isl : Nat) : List Nat := (List.range 6).map fun j => 12 * (isl / 2) + 6 * (isl % 2) + j

/-- Collective or rebuild traffic leaves through a port of its route, one that its collective island serves where the route has one (R10, log 54);
without a route it is discarded and counted in HLDR (R327). -/
def emitColl (s : State) (isl : Option Nat) (dst : Nat) (m : CollMsg) : State :=
  let l := routePorts s dst
  let near := match isl with | some i => l.filter (collPorts i).contains | none => []
  match hashPort s.regs.devn.toNat dst 0 (if near.isEmpty then l else near) with
  | some p => emit s (.coll p dst m)
  | none => updRegs s fun r => { r with hldr := r.hldr + 1 }

/-- Flits that a port may have sent and not acknowledged (R326). -/
def retryFlits : Nat := 2048

/-- Put a flit in a port's retry buffer; it leaves once it is among the first 2,048 there. -/
def portSend (s : State) (p : Nat) (f : Flit) : State :=
  let x := portOf s p
  let f := sealFlit { f with lseq := x.sent + 1, lack := x.rx }
  let s := if x.buf.length < retryFlits then emit s (.flit p f) else s
  updPort s p fun x => { x with sent := x.sent + 1, buf := x.buf ++ [(f, 0)] }

/-- Send a message slot of a device in a flit of its own; one without a route is discarded and counted in HLDR (R327). The flag
tells whether it was sent. -/
def sendFrom (s : State) (src dst line : Nat) (w : BitVec 320) : Bool × State :=
  match routeFrom s src dst line with
  | some p => (true, portSend s p { dst := BitVec.ofNat 22 dst, src := BitVec.ofNat 22 src, lseq := 0, lack := 0, fk := 0, rsv := 0,
                                    slots := w.setWidth 1920, crc := 0 })
  | none => (false, updRegs s fun r => { r with hldr := r.hldr + 1 })
/-- Send a message slot of this device. -/
def sendSlot (s : State) (dst line : Nat) (w : BitVec 320) : Bool × State := sendFrom s s.regs.devn.toNat dst line w

/-- Send a request under a fresh RID and remember it (R330); the flag tells whether it found a route. -/
def sendRequest (s : State) (r : Remote) (slot : BitVec 32 → BitVec 320) : Bool × State :=
  let (k, s) := fresh s
  let rid := BitVec.ofNat 32 k
  let (ok, s) := sendSlot s r.dst (r.addr / 512) (slot rid)
  (ok, if ok then { s with remotes := insertAt s.remotes rid.toNat { r with sent := s.cycle } } else s)

/-- A flit holds a delta of this device to one of some devices. -/
def deltaFlit (s : State) (devs : List Nat) (f : Flit) : Bool :=
  f.src == s.regs.devn && devs.contains f.dst.toNat && match (f.slots.extractLsb' 60 4).toNat with | 6 | 7 => true | _ => false
/-- Deltas to some devices that are queued at the ports, or that may yet be sent again, are sent no more (R296, R299): an empty flit takes the
place of each in its port's sequence. -/
def dropDeltas (s : State) (devs : List Nat) : State :=
  { s with helup := s.helup.map fun p =>
      (p.1, { p.2 with buf := p.2.buf.map fun f => if deltaFlit s devs f.1 then (sealFlit { f.1 with slots := 0 }, f.2) else f }) }

/-- Flits of a port that an acknowledgement covers leave its buffer, and waiting flits follow (R326). -/
def portAck (s : State) (p : Nat) (lack : BitVec 12) : State :=
  let x := portOf s p
  let n := (lack - x.acked).toNat
  if n = 0 ∨ x.buf.length < n ∨ retryFlits < n then s
  else
    let rest := x.buf.drop n
    let s := ((rest.take retryFlits).drop (retryFlits - n)).foldl (fun s f => emit s (.flit p f.1)) s
    updPort s p fun x => { x with acked := lack, buf := rest }

end Sys2Proof.Machine
end

