-- ==== Sys2Proof/Machine/Image.lean ====
section
/-! DEFINITION. Block images (03): parts (R81 to R88), the ports a record consumes (R47, R122), and verification (R99 to R101,
R183, R305, R334). -/

namespace Sys2Proof.Machine

open Sys2Proof

/-! ## Parts (Tables 3.1 to 3.5) -/

/-- Bits [lo + n - 1 : lo] of an image. -/
def imgBits (img : Image) (lo n : Nat) : Nat := (img.toNat >>> lo) % 2 ^ n
def imgNcnt (img : Image) : Nat := imgBits img 48 8
def imgRcnt (img : Image) : Nat := imgBits img 42 6
def imgWcnt (img : Image) : Nat := imgBits img 36 6
def imgXcnt (img : Image) : Nat := imgBits img 32 4
def imgSmask (img : Image) : Nat := imgBits img 0 32
def imgRole (img : Image) : Nat := imgBits img 118 2
def imgWin (img : Image) : Nat := imgBits img 120 8
def imgOrd (img : Image) : Bool := imgBits img 117 1 == 1
def imgPsto (img : Image) : Bool := imgBits img 116 1 == 1
def imgHem (img : Image) : Bool := imgBits img 115 1 == 1
def imgLine (img : Image) : Bool := imgBits img 114 1 == 1
def imgMins (img : Image) : Nat := imgBits img 111 3
/-- Record of node `k` at image bit 1,792 + 96 k (Table 3.1). -/
def imgRec (img : Image) (k : Nat) : RecordWord := BitVec.ofNat 96 (imgBits img (1792 + 96 * k) 96)
def imgRead (img : Image) (i : Nat) : Nat := imgBits img (256 + 32 * i) 32
def imgWrite (img : Image) (i : Nat) : Nat := imgBits img (1280 + 16 * i) 16
def imgLsid (img : Image) (i : Nat) : Nat := imgBits img (14080 + 16 * i) 16

/-- Fields of a record word that are read before it is decoded (Table 3.6). -/
def recOpc (w : RecordWord) : Nat := (w.extractLsb' 88 8).toNat
def recAr (w : RecordWord) : Nat := (w.extractLsb' 76 2).toNat
def recPm (w : RecordWord) : Nat := (w.extractLsb' 78 2).toNat
def recTg (w : RecordWord) : Nat := (w.extractLsb' 73 3).toNat

/-- The converting forms CVT, CVTS, QBLK, DQBK and PACK, whose port C is a mode port (R122). -/
def modeForm (opc : Nat) : Bool := decide (0x50 ≤ opc) && decide (opc ≤ 0x54)
/-- A memory form (M format). -/
def memForm (opc : Nat) : Bool := decide (0x60 ≤ opc) && decide (opc ≤ 0x6E) || decide (0x70 ≤ opc) && decide (opc ≤ 0x78)
/-- A store-class form (R87). -/
def storeClass (opc : Nat) : Bool :=
  [0x61, 0x63, 0x65, 0x66, 0x68, 0x6A].contains opc || decide (0x70 ≤ opc) && decide (opc ≤ 0x78)
/-- A hem, transfer or collective form (R99). -/
def hemForm (opc : Nat) : Bool := decide (0x80 ≤ opc) && decide (opc ≤ 0xA4)

/-- Ports that a node requires to fire (R47): A, B, C by AR, and P when PM is not 00. -/
def requires (w : RecordWord) : Port → Bool
  | .a => decide (1 ≤ recAr w)
  | .b => decide (2 ≤ recAr w)
  | .c => decide (3 ≤ recAr w)
  | .p => recPm w != 0
/-- Ports that a node consumes: those it requires, and a mode port. -/
def consumes (w : RecordWord) (p : Port) : Bool := requires w p || (p == .c && modeForm (recOpc w))

/-! ## Check code (R88) -/

/-- One bit of the reflected CRC-64/XZ. -/
def crcBit (c : Nat) : Nat := if c % 2 = 1 then (c / 2) ^^^ 0xC96C5795D7870F42 else c / 2
/-- One byte of it. -/
def crcByte (c : Nat) (b : Nat) : Nat := (List.range 8).foldl (fun c _ => crcBit c) (c ^^^ b)
/-- The CRC of `n` bytes of a number, from a start value. -/
def crcBytes : Nat → Nat → Nat → Nat
  | 0, _, c => c
  | n + 1, x, c => crcBytes n (x / 256) (crcByte c (x % 256))
/-- The check code of an image: bytes 1,824 to 1,831 taken as zero. -/
def imgCrc (img : Image) : Nat :=
  let x := img.toNat
  crcBytes 2048 (x - imgBits img 14592 64 * 2 ^ 14592) (2 ^ 64 - 1) ^^^ (2 ^ 64 - 1)

/-! ## Verification (R101) -/

/-- A target field of a table or a record whose kind 01 or 10 names something absent (Table 3.7). -/
def targetBad (img : Image) (t : Target) : Bool :=
  match t with
  | .node i p _ => decide (imgNcnt img ≤ i.toNat) || !consumes (imgRec img i.toNat) p
  | .slot i _ => decide (imgWcnt img ≤ i.toNat)
  | .none | .far _ _ _ => false

/-- Step 3: the header and the unused parts (Table 3.2, R83). DESIGN CHOICE (log 53): an LSID entry with USE 1 that no record owns falls under R83 and
under Table 3.5; an unused entry is taken to be one with USE 0, and the other is left to step 6. -/
def headerBad (img : Image) : List Nat :=
  let n := imgNcnt img
  let role := imgRole img
  let hdr := imgBits img 128 128 != 0 || imgBits img 64 47 != 0 || imgBits img 56 8 != 1 || decide (n = 0) || decide (128 < n)
    || decide (32 < imgRcnt img) || decide (32 < imgWcnt img) || decide (imgXcnt img = 0) || decide (8 < imgXcnt img)
    || decide (2 ^ 31 ≤ imgSmask img) || decide (3 < imgMins img)
    || (if role = 1 then decide (imgWin img = 0) || decide (128 < imgWin img) else imgWin img != 0 || imgOrd img)
    || imgBits img 14656 1728 != 0 || (List.range 32).any (fun i => bits (imgSmask img) i 1 != bits (imgLsid img i) 14 1)
    || (!imgLine img && (List.range (min n 128)).any fun k => recOpc (imgRec img k) == 0xB9)
  ((List.range 128).filter fun k => decide (n ≤ k) && imgRec img k != 0)
    ++ (if hdr then [0x100] else [])
    ++ (((List.range 32).filter fun i => decide (imgRcnt img ≤ i) && imgRead img i != 0).map (0x200 + ·))
    ++ (((List.range 32).filter fun i => decide (imgWcnt img ≤ i) && imgWrite img i != 0).map (0x300 + ·))
    ++ (((List.range 32).filter fun i => imgLsid img i / 2 ^ 15 == 0 && imgLsid img i != 0).map (0x400 + ·))

/-- Step 4, read table (Table 3.3). -/
def readBad (img : Image) : List Nat :=
  ((List.range (min (imgRcnt img) 32)).filter fun i =>
    let e := imgRead img i
    let cls := bits e 30 2
    let reg := bits e 24 6
    let ok (x : Nat) (none : Bool) : Bool := match Target.ofCode (BitVec.ofNat 12 x) with
      | some (.node k p false) => !targetBad img (.node k p false)
      | some .none => none
      | _ => false
    cls == 3 || decide ((if cls = 0 then 63 else if cls = 1 then 7 else 31) < reg) || !ok (bits e 12 12) false || !ok (bits e 0 12) true).map (0x200 + ·)

/-- Step 4, write table (Table 3.4, R86). -/
def writeBad (img : Image) : List Nat :=
  ((List.range (min (imgWcnt img) 32)).filter fun i =>
    let e := imgWrite img i
    decide (2 ≤ bits e 14 2) || bits e 6 8 != 0 || (bits e 14 2 == 1 && decide (7 < bits e 0 6))
      || (List.range i).any fun j => imgWrite img j == e).map (0x300 + ·)

/-- The common fields of a node's record, where they decode. -/
def comOf (img : Image) (k : Nat) : Option Common := Common.ofWord (imgRec img k)

/-- The LSIDs of a node's record: own, predecessor and successor (Table 3.10). -/
def lsidsOf (img : Image) (k : Nat) : Option (Nat × Nat × Nat) :=
  let w := imgRec img k
  if memForm (recOpc w) then some ((w.extractLsb' 44 5).toNat, (w.extractLsb' 39 5).toNat, (w.extractLsb' 34 5).toNat) else none

/-- The forms allowed in a lined block (Table 10.4). -/
def linedForm (i : Instr) : Bool :=
  match i with
  | .mov _ | .movi _ | .null _ | .gate _ | .join _ | .tagr _ | .tags _ | .exitB _ | .exitEoc _ | .lcmp _ => true
  | .ld r | .ldv r => r.ordr == .relaxed
  | _ => match encodeRecord i with
    | some w => decide (0x20 ≤ recOpc w) && decide (recOpc w ≤ 0x5E)
    | none => false

/-- Step 5: whether a node's record breaks a rule (Tables 3.6 to 3.14, R183, R305, R334); `i3` tells whether I3 islands are
usable. -/
def nodeBad (img : Image) (i3 : Bool) (k : Nat) : Bool :=
  let w := imgRec img k
  let n := imgNcnt img
  match decodeRecord w, comOf img k with
  | .ok i, some c =>
    let exn := (w.extractLsb' 46 3).toNat
    let lineBad := imgLine img && (!linedForm i || c.tg != .keep ||
      (recOpc w != 0xB9 && (isSlot c.t0 || isSlot c.t1 || hasFar c)))
    let lsidBad := match lsidsOf img k with
      | none => false
      | some (own, pred, succ) =>
        let others := (List.range n).filter fun j => j != k
        let has (l : Nat) : Bool := (List.range n).any fun j => match lsidsOf img j with | some (o, _, _) => o == l | none => false
        (others.any fun j => match lsidsOf img j with
            | some (o, p, u) => o == own || (decide (j < k) && ((pred == o && u != 31 && u != own) || (p == own && succ != 31 && succ != o)))
            | none => false)
          || (pred != 31 && !has pred) || (succ != 31 && !has succ)
    targetBad img c.t0 || targetBad img c.t1 || lineBad || lsidBad
      || ([0x08, 0x09, 0x1A].contains (recOpc w) && decide (imgXcnt img ≤ exn))
      || (!i3 && decide (0x90 ≤ recOpc w) && decide (recOpc w ≤ 0x98) && c.ty == .f32 && (w.extractLsb' 32 2).toNat == 3)
  | _, _ => true

/-- Step 6: LSID-table entries (Table 3.5, R87). -/
def lsidBad (img : Image) : List Nat :=
  ((List.range 32).filter fun i =>
    let k := (List.range (imgNcnt img)).find? fun k => match lsidsOf img k with | some (o, _, _) => o == i | none => false
    let want := match k with
      | some k => 2 ^ 15 + (if storeClass (recOpc (imgRec img k)) then 2 ^ 14 else 0) + k * 2 ^ 7
      | none => 0
    imgLsid img i != want || bits (imgSmask img) i 1 != bits want 14 1).map (0x400 + ·)

/-- Step 7, R99. Of two nodes that declare one exit number the later offends, and a TG of 1 or 3 counts when a target takes it (TGA set):
R99 leaves both open (log 53). DESIGN CHOICE (log 53): a HEM bit that does not match the nodes is a header check by Table 3.2 and a check of the whole
block by R99; it is made here, at the node that offends, and not in step 3. -/
def roleBad (img : Image) : List Nat :=
  let n := imgNcnt img
  let role := imgRole img
  let exnOf (k : Nat) : Option Nat :=
    let w := imgRec img k
    if [0x08, 0x09, 0x1A].contains (recOpc w) then some (w.extractLsb' 46 3).toNat else none
  let tga (k : Nat) : Bool := match comOf img k with | some c => c.t0.tga || c.t1.tga | none => false
  let nodes := (List.range n).filter fun k =>
    let w := imgRec img k
    let opc := recOpc w
    let kind := (w.extractLsb' 84 4).toNat
    (opc == 0x08 && ((kind == 1 && role == 0) || (kind == 2 && role != 3)))
      || (role == 0 && (opc == 0x10 || (recTg w == 1 && tga k)))
      || (role != 3 && (opc == 0x12 || (recTg w == 3 && tga k)))
      || (hemForm opc && !imgHem img)
      || ((exnOf k).isSome && (List.range k).any fun j => exnOf j == exnOf k)
  let hdr := (List.range (imgXcnt img)).any (fun x => (List.range n).all fun k => exnOf k != some x)
    || (imgHem img && (List.range n).all fun k => !hemForm (recOpc (imgRec img k)))
  nodes ++ (if hdr then [0x100] else [])

/-- Successors of a node in the graph of R100. -/
def acyclicSuccs (img : Image) (k : Nat) : List Nat :=
  match comOf img k with
  | none => []
  | some c => [c.t0, c.t1].filterMap fun t =>
      match t with
      | .node i _ g => if !g || c.tg = .keep || c.tg = .colour then some i.toNat else none
      | .none | .slot _ _ | .far _ _ _ => none

/-- Remove nodes without successors among the rest, round by round: what is left holds the cycles. -/
def trimSinks (img : Image) : Nat → List Nat → List Nat
  | 0, l => l
  | n + 1, l => trimSinks img n (l.filter fun k => (acyclicSuccs img k).any l.contains)

/-- Nodes reached from `k` in a set of nodes. -/
def reachedFrom (img : Image) (l : List Nat) : Nat → List Nat → List Nat
  | 0, m => m
  | n + 1, m => reachedFrom img l n (l.filter fun j => m.contains j || m.any fun i => (acyclicSuccs img i).contains j)

/-- Step 7, R100: the lowest node on a cycle. -/
def cycleBad (img : Image) : List Nat :=
  let rest := trimSinks img 128 (List.range (imgNcnt img))
  ((rest.filter fun k => (reachedFrom img rest 128 ((acyclicSuccs img k).filter rest.contains)).contains k).take 1)

/-- Verification of an image at a bit address: none when it is valid, else the location of Table 3.15 (R101). -/
def verify (img : Image) (addr : Word) (i3 : Bool) : Option Nat :=
  if addr.toNat % 16384 ≠ 0 then some 0x100
  else if imgCrc img ≠ imgBits img 14592 64 then some 0x500
  else match headerBad img with
  | x :: xs => some (xs.foldl min x)
  | [] => match readBad img ++ writeBad img with
  | x :: _ => some x
  | [] => match (List.range (imgNcnt img)).filter (nodeBad img i3) with
  | x :: _ => some x
  | [] => if imgLine img && imgRole img != 0 then some 0x100 else match lsidBad img with
  | x :: _ => some x
  | [] => match roleBad img with
  | x :: xs => some (xs.foldl min x)
  | [] => (cycleBad img).head?

/-- Whether a feature is usable (R334). -/
def usable (s : State) (n : Nat) : Bool := s.regs.dfeat.getLsbD n && !s.regs.dmask.getLsbD n

end Sys2Proof.Machine
end

