-- ==== Sys2Proof/Machine/Access.lean ====
section
/-! DEFINITION. Access to memory: leaf entries and the table walk (R269 to R272), translation caches (R274), the checks of an
access (R154 to R156, R292), where an address lies, and a read and a write at the bank (R142): fills, poison (R159), compression
state (R157, R158), page heat (R171, R172), gusset deltas (R293, R294). -/

namespace Sys2Proof.Machine

open Sys2Proof

/-! ## Leaf entries (Table 9.2) -/

def leafDev (e : Word) : Nat := bits e.toNat 40 22
def leafPpn (e : Word) : Nat := bits e.toNat 14 26
def leafApr (e : Word) : Nat := bits e.toNat 12 2
def leafDr (e : Word) : Bool := e.getLsbD 11
def leafCpt (e : Word) : Bool := e.getLsbD 10
def leafCmp (e : Word) : Bool := e.getLsbD 9
def leafFe (e : Word) : Bool := e.getLsbD 8
def leafProt (e : Word) : Bool := e.getLsbD 7
def leafSup (e : Word) : Bool := e.getLsbD 6
def leafX (e : Word) : Bool := e.getLsbD 5
def leafW (e : Word) : Bool := e.getLsbD 4
def leafR (e : Word) : Bool := e.getLsbD 3
/-- A leaf names another device. -/
def leafRemote (s : State) (e : Word) : Bool := leafDev e != s.regs.devn.toNat

/-- A leaf entry is malformed (R271). -/
def leafBad (s : State) (e : Word) (big : Bool) : Bool :=
  bits e.toNat 0 3 != 0 || (big && leafPpn e % 512 != 0) || (leafRemote s e && leafApr e != 0)
    || (leafDr e && (leafRemote s e || leafApr e != 0))

/-- A table entry is malformed at its level (R271, Table 9.1). -/
def pteBad (s : State) (e : Word) (lvl : Nat) : Bool :=
  if e.getLsbD 62 then decide (lvl < 2) || leafBad s e (lvl == 2)
  else lvl == 3 || bits e.toNat 40 22 != 0 || bits e.toNat 0 12 != 0
    || (bits e.toNat 12 28 * 4096) % (if lvl = 2 then 4096 else 16384) != 0

/-! ## The table walk (R272) -/

/-- Index of an address at a level (Table 9.1). -/
def tableIndex (va : Word) (lvl : Nat) : Nat :=
  match lvl with | 0 => bits va.toNat 50 10 | 1 => bits va.toNat 39 11 | 2 => bits va.toNat 28 11 | _ => bits va.toNat 19 9

/-- How a walk ends: a leaf, whether of a 32 MiB page, and its byte address; a stop with the cause of Table 9.7 for TRANSLATION,
the level and the entry read last; or at a line that a pod agent owns, which must first be snooped. -/
inductive WalkEnd where
  | leaf (e : Word) (big : Bool) (loc : Nat)
  | stop (cause lvl : Nat) (e : Word)
  | owned (line : Nat)
  deriving DecidableEq, Repr

/-- A table word, unless it reads poisoned, lies on an owner-lost line, or lies outside the aperture (log 53). -/
def tableWord (s : State) (b : Nat) : Option Word :=
  if apertureExists 0 b ∧ !s.poison.contains (linearToCda b / 32) ∧ !s.ownerLost.contains (b / 64) then
    some (BitVec.ofNat 64 (readDev s 0 (8 * b) 64))
  else none
/-- The line of a table word is held exclusive by a pod agent. -/
def tableOwned (s : State) (b : Nat) : Bool := ((lookupD s.dir (b / 64) {}).owner).isSome && !s.ownerLost.contains (b / 64)

/-- The walk from a level on: the byte addresses read, and its end. -/
def walkFrom (s : State) (va : Word) : Nat → Nat → Nat → List Nat × WalkEnd
  | 0, lvl, _ => ([], .stop 2 lvl 0)
  | n + 1, lvl, t =>
    let b := t + 8 * tableIndex va lvl
    if tableOwned s b then ([], .owned (b / 64))
    else match tableWord s b with
    | none => ([b], .stop 3 lvl 0)
    | some e =>
      if !e.getLsbD 63 then ([b], .stop 1 lvl e)
      else if pteBad s e lvl then ([b], .stop 2 lvl e)
      else if e.getLsbD 62 then ([b], .leaf e (lvl == 2) b)
      else let (l, r) := walkFrom s va n (lvl + 1) (bits e.toNat 12 28 * 4096); (b :: l, r)

/-- The walk of a partition's table for an address. -/
def walkTables (s : State) (p : Nat) (va : Word) : List Nat × WalkEnd :=
  let r := (partOf s p).ptbr
  if !r.getLsbD 63 then ([], .stop 1 0 0) else walkFrom s va 4 0 (bits r.toNat 13 27 * 8192)

/-- A canonical address (R269). -/
def canonical (va : Word) : Bool := va.extractLsb' 60 4 == (if va.getLsbD 59 then 0xF else 0)

/-! ## Translation caches (R274) -/

/-- The cache that an agent translates through. -/
inductive TlbAt where
  | quad (q : Nat)
  | grid (g : Nat)
  | coll
  | none
  deriving DecidableEq, Repr

/-- The base of the page of an address. -/
def pageBase (va : Word) (big : Bool) : Word := if big then (va >>> 28) <<< 28 else (va >>> 19) <<< 19
/-- The entry of a cache for an address of a partition. -/
def tlbFind (l : List TlbEntry) (p : Nat) (va : Word) : Option TlbEntry := l.find? fun x => x.part == p && x.va == pageBase va x.big
/-- A cached translation; none serves while translation is off (R272). -/
def tlbLookup (s : State) (c : TlbAt) (p : Nat) (va : Word) : Option TlbEntry :=
  let grid (g : Nat) : Option TlbEntry := tlbFind (lookupD s.tlbGrid g []) p va
  if !(partOf s p).ptbr.getLsbD 63 then none else
  match c with
  | .quad q => (tlbFind (lookupD s.tlbQuad q []) p va).or (grid (q / 32))
  | .grid g => grid g
  | .coll => tlbFind s.tlbColl p va
  | .none => Option.none
/-- Add to a cache of `n` entries; the oldest leaves a full one. -/
def tlbPut (n : Nat) (l : List TlbEntry) (x : TlbEntry) : List TlbEntry :=
  let l := l.filter fun y => !(y.part == x.part && y.va == x.va && y.big == x.big)
  (if l.length < n then l else l.drop 1) ++ [x]
/-- Cache a translation. -/
def tlbAdd (s : State) (c : TlbAt) (x : TlbEntry) : State :=
  let grid (s : State) (g : Nat) : State := { s with tlbGrid := insertAt s.tlbGrid g (tlbPut 8192 (lookupD s.tlbGrid g []) x) }
  match c with
  | .quad q => grid { s with tlbQuad := insertAt s.tlbQuad q (tlbPut 256 (lookupD s.tlbQuad q []) x) } (q / 32)
  | .grid g => grid s g
  | .coll => { s with tlbColl := tlbPut 8192 s.tlbColl x }
  | .none => s
/-- Remove translations from every cache, and from the accesses that still wait for another page. -/
def tlbRemove (s : State) (gone : TlbEntry → Bool) : State :=
  let cut (l : List TlbEntry) : List TlbEntry := l.filter fun x => !gone x
  { s with tlbQuad := s.tlbQuad.map fun x => (x.1, cut x.2), tlbGrid := s.tlbGrid.map fun x => (x.1, cut x.2), tlbColl := cut s.tlbColl,
           walks := s.walks.map fun x => (x.1, { x.2 with waiting := x.2.waiting.map fun w => { w with leaves := cut w.leaves } }) }

/-! ## Checks of a translated access (R272, R155, R156, R292, R321) -/

/-- A use reads, or writes (R272): atomics and full/empty forms do both, STE only writes. -/
def Use.reads : Use → Bool
  | .read | .atomic | .sync => true
  | .write | .empty | .full | .fetch => false
@[inherit_doc Use.reads] def Use.writes : Use → Bool
  | .write | .atomic | .sync | .empty | .full => true
  | .read | .fetch => false
/-- A use of full/empty words. -/
def Use.words : Use → Bool
  | .sync | .empty | .full => true
  | .read | .write | .atomic | .fetch => false

/-- The cause of a failed permission check. -/
def permission (sup : Bool) (use : Use) (e : Word) : Option Nat :=
  if leafSup e && !sup then some 5
  else if use.reads && !leafR e then some 2
  else if use.writes && !leafW e then some 3
  else if use == .fetch && (!leafX e || leafDr e) then some 4
  else none

/-- The bit address in the aperture (R271). -/
def frameAddr (e : Word) (big : Bool) (va : Word) : Nat := leafPpn e * 2 ^ 19 + bits va.toNat 0 (if big then 28 else 19)
def locOf (s : State) (e : Word) (big : Bool) (va : Word) : Loc :=
  let a := frameAddr e big va
  if leafRemote s e then .remote (leafDev e) a
  else if leafApr e = 3 then .pod (8 * windowBase s + a)
  else if leafDr e then .reg (a / 8)
  else .dev (if leafCpt e then 3 else leafApr e) a

/-- Start of the protected region in bits, and its length (R291). -/
def regionBase (s : State) : Nat := bits s.regs.gpb.toNat 33 27 * 2 ^ 33
@[inherit_doc regionBase] def regionBits (s : State) : Nat := s.regs.gpn * 2 ^ 19
/-- The stripe unit of a linear bit address in the protected region. -/
def unitOf? (s : State) (a : Nat) : Option Nat :=
  if regionBase s ≤ a ∧ a < regionBase s + regionBits s then some ((a - regionBase s) / 2 ^ 19) else none
/-- A linear bit address lies on a parity unit of this device. -/
def onParity (s : State) (a : Nat) : Bool := match unitOf? s a with | some p => p % 8 == s.regs.rank | none => false

/-- The linear bit address that the leaf of a page names: of the backing of a compact page. -/
def linearOf (e : Word) (big : Bool) (va : Word) : Nat := if leafCpt e then frameAddr e big va / 2 else frameAddr e big va
/-- A write-class access through a protected leaf that R292 refuses. -/
def protBad (s : State) (e : Word) (big : Bool) (va : Word) : Bool :=
  let a := linearOf e big va
  leafApr e != 0 || leafRemote s e || !s.regs.gen || (unitOf? s a).isNone || onParity s a

/-- An access that the aperture rules refuse whatever PROT says (Tables 5.5 and 5.5a, R139, R154, R321, R322); `width` is its width in bits. -/
def frameBad (s : State) (use : Use) (e : Word) (big : Bool) (va : Word) (width : Nat) : Bool :=
  let w := max width 1
  match locOf s e big va with
  | .remote _ _ => !usable s 5 || use.words || leafCmp e || leafCpt e || leafFe e
  | .pod a =>
    let o := a - 8 * windowBase s
    !usable s 4 || s.regs.cxws = 0 || decide (8 * 2 ^ s.regs.cxws < o + w) || use.words || leafCmp e || leafCpt e || leafFe e
  | .reg _ =>
    let lo := leafPpn e * 65536
    use == .atomic || use.words || decide (lo < 0x200000 ∧ 0x100000 < lo + (if big then 2 ^ 25 else 65536))
  | .dev apr a =>
    !apertureExists apr (a / 8) || !apertureExists apr ((a + w - 1) / 8)
      || ((use == .atomic || use.words) && leafApr e != 0) || (use.words && !leafFe e)
      || (leafCmp e && (leafApr e != 0 || !s.regs.cmbas.getLsbD 0 || leafFe e)) || (leafCpt e && !leafCmp e)

/-- An access that the aperture rules refuse, those of PROT among them (R292). -/
def apertureBad (s : State) (use : Use) (e : Word) (big : Bool) (va : Word) (width : Nat) : Bool :=
  frameBad s use e big va width || (use.writes && leafProt e && protBad s e big va)

/-! ## Gusset deltas (R293 to R296) -/

/-- Whose store a delta covers (R192), and whether it is made through a leaf of a 32 MiB page. -/
structure Writer where
  part   : Nat := 0
  act    : Nat := 0
  lsid   : Nat := 0
  colour : Nat := 0
  serial : Nat := 0
  sid    : Nat := 0
  big    : Bool := false
  deriving DecidableEq, Repr

/-- The writer of a form's own access at the bank. -/
def writerAt (s : State) (f : Firing) (lsid : Nat) (big : Bool) : Writer :=
  let a := actOf s f.act
  { part := f.part, act := f.act, lsid := lsid, colour := a.colour, serial := a.serial, big := big }

/-- The rank's member entry has LOST set. -/
def memberLost (s : State) (k : Nat) : Bool := (lookupD s.regs.gmem k 0).getLsbD 62
/-- A member entry is valid; the device takes part in its group: EN is set and every entry valid (R290). -/
def memberValid (s : State) (k : Nat) : Bool := (lookupD s.regs.gmem k 0).getLsbD 63
@[inherit_doc memberValid] def takesPart (s : State) : Bool := s.regs.gen && (List.range 8).all (memberValid s)
def memberDev (s : State) (k : Nat) : Nat := bits (lookupD s.regs.gmem k 0).toNat 0 22
/-- Unacknowledged deltas to a rank. -/
def deltasTo (s : State) (k : Nat) : List Delta := s.deltas.filter fun d => d.rank == k && !d.lost

/-- Send one delta for a store to the sector at a linear bit address; `old` and `new` are its contents (R293, R295). One for a
lost holder is discarded (R296). -/
def sendDelta (s : State) (w : Writer) (a old new : Nat) (poison : Bool) : State :=
  match unitOf? s a with
  | none => s
  | some p =>
    let k := p % 8
    if !takesPart s ∨ k = s.regs.rank then s
    else
      let n := lookupD s.dseqTo k 0
      let d : Delta := { rank := k, sector := 2048 * p + (a - regionBase s) / 256 % 2048, dseq := n, poison := poison,
                         delta := if poison then 0 else BitVec.ofNat 256 (Nat.xor old new), part := w.part, act := w.act, lsid := w.lsid,
                         colour := w.colour, serial := w.serial, sid := w.sid, sent := s.cycle }
      if memberLost s k then { s with deltas := s.deltas ++ [{ d with lost := true }] }
      else
        let s := { s with dseqTo := insertAt s.dseqTo k (n + 1), deltas := s.deltas ++ [d] }
        updRegs (sendSlot s (memberDev s k) 0 (deltaSlot poison d.sector n d.delta)).2 fun r => { r with gdlt := r.gdlt + 1 }

/-- The linear bit address of the sector that a store through a protected leaf changes: for a compact page that of the backing (log 13). -/
def deltaSector : Loc → Option Nat
  | .dev 0 a => some (a / 256 * 256)
  | .dev 3 a => some (a / 2 / 256 * 256)
  | _ => none
/-- Step 6 of Table 5.2: the delta of a store through a protected leaf. -/
def bankDelta (s : State) (wr : Writer) (e : Word) (loc : Loc) (old new : Nat) (bad : Bool) : State :=
  match deltaSector loc with
  | some a => if leafProt e then sendDelta s wr a old new bad else s
  | none => s

/-- A write of bits within one sector at the bank (steps 3 and 5 to 7 of Table 5.2): fill, merge, delta of a protected leaf, poison,
dirty state and C mark; sharers in the pod lose their copies. -/
def bankWrite (s : State) (wr : Writer) (e : Word) (loc : Loc) (w v : Nat) : State :=
  let s := touch s loc true
  let bad := poisonLoc s loc
  let sectorOf (s : State) : Nat := match loc with | .dev apr a => readDev s apr (a / 256 * 256) 256 | _ => 0
  let old := sectorOf s
  let s := writeLoc s loc w v
  let s := bankDelta s wr e loc old (sectorOf s) bad
  let s := if w = 256 then setPoisonLoc s loc false else s
  let s := match dirKey loc with
    | some l => match lookup s.dir l with
      | some d => d.sharers.foldl (fun s g => emit s (.snoop g l)) { s with dir := insertAt s.dir l { d with sharers := [] } }
      | none => s
    | none => s
  soilAt s loc (leafCmp e) wr.big

/-! ## Migration locks and step 1 (R142, R200, R294) -/

/-- A place lies on a page under a migration lock. -/
def lockedLoc (s : State) (e : Word) (big : Bool) (va : Word) : Bool :=
  s.locks.any fun l => leafApr l.old == leafApr e && leafDev l.old == leafDev e && leafDr l.old == leafDr e && leafCpt l.old == leafCpt e
    && leafPpn l.old == frameAddr e big va / 2 ^ 19
/-- A write-class access is held at step 1: a migration lock, a group hold, or the delta limit. -/
def heldWrite (s : State) (e : Word) (big : Bool) (va : Word) : Bool :=
  lockedLoc s e big va || (leafProt e && takesPart s && match unitOf? s (linearOf e big va) with
    | some p => decide (2 ≤ s.regs.gstate) || decide (8192 ≤ (deltasTo s (p % 8)).length)
    | none => false)
/-- Pinned blocks of a stack, at most 4,096 (R161). -/
def pinsOf (s : State) (stack : Nat) : Nat := (s.pinned.filter fun u => compactStack u == stack).length
/-- The number under which an overflow-held compact page is known: of its 64 KiB page of the compact space, or of its 32 MiB page. -/
def compactKey (frame : Nat) (big : Bool) : Nat := if big then 2 ^ 40 + frame / 512 else frame
/-- The page of a 64 KiB frame of the compact space is overflow-held. -/
def frameHeld (s : State) (frame : Nat) : Bool := s.overflow.contains (compactKey frame false) || s.overflow.contains (compactKey frame true)
/-- A write-class access to an overflow-held compact page is parked (step 2), and so is one to a compact block of a stack whose pins are
all in use (R161). -/
def overflowed (s : State) (e : Word) (big : Bool) (va : Word) : Bool :=
  leafCpt e && !leafRemote s e && (frameHeld s (frameAddr e big va / 2 ^ 19) || decide (4096 ≤ pinsOf s (compactStack (frameAddr e big va / 2048))))

/-! ## Accesses held at step 1 (R142, R200, R294) -/

/-- The sector of a spot. -/
def spotSector (s : State) (x : Spot) : Nat × Nat := let p := placeOf (locOf s x.leaf x.big x.va); (p.1, p.2 / 256)
/-- An access is held at step 1. -/
def heldSpots (s : State) (l : List Spot) : Bool := l.any fun x => heldWrite s x.leaf x.big x.va
/-- An access of the list holds its place there. -/
def waitsAt (s : State) (who : HeldBy) : Option Held := s.waits.find? fun h => h.who == who
/-- A write-class access goes past step 1: it is not held; a new one follows those that wait for the same sector, and one that was held
follows those that arrived before it and have been released. -/
def mayPass (s : State) (who : HeldBy) (l : List Spot) : Bool :=
  !heldSpots s l && match waitsAt s who with
    | none => !(s.waits.any fun h => h.spots.any fun x => l.any fun y => spotSector s x == spotSector s y)
    | some _ => (s.waits.takeWhile fun h => h.who != who).all fun h => heldSpots s h.spots
/-- An access leaves the list. -/
def pass (s : State) (who : HeldBy) : State := { s with waits := s.waits.filter fun h => h.who != who }
/-- An access that may not pass waits, in order of arrival. -/
def arriveHeld (s : State) (who : HeldBy) (l : List Spot) : State :=
  if (waitsAt s who).isSome then s else { s with waits := s.waits ++ [{ who := who, spots := l }] }
/-- The leaf under which an access that was held at an address is performed: that of the new copy after a switch (R200). -/
def movedLeaf (s : State) (who : HeldBy) (va leaf : Word) (big : Bool) : Word × Bool :=
  match (waitsAt s who).bind fun h => if h.moved then h.spots.find? fun x => x.va == va else none with
  | some x => (x.leaf, x.big)
  | none => (leaf, big)

/-! ## Owners of lines in the pod (R187, R313, R323) -/

/-- A line of a place is held exclusive by a pod agent. -/
def ownedLoc (s : State) (loc : Loc) : Option Nat :=
  match dirKey loc with
  | some l => if ((lookupD s.dir l {}).owner).isSome then some l else none
  | none => none
/-- Snoop the owner of a line, once; a form may wait for the answer. -/
def snoopOwner (s : State) (l : Nat) (form : Option Entry) : State :=
  let d := lookupD s.dir l {}
  let s := match d.asked, d.owner with
    | none, some g => emit s (.snoop g l)
    | _, _ => s
  { s with dir := insertAt s.dir l { d with asked := some (d.asked.getD s.cycle), forms := d.forms ++ form.toList } }

/-! ## Read copies of remote lines (Table 6.3) -/

def copyOf (s : State) (dst line : Nat) : Option Copy := s.copies.find? fun c => c.dev == dst && c.line == line
/-- Drop a read copy, and forget the requests that were to fill it. -/
def dropCopy (s : State) (dst line : Nat) : State :=
  { s with l2 := eraseAt s.l2 (remoteLine dst (512 * line))
           copies := s.copies.filter fun c => !(c.dev == dst && c.line == line)
           remotes := s.remotes.filter fun r => !(r.2.dst == dst && match r.2.what with | .copy l _ => l == line | _ => false) }
/-- Ask for a read copy of a remote line, unless it is there or on its way. -/
def fetchCopy (s : State) (dst line : Nat) : State :=
  if (copyOf s dst line).isSome then s
  else
    let one (x : Bool × State) (k : Nat) : Bool × State :=
      let n := if k = 2 then 128 else 192
      let a := 512 * line + 192 * k
      let (ok, s) := sendRequest x.2 { dst := dst, what := .copy line k, addr := a, len := n } (readSlot n a)
      (x.1 && ok, s)
    let (ok, s) := [0, 1, 2].foldl one (true, s)
    let s := { s with l2 := insertAt s.l2 (remoteLine dst (512 * line)) { s0 := true, s1 := true } }
    { s with copies := s.copies ++ [{ dev := dst, line := line, err := !ok, since := s.cycle }] }
/-- Bits of a complete read copy within its line. -/
def copyBits (c : Copy) (a w : Nat) : Nat := c.data / 2 ^ (a % 512) % 2 ^ w

end Sys2Proof.Machine
end

