-- ==== Sys2Proof/Machine/Cache.lean ====
section
/-! DEFINITION. Write-back to HBM with its compression (R159 to R161), and the capacity of the L2, of the victim caches and of the
metadata caches (R2, R152, R158): what leaves a full one. -/

namespace Sys2Proof.Machine

open Sys2Proof

/-! ## Write-back -/

/-- Bytes into which the contents of a block compress; 0 for all zeros (R160). -/
def blockSize (x : Nat) : Nat := if x = 0 then 0 else max 1 (Config.compressedSize x)

/-- A line as the L2 or its stack's victim cache holds it. -/
def lineState (s : State) (line : Nat) : L2Line := (lookup s.l2 line).getD (lookupD s.victim line {})
/-- A line is clean where it is held. -/
def cleanLine (s : State) (line : Nat) : State :=
  let clean (x : L2Line) : L2Line := { x with d0 := false, d1 := false }
  match lookup s.l2 line, lookup s.victim line with
  | some x, _ => { s with l2 := insertAt s.l2 line (clean x) }
  | none, some x => { s with victim := insertAt s.victim line (clean x) }
  | none, none => s

/-- A line of a compact page whose block overflows while every pin of its stack is in use: it cannot be written or evicted (R161). -/
def stuckLine (s : State) (line : Nat) : Bool :=
  let u := (line - compactLine0) / 4
  decide (compactLine0 ≤ line) && decide (line < podLine0) && (lineState s line).dirty && !s.pinned.contains u
    && decide (128 < blockSize (readDev s 3 (2048 * u) 2048)) && decide (4096 ≤ pinsOf s (compactStack u))

/-- Write a block of a compact page to its backing of 128 bytes; one that needs more is pinned, and its page is overflow-held (R161). -/
def writeBackCompact (s : State) (line : Nat) : State :=
  let u := (line - compactLine0) / 4
  if stuckLine s line then s
  else if blockSize (readDev s 3 (2048 * u) 2048) ≤ 128 ∨ s.pinned.contains u then cleanLine s line
  else cleanLine (updRegs { s with pinned := insertNat s.pinned u, overflow := insertNat s.overflow (compactKey (u / 256) (lineState s line).big) }
    fun r => { r with cmovf := r.cmovf + 1 }) line

/-- Store a block raw: sectors that no cache holds of one that HBM held otherwise are poisoned. -/
def storeRaw (s : State) (u : Nat) (lost : Bool) : State :=
  setPacked (if lost then poisonSectors s ((unitSectors u).filter fun x => !sectorCached s x) else s) u 0

/-- Offer a block for compression and store it: its new state (R160). -/
def storeBlock (s : State) (u : Nat) : State :=
  let s := respell s u (blockState s u)
  let n := blockSize (readDev s 0 (2048 * u) 2048)
  if n = 0 then setPacked (setBlockState s u 8) u 8
  else if n ≤ 224 then setPacked (setBlockState s u ((n + 31) / 32)) u ((n + 31) / 32)
  else setPacked (updRegs (setBlockState s u 0) fun r => { r with cmraw := r.cmraw + 1 }) u 0

/-- Write a line of device memory to HBM, with the state of its block (R158 to R160). -/
def writeBackDevice (s : State) (line : Nat) : State :=
  let u := cdaToLinear (64 * line) / 256
  if !s.regs.cmbas.getLsbD 0 then cleanLine (storeRaw s u (lookup s.packed u).isSome) line
  else if inMetadata s u then cleanLine s line
  else
    let s := readMeta s u
    let lines := [line / 4 * 4, line / 4 * 4 + 1, line / 4 * 4 + 2, line / 4 * 4 + 3]
    if 9 ≤ blockState s u then cleanLine (setBlockState (storeRaw s u true) u 0) line
    else if lines.any fun k => (lineState s k).cmark then cleanLine (storeBlock s u) line
    else cleanLine (setBlockState (storeRaw s u false) u 0) line

/-- Write a dirty line back to its home memory. -/
def writeBackLine (s : State) (line : Nat) : State :=
  if !(lineState s line).dirty then s
  else if podLine0 ≤ line then cleanLine s line
  else if compactLine0 ≤ line then writeBackCompact s line
  else writeBackDevice s line

/-- A line leaves the L2 or the victim cache. -/
def dropLine (s : State) (line : Nat) : State := { s with l2 := eraseAt s.l2 line, victim := eraseAt s.victim line }

/-- WRITE_BACK: a dirty line is evicted and written to its home memory, unless it cannot be written. -/
def execWriteBack (line : Nat) (s : State) : Host.Outcome State Fault Refusal :=
  .next (if !(lineState s line).dirty then s
    else
      let t := writeBackLine s line
      if (lineState t line).dirty then t else dropLine t line)

/-! ## Capacity (R2, R11, R152, R158) -/

/-- Lines of a bank, of a stack's victim cache, and metadata lines of a stack. -/
def bankLines : Nat := 4096
@[inherit_doc bankLines] def victimLines : Nat := 2 ^ 20
@[inherit_doc bankLines] def metaLines : Nat := 32768

/-- Take any element of a list. -/
def pickFrom (s : State) (l : List Nat) : Option Nat × State :=
  let (i, s) := choose s (max l.length 1)
  (l[i % max l.length 1]?, s)

/-- A line leaves the L2: one of device memory goes to its stack's victim cache, one of pod memory to its home, and a read copy is dropped
(R152, Table 6.3). -/
def evictL2 (s : State) (line : Nat) : State :=
  if remoteLine 0 0 ≤ line then dropCopy s ((line - remoteLine 0 0) / 2 ^ 40) ((line - remoteLine 0 0) % 2 ^ 40)
  else if podLine0 ≤ line then { s with l2 := eraseAt s.l2 line }
  else match lookup s.l2 line with
    | some x => { s with l2 := eraseAt s.l2 line, victim := insertAt s.victim line x }
    | none => s
/-- A line leaves a victim cache for HBM. -/
def evictVictim (s : State) (line : Nat) : State := let t := writeBackLine s line; { t with victim := eraseAt t.victim line }

/-- The lines that the bank of a line holds. -/
def bankMates (s : State) (line : Nat) : List Nat := (s.l2.filter fun x => bankOf x.1 == bankOf line).map (·.1)
/-- The lines that a stack's victim cache holds; a pinned block takes the room of four more. -/
def victimMates (s : State) (stack : Nat) : List Nat := (s.victim.filter fun x => stackOfLine x.1 == stack).map (·.1)

/-- Evict lines from the L2 banks that hold more than they have room for. -/
def trimL2 : Nat → State → State
  | 0, s => s
  | n + 1, s =>
    match s.l2.find? fun x => decide (bankLines < (bankMates s x.1).length) && (bankMates s x.1).any fun k => !stuckLine s k with
    | none => s
    | some x =>
      match pickFrom s ((bankMates s x.1).filter fun k => !stuckLine s k) with
      | (some k, s) => trimL2 n (evictL2 s k)
      | (none, s) => s
/-- Evict lines from the victim caches that hold more than they have room for. -/
def trimVictim : Nat → State → State
  | 0, s => s
  | n + 1, s =>
    match (List.range 8).find? fun k => decide (victimLines < (victimMates s k).length + 4 * pinsOf s k) && (victimMates s k).any fun x => !stuckLine s x with
    | none => s
    | some k =>
      match pickFrom s ((victimMates s k).filter fun x => !stuckLine s x) with
      | (some x, s) => trimVictim n (evictVictim s x)
      | (none, s) => s
/-- Metadata lines leave the metadata caches that hold more than they have room for. -/
def trimMeta : Nat → State → State
  | 0, s => s
  | n + 1, s =>
    let mates (k : Nat) : List Nat := s.mdLines.filter fun x => x % 8 == k
    match (List.range 8).find? fun k => decide (metaLines < (mates k).length) with
    | none => s
    | some k =>
      match pickFrom s (mates k) with
      | (some x, s) => trimMeta n { s with mdLines := s.mdLines.erase x }
      | (none, s) => s

/-- At the end of a step every cache holds what it has room for: which lines leave is free (log 7). -/
def trimCaches (s : State) : State :=
  if s.l2.length ≤ bankLines ∧ s.victim.length + 4 * s.pinned.length ≤ victimLines ∧ s.mdLines.length ≤ metaLines then s
  else
    let s := if s.l2.length ≤ bankLines then s else trimL2 s.l2.length s
    let s := if s.victim.length + 4 * s.pinned.length ≤ victimLines then s else trimVictim s.victim.length s
    if s.mdLines.length ≤ metaLines then s else trimMeta s.mdLines.length s

end Sys2Proof.Machine
end

