-- ==== Sys2Proof/Machine/Cuff.lean ====
section
/-! DEFINITION. The cuff windows: acceptance of ingress tokens (R242 to R244), SYNC (R246), the registers of Table 8.1, and their
events. -/

namespace Sys2Proof.Machine

open Sys2Proof

/-- The BAD_TOKEN record of a token (R243, R254). -/
def badToken (s : State) (c : Nat) (t : Ingress) : State := egress s c 5 0 t.seq [t.payload, t.kind.setWidth 64]

/-- Count a dropped token. -/
def countDrop (s : State) (c : Nat) : State := updQueue s c fun q => { q with cdrop := q.cdrop + 1 }

/-- The answer to a SYNC (R246): NEXT, the last ESEQ, STATE and OCC. -/
def syncReply (s : State) (c : Nat) (seq : BitVec 32) : State :=
  let q := queueOf s c
  if egressFull s c then countDrop s c
  else egress s c 6 0 seq [q.next.setWidth 64, (q.eseq - 1).setWidth 64, BitVec.ofNat 64 ((if q.on then 2 ^ 14 else 0) + q.fifo.length)]

/-- Refuse a token: CDROP, and one DROPPED record for a run of drops (R244, R259). -/
def dropToken (s : State) (c : Nat) (seq : BitVec 32) : State :=
  let q := queueOf s c
  let s := updQueue (countDrop s c) c fun q => { q with dropping := true }
  if q.en && !cuffBad s c && !q.dropping && !egressFull s c then
    egress s c 4 (if 256 ≤ q.fifo.length then Status.full.code else Status.gap.code) seq [seq.setWidth 64, q.next.setWidth 64]
  else s

/-- A write to TOKHI enqueues a token (R242, R244); a SYNC is answered at once (R246). `after` is what its writer had not yet performed. -/
def writeTokhi (s : State) (c : Nat) (hi : Word) (after : List HeldBy := []) : State :=
  let q := queueOf s c
  let t := Ingress.ofWords hi q.toklo
  if t.kind = 5 then
    if t.malformed ∧ !egressFull s c then badToken s c t else syncReply s c t.seq
  else if q.en && !cuffBad s c && decide (q.fifo.length < 256) && t.seq == q.next && !egressFull s c then
    let (n, s) := fresh s
    updQueue s c fun q => { q with next := q.next + 1, dropping := false, fifo := q.fifo ++ [{ hi := hi, lo := q.toklo, order := n, after := after }] }
  else dropToken s c t.seq

/-- A write to EGACK frees places for waiting records (R259). -/
def writeEgack (s : State) (c : Nat) (v : Word) : State :=
  drainEgress (updQueue s c fun q => { q with ack := v.setWidth 32 }) c

/-- A 64-bit read of the register space at a byte offset (R242, R321): the cuff windows; elsewhere zero. -/
def readWindow (s : State) (ofs : Nat) : Word :=
  if 64 * 4096 ≤ ofs then 0
  else
    let q := queueOf s (ofs / 4096)
    match ofs % 4096 with
    | 0x10 => BitVec.ofNat 64 (q.next.toNat * 2 ^ 32 + (if q.en then 2 ^ 15 else 0) + (if q.on then 2 ^ 14 else 0) + q.fifo.length)
    | 0x18 => q.ack.setWidth 64
    | 0x20 => q.cdrop
    | _ => 0
/-- A 64-bit write of the register space at a byte offset. -/
def writeWindow (s : State) (ofs : Nat) (v : Word) (after : List HeldBy := []) : State :=
  if 64 * 4096 ≤ ofs then s
  else
    let c := ofs / 4096
    match ofs % 4096 with
    | 0x00 => updQueue s c fun q => { q with toklo := v }
    | 0x08 => writeTokhi s c v after
    | 0x18 => writeEgack s c v
    | _ => s

/-- A cuff number names a cuff. -/
def onCuff (s : State) (c : Nat) (f : State → State) : State := if c < 64 then f s else s

def execTokloWrite (cuff : Nat) (v : Word) (s : State) : Host.Outcome State Fault Refusal :=
  .next (onCuff s cuff fun s => updQueue s cuff fun q => { q with toklo := v })
/-- A host's write of TOKHI comes after the requests from outside that still wait at this device (R255). -/
def execTokhiWrite (cuff : Nat) (v : Word) (s : State) : Host.Outcome State Fault Refusal :=
  .next (onCuff s cuff fun s => writeTokhi s cuff v (s.inbound.map fun x => .inbound x.n))
def execSync (cuff : Nat) (seq : BitVec 32) (s : State) : Host.Outcome State Fault Refusal :=
  .next (onCuff s cuff fun s => syncReply s cuff seq)
def execEgackWrite (cuff : Nat) (v : Word) (s : State) : Host.Outcome State Fault Refusal :=
  .next (onCuff s cuff fun s => writeEgack s cuff v)

end Sys2Proof.Machine
end

