-- ==== Sys2Proof/Machine/Tokens.lean ====
section
/-! DEFINITION. Sending tokens (R36, R46, R53, R54, R91), matching them (R47 to R49, R62, R122, R359), spilling them (R75,
R77), and the common part of every firing (R32, R33, R36). -/

namespace Sys2Proof.Machine

open Sys2Proof

/-! ## Activations that come into being (R43, R44, R67) -/

/-- Add an activation at the end of a thread. -/
def addAct (s : State) (p : Nat) (tag blk : Word) (st : ActState) (creator awaits : Nat) : Nat × State :=
  let h := threadOf s p tag
  let k := colourKey p (tagColour tag)
  let c := colourOf s k
  let (a, s) := fresh s
  let x : Act := { part := p, sleeve := c.sleeve, colour := k, serial := c.serial, tag := tag, blk := blk, st := st, seq := h.next,
                   loop := h.loop, iter := h.iter, pred := h.acts.getLastD 0, creator := creator, awaits := awaits }
  (a, putThread { s with acts := insertAt s.acts a x } { h with acts := h.acts ++ [a], next := h.next + 1 })

/-- Start a thread at a block: its first activation is Running when it has no creator, else Predicted until that commits. -/
def startThread (s : State) (p : Nat) (tag blk : Word) (creator loop iter : Nat) : State :=
  let s := putThread s { part := p, tag := tag, loop := loop, iter := iter, creator := creator }
  (addAct s p tag blk (if creator = 0 then .running else .predicted) creator 0).2

/-- The thread of an iteration that is not admitted yet: its first activation is Held (Table 2.7). -/
def heldThread (s : State) (p : Nat) (tag blk : Word) (creator loop iter : Nat) : State :=
  let s := putThread s { part := p, tag := tag, loop := loop, iter := iter, creator := creator }
  (addAct s p tag blk .held creator 0).2

/-- The tag of iteration `j` of a loop. -/
def iterTag (x : Loop) (j : Nat) : Word :=
  let d := tagDepth x.parent + 1
  setTagField (setTagDepth x.parent d) d j

/-! ## Images and loops that a token may name -/

/-- The verified image of a block on a sleeve, where there is one (R102, R103, R105). -/
def imageFor (s : State) (v : Nat) (blk : Word) : Option Image :=
  let x := sleeveOf s v
  match (cfgOf s x.cfg).images.find? fun i => i.1 == blk with
  | some i => some i.2
  | none => ((x.images.flatMap (·.2)).find? fun i => i.1 == blk).map (·.2)

/-- The block of a far target: own image address + 16,384 × the signed offset (R91). -/
def farBlock (own : Word) (ofs : BitVec 32) : Word := own + 16384#64 * ofs.signExtend 64

/-- The loop instance that an activation has entered towards a head. -/
def loopEntered (s : State) (a : Nat) (head : Word) : Option Nat :=
  (s.loops.find? fun x => x.2.entry == a && x.2.head == head && !x.2.done).map (·.1)

/-- The loop of an iteration's thread, 0 for a thread that is not an iteration. -/
def loopOfTag (s : State) (p : Nat) (t : Word) : Nat := (threadOf s p t).loop

/-- Enter a loop (R53): an instance for the activation and the head, unless it exists; its window and order are known when
the head's image is. Pushing towards two heads, or twice with an LCNT, is BLOCK_SHAPE (R53, R394). -/
def enterLoop (s : State) (f : Firing) (head : Word) (counted : Option Nat) : State :=
  let a := actOf s f.act
  match a.pushed with
  | some (h, c) =>
    if h = head ∧ !c ∧ counted.isNone then s else raise s f.act f.node { cls := .blockShape }
  | none =>
    let (l, s) := fresh s
    let img := imageFor s f.sleeve head
    let x : Loop := { part := a.part, sleeve := a.sleeve, colour := a.colour, serial := a.serial, parent := f.tag, head := head,
                      window := img.map imgWin, ordered := (img.map imgOrd).getD false, counted := counted,
                      quad := f.en / 4, gen := f, entry := f.act }
    let s := { s with loops := insertAt s.loops l x }
    let s := updAct s f.act fun a => { a with pushed := some (head, counted.isSome) }
    match img with
    | some i => if imgRole i = 1 then s else raise s f.act f.node { cls := .blockShape }
    | none => s

/-! ## Mode tokens (R122) -/

/-- A mode token as it is held: RND 5 is reserved on DQBK and PACK, as 6 and 7 are on every form (Table 4.5). -/
def modeValue (s : State) (v : Nat) (blk : Word) (node : Nat) (t : TokVal) : TokVal :=
  let opc := match imageFor s v blk with | some i => recOpc (imgRec i node) | none => 0
  if (opc = 0x53 ∨ opc = 0x54) ∧ bits t.word.toNat 0 3 = 5 then { t with val := t.val ||| 7#1024 } else t

/-- A mode token takes effect on a sleeve and on its lining (Table 4.5, R304): SAT 11 and a reserved RND are discarded. A
poisoned one kills the next firing, once however many come before it; one that is both null and poisoned changes nothing, which R122
leaves open (log 53). -/
def modeEffect (s : State) (v : Nat) (blk : Word) (node : Nat) (t : TokVal) : State :=
  let x := sleeveOf s v
  let w := t.word.toNat
  let set (f : Sleeve → Sleeve) : State := updSleeve (updSleeve s v f) x.liner f
  let others (y : Sleeve) := y.modes.filter fun m => !(m.1 == blk && m.2.1 == node)
  if t.kind = .null then s
  else if t.poi then set fun y => { y with badModes := (y.badModes.filter (· != (blk, node))) ++ [(blk, node)] }
  else if bits w 7 1 = 1 then set fun y => { y with modes := others y }
  else if bits w 3 2 = 3 ∨ 6 ≤ bits w 0 3 then dead s x.part 1
  else set fun y => { y with modes := others y ++ [(blk, node, bits w 0 3, bits w 3 2)] }

/-- Hold a mode token with its producing activation, or let it take effect when that has committed. -/
def modeToken (s : State) (v a : Nat) (blk : Word) (node : Nat) (t : TokVal) : State :=
  let t := modeValue s v blk node t
  if (actOf s a).st = .committed then modeEffect s v blk node t
  else updAct s a fun x => { x with modes := x.modes ++ [(v, blk, node, t)] }

/-! ## Sending -/

/-- Put a token on the network with its parity and retained copy (R31, R308). -/
def launch (s : State) (n : NetToken) : State :=
  let q := parityOf n.tok
  { s with net := s.net ++ [{ n with par := q, kept := n.tok, keptPar := q }] }

/-- The sleeve on which a colour runs. -/
def colourSleeve (s : State) (p : Nat) (t : Word) : Nat := (colourOf s (colourKey p (tagColour t))).sleeve

/-- Send a value to a target: `blk` is the block of a far target, `t'` the tag the target takes and `made` the tag
operation that made it. A squashed, killed or Faulted producer's token is purged (R70); a committed one's token goes under
R46 (R440); a twin sends to its own block alone (R304). -/
def sendUnder (s : State) (f : Firing) (t : Target) (blk : Word) (t' : Word) (made : TagOp) (v : TokVal) : State :=
  let a := actOf s f.act
  let base : NetToken := { prod := f.act, prodTag := a.tag, prodSeq := a.seq, unit := f.unit.getD (enCoord f.en), part := f.part,
                           sleeve := colourSleeve s f.part t', made := made, prodNode := f.node,
                           both := recOpc (imgRec a.image f.node) == 0xB9 }
  let s0 := s
  let gone := a.st == .committed || (lookup s.acts f.act).isNone
  match a.st with
  | .squashed | .killed | .faulted => dead s a.part 1
  | .held | .predicted | .running | .parked | .complete | .committed =>
    let go (b : Word) (k : Nat) (p : Port) (own : Bool) : State :=
      let tok : Token := { tag := t', blk := b, node := k, port := p, v := v }
      if a.isTwin && !own then s else
      match imageFor s0 base.sleeve b with
      | some img =>
        if p = .c ∧ k < imgNcnt img ∧ modeForm (recOpc (imgRec img k)) then modeToken s0 base.sleeve f.act b k v
        else launch s0 { base with tok := tok, dest := if own then .node f.act else .far }
      | none => launch s0 { base with tok := tok, dest := if own then .node f.act else .far }
    match t with
    | .none => s
    | .slot i _ =>
      if gone then dead s f.part 1
      else launch s { base with tok := { tag := t', blk := a.blk, node := 0, port := .a, v := v }, dest := .slot f.act i.toNat }
    | .node k p _ => go f.blk k.toNat p (t' == f.tag && made != .wave && made != .push && made != .pop && !gone)
    | .far k p _ => go blk k.toNat p false

/-- The tag and the operation that a target takes (R36); none is TAG_DEPTH. -/
def targetTag (f : Firing) (t : Target) : Option (Word × TagOp) :=
  if t.tga then (applyTag f.com.tg f.tag (opWord f.a) (opWord f.c)).map fun u =>
    (u, match f.com.tg with | .wave => .wave | .push => .push | .pop => .pop | _ => .keep)
  else some (f.tag, .keep)

/-- The loop rules that a target made by wave, push or pop obeys, before it is sent (R53, R54, R394, R400). The flag tells
whether the token may go. DESIGN CHOICE (log 53): a null matched set whose null token breaks them raises BLOCK_SHAPE too, as R53 and R54 have
every such token, though R32 lets a null set raise no fault. -/
def loopRules (s : State) (f : Firing) (t : Target) (blk : Word) (made : TagOp) (counted : Option Nat) : Bool × State :=
  let head := match t with | .far _ _ _ => blk | _ => f.blk
  match made with
  | .push =>
    let s := enterLoop s f head counted
    (actLive (actOf s f.act), s)
  | .wave =>
    let l := loopOfTag s f.part f.tag
    let x := loopOf s l
    if l = 0 ∨ x.head ≠ head ∨ x.counted.isSome then (false, raise s f.act f.node { cls := .blockShape }) else (true, s)
  | .pop => (true, updAct s f.act fun a => { a with popped := true })
  | .keep | .colour | .retag => (true, s)

/-- Send a value to one target under TG (R36, R90, R91). A null matched set raises no fault (R32): a target whose tag operation faults then gets
nothing, which the manual leaves open (log 53). -/
def sendTarget (s : State) (f : Firing) (t : Target) (v : TokVal) : State :=
  match t with
  | .none => s
  | _ =>
    match targetTag f t with
    | none => s
    | some (u, made) =>
      let blk := farBlock f.blk f.ofs
      let (ok, s) := loopRules s f t blk made none
      if ok then sendUnder s f t blk u made v else s

/-- Send a value to T0 and T1 (R341); a fault that the first raises keeps the second from being sent. -/
def sendBoth (s : State) (f : Firing) (v : TokVal) : State :=
  let t := sendTarget s f f.com.t0 v
  if actLive (actOf s f.act) && !actLive (actOf t f.act) then t else sendTarget t f f.com.t1 v

/-! ## The common part of every firing -/

/-- Whether the tag operation of a firing faults: it applies to a target and is TAG_DEPTH (R36, R78). -/
def tagFaults (f : Firing) : Bool :=
  (f.com.t0.tga && (targetTag f f.com.t0).isNone) || (f.com.t1.tga && (targetTag f f.com.t1).isNone)

/-- Some operand of the matched set is poisoned; some is null. -/
def anyPoisoned (f : Firing) : Bool := isPoisoned f.a || isPoisoned f.b || isPoisoned f.c || isPoisoned f.p
@[inherit_doc anyPoisoned] def anyNull (f : Firing) : Bool := isNull f.a || isNull f.b || isNull f.c || isNull f.p

/-- Set the targets of the record that fires. -/
def begin (s : State) (c : Common) (ofs : BitVec 32) : State := { s with cur := { s.cur with com := c, ofs := ofs } }

/-- The poison fault of a firing (R33). -/
def killFiring (s : State) (f : Firing) : State := raise s f.act f.node { cls := .poison }

/-- A firing: a poisoned operand kills the activation, a null one sends null to each target, a tag operation that faults
raises TAG_DEPTH before any other check, and else the form acts (R32, R33, R36). -/
def fire (s : State) (c : Common) (ofs : BitVec 32) (body : Firing → State → State) : State :=
  let s := begin s c ofs
  let f := s.cur
  if anyPoisoned f then killFiring s f
  else if anyNull f then sendBoth s f nullTok
  else if tagFaults f then raise s f.act f.node { cls := .tagDepth }
  else body f s

/-- A firing of a form that only computes a value and sends it to both targets (R341). -/
def firePure (s : State) (c : Common) (ofs : BitVec 32) (val : Firing → TokVal) : State :=
  fire s c ofs fun f s => sendBoth s f (val f)

/-- A firing of a G-format record that only computes. -/
def fireG (s : State) (r : GRec) (val : Firing → TokVal) : State := firePure s r.c r.lit val

/-- Resolve an LSID of an activation: its record has issued, or received a null token (R183). -/
def resolveLsid (s : State) (a : Nat) (r : MRec) : State :=
  updAct s a fun x =>
    let one : BitVec 32 := 1#32 <<< r.own.toNat
    -- strictly between two LSIDs
    let span (lo hi : Nat) : BitVec 32 := BitVec.ofNat 32 ((List.range 32).foldl (fun m i => if lo < i ∧ i < hi then m + 2 ^ i else m) 0)
    let p := if r.pred = 31 then 0 else span r.pred.toNat r.own.toNat
    let u := if r.succ = 31 then 0 else span r.own.toNat r.succ.toNat
    { x with issued := x.issued ||| one, resolved := x.resolved ||| one ||| p ||| u }

/-- Complete an LSID of an activation without an access: that one alone (R32). -/
def completeLsid (s : State) (a : Nat) (own : BitVec 5) : State :=
  updAct s a fun x => { x with issued := x.issued ||| 1#32 <<< own.toNat, resolved := x.resolved ||| 1#32 <<< own.toNat }

/-- A firing of a memory record: as `fire`, and a null operand completes its LSID without access (R32). -/
def fireMem (s : State) (r : MRec) (body : Firing → State → State) : State :=
  let s := begin s r.c 0
  let f := s.cur
  if anyPoisoned f then killFiring s f
  else if anyNull f then sendBoth (completeLsid s f.act r.own) f nullTok
  else if tagFaults f then raise s f.act f.node { cls := .tagDepth }
  else body f s

/-! ## Waiting forms -/

/-- Leave a form waiting outside the ready queue (R369). -/
def waitOp (s : State) (f : Firing) (w : Wait) : Nat × State :=
  let (k, s) := fresh s
  (k, { s with ops := insertAt s.ops k { f := f, w := w, order := k } })
/-- End a wait. -/
def dropOp (s : State) (k : Nat) : State := { s with ops := eraseAt s.ops k }
/-- End a wait with a result to both targets. -/
def finishOp (s : State) (k : Nat) (v : TokVal) : State :=
  match lookup s.ops k with
  | some o => sendBoth (dropOp s k) o.f v
  | none => s
/-- End a wait with a result that a hem unit sends. -/
def finishFrom (s : State) (k : Nat) (unit : BitVec 16) (v : TokVal) : State :=
  match lookup s.ops k with
  | some o => sendBoth (dropOp s k) { o.f with unit := some unit } v
  | none => s
/-- The waits of a kind, in arrival order. -/
def opsWhere (s : State) (p : Op → Bool) : List (Nat × Op) := s.ops.filter fun x => p x.2

/-! ## Parity (R31, R308) -/

/-- Set the bad bit of an EN, a matrix island, a transfer island or a cuff named by a coordinate (R25, Table 10.6). -/
def setBadUnit (s : State) (c : BitVec 16) : State :=
  let set (m : Map Word) (n : Nat) : Map Word := insertAt m (n / 64) (lookupD m (n / 64) 0 ||| 1#64 <<< (n % 64))
  match unitNamed c with
  | some (.en n) => updRegs s fun r => { r with badn := set r.badn n }
  | some (.island n) => updRegs s fun r => { r with badi := set r.badi n }
  | some (.xisl n) => updRegs s fun r => { r with badx := r.badx ||| 1#64 <<< n }
  | some (.cuff n) => updRegs s fun r => { r with badc := r.badc ||| 1#64 <<< n }
  | some (.coll _) | some (.bank _ _) | some (.stack _) | none => s

/-- The parity check of a token with one retry (R308): the token that goes on, and the state with the count, PLOG, and for a
lasting failure the bad bit of the unit named. -/
def parityCheck (s : State) (n : NetToken) (unit : Option (BitVec 16)) : NetToken × State :=
  if parityOf n.tok = n.par then (n, s)
  else
    let log (l : Bool) (r : Regs) : Regs := { r with plog := 1#1 ++ BitVec.ofBool l ++ (unit.getD n.unit) }
    if parityOf n.kept = n.keptPar then
      ({ n with tok := n.kept, par := n.keptPar }, updRegs s fun r => { log false r with tptc := r.tptc + 1 })
    else
      let t := { n.kept with v := { n.kept.v with poi := true } }
      let s := updRegs s fun r => { log true r with tplc := r.tplc + 1 }
      ({ n with tok := t, par := parityOf t, kept := t, keptPar := parityOf t },
       match unit with | some u => setBadUnit s u | none => s)

/-! ## Matching (R47 to R49) -/

/-- Operand-buffer bytes of an entry: 8 for every port the node requires, and 120 more for a vector that waits (R49). -/
def entryBytes (w : RecordWord) (e : Entry) : Nat :=
  let port (p : Port) (v : Option TokVal) : Nat :=
    (if requires w p then 8 else 0) + (match v with | some x => if x.kind = .vector ∧ p ≠ .p then 120 else 0 | none => 0)
  port .a e.a + port .b e.b + port .c e.c + port .p e.p

def Entry.port (e : Entry) : Port → Option TokVal
  | .a => e.a | .b => e.b | .c => e.c | .p => e.p
def Entry.put (e : Entry) (p : Port) (v : TokVal) : Entry :=
  match p with
  | .a => { e with a := some v } | .b => { e with b := some v } | .c => { e with c := some v } | .p => { e with p := some v }

/-- Whether an entry holds every port that the node requires. -/
def entryFull (w : RecordWord) (e : Entry) : Bool :=
  [Port.a, .b, .c, .p].all fun p => !requires w p || (e.port p).isSome

/-- Where tokens of an activation's node are kept. -/
def findEntry (s : State) (a k : Nat) : Option Entry := s.entries.find? fun e => e.act == a && e.node == k
/-- Replace or add an entry. -/
def putEntry (s : State) (e : Entry) : State :=
  { s with entries := s.entries.filter (fun x => !(x.act == e.act && x.node == e.node)) ++ [e] }

/-- The BLOCK_SHAPE of an offending token: of the activation that produced it, and once that has committed, of the receiver
(R48, R91, R419). -/
def tokenFault (s : State) (n : NetToken) (a k : Nat) : State :=
  if actLive (actOf s n.prod) && !n.ret then raise s n.prod n.prodNode { cls := .blockShape }
  else raise s a (k % 128) { cls := .blockShape }

/-- One step of a COMB (R359): `op` combines two values. -/
abbrev CombStep := TokVal → TokVal → TokVal

/-- JOIN and COMB, whose entry takes every token at A (R62, R359). -/
def countForm (w : RecordWord) : Bool := recOpc w == 0x05 || recOpc w == 0x79

/-- A JOIN or COMB entry has counted all its tokens (R359, R387): N of them, or for a COMB with N 0 one with EOS. -/
def countDone (w : RecordWord) (e : Entry) : Bool :=
  let n := (w.extractLsb' 0 16).toNat
  if recOpc w = 0x05 then decide (e.count = n)
  else if n = 0 then e.parts.any fun x => x.2.eos
  else decide (e.count = n)

/-- Take one token into the count and the partial value of a JOIN or COMB entry. -/
def countOne (w : RecordWord) (comb : RecordWord → CombStep) (e : Entry) (prod : Nat) (v : TokVal) : Entry :=
  let old := e.a.getD nullTok
  let val : TokVal :=
    if e.a.isNone ∨ old.kind = .null then { v.unmarked with poi := old.poi || v.poi }
    else if v.kind = .null then { old with poi := old.poi || v.poi }
    else { (if recOpc w = 0x05 then old else comb w old v) with poi := old.poi || v.poi }
  { e with a := some val, count := e.count + 1, parts := e.parts ++ [(prod, v)] }

/-- The entry with its cycle of completion, once all is counted and P is there when it is required. -/
def countStamp (w : RecordWord) (e : Entry) (cycle : Nat) : Entry :=
  { e with stamp := if countDone w e && (!requires w .p || e.p.isSome) then some cycle else none }

/-- Count a token at a JOIN or COMB entry (R62, R359, R387). -/
def countToken (w : RecordWord) (comb : RecordWord → CombStep) (e : Entry) (prod : Nat) (v : TokVal) (cycle : Nat) : Entry :=
  countStamp w (countOne w comb e prod v) cycle

/-- A JOIN or COMB entry that a purge has left without its partial value: combined anew from the tokens that stay (R70). -/
def recount (comb : RecordWord → CombStep) (s : State) (e : Entry) : Entry :=
  let w := imgRec (actOf s e.act).image e.node
  if e.parts.isEmpty || e.a.isSome then e
  else countStamp w (e.parts.foldl (fun e x => countOne w comb e x.1 x.2) { e with parts := [], count := 0 }) s.cycle

/-- The tokens of the spill area that belong to a node of an activation. -/
def spilledFor (s : State) (a k : Nat) : List Spilled :=
  s.spilled.filter fun x => x.t.tok.node == k && (match x.t.dest with | .node b => b == a | _ => false)

/-- A null token to a memory record resolves that record's LSID when it is received (R32, R183). -/
def nullLsid (s : State) (a : Nat) (w : RecordWord) (v : TokVal) : State :=
  if memForm (recOpc w) && v.kind == .null && !v.poi then
    updAct s a fun x => { x with resolved := x.resolved ||| 1#32 <<< (w.extractLsb' 44 5).toNat }
  else s

/-- The parity check of a token that is refilled (R75, R80, Table 10.6): a lasting failure names no unit. DESIGN CHOICE (log 53): PLOG names the EN
of its destination node, and for a token that waits for an activation EN 0 of its home quad. -/
def refillCheck (s : State) (n : NetToken) (q : Nat) : NetToken × State :=
  let place : BitVec 16 := match n.dest with | .node a => enCoord (enOf (actOf s a) n.tok.node) | .slot _ _ | .far => enCoord (4 * q)
  let (m, s) := parityCheck s { n with unit := place } none
  ({ m with unit := n.unit }, s)

/-- The device reads the entry of a spilled token in the token-spill area. -/
def readSpilled (s : State) (y : Spilled) : State := touchArea s ((partOf s y.t.part).tksb.toNat + 1536 * y.slot) 1536

/-- Match a token at a node of an activation that has started: entry, count, completion, spill (R47 to R49, R62, R75). -/
def matchToken (comb : RecordWord → CombStep) (s : State) (a : Nat) (n : NetToken) (room : Bool) : State :=
  let x := actOf s a
  let k := n.tok.node
  let p := n.tok.port
  let w := imgRec x.image k
  let en := enOf x k
  let q := en / 4
  if imgNcnt x.image ≤ k ∨ !consumes w p then tokenFault s n a k
  else if p = .c ∧ modeForm (recOpc w) then modeToken s x.sleeve n.prod x.blk k n.tok.v
  else if x.fired.getLsbD k then tokenFault s n a k
  else
    let v := n.tok.v.cut x.grant
    let v := if p = .p ∧ v.kind = .vector then { v with ln := 1, val := valueOfNat (v.lane 0) } else v
    let counts := countForm w && p == .a
    let old := findEntry s a k
    let e0 : Entry := old.getD { quad := q, en := en, act := a, node := k }
    if e0.stamp.isSome ∨ (if counts then countDone w e0 else (e0.port p).isSome) then tokenFault s n a k
    else
      let e := if counts then countToken w comb e0 n.prod v s.cycle
        else if countForm w then countStamp w (e0.put p v) s.cycle
        else
          let e := e0.put p v
          { e with stamp := if entryFull w e then some s.cycle else none }
      let e := { e with prods := e.prods ++ [(p.code.toNat, n.prod)] }
      let bytes := if e.stamp.isSome then e0.bytes else entryBytes w e
      let need := (if old.isNone then 1 else 0, bytes - e0.bytes)
      if e.stamp.isSome ∨ room ∨ (quadEntries s q + need.1 ≤ 2048 ∧ quadBytes s q + need.2 ≤ 262144) then
        nullLsid (putEntry s { e with bytes := bytes }) a w v
      else spill s { n with dest := .node a } a q

/-- The entry and the operand-buffer bytes that tokens for one node of an activation take beside what its entry holds (R49). -/
def partnerNeed (s : State) (a k : Nat) (ts : List NetToken) : Nat × Nat :=
  let x := actOf s a
  let w := imgRec x.image k
  let old := findEntry s a k
  let e0 : Entry := old.getD {}
  let e := ts.foldl (fun e n => e.put n.tok.port (n.tok.v.cut x.grant)) e0
  (if old.isNone then 1 else 0, entryBytes w e - e0.bytes)

/-- A token arrives at a node of an activation: spilled partners are refilled first, with a parity check, when they can be given an entry
(R75, R80). -/
def arrive (comb : RecordWord → CombStep) (s : State) (a : Nat) (n : NetToken) : State :=
  let x := actOf s a
  let partners := spilledFor s a n.tok.node
  let q := enOf x n.tok.node / 4
  if partners.isEmpty then matchToken comb s a n false
  else if quadRoom s q (partnerNeed s a n.tok.node (partners.map (·.t))) then
    let s := { s with spilled := s.spilled.filter fun y => !partners.contains y }
    let s := partners.foldl (fun s y =>
      let (m, s) := refillCheck (readSpilled s y) y.t q
      matchToken comb s a m true) s
    matchToken comb (updPart s x.part fun p => { p with tkrc := p.tkrc + BitVec.ofNat 64 partners.length }) a n false
  else spill s { n with dest := .node a } a q

/-- A value arrives at a write slot (R63, R64, R33): one the header does not declare, or a second value, is BLOCK_SHAPE; a
poisoned one kills the activation. -/
def arriveSlot (s : State) (a i : Nat) (n : NetToken) : State :=
  let x := actOf s a
  let v := n.tok.v
  if !actLive x then dead s n.part 1
  else if v.poi then raise s a 0 { cls := .poison }
  else if imgWcnt x.image ≤ i ∨ x.slots.any (fun y => y.1 == i) then raise s a 0 { cls := .blockShape }
  else updAct s a fun x => { x with slots := x.slots ++ [(i, v)] }

/-- A value arrives at a write slot; the twin of a lined activation receives an LCMP's (R304). -/
def deliverSlot (s : State) (a i : Nat) (n : NetToken) : State :=
  let x := actOf s a
  let t := arriveSlot s a i n
  if n.both && x.twin != 0 && !x.isTwin && actLive (actOf t x.twin) then arriveSlot t x.twin i n else t

/-- The activation that R46 gives a far token, among those that are in flight: in the producer's own thread the next one
after it; in another thread the oldest whose destination node has not fired. -/
def farReceiver (s : State) (n : NetToken) : Option Nat :=
  let c := s.acts.filter fun x =>
    x.2.part == n.part && x.2.tag == n.tok.tag && x.2.blk == n.tok.blk && actLive x.2 && !x.2.isTwin &&
      (if n.tok.tag == n.prodTag && n.prod != 0 && !n.ret then decide (n.prodSeq < x.2.seq)
       else !x.2.fired.getLsbD n.tok.node)
  (c.foldl (fun b x => match b with
      | none => some (x.1, x.2.seq)
      | some (i, q) => if x.2.seq < q then some (x.1, x.2.seq) else some (i, q)) none).map (·.1)

/-- A port of an activation's block is a mode port (R122). -/
def modePort (x : Act) (n : NetToken) : Bool := n.tok.port == .c && modeForm (recOpc (imgRec x.image n.tok.node))

/-- Deliver a token to an activation that has started, checked for parity at its entry to the matching store (R31, R308), and to its twin,
which makes for itself what its own nodes but the LCMPs produce (R304); a mode token takes effect on both sleeves at once, and a token that
Faults its producer or its receiver goes no further. -/
def deliverTo (comb : RecordWord → CombStep) (s : State) (a : Nat) (n : NetToken) : State :=
  let x := actOf s a
  let (n, s) := parityCheck s n (some (enCoord (enOf x n.tok.node)))
  let t := arrive comb s a n
  let lost := actLive (actOf s n.prod) && !actLive (actOf t n.prod)
  if x.twin != 0 && !x.isTwin && (n.prod != a || n.both) && !modePort x n && !lost && actLive (actOf t x.twin) then arrive comb t x.twin n else t

/-- Put a push, back-edge or LCNT token with its loop instance (R53, R54), in its colour's home quad or, when that is full, in the token-spill
area (R75, R77); one for an iteration after the leaving one is discarded (R55). The first token of an iteration that is not admitted creates
its first activation, Held (R67). -/
def loopToken (s : State) (l : Nat) (j : Nat) (n : NetToken) : State :=
  let x := loopOf s l
  if x.done || (match x.left with | some i => decide (i < j) | none => false) then dead s x.part 1
  else
    let q := homeQuad (sleeveOf s x.sleeve) (tagColour x.parent)
    let tag := iterTag x j
    let s := if s.threads.any fun h => h.part == x.part && h.tag == tag && !h.ended && h.loop == l && h.iter == j then s
      else heldThread s x.part tag x.head (if x.counted.isSome then x.entry else n.prod) l j
    if quadRoom s q (1, farBytes n) then updLoop s l fun x => { x with waiting := x.waiting ++ [(j, n)] }
    else spill s { n with dest := .far } 0 q

/-- Whether a far token is for the mode port of a converting node of a block whose verified image is known (R122). -/
def toModePort (s : State) (n : NetToken) : Bool :=
  match imageFor s n.sleeve n.tok.blk with
  | some img => n.tok.port == .c && decide (n.tok.node < imgNcnt img) && modeForm (recOpc (imgRec img n.tok.node))
  | none => false

/-- A far token for port C of a block whose image is not known: it may be a mode token (R122). -/
def mayBeMode (s : State) (n : NetToken) : Bool := n.tok.port == .c && (imageFor s n.sleeve n.tok.blk).isNone

/-- Give a far token to the activation that R46 names, or let it wait for it. -/
def deliverFar (comb : RecordWord → CombStep) (s : State) (n : NetToken) : State :=
  if toModePort s n then modeToken s n.sleeve n.prod n.tok.blk n.tok.node n.tok.v
  else if mayBeMode s n then { s with unsorted := s.unsorted ++ [{ n with dest := .far }] }
  else match farReceiver s n with
  | some a =>
    if (actOf s a).started then deliverTo comb (updAct s a fun x => { x with inbox := x.inbox ++ [n] }) a n
    else waitFar s n
  | none => waitFar s n

/-- A token reaches its destination quad (R41, R46 to R49, R53, R54). -/
def deliver (comb : RecordWord → CombStep) (s : State) (n : NetToken) : State :=
  match n.dest with
  | .node a =>
    if !live s (colourKey n.part (tagColour n.tok.tag)) then dead s n.part 1
    else if actLive (actOf s a) then deliverTo comb s a n else if (actOf s a).st = .committed then s else dead s n.part 1
  | .slot a i => if !live s (colourKey n.part (tagColour n.tok.tag)) then dead s n.part 1 else deliverSlot s a i n
  | .far =>
    if !live s (colourKey n.part (tagColour n.tok.tag)) then dead s n.part 1
    else
      match n.made with
      | .push =>
        match loopEntered s n.prod n.tok.blk with
        | some l =>
          let j := if (loopOf s l).counted.isSome then n.tok.v.word.toNat else 0
          if (loopOf s l).next ≤ j then loopToken s l j n else deliverFar comb s n
        | none => dead s n.part 1
      | .wave =>
        let h := threadAny s n.part n.prodTag
        match lookup s.loops h.loop with
        | none => dead s n.part 1
        | some x => if x.next ≤ h.iter + 1 then loopToken s h.loop (h.iter + 1) n else deliverFar comb s n
      | .keep | .pop | .colour | .retag => deliverFar comb s n

end Sys2Proof.Machine
end

