-- ==== Sys2Proof/Machine/Issue.lean ====
section
/-! DEFINITION. Program order (R182), which ready records are held (R17, R51, R61, R69, R74, R181, R183), issue of the head
eligible record of an EN (R50), and what the device evaluates at the end of every cycle (R73, R245, R265). -/

namespace Sys2Proof.Machine

open Sys2Proof

/-! ## Program order (R182) -/

/-- A place in program order: for every thread on the way in, outermost first, its loop instance (0 outside loops), its
iteration and the place of the activation in it. -/
abbrev OrderPath := List (Nat × Nat × Nat)

/-- The path of an activation. -/
def orderPath : Nat → State → Nat → OrderPath
  | 0, _, _ => []
  | n + 1, s, a =>
    let x := actOf s a
    if x.loop = 0 then [(0, 0, x.seq)] else orderPath n s (loopOf s x.loop).entry ++ [(x.loop, x.iter, x.seq)]

/-- Whether a path precedes another in program order, level by level; the LSIDs decide within one activation. -/
def pathBefore (s : State) : OrderPath → OrderPath → Nat → Nat → Bool
  | (l, i, q) :: xs, (m, j, r) :: ys, k1, k2 =>
    if l ≠ m then false
    else if i = j then (if q = r then pathBefore s xs ys k1 k2 else decide (q < r))
    else (loopOf s l).ordered && decide (i < j)
  | [], [], k1, k2 => decide (k1 < k2)
  | [], _ :: _, _, _ => true
  | _ :: _, [], _, _ => false

/-- Whether the record of activation `a` with LSID `i` precedes that of `b` with LSID `j` in program order. -/
def precedes (s : State) (a i b j : Nat) : Bool :=
  let x := actOf s a
  let y := actOf s b
  x.part == y.part && x.colour == y.colour && x.serial == y.serial && x.isTwin == y.isTwin
    && pathBefore s (orderPath 8 s a) (orderPath 8 s b) i j

/-- The LSID of a node's record. -/
def nodeLsid (s : State) (a node : Nat) : Nat := ((imgRec (actOf s a).image node).extractLsb' 44 5).toNat

/-! ## What holds a record -/

/-- The forms that a Predicted activation does not issue (R69); a Parked one issues every form, since R51 holds none of its records
(log 56). -/
def withheld (opc : Nat) : Bool :=
  [0x15, 0x16, 0x17, 0x18, 0x19, 0x1B, 0xA8, 0xA9, 0x64, 0x67, 0x65, 0x66, 0x68, 0xAA, 0xAB, 0xB0, 0xB5, 0xB7, 0xB8, 0xB3, 0xB6].contains opc
    || decide (0x70 ≤ opc) && decide (opc ≤ 0x79) || hemForm opc

/-- The forms that do not issue on a Throttled quad (R74). -/
def throttledForm (w : RecordWord) : Bool :=
  [0x10, 0x11, 0x14, 0x15, 0x19, 0x1B].contains (recOpc w)
    || recTg w == 1 || recTg w == 2

/-- LSID resolution of a record's LSID (R183): none unresolved below it, or its predecessor issued or resolved. -/
def lsidReady (x : Act) (own pred : Nat) : Bool :=
  if pred = 31 then (List.range own).all fun j => imgLsid x.image j / 2 ^ 15 = 0 ∨ x.resolved.getLsbD j
  else x.issued.getLsbD pred || x.resolved.getLsbD pred

/-- Whether a waiting form keeps later memory records of its thread from issuing: an acquire that is not performed, a
fence of every kind but release, and a release fence one that writes at its issue (R189, R191). -/
def blocksLater (s : State) (o : Op) (writes : Bool) : Bool :=
  let w := imgRec (actOf s o.f.act).image o.f.node
  let ordr := (w.extractLsb' 32 2).toNat
  match o.w with
  | .lds _ _ _ _ _ => true
  | .remote _ _ _ _ | .remoteAtomic _ _ _ | .window _ => ordr == 1 || ordr == 3
  | .fence _ _ _ _ _ => ordr != 2 || writes
  | _ => false

/-- The memory forms that are performed at issue at the bank (R181): LDS, LDI and the atomics. -/
def bankForm (opc : Nat) : Bool := opc == 0x64 || opc == 0x67 || decide (0x70 ≤ opc) && decide (opc ≤ 0x78)
/-- Those of them that may write: an LDS does so as LDS.E (ORDR 11, R163). -/
def bankWrites (opc ordr : Nat) : Bool := bankForm opc && (opc != 0x64 || ordr == 3)

/-- Whether two ranges of bits overlap. -/
def overlaps (a n b m : Nat) : Bool := decide (a < b + m) && decide (b < a + n)

/-- The stores of a record's thread that precede it and are not performed. -/
def earlierStores (s : State) (a lsid : Nat) : List (Nat × Store) := s.stores.filter fun x => precedes s x.2.act x.2.lsid a lsid

/-- A memory form whose place in its thread's order other agents can see when it issues: every one but the stores, which are
performed after commit (R180). -/
def orderForm (opc : Nat) : Bool := memForm opc && !([0x61, 0x63, 0x65, 0x66, 0x68, 0x6A].contains opc)
/-- CTXJ, XWAIT and KWAIT, whose answers order every record of later activations of the thread (Table 6.5). -/
def answerForm (opc : Nat) : Bool := opc == 0x17 || opc == 0x86 || opc == 0xA4
def answerWait : Wait → Bool
  | .ctxj _ _ | .xwait _ _ | .kwait _ => true
  | _ => false

/-- An activation may still issue a record that orders later activations, beside some of its nodes. -/
def openOrder (s : State) (k : Nat) (but : List Nat) : Bool :=
  let y := actOf s k
  !y.started
    || (List.range 32).any (fun j =>
      let e := imgLsid y.image j
      decide (e / 2 ^ 15 = 1) && !y.resolved.getLsbD j && orderForm (recOpc (imgRec y.image (bits e 7 7))) && !but.contains (bits e 7 7))
    || (List.range (min (imgNcnt y.image) 128)).any (fun n => answerForm (recOpc (imgRec y.image n)) && !y.fired.getLsbD n && !but.contains n)

/-- A record of a later activation is held while an earlier one of its thread may still issue what orders it, and while an answer
is awaited (R186, R189, R191, Table 6.5). -/
def laterHeld (s : State) (a own : Nat) : Bool :=
  s.acts.any (fun y => y.1 != a && actLive y.2 && precedes s y.1 31 a own && openOrder s y.1 [])
    || s.ops.any fun o => answerWait o.2.w && o.2.f.act != a && precedes s o.2.f.act 31 a own

/-- A load whose value is not fixed. -/
def openValue : Wait → Bool
  | .remote _ _ _ _ | .remoteAtomic _ _ _ | .window _ => true
  | _ => false
/-- A waiting access that is not performed: such a load, or one that waits for a word to be Full. -/
def openAccess (o : Op) : Bool := openValue o.w || match o.w with | .lds _ _ _ _ _ => true | _ => false

/-- A fence of activation `a` that has issued, of one of the kinds of Table 6.4, lies between its record of LSID `lo` and the record of
LSID `hi` of `b` (R191). -/
def fenced (s : State) (kinds : List Nat) (a lo b hi : Nat) : Bool :=
  let x := actOf s a
  (List.range (min (imgNcnt x.image) 128)).any fun k =>
    let w := imgRec x.image k
    let own := (w.extractLsb' 44 5).toNat
    recOpc w == 0x6E && kinds.contains (w.extractLsb' 32 2).toNat && x.issued.getLsbD own && decide (lo < own) && (b != a || decide (own < hi))

/-- The kinds of fence that order a load, or a store, before a later record: one that writes, or only reads (Table 6.4). -/
def loadKinds (writes : Bool) : List Nat := if writes then [0, 1, 2, 3] else [0, 1, 3]
@[inherit_doc loadKinds] def storeKinds (writes : Bool) : List Nat := if writes then [0, 2, 3] else [0]

/-- A fence of an earlier record's own activation, which does not wait for that record, holds a record behind it (R191): behind a load whose value
is not fixed, and behind a store that is not performed; a store of its own activation does not hold a load. -/
def fenceHolds (s : State) (a own : Nat) (writes : Bool) : Bool :=
  s.ops.any (fun o =>
    let i := nodeLsid s o.2.f.act o.2.f.node
    openAccess o.2 && precedes s o.2.f.act i a own && fenced s (loadKinds writes) o.2.f.act i a own)
    || (earlierStores s a own).any fun y => (writes || y.2.act != a) && fenced s (storeKinds writes) y.2.act y.2.lsid a own

/-- What the edge of a creation or a transfer's issue by an activation orders first has not all been performed (Table 6.5): an
earlier activation of its thread is in flight, a store of one is not performed, or the value of a load is not fixed. -/
def edgeHeld (s : State) (k : Nat) : Bool :=
  s.acts.any (fun y => y.1 != k && actLive y.2 && precedes s y.1 31 k 0)
    || s.stores.any (fun y => y.2.act != k && precedes s y.2.act y.2.lsid k 0)
    || s.ops.any (fun o => openValue o.2.w && (o.2.f.act == k || precedes s o.2.f.act 31 k 0))

/-- A wait whose end may depend on what its activation has created or issued: a join, a batch, a collective, a stream, a buffer, a
heavy grant that others hold, or a full/empty word. -/
def outsideWait : Wait → Bool
  | .ctxj _ _ | .xwait _ _ | .kwait _ | .xbat | .xferJoin | .xferAccept _ | .send _ _ _ | .recv _ | .cbin _ | .cbpt _ _ | .cbaq _
  | .cbrl _ | .hvya _ | .lds _ _ _ _ _ => true
  | .data _ | .remote _ _ _ _ | .remoteAtomic _ _ _ | .fence _ _ _ _ _ | .window _ | .tlbi _ _ | .pmig _ _ _ _ _ | .eret _ | .hem _
  | .place _ | .lcmp => false

/-- The nodes of its own block that a node's record sends to. -/
def ownTargets (img : Image) (k : Nat) : List Nat :=
  match comOf img k with
  | some c => [c.t0, c.t1].filterMap fun t => match t with | .node i _ _ => some i.toNat | .none | .slot _ _ | .far _ _ _ => none
  | none => []

/-- The node whose record owns an LSID, among some. -/
def ownedBy (x : Act) (l : List Nat) (j : Nat) : Bool := decide (imgLsid x.image j / 2 ^ 15 = 1) && l.contains (bits (imgLsid x.image j) 7 7)

/-- A memory record waits for an LSID that one of some nodes owns (R183). -/
def lsidBehind (x : Act) (l : List Nat) (k : Nat) : Bool :=
  let w := imgRec x.image k
  let own := (w.extractLsb' 44 5).toNat
  let pred := (w.extractLsb' 39 5).toNat
  memForm (recOpc w) &&
    if pred = 31 then (List.range own).any fun j => ownedBy x l j && !x.resolved.getLsbD j
    else ownedBy x l pred && !x.issued.getLsbD pred && !x.resolved.getLsbD pred

/-- The nodes that depend on the tokens of some nodes of their activation, or on LSIDs that those own, with those nodes. -/
def dependsOn : Nat → Act → List Nat → List Nat
  | 0, _, l => l
  | n + 1, x, l =>
    let fed := l.flatMap (ownTargets x.image)
    match (List.range (min (imgNcnt x.image) 128)).filter fun k => !l.contains k && (fed.contains k || lsidBehind x l k) with
    | [] => l
    | m => dependsOn n x (l ++ m)

/-- The records of an activation that wait for the answer of a form which may depend on what the activation has created or issued. -/
def waitingNodes (s : State) (k : Nat) : List Nat :=
  match (s.ops.filter fun o => o.2.f.act == k && outsideWait o.2.w).map (·.2.f.node) with
  | [] => []
  | l => dependsOn 128 (actOf s k) l

/-- An activation that created or issued something has loads to come, beside those that depend on a form which waits for what may come from that. -/
def loadsToCome (s : State) (k : Nat) : Bool := actLive (actOf s k) && openOrder s k (waitingNodes s k)

/-- What the edge of a creation or of a transfer's or collective's issue by an activation orders first (Table 6.5, R194): the accesses of that
activation and of those before it, the answers that those await, and what the creation of its colour orders first; by their numbers. -/
def edgesOf (s : State) (k : Nat) : List Nat :=
  let listed (i : Nat) : Bool := (lookup s.acts i).isSome || (lookup s.ops i).isSome
  [k] ++ (s.ops.filter fun o => answerWait o.2.w && o.2.f.act != k && precedes s o.2.f.act 31 k 0).map (·.1)
    ++ (colourOf s (actOf s k).colour).edges.filter listed

/-- One of these is still to come: an answer, or an access; an activation that is no longer held in the machine has performed all of its own. -/
def edgeHolds (s : State) (i : Nat) : Bool :=
  match lookup s.ops i with
  | some o => answerWait o.w
  | none => (lookup s.acts i).isSome && (edgeHeld s i || loadsToCome s i)

/-- A created colour's records wait for the edge of its creation. -/
def creationHeld (s : State) (c : Nat) : Bool := (colourOf s c).edges.any (edgeHolds s)

/-- The issue edge of a transfer or a collective lets it begin (Table 6.5): what it orders first has been performed. -/
def issueEdge (s : State) (edges : List Nat) : Bool := !edges.any (edgeHolds s)

/-- What a memory record waits for beside its LSID (R181, R189, R191). -/
def memHeld (s : State) (e : Entry) (w : RecordWord) : Bool :=
  let own := (w.extractLsb' 44 5).toNat
  let opc := recOpc w
  let ordr := (w.extractLsb' 32 2).toNat
  let va := (opWord e.a + (w.extractLsb' 0 32).signExtend 64).toNat
  let width := match Ty.ofCode (w.extractLsb' 80 4) with | some t => t.width | none => 64
  let writes := bankWrites opc ordr
  let st := earlierStores s e.act own
  !lsidReady (actOf s e.act) own (w.extractLsb' 39 5).toNat || laterHeld s e.act own || creationHeld s (actOf s e.act).colour
    || s.ops.any (fun x => blocksLater s x.2 writes && precedes s x.2.f.act (nodeLsid s x.2.f.act x.2.f.node) e.act own)
    || orderForm opc && fenceHolds s e.act own writes
    || bankForm opc && (
        st.any (fun x => x.2.kind != .scratch && x.2.elems.any fun y => overlaps y.va.toNat y.width va width)
        || opc != 0x64 && decide (2 ≤ ordr) && (!st.isEmpty || s.ops.any fun x =>
            openAccess x.2 && precedes s x.2.f.act (nodeLsid s x.2.f.act x.2.f.node) e.act own))

/-- Live colours on a sleeve (COLMAX, Table 8.4). -/
def coloursOn (s : State) (v : Nat) : Nat :=
  (s.colours.filter fun x => x.2.sleeve == v && x.2.part == (sleeveOf s v).part && x.2.st != .free).length

/-- Free colour numbers of a partition (R37). -/
def colourFree? (s : State) (p : Nat) : Bool := decide ((s.colours.filter fun x => x.2.part == p && x.2.st != .free).length < 65535)

/-- Whether CTXA, CALL and SPAWN may create a colour on a sleeve now (R37, R61, COLMAX). -/
def mayCreate (s : State) (v : Nat) : Bool :=
  let c := cfgOf s (sleeveOf s v).cfg
  colourFree? s (sleeveOf s v).part && (c.colmax = 0 || decide (coloursOn s v < c.colmax))

/-- The sleeve that a spawn word names: its own, or a first placement of its configuration (Table 14.3). -/
def spawnSleeve (s : State) (own : Nat) (a : Word) : Option Nat :=
  if a.getLsbD 16 then some own else (cfgOf s (sleeveOf s own).cfg).sleeves[(a.extractLsb' 0 16).toNat]?

/-- Islands that a T-format record names: one of the segment, or all of it. -/
def hemTargets (s : State) (v : Nat) (w : RecordWord) : List Nat :=
  match (sleeveOf s v).seg with
  | none => []
  | some (lo, n) => if w.getLsbD 43 then (List.range n).map (lo + ·) else [lo + (w.extractLsb' 44 5).toNat]

/-- Commands in flight to an island (R17). -/
def credits (s : State) (i : Nat) : Nat := (s.flights.filter fun x => x.xfer == 0 && x.isl == i).length

/-- Transfers in flight to a sleeve's transfer island (R17). -/
def xferCredits (s : State) (v : Nat) : Nat :=
  (s.xfers.filter fun x => x.2.st == .flying && some x.2.xisl == (sleeveOf s v).xisl).length

/-- Targets of a firing's record. -/
def targetCount (f : Firing) : Nat := ([f.com.t0, f.com.t1].filter fun t => t != .none).length

/-- A hem unit has the credits for the result tokens of a form: 8 may be on their way from it (R17). -/
def unitCredits (s : State) (u : BitVec 16) (f : Firing) : Bool :=
  decide ((s.net.filter fun n => n.unit == u).length + targetCount f ≤ 8)

/-- Transfers that wait at a sleeve's transfer island (R223). -/
def xferQueue (s : State) (v : Nat) : Nat :=
  (s.xfers.filter fun x => x.2.st == .queued && some x.2.xisl == (sleeveOf s v).xisl).length

/-- A transfer may go to its sleeve's transfer island: a credit of the hem channel is free, and so is a place in the island's queue of 64 for it and
for those that are on their way (R17, R223). -/
def xferRoom (s : State) (v : Nat) : Bool := decide (xferQueue s v + xferCredits s v < 64) && decide (xferCredits s v < 8)

/-- Whether the matched set's predicate selects it (R47); a null predicate does. -/
def selected (w : RecordWord) (e : Entry) : Bool :=
  match recPm w, e.p with
  | 1, some v => v.kind == .null || v.poi || v.val.getLsbD 0
  | 2, some v => v.kind == .null || v.poi || !v.val.getLsbD 0
  | _, _ => true

/-- A ready record is held (R51): by its partition, its sleeve, its activation's state, the throttle, credits, LSIDs and
order, a full queue, or want of a colour. The order of accesses does not hold a set that its predicate does not select, and a null one, which make
no access; and only a set that creates a colour waits for one (Table 8.4). -/
def held (s : State) (e : Entry) : Bool :=
  let x := actOf s e.act
  let v := sleeveOf s x.sleeve
  let w := imgRec x.image e.node
  let opc := recOpc w
  let idle := !selected w e || isNull e.a || isNull e.b || isNull e.c || isNull e.p
  let killed := isPoisoned e.a || isPoisoned e.b || isPoisoned e.c || isPoisoned e.p
  let creates := !idle && !killed
  (partOf s x.part).pstate != .running || !v.frozen.isEmpty
    || !(x.st == .predicted || x.st == .running || x.st == .parked || x.st == .complete)
    || (x.st == .predicted && withheld opc)
    || (s.throttled.contains (e.en / 4) && throttledForm w)
    || (decide (0x90 ≤ opc) && decide (opc ≤ 0x98) && (hemTargets s x.sleeve w).any fun i => decide (8 ≤ credits s i))
    || (!idle && memForm opc && memHeld s e w)
    || (decide (0x80 ≤ opc) && decide (opc ≤ 0x84) && !xferRoom s x.sleeve)
    || (decide (0xA0 ≤ opc) && decide (opc ≤ 0xA3) && decide (16 ≤ (colourOf s x.colour).colls.length))
    || (creates && (opc == 0x15 || opc == 0x19) && !mayCreate s x.sleeve)
    || (creates && opc == 0x1B && match spawnSleeve s x.sleeve (opWord e.a) with | some t => !mayCreate s t | none => false)

/-! ## Issue (R50) -/

/-- Whether a ready set comes before another: completed in an earlier cycle, or by older tag, lower colour, lower tag value
and lower node. -/
def readyBefore (s : State) (x y : Entry) : Bool :=
  let t (e : Entry) : Word := (actOf s e.act).tag
  let cx := x.stamp.getD 0
  let cy := y.stamp.getD 0
  if cx ≠ cy then decide (cx < cy)
  else if olderTag (t x) (t y) then true
  else if olderTag (t y) (t x) then false
  else if t x ≠ t y then decide ((t x).toNat < (t y).toNat)
  else decide (x.node < y.node)

/-- Put a ready set in its place in the order. -/
def insertReady (s : State) (e : Entry) : List Entry → List Entry
  | [] => [e]
  | y :: ys => if readyBefore s e y then e :: y :: ys else y :: insertReady s e ys

/-- The ready queue of an EN: the first 64 of its sets that were completed in an earlier cycle; the others stay in their entries (R50). -/
def readyQueue (s : State) (en : Nat) : List Entry :=
  ((s.entries.filter fun e => e.en == en && match e.stamp with | some c => decide (c < s.cycle) | none => false).foldl
    (fun l e => insertReady s e l) []).take 64

/-- The head eligible ready set of an EN: the first in its ready queue that is not held. -/
def headEligible (s : State) (en : Nat) : Option Entry := (readyQueue s en).find? fun e => !held s e

/-- The firing of a matched set. -/
def firingOf (s : State) (e : Entry) : Firing :=
  let x := actOf s e.act
  { part := x.part, sleeve := x.sleeve, act := e.act, node := e.node, en := e.en, tag := x.tag, blk := x.blk, grant := x.grant,
    a := e.a, b := e.b, c := e.c, p := e.p, count := e.count }

/-- What an EN does in a cycle: nothing, consume a set without effect, run a form, or meet a record that does not decode. -/
inductive Fetched where
  | idle
  | consumed (s : State)
  | run (i : Instr) (s : State)
  | undecoded
  deriving DecidableEq, Repr

/-- Issue the head eligible record of an EN: its entry is freed, its node has fired, and its record is decoded from its
block image. -/
def fetch (s : State) (en : Nat) : Fetched :=
  match headEligible s en with
  | none => .idle
  | some e =>
    let w := imgRec (actOf s e.act).image e.node
    let s' := { updAct s e.act (fun x => { x with fired := x.fired ||| 1#128 <<< e.node }) with
      entries := s.entries.filter fun y => !(y.act == e.act && y.node == e.node), cur := firingOf s e }
    if !selected w e then .consumed s'
    else match decode (bytesOfNat 12 w.toNat) with
      | .ok i => .run i s'
      | .error _ => .undecoded

/-! ## The end of a cycle -/

/-- The throttle state of one quad (R73), and MSHW. -/
def throttleQuad (s : State) (q : Nat) : State :=
  match partOfQuad s q with
  | none => s
  | some p =>
    let x := partOf s p
    let o := occupancy s q
    let s := updPart s p fun x => { x with mshw := max x.mshw (quadEntries s q) }
    if s.throttled.contains q then (if o < x.off then { s with throttled := s.throttled.filter (· != q) } else s)
    else if x.on ≤ o then updPart { s with throttled := insertNat s.throttled q } p fun x => { x with thrc := x.thrc + 1 }
    else s

/-- The quads whose throttle state may change: those that hold tokens and those that are Throttled. -/
def busyQuads (s : State) : List Nat :=
  (s.throttled ++ s.entries.map (·.quad) ++ s.far.map (·.quad)
    ++ s.loops.map fun x => homeQuad (sleeveOf s x.2.sleeve) (tagColour x.2.parent)).foldl (fun l q => if l.contains q then l else l ++ [q]) []

/-- STATE of a cuff (R245). -/
def cuffState (s : State) (c : Nat) : State :=
  let x := queueOf s c
  let n := x.fifo.length
  let rec' (s : State) (t : Nat) : State := if egressFull s c then s else egress s c t 0 0 [BitVec.ofNat 64 n]
  if x.on ∧ x.xoff ≤ n then rec' (updQueue s c fun x => { x with on := false }) 7
  else if !x.on ∧ n ≤ x.xon then rec' (updQueue s c fun x => { x with on := true }) 8
  else s

/-- The roots of a queue that are live. -/
def liveRoots (s : State) (q : Nat) : List Colour :=
  (s.colours.filter fun x => x.2.st != .free && match x.2.root with | some r => r.queue == q | none => false).map (·.2)

/-- The watchdog threshold of a queue in cycles; 0 when it is disabled (R265). -/
def watchdogLimit (s : State) (q : Nat) : Nat :=
  let w := ((liveRoots s q).map fun c => (cfgOf s (sleeveOf s c.sleeve).cfg).wdt).filter (· != 0)
  65536 * (match w with | [] => (queueOf s q).qwdt | x :: xs => xs.foldl min x)

/-- An access of a partition is parked, for the watchdog (R265): a Parked activation, a transfer range, a TMMA or TSCL, or a collective
waits for replay. -/
def accessParked (s : State) (p : Nat) : Bool :=
  s.parked.any fun x => x.part == p && ((actOf s x.act).st == .parked ||
    match x.what with | .range _ _ _ | .tmma _ | .tscl _ _ | .coll _ => true | .form _ | .fetch _ | .token _ _ | .colour _ | .store _ | .fence _ => false)

/-- The watchdog counter of a queue in one cycle (R265); `old` is the state at the cycle's start. -/
def watchdogCount (old s : State) (q : Nat) : State :=
  match partOfCuff s q with
  | none => s
  | some p =>
    if !(queueOf s q).en then s
    else if s.acts.any (fun x => x.2.part == p && x.2.st == .committed && (actOf old x.1).st != .committed) then
      updQueue s q fun x => { x with qwdc := 0 }
    else if !(liveRoots s q).isEmpty && !accessParked s p && (partOf s p).pstate != .frozen then
      updQueue s q fun x => { x with qwdc := (x.qwdc + 1) % 2 ^ 48 }
    else s

/-- The end of a cycle that began in state `old`. -/
def endCycle (old s : State) : State :=
  let qs := s.queues.map (·.1)
  let s := qs.foldl cuffState s
  let s := qs.foldl (watchdogCount old) s
  let s := (busyQuads s).foldl throttleQuad s
  { s with cycle := s.cycle + 1 }

end Sys2Proof.Machine
end

