-- ==== Sys2Proof/Machine/Numbers.lean ====
section
/-! DEFINITION. Number formats (R110 to R113), rounding (R117 to R119), saturation (R120), stochastic draws (R124 to R126),
exact arithmetic, the correctly rounded functions, and island promotion (R131, R132, R134). -/

namespace Sys2Proof.Machine

open Sys2Proof

/-! ## Exact numbers -/

/-- What an element stands for: a NaN or an infinity with its sign, or ± num / den × 2^ex with den ≥ 1; a zero keeps its sign. -/
inductive Num where
  | nan (neg : Bool)
  | inf (neg : Bool)
  | fin (neg : Bool) (num den : Nat) (ex : Int)
  deriving DecidableEq, Repr

/-- 2^n × x for a signed n, as numerator and denominator. -/
def scaleUp (x : Nat) (n : Int) : Nat := x * 2 ^ n.toNat
/-- The numerator and the denominator of ± num / den × 2^ex without its exponent. -/
def fracOf (num den : Nat) (ex : Int) : Nat × Nat := (scaleUp num ex, scaleUp den (-ex))

def Num.zero (neg : Bool) : Num := .fin neg 0 1 0
def Num.ofInt (x : Int) : Num := .fin (decide (x < 0)) x.natAbs 1 0
def Num.isNan : Num → Bool
  | .nan _ => true
  | .inf _ | .fin _ _ _ _ => false
def Num.isInf : Num → Bool
  | .inf _ => true
  | .nan _ | .fin _ _ _ _ => false
def Num.isZero : Num → Bool
  | .fin _ n _ _ => n == 0
  | .nan _ | .inf _ => false
def Num.neg : Num → Bool
  | .nan s | .inf s | .fin s _ _ _ => s
def Num.withSign (x : Num) (s : Bool) : Num :=
  match x with
  | .nan _ => .nan s
  | .inf _ => .inf s
  | .fin _ n d e => .fin s n d e

/-- A signed number over a common denominator, as an integer numerator, its denominator and exponent. -/
def signedNum (neg : Bool) (num : Nat) : Int := if neg then -(num : Int) else num

/-- The exact sum of two finite numbers: numerator, denominator, exponent. -/
def sumFin (s1 : Bool) (n1 d1 : Nat) (e1 : Int) (s2 : Bool) (n2 d2 : Nat) (e2 : Int) : Int × Nat × Int :=
  let e := min e1 e2
  (signedNum s1 (scaleUp (n1 * d2) (e1 - e)) + signedNum s2 (scaleUp (n2 * d1) (e2 - e)), d1 * d2, e)

/-- The order of two finite numbers: their exact difference is negative, zero or positive. -/
def diffSign (s1 : Bool) (n1 d1 : Nat) (e1 : Int) (s2 : Bool) (n2 d2 : Nat) (e2 : Int) : Int :=
  (sumFin s1 n1 d1 e1 (!s2) n2 d2 e2).1.sign

/-- Exact comparison: none when either is a NaN (R380). -/
def Num.compare : Num → Num → Option Int
  | .nan _, _ | _, .nan _ => none
  | .inf a, .inf b => some (if a = b then 0 else if a then -1 else 1)
  | .inf a, .fin _ _ _ _ => some (if a then -1 else 1)
  | .fin _ _ _ _, .inf b => some (if b then 1 else -1)
  | .fin s1 n1 d1 e1, .fin s2 n2 d2 e2 => some (diffSign s1 n1 d1 e1 s2 n2 d2 e2)

/-! ## Float formats (Table 4.1) -/

/-- Which codes a format reserves: an IEEE exponent of all ones, the one E4M3 NaN, or none. -/
inductive Specials where
  | ieee | nanOnly | none
  deriving DecidableEq, Repr

/-- Exponent bits, mantissa bits and bias of a float type. -/
structure Fmt where
  width : Nat
  eb    : Nat
  mb    : Nat
  bias  : Nat
  sp    : Specials
  deriving DecidableEq, Repr

/-- Table 4.1. -/
def fmtOf : Ty → Fmt
  | .e4m3 => ⟨8, 4, 3, 7, .nanOnly⟩
  | .e5m2 => ⟨8, 5, 2, 15, .ieee⟩
  | .e3m2 => ⟨6, 3, 2, 3, .none⟩
  | .e2m3 => ⟨6, 2, 3, 1, .none⟩
  | .e2m1 => ⟨4, 2, 1, 1, .none⟩
  | .f16 => ⟨16, 5, 10, 15, .ieee⟩
  | .bf16 => ⟨16, 8, 7, 127, .ieee⟩
  | .f32 | .i64 | .i32 | .i16 | .i8 | .i6 | .i4 | .i3 => ⟨32, 8, 23, 127, .ieee⟩

/-- The magnitude code of the largest finite number. -/
def Fmt.maxCode (f : Fmt) : Nat :=
  match f.sp with
  | .ieee => (2 ^ f.eb - 1) * 2 ^ f.mb - 1
  | .nanOnly => 2 ^ (f.width - 1) - 2
  | .none => 2 ^ (f.width - 1) - 1
/-- A pattern from a sign and a magnitude code. -/
def Fmt.code (f : Fmt) (neg : Bool) (m : Nat) : Nat := (if neg then 2 ^ (f.width - 1) else 0) + m
/-- The canonical NaN (R111). -/
def Fmt.nanCode (f : Fmt) (neg : Bool) : Nat :=
  match f.sp with
  | .ieee => f.code neg ((2 ^ f.eb - 1) * 2 ^ f.mb + 2 ^ (f.mb - 1))
  | .nanOnly => f.code neg (2 ^ (f.width - 1) - 1)
  | .none => 0
/-- The infinity. -/
def Fmt.infCode (f : Fmt) (neg : Bool) : Nat := f.code neg ((2 ^ f.eb - 1) * 2 ^ f.mb)

/-- What a pattern stands for (R110). -/
def readFloat (f : Fmt) (x : Nat) : Num :=
  let s := decide (bits x (f.width - 1) 1 = 1)
  let e := bits x f.mb f.eb
  let m := x % 2 ^ f.mb
  let fin : Num := if e = 0 then .fin s m 1 (1 - (f.bias : Int) - f.mb) else .fin s (2 ^ f.mb + m) 1 ((e : Int) - f.bias - f.mb)
  match f.sp with
  | .ieee => if e = 2 ^ f.eb - 1 then (if m = 0 then .inf s else .nan s) else fin
  | .nanOnly => if x % 2 ^ (f.width - 1) = 2 ^ (f.width - 1) - 1 then .nan s else fin
  | .none => fin

/-- What an element of a type stands for; `u` reads an integer unsigned (R113). -/
def readElem (t : Ty) (u : Bool) (x : Nat) : Num :=
  if t.isFloat then readFloat (fmtOf t) (x % 2 ^ t.width)
  else .ofInt (if u then ((x % 2 ^ t.width : Nat) : Int) else signedOf t.width x)

/-! ## Rounding (R117, R118, R126) -/

/-- Floor of the base-2 logarithm of num / den, both positive. -/
def floorLog2 (num den : Nat) : Int :=
  let k : Int := (Nat.log2 num : Int) - Nat.log2 den
  let (n, d) := fracOf num den (-k)
  if d ≤ n then k else k - 1

/-- The integer that n / d rounds to: `neg` is the sign, `draw` the 32 random bits of RSR. -/
def roundQuot (m : Rnd) (neg : Bool) (draw n d : Nat) : Nat :=
  let q := n / d
  let r := n % d
  let up : Bool := match m with
    | .rne => decide (d < 2 * r) || decide (2 * r = d) && decide (q % 2 = 1)
    | .rtz => false
    | .rup => decide (r ≠ 0) && !neg
    | .rdn => decide (r ≠ 0) && neg
    | .rna => decide (d ≤ 2 * r)
    | .rsr => decide (2 ^ 32 ≤ r * 2 ^ 32 / d + draw)
  if up then q + 1 else q

/-- The magnitude code of a finite non-zero number rounded with unbounded exponent; a code above the format's largest is an
overflow (R118). -/
def roundCode (f : Fmt) (m : Rnd) (neg : Bool) (draw num den : Nat) (ex : Int) : Nat :=
  let e := floorLog2 num den + ex
  let u := max e (1 - (f.bias : Int)) - f.mb
  let (n, d) := fracOf num den (ex - u)
  let q := roundQuot m neg draw n d
  ((u + f.mb + f.bias - 1).toNat) * 2 ^ f.mb + q

/-- Whether the IEEE 754 overflow result of a mode is an infinity (R120). -/
def overflowInf (m : Rnd) (neg : Bool) : Bool :=
  match m with
  | .rne | .rna | .rsr => true
  | .rtz => false
  | .rup => !neg
  | .rdn => neg

/-- An overflow (Table 4.4). -/
def satOverflow (f : Fmt) (m : Rnd) (s : Sat) (neg : Bool) : Nat :=
  match s, f.sp with
  | .none, .ieee => if overflowInf m neg then f.infCode neg else f.code neg f.maxCode
  | .none, .nanOnly => if overflowInf m neg then f.nanCode neg else f.code neg f.maxCode
  | _, _ => f.code neg f.maxCode
/-- An infinite source (Table 4.4). -/
def satInf (f : Fmt) (s : Sat) (neg : Bool) : Nat :=
  match s, f.sp with
  | .none, .ieee => f.infCode neg
  | .none, .nanOnly => f.nanCode neg
  | _, _ => f.code neg f.maxCode
/-- A NaN source (Table 4.4). -/
def satNan (f : Fmt) (s : Sat) (neg : Bool) : Nat :=
  match s, f.sp with
  | .sat, _ | _, .none => 0
  | _, _ => f.nanCode neg

/-- A number as a float pattern: rounded once, then saturated; `ftz` flushes a subnormal result to zero (R119). -/
def writeFloat (f : Fmt) (m : Rnd) (s : Sat) (ftz : Bool) (draw : Nat) (x : Num) : Nat :=
  match x with
  | .nan n => satNan f s n
  | .inf n => satInf f s n
  | .fin n num den ex =>
    if num = 0 then f.code n 0
    else
      let c := roundCode f m n draw num den ex
      if f.maxCode < c then satOverflow f m s n
      else if ftz && decide (c < 2 ^ f.mb) then f.code n 0
      else f.code n c

/-- A number as an integer pattern of a width: rounded to the unit and clamped (Table 4.4, integer from float). -/
def writeInt (w : Nat) (u : Bool) (m : Rnd) (draw : Nat) (x : Num) : Nat :=
  let lo : Int := if u then 0 else -((2 ^ (w - 1) : Nat) : Int)
  let hi : Int := if u then ((2 ^ w - 1 : Nat) : Int) else ((2 ^ (w - 1) - 1 : Nat) : Int)
  match x with
  | .nan _ => 0
  | .inf n => patternOf w (if n then lo else hi)
  | .fin n num den ex =>
    let (a, b) := fracOf num den ex
    patternOf w (max lo (min hi (signedNum n (roundQuot m n draw a b))))

/-- An integer as an integer pattern: low bits under SAT 00, clamped otherwise (Table 4.4, integer from integer). -/
def narrowInt (w : Nat) (u clamp : Bool) (x : Int) : Nat :=
  let lo : Int := if u then 0 else -((2 ^ (w - 1) : Nat) : Int)
  let hi : Int := if u then ((2 ^ w - 1 : Nat) : Int) else ((2 ^ (w - 1) - 1 : Nat) : Int)
  patternOf w (if clamp then max lo (min hi x) else x)

/-- Flush a subnormal operand of a format to zero of its sign (R119). -/
def flushIn (f : Fmt) (ftz : Bool) (x : Num) : Num :=
  match x with
  | .fin s n d e => if ftz && n != 0 && decide (floorLog2 n d + e < 1 - (f.bias : Int)) then .fin s 0 1 0 else .fin s n d e
  | .nan _ | .inf _ => x

/-- Operand modifier NA (Table 3.9). -/
def applyNa (m : Modifier) (x : Num) : Num :=
  match m with
  | .keep => x
  | .neg => x.withSign (!x.neg)
  | .abs => x.withSign false
  | .nabs => x.withSign true

/-! ## Stochastic draws (R125) -/

/-- Mix64. -/
def mix64 (x : Word) : Word :=
  let x := (x ^^^ (x >>> 30)) * 0xBF58476D1CE4E5B9#64
  let x := (x ^^^ (x >>> 27)) * 0x94D049BB133111EB#64
  x ^^^ (x >>> 31)

/-- DrawBits. -/
def drawBits (seed loc sub rid : Word) : Nat := (mix64 (mix64 (seed ^^^ loc) ^^^ sub ^^^ (rid <<< 40))).toNat % 2 ^ 32

/-- Mix32 and DrawKeyOf (R40). -/
def mix32 (x : BitVec 32) : BitVec 32 :=
  let x := (x ^^^ (x >>> 16)) * 0x045D9F3B#32
  let x := (x ^^^ (x >>> 16)) * 0x045D9F3B#32
  x ^^^ (x >>> 16)
@[inherit_doc mix32] def drawKeyOf (pk : BitVec 32) (t : Word) (node : Nat) (s : BitVec 32) : BitVec 32 :=
  mix32 (pk ^^^ t.extractLsb' 0 32 ^^^ (((t.extractLsb' 32 8).setWidth 32 ^^^ BitVec.ofNat 32 node) <<< 24) ^^^ mix32 s)

/-! ## Exact operations (R377, R378) -/

/-- The NaN that the first NaN operand gives (R111). -/
def firstNan : List Num → Option Num
  | [] => none
  | .nan s :: _ => some (.nan s)
  | _ :: xs => firstNan xs

/-- a + b. The sign of an exact zero sum of opposite signs is plus, minus under RDN (R118). -/
def addNum (m : Rnd) (a b : Num) : Num :=
  match a, b with
  | .nan s, _ => .nan s
  | _, .nan s => .nan s
  | .inf s, .inf t => if s = t then .inf s else .nan false
  | .inf s, .fin _ _ _ _ => .inf s
  | .fin _ _ _ _, .inf t => .inf t
  | .fin s1 n1 d1 e1, .fin s2 n2 d2 e2 =>
    let (x, d, e) := sumFin s1 n1 d1 e1 s2 n2 d2 e2
    if x = 0 then .fin (if s1 = s2 then s1 else decide (m = .rdn)) 0 1 0 else .fin (decide (x < 0)) x.natAbs d e

/-- a × b. DESIGN CHOICE (log 53): an integer has one zero, and the spec does not say which sign its product with a negative float has where the
result is a float (R128); the product takes the sign that R111 gives floats, so that 0 times a negative factor is −0. -/
def mulNum (a b : Num) : Num :=
  match a, b with
  | .nan s, _ => .nan s
  | _, .nan s => .nan s
  | .inf s, .inf t => .inf (s != t)
  | .inf s, .fin t n _ _ => if n = 0 then .nan false else .inf (s != t)
  | .fin t n _ _, .inf s => if n = 0 then .nan false else .inf (s != t)
  | .fin s1 n1 d1 e1, .fin s2 n2 d2 e2 => .fin (s1 != s2) (n1 * n2) (d1 * d2) (e1 + e2)

/-- a × b + c; the first NaN in the order A, B, C gives the sign (R111). -/
def fmaNum (m : Rnd) (a b c : Num) : Num := (firstNan [a, b, c]).getD (addNum m (mulNum a b) c)

/-- a / b. -/
def divNum (a b : Num) : Num :=
  match a, b with
  | .nan s, _ => .nan s
  | _, .nan s => .nan s
  | .inf _, .inf _ => .nan false
  | .inf s, .fin t _ _ _ => .inf (s != t)
  | .fin s _ _ _, .inf t => .fin (s != t) 0 1 0
  | .fin s1 n1 d1 e1, .fin s2 n2 d2 e2 =>
    if n2 = 0 then (if n1 = 0 then .nan false else .inf (s1 != s2)) else .fin (s1 != s2) (n1 * d2) (d1 * n2) (e1 - e2)

/-- Integer square root, one bit at a time from bit `k` down. -/
def isqrt : Nat → Nat → Nat → Nat
  | 0, n, r => if (r + 1) * (r + 1) ≤ n then r + 1 else r
  | k + 1, n, r => isqrt k n (if (r + 2 ^ (k + 1)) * (r + 2 ^ (k + 1)) ≤ n then r + 2 ^ (k + 1) else r)

/-- A number just above `t` × 2^-`p`, or `t` × 2^-`p` itself: a truncation with its sticky bit. -/
def sticky (neg inexact : Bool) (t : Nat) (p : Nat) : Num := .fin neg (2 * t + if inexact then 1 else 0) 1 (-(p : Int) - 1)

/-- The square root of num / den × 2^ex as 2^(h / 2) × sqrt of an integer quotient, to 80 bits and more. -/
def sqrtFin (num den : Nat) (ex : Int) : Num :=
  let k : Int := (200 - floorLog2 num den - ex) / 2
  let (n, d) := fracOf num den (ex + 2 * k)
  let t := isqrt 140 (n / d) 0
  .fin false (2 * t + if t * t * d = n then 0 else 1) 1 (-k - 1)

/-- The square root. -/
def sqrtNum : Num → Num
  | .nan s => .nan s
  | .inf s => if s then .nan false else .inf false
  | .fin s n d e => if n = 0 then .fin s 0 1 0 else if s then .nan false else sqrtFin n d e

/-- The reciprocal. -/
def rcpNum (a : Num) : Num := divNum (.fin false 1 1 0) a

/-- The reciprocal square root. -/
def rsqNum : Num → Num
  | .nan s => .nan s
  | .inf s => if s then .nan false else .zero false
  | .fin s n d e => if n = 0 then .inf s else if s then .nan false else sqrtFin d n (-e)

/-! ## Exponential, logarithm and hyperbolic tangent (R377), in fixed point of `prec` fraction bits (log 12) -/

/-- Fraction bits of the fixed-point work: a result is within 2^-300 of the exact one. -/
def prec : Nat := 320

/-- 2 × artanh (a / b) for a < b / 2: the series with its first `k` terms. -/
def twoArtanh (a b k : Nat) : Nat :=
  let z := a * 2 ^ prec / b
  let z2 := z * z / 2 ^ prec
  ((List.range k).foldl (fun (acc, p) i => (acc + 2 * p / (2 * i + 1), p * z2 / 2 ^ prec)) (0, z)).1

/-- ln 2. -/
def ln2 : Nat := twoArtanh 1 3 110

/-- exp x for x in [0, 1). -/
def expFix (x : Nat) : Nat :=
  ((List.range 90).foldl (fun (acc, p) i => (acc + p, p * x / 2 ^ prec / (i + 1))) (0, 2 ^ prec)).1

/-- 2 to the power of num / den × 2^ex, as a number; beyond ±4,096 the value stands for any so large or so small. -/
def exp2Fin (neg : Bool) (num den : Nat) (ex : Int) : Num :=
  if num = 0 then .fin false 1 1 0
  else if 12 ≤ floorLog2 num den + ex then .fin false 1 1 (if neg then -4096 else 4096)
  else
    let (n, d) := fracOf num den ex
    let x := signedNum neg n
    let i := x / (d : Int)
    let r := (x % (d : Int)).toNat
    if r = 0 then .fin false 1 1 i
    else if floorLog2 r d + 200 < 0 then .fin false (2 ^ 200 + 1) 1 (i - 200)
    else .fin false (2 * expFix (r * 2 ^ prec / d * ln2 / 2 ^ prec) + 1) 1 (i - prec - 1)

/-- FEX2. -/
def exp2Num : Num → Num
  | .nan s => .nan s
  | .inf s => if s then .zero false else .inf false
  | .fin s n d e => exp2Fin s n d e

/-- FLG2. -/
def log2Num : Num → Num
  | .nan s => .nan s
  | .inf s => if s then .nan false else .inf false
  | .fin s n d e =>
    if n = 0 then .inf true
    else if s then .nan false
    else
      let k := floorLog2 n d
      let (a, b) := fracOf n d (-k)
      if a = b then .ofInt (k + e)
      else
        let f := twoArtanh (a - b) (a + b) 110 * 2 ^ prec / ln2
        let x : Int := (k + e) * (2 ^ prec : Nat) + f
        .fin (decide (x < 0)) (2 * x.natAbs + 1) 1 (-(prec : Int) - 1)

/-- FTNH. -/
def tanhNum : Num → Num
  | .nan s => .nan s
  | .inf s => .fin s 1 1 0
  | .fin s n d e =>
    if n = 0 then .fin s 0 1 0
    else
      let k := floorLog2 n d + e
      if k < -40 then .fin s (n * 2 ^ 200 - 1) d (e - 200)
      else if 6 ≤ k then .fin s (2 ^ 200 - 1) 1 (-200)
      else
        let (a, b) := fracOf n d (e + 1)
        let y := a * 2 ^ (2 * prec) / b / ln2
        let i := y / 2 ^ prec
        let t := expFix (y % 2 ^ prec * ln2 / 2 ^ prec) * 2 ^ i
        .fin s (2 * ((t - 2 ^ prec) * 2 ^ prec / (t + 2 ^ prec)) + 1) 1 (-(prec : Int) - 1)

/-! ## Island promotion (R131, R132, R134) -/

/-- Round to F32 under RNE, as a pattern. -/
def roundF32 (x : Num) : Nat := writeFloat (fmtOf .f32) .rne .none false 0 x
/-- An F32 pattern as a number. -/
def ofF32 (x : Nat) : Num := readFloat (fmtOf .f32) x

/-- A finite product as the window takes it: sign, magnitude, exponent. A product of integers that is zero has no sign (R132): its zero factor has
exponent 0, as no float's zero has. -/
def windowTerm (a b : Num) : Option (Bool × Nat × Int) :=
  match a, b with
  | .fin s1 n1 _ e1, .fin s2 n2 _ e2 => some ((s1 != s2) && !(n1 == 0 && e1 == 0) && !(n2 == 0 && e2 == 0), n1 * n2, e1 + e2)
  | .fin _ _ _ _, .nan _ | .fin _ _ _ _, .inf _ | .nan _, _ | .inf _, _ => none

/-- The window sum of products (sign, magnitude, exponent): NVER 9 keeps 48 bits and a sticky bit, NVER 7 keeps 40. A sum of zero products is −0
when every one is. -/
def windowSum (nver : Nat) (ps : List (Bool × Nat × Int)) : Num :=
  let es := (ps.filter fun x => x.2.1 != 0).map fun x => floorLog2 x.2.1 1 + x.2.2
  match es with
  | [] => .fin (ps.all (·.1)) 0 1 0
  | e0 :: rest =>
    let e := rest.foldl max e0
    let low := if nver = 7 then e - 39 else e - 47
    let term (x : Bool × Nat × Int) : Int :=
      let (n, d) := fracOf x.2.1 1 (x.2.2 - low)
      let t := n / d
      signedNum x.1 (if nver = 7 then t else 2 * t + if n % d = 0 then 0 else 1)
    let sum := (ps.map term).foldl (· + ·) 0
    .fin (decide (sum < 0)) sum.natAbs 1 (if nver = 7 then low else low - 1)

/-- psum of a K-chunk of element pairs. -/
def psumOf (nver : Nat) (a b : List Num) : Nat :=
  match firstNan (a ++ b) with
  | some (.nan s) => (fmtOf .f32).nanCode s
  | _ =>
    let ps := List.zipWith mulNum a b
    let infs := ps.filterMap fun x => match x with | .inf s => some s | .nan _ | .fin _ _ _ _ => none
    if ps.any Num.isNan || (infs.contains true && infs.contains false) then (fmtOf .f32).nanCode false
    else match infs with
      | s :: _ => (fmtOf .f32).infCode s
      | [] => roundF32 (windowSum nver ((List.zipWith windowTerm a b).filterMap id))

/-- Promote9 and Promote7: the new accumulator element. -/
def promote (nver : Nat) (a b : List Num) (sa sb acc : Nat) : Nat :=
  let psum := psumOf nver a b
  let s := roundF32 (mulNum (ofF32 sa) (ofF32 sb))
  if nver = 7 then roundF32 (addNum .rne (ofF32 (roundF32 (mulNum (ofF32 psum) (ofF32 s)))) (ofF32 acc))
  else roundF32 (fmaNum .rne (ofF32 psum) (ofF32 s) (ofF32 acc))

/-! ## Lane reductions (R133, R134) -/

/-- One level of the pairwise tree over present and absent lanes. -/
def treeLevel (op : Nat → Nat → Nat) : List (Option Nat) → List (Option Nat)
  | x :: y :: rest =>
    (match x, y with | some a, some b => some (op a b) | some a, none => some a | none, b => b) :: treeLevel op rest
  | l => l
/-- The fixed pairwise tree over 2^k positions. -/
def treeReduce (op : Nat → Nat → Nat) : Nat → List (Option Nat) → Option Nat
  | 0, l => l.headD none
  | k + 1, l => treeReduce op k (treeLevel op l)
/-- A reduction of elements by the tree, over enough positions to hold them. -/
def reduceTree (op : Nat → Nat → Nat) (l : List Nat) : Nat :=
  ((treeReduce op 9 ((l.map some) ++ List.replicate (512 - l.length) none))).getD 0
/-- A reduction in sequence. -/
def reduceSeq (op : Nat → Nat → Nat) : List Nat → Nat
  | [] => 0
  | x :: xs => xs.foldl op x

end Sys2Proof.Machine
end

