-- ==== Sys2Proof/Machine/Life.lean ====
section
/-! DEFINITION. The life of activations, threads, loops and colours: creation (R43, R44), prediction and restart (R68 to R70,
R185), exits (R64, R70), completion and its faults (R55, R57, R63, R374, R400), promotion (R67), colours (R37 to R42, R76). -/

namespace Sys2Proof.Machine

open Sys2Proof

/-! ## Activations and threads (R44, R67) -/

/-- The activation before one in its thread that is still in flight. -/
def inFlightBefore (s : State) (x : Act) : Bool :=
  (threadOf s x.part x.tag).acts.any fun b => decide ((actOf s b).seq < x.seq)

/-- An activation's predecessor has committed (R67): every earlier activation of its thread, its creator when it is the
first, and in an ordered loop the iteration before. -/
def predCommitted (s : State) (x : Act) : Bool :=
  !inFlightBefore s x && (x.pred = 0 || (actOf s x.pred).st == .committed)
    && (x.creator = 0 || (actOf s x.creator).st == .committed)
    && (x.loop = 0 || !(loopOf s x.loop).ordered || x.iter = 0 || (loopOf s x.loop).ended.contains (x.iter - 1))

/-- The activations after one in its thread. -/
def laterInThread (s : State) (x : Act) : List Nat := (threadOf s x.part x.tag).acts.filter fun b => decide (x.seq < (actOf s b).seq)

/-- Restart activations of a thread (R70, R185): they and all that goes with them are squashed, and the first starts again. -/
def restart (s : State) (a : Nat) : State :=
  let x := actOf s a
  if !actLive x then s
  else
    let (b, s) := addAct (squash s [a] x.part) x.part x.tag x.blk .predicted x.creator x.awaits
    updAct s b fun y => { y with mismatches := x.mismatches }

/-! ## The frame that an activation reads (R45, R57) -/

/-- F and W registers as an activation of a thread reads them. -/
def frameOf (s : State) (x : Act) : Map Word × Map Value :=
  let c := colourOf s x.colour
  let (f, w) := if x.loop = 0 then (c.f, c.w) else ((loopOf s x.loop).view).getD (c.f, c.w)
  (threadOf s x.part x.tag).inner.foldl (fun (f, w) y =>
    if y.1 < 64 then (insertAt f y.1 (y.2.extractLsb' 0 64), w) else (f, insertAt w (y.1 - 64) y.2)) (f, w)

/-- A vector token of a W register, before it is cut to the lane grant (R38, R85). -/
def wideToken (v : Value) : TokVal := { kind := .vector, ln := 32, val := v }

/-- Put a register's value on the network as a token to each of the two targets of a read-table entry (R45). It has no producing activation; one
for a mode port takes effect as it is delivered, which R122 leaves open (log 53). -/
def sendRead (s : State) (a : Nat) (e : Nat) (v : TokVal) : State :=
  let x := actOf s a
  let one (s : State) (c : Nat) : State :=
    match Target.ofCode (BitVec.ofNat 12 c) with
    | some (.node k p _) =>
      launch s { tok := { tag := x.tag, blk := x.blk, node := k.toNat, port := p, v := v }, dest := .node a, part := x.part, sleeve := x.sleeve,
                 unit := enCoord (enOf x k.toNat) }
    | _ => s
  one (one s (bits e 12 12)) (bits e 0 12)

/-- Deliver the read table's F and W registers of an activation and of its twin, once (R45, R304). -/
def deliverFrame (s : State) (a : Nat) : State :=
  let x := actOf s a
  if !x.started || x.reads then s
  else
    let (f, w) := frameOf s x
    let one (s : State) (i : Nat) : State :=
      let e := imgRead x.image i
      let v : Option TokVal := match bits e 30 2 with
        | 0 => some (scalarOf (lookupD f (bits e 24 6) 0))
        | 1 => some ((wideToken (lookupD w (bits e 24 6) 0)).cut x.grant)
        | _ => none
      match v with
      | some v => let s := sendRead s a e v; if x.twin = 0 then s else sendRead s x.twin e v
      | none => s
    let s := updAct ((List.range (imgRcnt x.image)).foldl one s) a fun x => { x with reads := true }
    updAct s x.twin fun y => { y with reads := true }

/-- Deliver the read table's G registers of an activation. -/
def deliverG (s : State) (a : Nat) (from' : Nat) : State :=
  let x := actOf s a
  (List.range (imgRcnt x.image)).foldl (fun s i =>
    let e := imgRead x.image i
    if bits e 30 2 = 2 then sendRead s a e (scalarOf (lookupD (sleeveOf s from').g (bits e 24 6) 0)) else s) s

/-! ## Exits (R64, R70) -/

/-- Produce an exit (R64): a second one, and one at or above the header's exit count, is BLOCK_SHAPE; a successor that it does
not name is a mispredict and is squashed (R70). -/
def takeExit (s : State) (f : Firing) (exn : Nat) (dst : ExitTo) : State :=
  let x := actOf s f.act
  if !x.exits.isEmpty || decide (imgXcnt x.image ≤ exn) then raise s f.act f.node { cls := .blockShape }
  else
    let s := updAct s f.act fun x => { x with exits := [(exn, f.node, dst)] }
    if x.isTwin then s
    else
      match laterInThread s x with
      | [] => s
      | b :: bs =>
        let right : Bool := match dst with | .block k => (actOf s b).blk == k && x.pushed.isNone | _ => false
        if right then s else squash s (b :: bs) x.part

/-! ## Completion (R63) -/

/-- Everything that R63 asks has been produced. -/
def outputsDone (x : Act) : Bool :=
  x.started && x.reads && !x.exits.isEmpty && (List.range (imgWcnt x.image)).all (fun i => x.slots.any fun y => y.1 == i)
    && (List.range 32).all fun i => bits (imgSmask x.image) i 1 == 0 || x.issued.getLsbD i

/-- Ports that a node requires and that no target and no read-table entry of its own block feeds (R107). -/
def foreignPorts (img : Image) : List (Nat × Port) :=
  let nodes := List.range (min (imgNcnt img) 128)
  let fed : List (Nat × Port) :=
    nodes.flatMap (fun k => match comOf img k with
      | some c => [c.t0, c.t1].filterMap fun t => match t with | .node i p _ => some (i.toNat, p) | .none | .slot _ _ | .far _ _ _ => none
      | none => [])
    ++ (List.range (imgRcnt img)).flatMap fun i => [bits (imgRead img i) 12 12, bits (imgRead img i) 0 12].filterMap fun c =>
      match Target.ofCode (BitVec.ofNat 12 c) with | some (.node k p _) => some (k.toNat, p) | _ => none
  nodes.flatMap fun k => [Port.a, .b, .c, .p].filterMap fun p =>
    if requires (imgRec img k) p && !fed.contains (k, p) then some (k, p) else none

/-- Every such port of an activation has been fed; while one has not, it never completes (R107). -/
def portsFed (s : State) (a : Nat) : Bool :=
  let x := actOf s a
  (foreignPorts x.image).all fun (k, p) => x.fired.getLsbD k || match findEntry s a k with | some e => (e.port p).isSome | none => false

/-- The write-slot values of an activation that are not null: key and value, in slot order (R86). Fk has key k, Wk 64 + k. -/
def frameWrites (x : Act) : List (Nat × Value) :=
  (List.range (imgWcnt x.image)).filterMap fun i =>
    match x.slots.find? fun y => y.1 == i with
    | some (_, v) =>
      if v.kind = .null then none
      else
        let e := imgWrite x.image i
        some (if bits e 14 2 = 0 then (bits e 0 6, (v.word).setWidth 1024) else (64 + bits e 0 6, v.val))
    | none => none

/-- The BLOCK_SHAPE fault that an activation takes in place of committing, and the node it names (R55, R57, R374, R400). -/
def completionFault (s : State) (x : Act) : Option Nat :=
  match x.exits with
  | [] => none
  | (_, node, dst) :: _ =>
    let h := threadOf s x.part x.tag
    let l := loopOf s h.loop
    let inLoop := h.loop != 0
    let writes := !(frameWrites x).isEmpty
    let leaves := dst == .leave
    let counted := inLoop && l.counted.isSome
    let last : Bool := match l.counted with | some n => h.iter + 1 == n | none => false
    let bad :=
      (dst == .endIteration || leaves) && !inLoop
      || leaves && (counted || (match l.left with | some i => i != h.iter | none => false))
      || dst == .endColour && (colourOf s x.colour).called
      || x.popped && !leaves
      || dst == .endIteration && inLoop && !counted && (writes || !h.writes.isEmpty)
      || counted && !last && writes
    if bad then some node else none

/-- A Running activation whose outputs are all produced becomes Complete, or takes its fault. -/
def completeAct (s : State) (a : Nat) : State :=
  let x := actOf s a
  if x.st = .running ∧ outputsDone x ∧ portsFed s a then
    match (if x.isTwin then none else completionFault s x) with
    | some node => raise s a node { cls := .blockShape }
    | none => updAct s a fun x => { x with st := .complete }
  else s

/-! ## Promotion (R67, R69) -/

/-- What an activation met while it was Predicted happens now (R69). -/
def meetDeferred (s : State) (a : Nat) : List Deferred → State
  | [] => s
  | d :: ds =>
    let s := match d.park with
      | some k => if actLive (actOf s a) then parkAccess (updAct s a fun x => { x with st := .parked }) (actOf s a).part a d.info k else s
      | none => raise s a d.info.node d.info
    meetDeferred s a ds

/-- A Predicted activation whose predecessor has committed becomes Running, and so does its twin; each meets what it kept (R69, R307). -/
def promoteAct (s : State) (a : Nat) : State :=
  let x := actOf s a
  if x.st = .predicted ∧ !x.isTwin ∧ predCommitted s x then
    let y := actOf s x.twin
    let s := updAct s a fun x => { x with st := .running, deferred := [] }
    let s := updAct s x.twin fun y => if y.st = .predicted then { y with st := .running, deferred := [] } else y
    let s := meetDeferred (deliverFrame s a) a x.deferred
    if y.st = .predicted then meetDeferred s x.twin y.deferred else s
  else if x.st = .running ∧ x.started ∧ !x.reads ∧ !x.isTwin then deliverFrame s a
  else s

/-- A Held activation is admitted (Table 2.7): a prediction, once its thread has at most three activations beyond its oldest uncommitted one
(R68). A loop continuation is admitted by `finishLoop`, and an iteration by ITERATION_START. -/
def admitAct (s : State) (a : Nat) : State :=
  let x := actOf s a
  let h := threadOf s x.part x.tag
  let iteration := x.loop != 0 && x.seq == 1
  if x.st = .held ∧ x.awaits = 0 ∧ !iteration ∧ (h.acts.take 4).contains a then updAct s a fun x => { x with st := .predicted } else s

/-- CTXJs whose colour is no longer live, because a squash has undone its creation or it has ended, are answered (R42, R363). -/
def settleJoins (s : State) : State :=
  s.ops.foldl (fun s o => match o.2.w with
    | .ctxj k n => if (partOf s o.2.f.part).pstate = .frozen ∨ (live s k ∧ (colourOf s k).serial = n) then s
        else finishOp s o.1 (scalarOf (BitVec.ofNat 64 (k % 65536)))
    | _ => s) s

/-- Admissions, promotions and completions at the end of a cycle. -/
def settle (s : State) : State :=
  let ids := (s.acts.filter fun x => actLive x.2).map (·.1)
  ids.foldl completeAct (ids.foldl promoteAct (ids.foldl admitAct (settleJoins s)))

/-! ## Colours (R37 to R42, R76, R77) -/

/-- The resident colours of a home quad. -/
def residents (s : State) (v : Nat) (quad : Nat) : List (Nat × Colour) :=
  s.colours.filter fun x => (x.2.st == .resident || x.2.st == .ending) && !x.2.inArea && x.2.sleeve == v && homeQuad (sleeveOf s v) x.2.num == quad

/-- A colour has an activation in the Predicted or Running state. -/
def busyColour (s : State) (k : Nat) : Bool :=
  s.acts.any fun x => x.2.colour == k && x.2.serial == (colourOf s k).serial && (x.2.st == .predicted || x.2.st == .running)

/-- The colours of a partition in its colour-spill area: an Ending one keeps its entry there until it is Free (Table 2.13). -/
def spilledColours (s : State) (p : Nat) : List Colour := (s.colours.filter fun x => x.2.part == p && x.2.inArea).map (·.2)

/-- The colour-spill area has room (R76). -/
def colourRoom (s : State) (p : Nat) : Bool :=
  let x := partOf s p
  x.clsn != 0 && decide ((spilledColours s p).length < 2 ^ x.clsn)

/-- Words 192 to 195 of a colour-spill entry (Table 2.13). A resident colour, for which the table has no STATE code, is written in a freeze
image with code 00 (log 53). -/
def colourWords (s : State) (c : Colour) (slv : Nat) : List Word :=
  let state := match c.st with | .spilled | .resident | .free => 0 | .ending => 1 | .queued => 2
  let blkBits (b : Word) : Nat := b.toNat % 2 ^ 60 / 2 ^ 14 * 2 ^ 18
  let cblk := if c.called then (match (actOf s c.caller).exits with | (_, _, .block b) :: _ => b | _ => c.cblk) else 0
  [ BitVec.ofNat 64 (c.num * 2 ^ 48 + state * 2 ^ 46 + c.grant % 64 * 2 ^ 40 + c.key.toNat),
    if c.called then c.rtag else 0,
    BitVec.ofNat 64 (blkBits cblk + (if c.called then 2 ^ 17 else 0) + (if c.retry then 2 ^ 16 else 0)),
    BitVec.ofNat 64 ((if c.st = .queued then blkBits c.sblk else 0) + slv) ]

/-- The 256 words of a colour-spill entry; `tail` fills what is not architected (Table 2.12). -/
def colourEntry (s : State) (c : Colour) (slv : Nat) (tail : List Word) : List Word :=
  (List.range 64).map (fun k => lookupD c.f k 0)
    ++ (List.range 8).flatMap (fun k => (List.range 16).map (wordOf (lookupD c.w k 0)))
    ++ colourWords s c slv ++ tail

/-- Words 0 to 195 of a colour's entry, as the spill area holds them. -/
def areaWords (s : State) (c : Colour) : List Word := (colourEntry s c (sleeveOf s c.sleeve).desc.toNat []).take 196

/-- Bit address of a colour's entry in the colour-spill area. -/
def areaAddr (s : State) (c : Colour) : Nat := (partOf s c.part).clsb.toNat + 16384 * c.slot

/-- The entries of the colour-spill area follow their colours (R76): one whose words have changed in a step is written. -/
def settleColours (old s : State) : State :=
  s.colours.foldl (fun s x =>
    if x.2.inArea && areaWords s x.2 != areaWords old (colourOf old x.1) then writeAreaWords s (areaAddr s x.2) (areaWords s x.2) else s) s

/-- Write a colour to the colour-spill area of its partition, as Spilled or queued, and count it in CLSC. -/
def spillColour (s : State) (k : Nat) (st : ColourState) : State :=
  let c := colourOf s k
  let x := partOf s c.part
  let used := (spilledColours s c.part).map (·.slot)
  let (i, s) := choose s (2 ^ x.clsn)
  let slot := ((rotate (List.range (min (2 ^ x.clsn) 65536)) i).find? fun j => !used.contains j).getD 0
  let (order, s) := fresh s
  let (w, s) := freeWord s
  let c := { c with st := st, slot := slot, entered := order, inArea := true }
  let s := writeAreaWords s (x.clsb.toNat + 16384 * slot) (colourEntry s c (sleeveOf s c.sleeve).desc.toNat (List.replicate 60 w))
  updPart { s with colours := insertAt s.colours k c } c.part fun x => { x with clsc := x.clsc + 1 }

/-- The entry of a colour is resident: one in the colour-spill area goes out of use. -/
def makeResident (s : State) (k : Nat) : State :=
  let x := colourOf s k
  updColour (if x.inArea then touchArea s (areaAddr s x) 16384 else s) k fun c => { c with st := .resident, active := s.cycle, slot := 0, inArea := false }

/-- The colours that wait in the spill area for a home quad, in the order they entered it (R39). -/
def waitingColours (s : State) (v quad : Nat) : List (Nat × Colour) :=
  (s.colours.filter fun x => (x.2.st == .spilled || x.2.st == .queued) && x.2.sleeve == v && homeQuad (sleeveOf s v) x.2.num == quad).foldl
    (fun l x => (l.filter fun y => decide (y.2.entered < x.2.entered)) ++ [x] ++ l.filter fun y => !decide (y.2.entered < x.2.entered)) []

/-- Free entries of a home quad go to the colours that wait for it, in order (R39). -/
def fillEntries (s : State) (v quad : Nat) : State :=
  ((waitingColours s v quad).take (64 - (residents s v quad).length)).foldl (fun s x => makeResident s x.1) s

/-- The victim of a home quad (R39): the least recently active resident colour, among those but `k`, with no activation Predicted or Running.
Activity is placement, the start of an activation and a commit, and the lowest number goes first among equals (log 53). -/
def victimOf (s : State) (v quad k : Nat) : Option Nat :=
  (((residents s v quad).filter fun x => x.1 != k && x.2.st == .resident && !busyColour s x.1).foldl (fun b x => match b with
    | none => some x
    | some y => if x.2.active < y.2.active then some x else some y) (none : Option (Nat × Colour))).map (·.1)

/-- Place a new colour (R39): the colours that wait take free entries first; then it becomes resident in its home quad, in a free entry or
in that of a victim, or stays in the spill area behind those that must become resident before it; none when the area is absent or
full. `waits` is the state of one that cannot become resident. -/
def placeColour (s : State) (k : Nat) (waits : ColourState) : Option State :=
  let c := colourOf s k
  let quad := homeQuad (sleeveOf s c.sleeve) c.num
  let s := fillEntries s c.sleeve quad
  if ((residents s c.sleeve quad).filter fun x => x.1 != k).length < 64 then some (makeResident s k)
  else if !colourRoom s c.part then none
  else if (waitingColours s c.sleeve quad).any fun x => busyColour s x.1 then some (spillColour s k waits)
  else match victimOf s c.sleeve quad k with
    | some y => some (makeResident (spillColour s y .spilled) k)
    | none => some (spillColour s k waits)

/-- Take a free colour number of a partition (R37): any of them. -/
def takeNumber (s : State) (p : Nat) : Option Nat × State :=
  let used := (s.colours.filter fun x => x.2.part == p).map (·.2.num)
  let (i, s) := choose s 65535
  (((List.range (used.length + 1)).map fun j => (i + j) % 65535 + 1).find? fun n => !used.contains n, s)

/-- Create a colour (R38, R40): what CALL, CTXA, SPAWN and START share. -/
def createColour (s : State) (p n : Nat) (c : Colour) : State :=
  let (serial, s) := fresh s
  { s with colours := insertAt s.colours (colourKey p n) { c with part := p, num := n, serial := serial, active := s.cycle } }

/-- The tag of a colour at depth 0. -/
def rootTag (n : Nat) : Word := BitVec.ofNat 64 (n * 2 ^ 48)

/-! ## Loops (R52 to R58) -/

/-- The oldest iteration that has not ended. -/
def oldestOpen (x : Loop) : Nat := ((List.range (x.ended.length + 1)).find? fun i => !x.ended.contains i).getD 0

/-- The window admits an iteration (R54); only iteration 0 before the head's image has been verified (R52). -/
def admits (x : Loop) (j : Nat) : Bool :=
  !x.done && !x.failed && (match x.left with | some i => decide (j ≤ i) | none => true)
    && (match x.window with | some k => decide (j < oldestOpen x + k) | none => j == 0)

/-- Apply the frame writes of a loop that is Done, or of an activation outside loops: to the colour's frame, or to what the
enclosing iteration holds and reads (R57). -/
def applyWrites (s : State) (p : Nat) (tag : Word) (ws : List (Nat × Value)) : State :=
  let h := threadOf s p tag
  if h.loop = 0 then
    updColour s (colourKey p (tagColour tag)) fun c => ws.foldl (fun c y =>
      if y.1 < 64 then { c with f := insertAt c.f y.1 (y.2.extractLsb' 0 64) } else { c with w := insertAt c.w (y.1 - 64) y.2 }) c
  else putThread s { h with writes := h.writes ++ ws, inner := h.inner ++ ws }

/-- Whether a loop instance is Done (R56). -/
def loopFinished (s : State) (x : Loop) : Bool :=
  !x.done && match x.counted with
    | some n => (n != 0 || (actOf s x.entry).st == .committed) && (List.range n).all x.ended.contains
    | none => match x.left with
      | some i => (List.range (i + 1)).all x.ended.contains
      | none => false

/-- The far block of a half of an LCNT's literal (R393). -/
def lcntBlock (f : Firing) (lo : Nat) : Word := f.blk + 16384#64 * (f.ofs.extractLsb' lo 16).signExtend 64

/-- Send a value to T1 of an LCNT: a node of the continuation block under tag t, so a far token whichever kind names it (R58,
R393). -/
def sendLeaving (s : State) (f : Firing) (v : TokVal) : State :=
  match f.com.t1 with
  | .node k p _ => sendUnder s f (.far k p false) f.blk f.tag .keep v
  | .far k p _ => sendUnder s f (.far k p false) (lcntBlock f 0) f.tag .keep v
  | .none | .slot _ _ => s

/-- A loop instance reaches Done: its delivering writes take effect, the continuation starts, and a counted loop delivers N to
T1 (R56 to R58). -/
def finishLoop (s : State) (l : Nat) : State :=
  let x := loopOf s l
  if !loopFinished s x then s
  else
    let s := updLoop s l fun x => { x with done := true, waiting := [] }
    let s := applyWrites s x.part x.parent x.writes
    let s := { s with acts := s.acts.map fun y =>
      if y.2.awaits = l ∧ y.2.st = .held then (y.1, { y.2 with st := .predicted, awaits := 0 }) else y }
    match x.counted with
    | some n => if n = 0 then s else sendLeaving s x.gen (scalarOf (BitVec.ofNat 64 n))
    | none => s

/-- Iteration `i` of a loop has ended (R54, R56). -/
def endIteration (s : State) (l i : Nat) : State := finishLoop (updLoop s l fun x => { x with ended := insertNat x.ended i }) l

/-- An activation belongs to an iteration of a loop after one, itself or by the loops that it runs in. -/
def inLater (s : State) (l i a : Nat) : Bool := (orderPath 8 s a).any fun x => x.1 == l && decide (i < x.2.1)

/-- The leaving iteration commits its exit (R55): later iterations are squashed and their tokens discarded, with the loops that run in them, whose
held writes so take no effect (R57). -/
def leaveLoop (s : State) (l i : Nat) (ws : List (Nat × Value)) : State :=
  let x := loopOf s l
  let later := (s.acts.filter fun y => actLive y.2 && inLater s l i y.1).map (·.1)
  let nested := (s.loops.filter fun y => inLater s l i y.2.entry).map (·.1)
  let s := endThreads (squash s later x.part) fun h => h.loop == l && decide (i < h.iter) || nested.contains h.loop
  let s := dead s x.part ((loopOf s l).waiting.filter fun y => decide (i < y.1)).length
  let s := nested.foldl (fun s k =>
    updLoop (dead s x.part (loopOf s k).waiting.length) k fun y => { y with done := true, waiting := [] }) s
  let s := updLoop s l fun x => { x with left := some i, writes := ws, waiting := x.waiting.filter fun y => decide (y.1 ≤ i) }
  endIteration s l i

end Sys2Proof.Machine
end

