-- ==== Sys2Proof/Machine/Operands.lean ====
section
/-! DEFINITION. Operand forms: elements of scalars, lanes and packed lanes (R114, R115), literals (R342, R376), result shapes
(R38, R342), and the current mode of a converting node (R122, R123). -/

namespace Sys2Proof.Machine

open Sys2Proof

/-- Extend a w-bit pattern to `n` bits: by its sign bit when signed, by zeros otherwise (R114). -/
def extendTo (n w : Nat) (signed : Bool) (x : Nat) : Nat := if signed then patternOf n (signedOf w x) else x % 2 ^ w

/-- Elements in a lane (R115, Table 4.2). -/
def perLane (lm : LaneMode) (w : Nat) : Nat :=
  match lm with
  | .packed => 32 / w
  | .scalar | .vector => 1

/-- Element places of `ln` lanes (R115). -/
def placesOf (lm : LaneMode) (w ln : Nat) : Nat :=
  match lm with
  | .packed => 32 / w * ln
  | .vector => if w = 64 then ln / 2 else ln
  | .scalar => 1

/-- The pattern of element `e` of an operand (R114, R115, R342): a scalar supplies its one element everywhere, and with LM 00
a vector supplies lane 0. -/
def elemOf (lm : LaneMode) (w : Nat) (v : TokVal) (e : Nat) : Nat :=
  match v.kind with
  | .null | .scalar => v.val.toNat % 2 ^ w
  | .vector =>
    match lm with
    | .scalar => v.lane 0 % 2 ^ w
    | .vector => if w = 64 then v.lane (2 * e) + v.lane (2 * e + 1) * 2 ^ 32 else v.lane e % 2 ^ w
    | .packed => v.lane (e / (32 / w)) / 2 ^ (w * (e % (32 / w))) % 2 ^ w

/-- The elements present in an operand: one of a scalar, all places of a vector (R446). -/
def elemsOf (lm : LaneMode) (w : Nat) (v : TokVal) : List Nat :=
  match v.kind with
  | .null | .scalar => [elemOf lm w v 0]
  | .vector => (List.range (placesOf lm w v.ln)).map (elemOf lm w v)

/-- The smallest LN among the vector operands, none when every operand is a scalar (R38). -/
def minLn (ops : List TokVal) : Option Nat :=
  (ops.filter fun v => v.kind == .vector).foldl (fun b v => match b with | none => some v.ln | some n => some (Nat.min n v.ln)) none

/-- Lanes that hold elements of width `w`, in order; the unused bits of a lane follow R115. -/
def lanesOf (lm : LaneMode) (w : Nat) (signed : Bool) (n : Nat) (xs : List Nat) : List Nat :=
  match lm with
  | .packed => (List.range n).map fun l => natOfElems w ((xs.drop (32 / w * l)).take (32 / w))
  | .vector | .scalar =>
    if w = 64 then xs.flatMap fun x => [x % 2 ^ 32, x / 2 ^ 32 % 2 ^ 32] else xs.map (extendTo 32 w signed)

/-- A vector of elements, null when it would have no lane. -/
def vectorElems (lm : LaneMode) (w : Nat) (signed : Bool) (n : Nat) (xs : List Nat) : TokVal :=
  match lanesOf lm w signed n xs with
  | [] => nullTok
  | l => vectorOf l

/-- A scalar of one element (R114). -/
def scalarElem (w : Nat) (signed : Bool) (x : Nat) : TokVal := scalarOf (BitVec.ofNat 64 (extendTo 64 w signed x))

/-- An element form: `f` maps the operand patterns at a place to a result pattern of width `wr` (R342, R377). -/
def elementForm (lm : LaneMode) (w wr : Nat) (signed : Bool) (ops : List TokVal) (f : List Nat → Nat) : TokVal :=
  match lm, minLn ops with
  | .scalar, _ | _, none => scalarElem wr signed (f (ops.map fun v => elemOf lm w v 0))
  | lm, some n => vectorElems lm wr signed n ((List.range (placesOf lm w n)).map fun e => f (ops.map fun v => elemOf lm w v e))

/-- The operands of a firing that AR names, with the literal last in an L arity of `n` operands: sign-extended for an integer
form, its low bits for a float one (R342, R376). -/
def operandsOf (r : GRec) (n : Nat) (f : Firing) : List TokVal :=
  let given := ([f.a, f.b, f.c].take (match r.c.ar with | .start => 0 | .a => 1 | .ab => 2 | .abc => 3)).map (·.getD nullTok)
  if given.length < n then given ++ [scalarOf (r.lit.signExtend 64)] else given

/-- Operand A, and operand B or the literal. -/
def opA (f : Firing) : TokVal := f.a.getD nullTok
@[inherit_doc opA] def opB (r : GRec) (f : Firing) : TokVal := (operandsOf r 2 f).getD 1 nullTok

/-- Bits [31:0] of a scalar, or lane 0 of a vector. -/
def low32 (v : TokVal) : Nat := v.lane 0

/-! ## The current mode of a converting node (R122, R123) -/

/-- RND and SAT of the next firing of a converting node: a mode token's, or the record's. -/
def modeOf (s : State) (f : Firing) (r : GRec) : Rnd × Sat :=
  match (sleeveOf s f.sleeve).modes.find? fun m => m.1 == f.blk && m.2.1 == f.node with
  | some (_, _, x, y) => ((Rnd.ofCode (BitVec.ofNat 3 x)).getD r.rnd, (Sat.ofCode (BitVec.ofNat 2 y)).getD r.sat)
  | none => (r.rnd, r.sat)

/-- The draw of a result element that goes to a token (Table 4.7). -/
def tokenDraw (s : State) (f : Firing) (rid lane elem : Nat) : Nat :=
  let key := (colourOf s (colourKey f.part (tagColour f.tag))).key
  drawBits (partOf s f.part).seed (BitVec.ofNat 64 (key.toNat * 2 ^ 32 + f.node * 2 ^ 16 + lane * 2 ^ 8 + elem))
    (f.tag &&& 0xFFFFFFFFFF#64) (BitVec.ofNat 64 rid)

/-- A firing of a converting form: a poisoned mode token that has taken effect is an operand of the next firing (R122). -/
def fireConvert (s : State) (r : GRec) (body : Rnd × Sat → Firing → State → State) : State :=
  let f := s.cur
  let bad := (sleeveOf s f.sleeve).badModes
  if bad.contains (f.blk, f.node) then
    killFiring (updSleeve (begin s r.c r.lit) f.sleeve fun v => { v with badModes := v.badModes.erase (f.blk, f.node) }) f
  else fire s r.c r.lit (fun f s => body (modeOf s f r) f s)

end Sys2Proof.Machine
end

