-- ==== Sys2Proof/Machine/Pointer.lean ====
section
/-! DEFINITION. Pointer forms on 64-bit bit addresses (R144, R145) and alignment classes (R137). -/

namespace Sys2Proof.Machine

open Sys2Proof

/-- Alignment classes (R137): within a 64-bit word, across words of one sector, across sectors. -/
inductive AlignClass where
  | a | s | x
  deriving DecidableEq, Repr

/-- The class of an element of width `w` at a bit address (R137). -/
def alignClass (addr w : Nat) : AlignClass :=
  if addr / 64 = (addr + w - 1) / 64 then .a else if addr / 256 = (addr + w - 1) / 256 then .s else .x

/-- A pointer form on the words of A and of B or the literal. -/
def pointerForm (s : State) (r : GRec) (op : Word → Word → Word) : State :=
  fireG s r fun f => scalarOf (op (opA f).word (opB r f).word)

def execPadd (r : GRec) (s : State) : Host.Outcome State Fault Refusal := .next (pointerForm s r fun a b => a + b)
def execPdif (r : GRec) (s : State) : Host.Outcome State Fault Refusal := .next (pointerForm s r fun a b => a - b)
def execPaln (r : GRec) (s : State) : Host.Outcome State Fault Refusal :=
  .next (pointerForm s r fun a b => (a >>> (b.toNat % 64)) <<< (b.toNat % 64))
def execPcls (r : GRec) (s : State) : Host.Outcome State Fault Refusal :=
  .next (pointerForm s r fun a b =>
    let w := b.toNat % 128
    if w = 0 ∨ 64 < w then 3 else match alignClass a.toNat w with | .a => 0 | .s => 1 | .x => 2)
def execPbyt (r : GRec) (s : State) : Host.Outcome State Fault Refusal := .next (pointerForm s r fun a _ => a.sshiftRight 3)
def execPbit (r : GRec) (s : State) : Host.Outcome State Fault Refusal := .next (pointerForm s r fun a _ => a <<< 3)

end Sys2Proof.Machine
end

