-- ==== Sys2Proof/Machine/Load.lean ====
section
/-! DEFINITION. How a form resolves its element addresses (R138 to R140, R272, Tables 12.2, 13.7 and 14.7), the view that a thread
has of memory (R148, R184), the loads LD, LDV and SPLD (R395, R398, R424), PREF, FLSH and INVL (R383, R409), and the events
LOAD_DATA_RETURN, PAGE_WALK_DONE and FORWARDING_TABLE_DRAIN. -/

namespace Sys2Proof.Machine

open Sys2Proof

/-! ## Element addresses -/

/-- A part of an element: its bits in one sector, with the leaf that translates it. -/
structure Part where
  elem  : Nat := 0
  ofs   : Nat := 0
  va    : Word := 0
  width : Nat := 0
  leaf  : Word := 0
  big   : Bool := false
  deriving DecidableEq, Repr

/-- The parts of an element of width `w` at an address (R143). -/
def partsOf (elem : Nat) (a : Word) (w : Nat) : List Part :=
  let room := 256 - a.toNat % 256
  if w ≤ room then [{ elem := elem, va := a, width := w }]
  else [{ elem := elem, va := a, width := room }, { elem := elem, ofs := room, va := a + BitVec.ofNat 64 room, width := w - room }]

/-- Where a part lies. -/
def partLoc (s : State) (p : Part) : Loc := locOf s p.leaf p.big p.va

/-- The matched set of a firing, to be issued again. -/
def entryOf (s : State) (f : Firing) : Entry :=
  { quad := f.en / 4, en := f.en, act := f.act, node := f.node, a := f.a, b := f.b, c := f.c, p := f.p, count := f.count, stamp := some s.cycle }
/-- Matched sets that were held outside the ready queue issue again (R200, R294). -/
def wake (s : State) : State :=
  { s with stalled := [], entries := s.entries ++ s.stalled.map fun e => { e with stamp := some s.cycle } }
/-- Hold a firing outside the ready queue. -/
def stall (s : State) (f : Firing) : State := { s with stalled := s.stalled ++ [entryOf s f] }

/-- Who holds the access of a matched set at step 1. -/
def formAt (f : Firing) : HeldBy := .form f.act f.node
/-- Spots of parts. -/
def spotsOf (l : List Part) : List Spot := l.map fun p => { va := p.va, leaf := p.leaf, big := p.big }
/-- An access goes past step 1; those that wait behind it try again. -/
def goPast (s : State) (who : HeldBy) : State := if (waitsAt s who).isSome then wake (pass s who) else s
/-- A form's write-class access at step 1 of Table 5.2: it waits, in its place, or goes on. -/
def atStep1 (s : State) (f : Firing) (l : List Part) (body : State → State) : State :=
  if mayPass s (formAt f) (spotsOf l) then body (goPast s (formAt f)) else stall (arriveHeld s (formAt f) (spotsOf l)) f

/-- A PROTECTION fault of a form (R278, Table 9.7). -/
def protect (s : State) (f : Firing) (i : FaultInfo) : State := raise s f.act f.node { i with cls := .protection }
/-- Supervisor privilege of a partition (R273). -/
def supervisor (s : State) (p : Nat) : Bool := (partOf s p).sup

/-- Wait for a page walk: the walk of the page that is under way, or a new one (R274). -/
def awaitWalk (s : State) (p : Nat) (va : Word) (w : Waiter) : State :=
  match s.walks.find? fun x => x.2.part == p && pageBase x.2.va false == pageBase va false with
  | some (k, x) => { s with walks := insertAt s.walks k { x with waiting := x.waiting ++ [w] } }
  | none => let (k, s) := fresh s; { s with walks := insertAt s.walks k { part := p, va := va, waiting := [w] } }

/-- What a record needs beside its use: its element width, whether it is synchronising, and whether its operands are whole words
aligned (STE). -/
structure Need where
  use   : Use := .read
  width : Nat := 0
  sync  : Bool := false
  /-- PSTO of the block: it may store to protected pages (R84). -/
  psto  : Bool := true
  /-- The form names no element in a fault record's WIDTH (Table 9.6). -/
  unnamed : Bool := false

/-- The class rules of R138 and R140 for a part's element at `a`: none, or ALIGN_CLASS. -/
def classBad (s : State) (n : Need) (a : Word) (p : Part) : Bool :=
  let c := alignClass a.toNat n.width
  let away : Bool := match partLoc s p with | .pod _ | .remote _ _ => true | .dev _ _ | .reg _ => false
  (n.sync && (c == .x || (n.use.words && c != .a) || (n.use == .atomic && c == .s && away)))
    || (n.use == .empty && a.toNat % 64 != 0)

/-- A device-register page takes only plain 64-bit accesses at multiples of 64 (R139); FLSH, of width 0, accesses nothing there (R383). -/
def windowBad (s : State) (a : Word) (n : Need) (p : Part) : Bool :=
  match partLoc s p with | .reg _ => n.width != 0 && (n.width != 64 || a.toNat % 64 != 0) | .dev _ _ | .pod _ | .remote _ _ => false

/-- How a form's addresses resolve: parts with their leaves, or the state in which the form has faulted, parked, or waits. -/
inductive Resolved where
  | ok (l : List Part)
  | done (s : State)
  deriving DecidableEq, Repr

/-- The leaves of parts in a cache, or the first part that it does not hold. -/
def leavesOf (s : State) (c : TlbAt) (p : Nat) : List Part → Except Part (List Part)
  | [] => .ok []
  | x :: xs =>
    match tlbLookup s c p x.va with
    | none => .error x
    | some t => match leavesOf s c p xs with
      | .ok ys => .ok ({ x with leaf := t.leaf, big := t.big } :: ys)
      | .error y => .error y

/-- The aperture rules for an access; one that was held at step 1 is performed though its group has been switched off since (R299). -/
def pageBad (s : State) (held : Bool) (use : Use) (e : Word) (big : Bool) (va : Word) (width : Nat) : Bool :=
  if held then frameBad s use e big va width else apertureBad s use e big va width

/-- Resolve the element addresses of a form, in the order of Table 13.7: canonical form, translation, permissions, aperture rules,
device-register pages, class. -/
def resolve (s : State) (f : Firing) (n : Need) (addrs : List Word) : Resolved :=
  let parts := (addrs.zipIdx.map fun x => partsOf x.2 x.1 n.width).flatten
  let named := if n.unnamed then 0 else n.width
  let info (p : Part) (lvl : Nat) : FaultInfo := { va := p.va, width := named, wr := n.use.writes, lvl := lvl }
  match parts.find? fun p => !canonical p.va with
  | some p => .done (protect s f { info p 7 with cause := 1 })
  | none =>
    if !(partOf s f.part).ptbr.getLsbD 63 ∧ !parts.isEmpty then
      .done (park s f.act f.node { info (parts.headD {}) 0 with cls := .translation, cause := 1 } (.form (entryOf s f)))
    else match leavesOf s (.quad (f.en / 4)) f.part parts with
    | .error p => .done (awaitWalk s f.part p.va
        { e := entryOf s f, va := p.va, width := named, part := p.width, use := n.use, parts := parts.map fun x => (x.va, x.width) })
    | .ok l =>
      let l := l.map fun p => let (e, big) := movedLeaf s (formAt f) p.va p.leaf p.big; { p with leaf := e, big := big }
      match l.find? fun p => (permission (supervisor s f.part) n.use p.leaf).isSome with
      | some p => .done (protect s f { info p 7 with cause := (permission (supervisor s f.part) n.use p.leaf).getD 0 })
      | none =>
        match l.find? fun p => pageBad s (waitsAt s (formAt f)).isSome n.use p.leaf p.big p.va p.width
            || (n.use.writes && leafProt p.leaf && !n.psto) with
        | some p => .done (protect s f { info p 7 with cause := 6 })
        | none =>
          match l.find? fun p => windowBad s (addrs.getD p.elem 0) n p || classBad s n (addrs.getD p.elem 0) p with
          | some p => .done (raise s f.act f.node { info p 7 with cls := .alignClass })
          | none => .ok l

/-- The record's element address (R136). -/
def elemAddr (r : MRec) (f : Firing) : Word := opWord f.a + r.ofs.signExtend 64

/-! ## What a thread sees (R148, R184) -/

/-- Where a part of a store lies. -/
def elemPlace (s : State) (x : StoreElem) : Nat × Nat := placeOf (locOf s x.leaf x.big x.va)
/-- Whether a part of a store writes bits at a place. -/
def writesPlace (s : State) (x : StoreElem) (m b w : Nat) : Bool := let y := elemPlace s x; y.1 == m && overlaps y.2 x.width b w

/-- The activation for which a twin reads: its original (R304). -/
def readerOf (s : State) (a : Nat) : Nat := let x := actOf s a; if x.isTwin then x.twin else a

/-- Put a store after the stores that precede it in program order. -/
def placeStore (s : State) (x : Store) : List Store → List Store
  | [] => [x]
  | y :: ys => if precedes s x.act x.lsid y.act y.lsid then x :: y :: ys else y :: placeStore s x ys
/-- The stores of a record's thread that precede it and are not performed, in program order. -/
def viewStores (s : State) (a lsid : Nat) : List Store :=
  (earlierStores s a lsid).foldl (fun l x => placeStore s x.2 l) []

/-- Apply the bits of a store to memory without any other effect: the view of its own thread. -/
def applyStore (s : State) (x : Store) : State :=
  match x.kind with
  | .plain | .fill | .single => x.elems.foldl (fun s e => writeLoc s (locOf s e.leaf e.big e.va) e.width e.pat.toNat) s
  | .empty | .scratch => s
/-- Memory as a record's thread sees it. -/
def viewOf (s : State) (a lsid : Nat) : State := (viewStores s (readerOf s a) lsid).foldl applyStore s

/-- The bits that the thread's own earlier stores give a part of remote memory: mask and value. -/
def remoteView (s : State) (a lsid : Nat) (dst addr w : Nat) : Nat × Nat :=
  ((viewStores s (readerOf s a) lsid).flatMap (·.elems)).foldl (fun (m, v) e =>
    match locOf s e.leaf e.big e.va with
    | .remote d b =>
      if d = dst ∧ overlaps b e.width addr w then
        (List.range e.width).foldl (fun (m, v) i =>
          let j := b + i
          if addr ≤ j ∧ j < addr + w then
            (Nat.lor m (2 ^ (j - addr)), Nat.lor (v - v / 2 ^ (j - addr) % 2 * 2 ^ (j - addr)) (bits e.pat.toNat i 1 * 2 ^ (j - addr)))
          else (m, v)) (m, v)
      else (m, v)
    | .dev _ _ | .pod _ | .reg _ => (m, v)) (0, 0)

/-- The scratchpad as a record's thread sees it: what is drained, the forwarding table, and the thread's own earlier SPSTs (R148). -/
def scratchView (s : State) (f : Firing) (lsid : Nat) : Sleeve :=
  let v := sleeveOf s f.sleeve
  let v := v.fwd.foldl (fun v x => writeScratch v x.1 x.2.1 x.2.2.toNat) v
  ((viewStores s (readerOf s f.act) lsid).filter fun x => x.kind == .scratch).foldl
    (fun v x => x.elems.foldl (fun v e => writeScratch v e.va.toNat e.width e.pat.toNat) v) v

/-! ## Results of loads -/

/-- Remember what a Predicted activation has read (R185). -/
def markLoads (s : State) (a : Nat) (l : List LoadMark) : State :=
  updAct s (readerOf s a) fun x => if x.st = .predicted then { x with loads := x.loads ++ l } else x

/-- A piece of a load: element, offset in it, width, and once known its poison and value. -/
abbrev Piece := Nat × Nat × Nat × Option (Bool × Nat)

/-- The pattern of element `e` from the pieces. -/
def pieceElem (l : List Piece) (e : Nat) : Nat :=
  l.foldl (fun v x => if x.1 = e then v + ((x.2.2.2.map (·.2)).getD 0) * 2 ^ x.2.1 else v) 0

/-- The lane mode and lanes of a vector that LDV returns (R398). -/
def vectorShape (w g : Nat) : LaneMode × Nat := if w ≤ 16 then (.packed, g) else (.vector, if w = 64 then (g + 1) / 2 else g)
/-- Elements of an LDV. -/
def vectorCount (w g : Nat) : Nat := if w ≤ 16 then 32 / w * g else if w = 64 then (g + 1) / 2 else g

/-- The result of a load from its pieces (R395, R398). -/
def loadResult (t : Ty) (zero vector : Bool) (g : Nat) (l : List Piece) : TokVal :=
  let poi := l.any fun x => (x.2.2.2.map (·.1)).getD false
  let v :=
    if vector then
      let (lm, n) := vectorShape t.width g
      vectorElems lm t.width false n ((List.range (vectorCount t.width g)).map (pieceElem l))
    else scalarElem t.width (!zero && !t.isFloat) (pieceElem l 0)
  { v with poi := poi }

/-- The parts of a load are read: one of a device line that a pod agent owns waits for the owner, an owner-lost one faults. -/
def blockedLine (s : State) (f : Firing) (n : Need) (l : List Part) : Option State :=
  match l.find? fun p => lostLoc s (partLoc s p) with
  | some p => some (raise s f.act f.node { cls := .ownerLost, va := p.va, width := n.width, wr := n.use.writes })
  | none =>
    match l.findSome? fun p => ownedLoc s (partLoc s p) with
    | some k => some (snoopOwner s k (some (entryOf s f)))
    | none => none

/-- A read copy gives the bits of a part: it is complete, and one request brought them all, so that the part is read whole (R188). -/
def copyServes (c : Copy) (a w : Nat) : Bool := c.got == 7 && !c.err && a % 512 / 192 == (a % 512 + w - 1) / 192

/-- Read one part of a load, which its fill has brought in, in the thread's view: its poison and value, none when they come from another device. A copy that cannot give
them is dropped, so that no later load reads it after the home's newer bits (Table 6.3). -/
def readPart (s view : State) (given : Nat → Nat → Nat → Nat × Nat) (scope : Scope) (p : Part) : Option (Bool × Nat) × State :=
  match partLoc s p with
  | .dev apr a => (some (poisonLoc s (.dev apr a), readLoc view (.dev apr a) p.width), s)
  | .pod a => (some (poisonLoc s (.pod a), readLoc view (.pod a) p.width), s)
  | .reg ofs => (some (false, (readWindow s ofs).toNat), s)
  | .remote dst a =>
    match copyOf s dst (a / 512) with
    | some c =>
      if scope ≠ .sys ∧ copyServes c a p.width then
        let (m, v) := given dst a p.width
        (some (c.poi, Nat.lor (copyBits c a p.width - Nat.land (copyBits c a p.width) m) v), s)
      else (none, dropCopy s dst (a / 512))
    | none => (none, countMiss s (remoteLine dst a) 3 (2 ^ 24))

/-- Ask the homes of the remote pieces of a load (R330); the flag tells whether every request found a route. -/
def askPieces (s : State) (f : Firing) (lsid op : Nat) (scope : Scope) (l : List (Part × Piece)) : Bool × State :=
  l.zipIdx.foldl (fun (ok, s) x =>
    match x.1.2.2.2.2, partLoc s x.1.1 with
    | none, .remote dst a =>
      let (m, v) := remoteView s f.act lsid dst a x.1.1.width
      let (o, s) := sendRequest s { dst := dst, what := .load op x.2, addr := a, len := x.1.1.width, mask := m, given := v, sys := scope == .sys }
        (readSlot x.1.1.width a)
      (ok && o, s)
    | _, _ => (ok, s)) (true, s)

/-- Perform a plain load at issue (R180): its value is fixed, and its data return later. -/
def performLoad (s : State) (f : Firing) (r : MRec) (n : Need) (scope : Scope) (vector : Bool) (l : List Part) : State :=
  match blockedLine s f n l with
  | some t => t
  | none =>
    let own := r.own.toNat
    let zero := r.c.fn.getLsbD 3
    let regs := l.filter fun p => match partLoc s p with | .reg _ => true | _ => false
    let earlier := (earlierStores s (readerOf s f.act) own).any fun x =>
      x.2.elems.any fun e => match locOf s e.leaf e.big e.va with | .reg _ => true | _ => false
    match regs, vector with
    | p :: _, false =>
      (waitOp (resolveLsid s f.act r) f (.window (match partLoc s p with | .reg o => o | _ => 0))).2
    | _, _ => if !regs.isEmpty && earlier then stall s f else
      let s := l.foldl (fun s p => touch s (partLoc s p) true) s
      let s := markLoads (resolveLsid s f.act r) f.act (l.map fun p =>
        let (m, b) := placeOf (partLoc s p)
        { va := p.va, space := m, bit := b, width := p.width, lsid := own })
      let view := viewOf s f.act own
      let (ps, s) := l.foldl (fun (x : List (Part × Piece) × State) p =>
        let (v, s) := readPart x.2 view (remoteView s f.act own) scope p
        (x.1 ++ [(p, (p.elem, p.ofs, p.width, v))], s)) ([], s)
      if ps.all fun x => x.2.2.2.2.isSome then (waitOp s f (.data (loadResult r.c.ty zero vector f.grant (ps.map (·.2))))).2
      else
        let (op, s) := waitOp s f (.remote (ps.map (·.2)) r.c.ty zero vector)
        let (ok, s) := askPieces s f own op scope ps
        if ok then s else protect (dropOp s op) f { va := (l.headD {}).va, width := n.width, cause := 10 }

/-- Whether a record is synchronising by its order (R138). -/
def ordered (r : MRec) : Bool := r.ordr != .relaxed
/-- The scope of a record (Table 6.1). -/
def scopeOf (r : MRec) : Scope :=
  match (r.c.fn.extractLsb' 0 3).toNat with | 0 => .act | 1 => .slv | 2 => .grd | 3 => .dev | 4 => .pod | _ => .sys

/-- LD and LDV: addresses, checks, and the load. -/
def loadForm (s : State) (r : MRec) (vector : Bool) : State :=
  fireMem s r fun f s =>
    let w := r.c.ty.width
    let n : Need := { use := .read, width := w, sync := ordered r }
    let a := elemAddr r f
    let addrs := if vector then (List.range (vectorCount w f.grant)).map fun e => a + BitVec.ofNat 64 (w * e) else [a]
    match resolve s f n addrs with
    | .done t => t
    | .ok l => performLoad s f r n (scopeOf r) vector l

def execLd (r : MRec) (s : State) : Host.Outcome State Fault Refusal := .next (loadForm s r false)
def execLdv (r : MRec) (s : State) : Host.Outcome State Fault Refusal := .next (loadForm s r true)

/-! ## The scratchpad (R147, R148, R424) -/

/-- A scratchpad address that R147 refuses. -/
def scratchBad (v : Sleeve) (a : Word) (w : Nat) : Bool :=
  bits a.toNat 25 39 != 0 || decide (quadCount v ≤ bits a.toNat 21 4) || decide (2 ^ 21 < a.toNat % 2 ^ 21 + w)

/-- The checks of SPLD and SPST at issue. -/
def scratchCheck (s : State) (f : Firing) (r : MRec) (write : Bool) : Option State :=
  let a := elemAddr r f
  let w := r.c.ty.width
  if scratchBad (sleeveOf s f.sleeve) a w then some (protect s f { cause := 8, va := a, width := w, wr := write })
  else if ordered r ∧ alignClass a.toNat w = .x then
    some (raise s f.act f.node { cls := .alignClass, va := a, width := w, wr := write })
  else none

def execSpld (r : MRec) (s : State) : Host.Outcome State Fault Refusal :=
  .next (fireMem s r fun f s =>
    match scratchCheck s f r false with
    | some t => t
    | none =>
      let a := elemAddr r f
      let t := r.c.ty
      let s := markLoads (resolveLsid s f.act r) f.act
        [{ va := a, space := 2, bit := a.toNat, width := t.width, lsid := r.own.toNat, scratch := true }]
      let v := scalarElem t.width (!r.c.fn.getLsbD 3 && !t.isFloat) (readScratch (scratchView s f r.own.toNat) a.toNat t.width)
      let bad := (sleeveOf s f.sleeve).scratchBad.any fun k => decide (a.toNat / 256 ≤ k) && decide (k ≤ (a.toNat + t.width - 1) / 256)
      sendBoth s f { v with poi := bad })

/-! ## PREF, FLSH and INVL -/

/-- The table words that a walk reads come into the L2. -/
def touchTables (s : State) (l : List Nat) : State := l.foldl (fun s b => touch s (.dev 0 (8 * b)) true) s

/-- A checked translation for a read that may be dropped, and that parks nothing: a cached one, or a walk that ends at a leaf, which is
cached once its checks have passed (R274, R284). The read is dropped, or waits for the owner of a table line; a walk has read its table
words all the same. -/
inductive TryRead where
  | at (loc : Loc) (s : State)
  | dropped (s : State)
  | owned (line : Nat) (s : State)
  deriving DecidableEq, Repr

@[inherit_doc TryRead] def tryRead (s : State) (p quad : Nat) (va : Word) : TryRead :=
  let c := TlbAt.quad quad
  let ok (e : Word) (big : Bool) : Bool := (permission (supervisor s p) .read e).isNone && !apertureBad s .read e big va 1
  if !canonical va then .dropped s
  else match tlbLookup s c p va with
    | some t => if ok t.leaf t.big then .at (locOf s t.leaf t.big va) s else .dropped s
    | none =>
      let (l, r) := walkTables s p va
      let s := touchTables s l
      match r with
      | .leaf e big _ =>
        if ok e big then .at (locOf s e big va) (tlbAdd s c { part := p, va := pageBase va big, big := big, leaf := e }) else .dropped s
      | .stop _ _ _ => .dropped s
      | .owned k => .owned k s

/-- A PREF waits for the reply of a line's owner to a snoop. -/
def awaitOwner (s : State) (line : Nat) (x : Prefetch) : State :=
  let s := snoopOwner s line none
  let d := lookupD s.dir line {}
  { s with dir := insertAt s.dir line { d with prefs := d.prefs ++ [x] } }

/-- What a PREF brings into the L2 (R409): both sectors of a line of device or pod memory, or the read copy of a remote line. A line that a
pod agent owns is asked for first, as a load asks for it. -/
def prefetchLine (s : State) (x : Prefetch) : State :=
  match tryRead s x.part x.quad x.va with
  | .dropped s => s
  | .owned k s => awaitOwner s k x
  | .at loc s =>
    match loc with
    | .remote dst b => if x.sys then s else fetchCopy s dst (b / 512)
    | .reg _ => s
    | .dev _ _ | .pod _ =>
      if lostLoc s loc then s
      else match ownedLoc s loc with
        | some k => awaitOwner s k x
        | none =>
          let other : Loc := match loc with | .dev apr b => .dev apr (Nat.xor b 256) | .pod b => .pod (Nat.xor b 256) | y => y
          touch (touch s loc false) other false

def execPref (r : MRec) (s : State) : Host.Outcome State Fault Refusal :=
  .next (fireMem s r fun f s =>
    let a := elemAddr r f
    if !canonical a then protect s f { cause := 1, va := a }
    else
      let s := resolveLsid s f.act r
      sendBoth (prefetchLine s { part := f.part, quad := f.en / 4, va := a, sys := scopeOf r == .sys }) f (scalarOf 0))

def execFlsh (r : MRec) (s : State) : Host.Outcome State Fault Refusal :=
  .next (fireMem s r fun f s =>
    match resolve s f { use := .read } [elemAddr r f] with
    | .done t => t
    | .ok l =>
      let s := resolveLsid s f.act r
      let s := match l.head?.bind fun p => lineOf s (partLoc s p) with
        | some (line, _, _) => writeBackLine s line
        | none => s
      sendBoth s f (scalarOf 0))

def execInvl (r : MRec) (s : State) : Host.Outcome State Fault Refusal :=
  .next (fireMem s r fun f s =>
    let s := resolveLsid s f.act r
    let s := if scopeOf r = .sys then
        match tryRead s f.part (f.en / 4) (elemAddr r f) with
        | .at (.remote dst b) s => dropCopy s dst (b / 512)
        | .at _ s | .dropped s => s
        | .owned k s => snoopOwner s k none
      else s
    sendBoth s f (scalarOf 0))

/-! ## Events -/

/-- The data of a load return: its token is sent (R180). -/
def execLoadDataReturn (op : Nat) (s : State) : Host.Outcome State Fault Refusal :=
  .next (match lookup s.ops op with
    | some o => match o.w with
      | .data v => finishOp s op v
      | .window ofs =>
        if (earlierStores s (readerOf s o.f.act) (nodeLsid s o.f.act o.f.node)).any fun x =>
            x.2.elems.any fun e => match locOf s e.leaf e.big e.va with | .reg _ => true | _ => false
        then s else finishOp s op (scalarOf (readWindow s ofs))
      | _ => s
    | none => s)

/-- The aperture rules refuse a waiting access a leaf for a part of its record. -/
def walkBad (s : State) (e : Word) (big : Bool) (w : Waiter) (x : Word × Nat) : Bool :=
  pageBad s (waitsAt s (.form w.e.act w.e.node)).isSome w.use e big x.1 x.2
/-- A leaf fails a check of a waiting access for a part of its record. -/
def leafFails (s : State) (p : Nat) (e : Word) (big : Bool) (w : Waiter) (x : Word × Nat) : Bool :=
  (permission (supervisor s p) w.use e).isSome || walkBad s e big w x

/-- The leaf of a part of a waiting access, with what a fault record says of a leaf that a walk has read. -/
def waiterLeaf (s : State) (p : Nat) (w : Waiter) (x : Word × Nat) : Option (TlbEntry × FaultInfo) :=
  let i : FaultInfo := { va := x.1, width := w.width, wr := w.use.writes, cls := .protection }
  match tlbFind w.leaves p x.1 with
  | some t => some (t, { i with lvl := if t.big then 2 else 3, info := t.leaf })
  | none => (tlbLookup s (.quad w.e.quad) p x.1).map fun t => (t, { i with lvl := 7 })

/-- The fault of a waiting access, every page of which is translated: permissions first, then the aperture rules (Table 13.7). -/
def waiterFault (s : State) (p : Nat) (w : Waiter) : Option FaultInfo :=
  let l := w.parts.filterMap fun x => (waiterLeaf s p w x).map fun y => (x, y)
  match l.findSome? fun y => (permission (supervisor s p) w.use y.2.1.leaf).map fun c => { y.2.2 with cause := c } with
  | some i => some i
  | none => (l.find? fun y => walkBad s y.2.1.leaf y.2.1.big w y.1).map fun y => { y.2.2 with cause := 6 }

/-- A walk delivers to one waiting access: a translation, so that it issues again, or a park. One that a leaf fails faults only when the other
pages of its record have been translated, for a failed translation stands before the checks (Table 13.7). -/
def deliverWalk (r : WalkEnd) (s : State) (p : Nat) (w : Waiter) : State :=
  match r with
  | .stop cause lvl e =>
    park s w.e.act w.e.node { va := w.va, width := w.width, wr := w.use.writes, cls := .translation, cause := cause, lvl := lvl, info := e } (.form w.e)
  | .leaf e big _ =>
    let w : Waiter := { w with leaves := w.leaves ++ [{ part := p, va := pageBase w.va big, big := big, leaf := e }] }
    let again : State := { s with entries := s.entries ++ [{ w.e with stamp := some s.cycle }] }
    if w.leaves.all fun t => w.parts.all fun x => pageBase x.1 t.big != t.va || !leafFails s p t.leaf t.big w x then again
    else match w.parts.find? fun x => (waiterLeaf s p w x).isNone with
      | some x => awaitWalk s p x.1 { w with va := x.1, part := x.2 }
      | none => match waiterFault s p w with
        | some i => raise s w.e.act w.e.node i
        | none => again
  | .owned _ => s

/-- The die of a walk: that of the access that began it. -/
def walkDie (x : Walk) : Nat := match x.waiting with | w :: _ => w.e.quad / 256 | [] => 0
/-- One of the 64 walkers of its die makes a walk (R274): the walks that began first have them. -/
def hasWalker (s : State) (k : Nat) (x : Walk) : Bool :=
  decide ((s.walks.filter fun y => decide (y.1 < k) && walkDie y.2 == walkDie x).length < 64)

/-- A page walk ends: its leaf is cached in the quads that wait for it, unless an access faults on it, and each access that waits
goes on (R272, R274). -/
def execPageWalkDone (walk : Nat) (s : State) : Host.Outcome State Fault Refusal :=
  .next (match lookup s.walks walk with
    | none => s
    | some x =>
      if !hasWalker s walk x then s
      else match walkTables s x.part x.va with
      | (l, .owned k) => snoopOwner (touchTables s l) k none
      | (l, r) =>
        let s := touchTables { s with walks := eraseAt s.walks walk } l
        let bad (e : Word) (big : Bool) : Bool := x.waiting.any fun w => leafFails s x.part e big w (w.va, w.part)
        let s := match r with
          | .leaf e big _ => if bad e big then s else x.waiting.foldl (fun s w =>
              tlbAdd s (.quad w.e.quad) { part := x.part, va := pageBase x.va big, big := big, leaf := e }) s
          | .stop _ _ _ | .owned _ => s
        x.waiting.foldl (fun s w => deliverWalk r s x.part w) s)

/-- The oldest SPST of the forwarding table drains into the scratchpad (R148). -/
def execForwardingTableDrain (sleeve : Nat) (s : State) : Host.Outcome State Fault Refusal :=
  .next (updSleeve s sleeve fun v => match v.fwd with
    | [] => v
    | x :: rest => { writeScratch v x.1 x.2.1 x.2.2.toNat with fwd := rest })

end Sys2Proof.Machine
end

