-- ==== Sys2Proof/Machine/Store.lean ====
section
/-! DEFINITION. The store forms up to the store buffer: ST, STV, STF, STE, STI and SPST (R163, R424, R430 to R432), and the load
conflict (R185). -/

namespace Sys2Proof.Machine

open Sys2Proof

/-- The pattern that a store takes of B: bits [w - 1 : 0], of lane 0 of a vector, or of lanes 0 and 1 for 64 bits (R430). -/
def storePattern (w : Nat) (b : Option TokVal) : Nat := (opWord b).toNat % 2 ^ w

/-- The elements that an STV stores of B (R432). -/
def vectorPatterns (w : Nat) (b : TokVal) : List Nat := elemsOf (if w ≤ 16 then .packed else .vector) w b

/-- The activations whose loads an earlier store of their thread now writes over, the earliest first (R185). -/
def conflicting (s : State) (x : Store) : List Nat :=
  (s.acts.filter fun y =>
    y.2.st == .predicted && y.1 != x.act && y.2.loads.any fun m =>
      m.scratch == (x.kind == .scratch) && precedes s x.act x.lsid y.1 m.lsid
        && x.elems.any fun e => overlaps e.va.toNat e.width m.va.toNat m.width || (!m.scratch && writesPlace s e m.space m.bit m.width)).map (·.1)

/-- Enter a store in the store buffer: its LSID is resolved, loads that it conflicts with are squashed and restarted, and a scalar 0
goes to both targets. -/
def enterStore (s : State) (f : Firing) (r : MRec) (kind : StoreKind) (elems : List StoreElem) : State :=
  let a := actOf s f.act
  let x : Store := { part := f.part, sleeve := f.sleeve, act := f.act, colour := a.colour, serial := a.serial, tag := f.tag, blk := f.blk,
                     node := f.node, seq := a.seq, lsid := r.own.toNat, kind := kind, scope := scopeOf r,
                     release := r.ordr == .release || r.ordr == .acqRel || kind == .fill || kind == .single, elems := elems }
  let (sid, s) := fresh s
  let s := resolveLsid { s with stores := insertAt s.stores sid x } f.act r
  let s := (conflicting s x).foldl restart s
  sendBoth s f (scalarOf 0)

/-- The store-buffer parts of resolved elements with their patterns. -/
def storeParts (l : List Part) (vals : List Nat) : List StoreElem :=
  l.map fun p => { va := p.va, leaf := p.leaf, big := p.big, width := p.width, pat := BitVec.ofNat 64 (vals.getD p.elem 0 / 2 ^ p.ofs % 2 ^ p.width) }

/-- A store form: the checks of Table 14.7 at entry, then the store buffer. -/
def storeForm (s : State) (r : MRec) (kind : StoreKind) (use : Use) (vals : Firing → List Nat) : State :=
  fireMem s r fun f s =>
    let w := r.c.ty.width
    let a := elemAddr r f
    let n : Need := { use := use, width := w, sync := ordered r || use.words, psto := imgPsto (actOf s f.act).image }
    match resolve s f n ((List.range (vals f).length).map fun e => a + BitVec.ofNat 64 (w * e)) with
    | .done t => t
    | .ok l => enterStore s f r kind (storeParts l (vals f))

def execSt (r : MRec) (s : State) : Host.Outcome State Fault Refusal :=
  .next (storeForm s r .plain .write fun f => [storePattern r.c.ty.width f.b])
def execStv (r : MRec) (s : State) : Host.Outcome State Fault Refusal :=
  .next (storeForm s r .plain .write fun f => vectorPatterns r.c.ty.width (f.b.getD nullTok))
def execStf (r : MRec) (s : State) : Host.Outcome State Fault Refusal :=
  .next (storeForm s r .fill .sync fun f => [storePattern r.c.ty.width f.b])
def execSti (r : MRec) (s : State) : Host.Outcome State Fault Refusal :=
  .next (storeForm s r .single .sync fun f => [storePattern r.c.ty.width f.b])
def execSte (r : MRec) (s : State) : Host.Outcome State Fault Refusal := .next (storeForm s r .empty .empty fun _ => [0])

/-- SPST: checked at issue, performed into the forwarding table at commit (R148, R424). -/
def execSpst (r : MRec) (s : State) : Host.Outcome State Fault Refusal :=
  .next (fireMem s r fun f s =>
    match scratchCheck s f r true with
    | some t => t
    | none =>
      let w := r.c.ty.width
      enterStore s f r .scratch [{ va := elemAddr r f, width := w, pat := BitVec.ofNat 64 (storePattern w f.b) }])

end Sys2Proof.Machine
end

