-- ==== Sys2Proof/Machine/FullEmpty.lean ====
section
/-! DEFINITION. Full/empty words (R162, R163): LDS, LDS.E and LDI at the bank (R397), deferral entries (R164), and the answers when a
word is made Full (R166). -/

namespace Sys2Proof.Machine

open Sys2Proof

/-- The 64-bit word, by canonical byte address / 8, that a part of device memory lies in. -/
def wordKey (s : State) (p : Part) : Nat := match partLoc s p with | .dev apr a => cdaOf apr (a / 8) / 8 | .pod _ | .remote _ _ | .reg _ => 0
/-- The state of a word that is not Full; none is Full. -/
def wordState (s : State) (k : Nat) : Option WordState := lookup s.fe k
/-- The place of that word. -/
def wordLoc (s : State) (p : Part) : Loc := match partLoc s p with | .dev apr a => .dev apr (a / 64 * 64) | x => x
def setWordState (s : State) (k : Nat) (x : Option WordState) : State :=
  { s with fe := match x with | some y => insertAt s.fe k y | none => eraseAt s.fe k }
/-- The 64 bits of a word. -/
def wordBits (s : State) (k : Nat) : Nat := readDev s 2 (64 * k) 64
/-- An element of a word as a form returns it: poisoned when its sector is. -/
def wordElem (s : State) (k ofs : Nat) (t : Ty) (zero : Bool) : TokVal :=
  { scalarElem t.width (!zero && !t.isFloat) (bits (wordBits s k) ofs t.width) with poi := s.poison.contains (k / 4) }

/-! ## Deferral entries (R164) -/

/-- Entries of the deferral area. -/
def deferralSize (s : State) : Nat := if s.regs.dfrn = 0 then 0 else 2 ^ s.regs.dfrn
/-- Bit address of an entry. -/
def deferralAt (s : State) (i : Nat) : Nat := bits s.regs.dfrb.toNat 15 45 * 2 ^ 15 + 256 * i
/-- No next entry. -/
def noDeferral : Nat := 0xFFFFFFFF
/-- The index of the next entry of a list. -/
def deferralNext (s : State) (i : Nat) : Nat := readArea s (deferralAt s i + 160) 32
def setDeferralNext (s : State) (i n : Nat) : State := writeArea (soilArea s (deferralAt s i + 160) 32) (deferralAt s i + 160) 32 n
/-- The words of a new entry at the end of a list. -/
def deferralWords (f : Firing) (ofs : Nat) (t : Ty) (zero : Bool) (free : Word) : List Word :=
  [f.tag, BitVec.ofNat 64 (tokenWord1 { blk := f.blk, node := f.node }),
   BitVec.ofNat 64 (noDeferral * 2 ^ 32 + ofs * 2 ^ 26 + t.code.toNat * 2 ^ 22 + (if zero then 2 ^ 21 else 0)), free]

/-- A free entry, any of them. -/
def freeDeferral (s : State) : Option Nat × State :=
  let (i, s) := choose s (max (deferralSize s) 1)
  ((rotate (List.range (min (deferralSize s) (s.dfr.length + i + 1))) i).find? fun k => (lookup s.dfr k).isNone, s)

/-! ## Answers (R166, R397) -/

/-- Put tokens that have just been sent in the token-spill area: answers for a frozen partition. -/
def spillNew (old s : State) : State :=
  let new := s.net.drop old.net.length
  new.foldl (fun s n => spill s n n.prod (homeQuad (sleeveOf s n.sleeve) (tagColour n.tok.tag))) { s with net := s.net.take old.net.length }

/-- The LDI that a deferral entry in memory names: its firing under the tag held there. -/
def deferralFiring (s : State) (i : Nat) : Firing :=
  let w1 := readArea s (deferralAt s i + 64) 64
  let blk : Word := (BitVec.ofNat 64 (bits w1 18 46 * 2 ^ 14)).extractLsb' 0 60 |>.signExtend 64
  let node := bits w1 11 7
  let tag := BitVec.ofNat 64 (readArea s (deferralAt s i) 64)
  let f := (lookup s.dfr i).getD {}
  let p := if (lookup s.dfr i).isSome then f.part else ((partOfQuad s 0).getD 0)
  let v := colourSleeve s p tag
  let com := (imageFor s v blk).bind fun img => if node < imgNcnt img then Common.ofWord (imgRec img node) else none
  { f with part := p, sleeve := v, tag := tag, blk := blk, node := node, com := com.getD { f.com with t0 := .none, t1 := .none }, ofs := 0 }

/-- Answer one deferral entry from a word and free it. -/
def answerDeferral (s : State) (i k : Nat) : State :=
  let s := touchArea s (deferralAt s i) 256
  let w2 := readArea s (deferralAt s i + 128) 64
  let t := (Ty.ofCode (BitVec.ofNat 4 (bits w2 22 4))).getD .i64
  let f := deferralFiring s i
  let v := wordElem s k (bits w2 26 6) t (bits w2 21 1 = 1)
  let s' := { s with dfr := eraseAt s.dfr i }
  let s'' := sendBoth s' f v
  if (partOf s f.part).pstate = .frozen then spillNew s' s'' else s''

/-- Answer the entries of a list in order, at most as many as the area has. -/
def answerList : Nat → State → Nat → Nat → State
  | 0, s, _, _ => s
  | n + 1, s, i, k => if deferralSize s ≤ i then s else let next := deferralNext s i; answerList n (answerDeferral s i k) next k

/-- Answer the LDS waiters of a word in arrival order, as long as it stays Full. The waiters of a frozen partition are dropped (R166); those whose
activation has committed issue again at resume (`resumeWaiters`). -/
def answerWaiters (s : State) (k : Nat) : List (Nat × Op) → State
  | [] => s
  | (n, o) :: rest =>
    match o.w with
    | .lds w ofs t zero empties =>
      if w = k ∧ (lookup s.ops n).isSome ∧ (partOf s o.f.part).pstate = .running then
        let s' := finishOp s n (wordElem s k ofs t zero)
        if empties then setWordState s' k (some .empty) else answerWaiters s' k rest
      else answerWaiters s k rest
    | _ => answerWaiters s k rest

/-- A word is made Full after its new bits have been written; `old` is the word before them, which names the list of a Deferred
one. -/
def makeFull (s : State) (k old : Nat) : State :=
  let st := wordState s k
  let s := setWordState s k none
  let s := if st = some .deferred then answerList (deferralSize s) s (old / 2 ^ 32) k else s
  answerWaiters s k s.ops

/-- At resume the LDSs of committed activations issue again: each finds its word as it is now, and waits anew where it is not Full (R176). -/
def resumeWaiters (s : State) (p : Nat) : State :=
  (s.ops.filter fun o => o.2.f.part == p).foldl (fun s o =>
    match o.2.w with
    | .lds k ofs t zero empties =>
      if (wordState s k).isNone then
        let s := finishOp s o.1 (wordElem s k ofs t zero)
        if empties then setWordState s k (some .empty) else s
      else (waitOp (dropOp s o.1) o.2.f o.2.w).2
    | _ => s) s

/-! ## LDS, LDS.E and LDI -/

/-- Return an element of a Full word. -/
def returnWord (s : State) (f : Firing) (k ofs : Nat) (r : MRec) : State :=
  (waitOp s f (.data (wordElem s k ofs r.c.ty (r.c.fn.getLsbD 3)))).2

/-- A store of the thread that precedes a form performed at the bank has not been performed and writes bits of it under another
address (R181). -/
def aliasHeld (s : State) (f : Firing) (lsid : Nat) (l : List Part) : Bool :=
  (earlierStores s f.act lsid).any fun x => x.2.kind != .scratch &&
    x.2.elems.any fun e => l.any fun p => let y := placeOf (partLoc s p); writesPlace s e y.1 y.2 p.width

/-- A form that reads a word at the bank: its checks, step 1 for one that may change the word, its fill, and what it does by the word's
state. A load-class form needs no PSTO (R84). -/
def wordForm (s : State) (r : MRec) (writes : Bool) (body : Firing → Part → Nat → State → State) : State :=
  fireMem s r fun f s =>
    let n : Need := { use := .sync, width := r.c.ty.width, sync := true }
    match resolve s f n [elemAddr r f] with
    | .done t => t
    | .ok l =>
      match l with
      | [] => s
      | p :: _ =>
        let go (s : State) : State := match blockedLine s f n l with
          | some t => t
          | none => body f p (wordKey s p) (touch s (partLoc s p) true)
        if aliasHeld s f r.own.toNat l then stall s f else if writes then atStep1 s f l go else go s

/-- LDS and LDS.E: a Full word is read, and emptied by LDS.E; else the form waits at the bank. -/
def ldsForm (s : State) (r : MRec) (empties : Bool) : State :=
  wordForm s r empties fun f p k s =>
    let s := resolveLsid s f.act r
    let ofs := p.va.toNat % 64
    if (wordState s k).isNone then
      let s := returnWord s f k ofs r
      if empties then setWordState s k (some .empty) else s
    else (waitOp s f (.lds k ofs r.c.ty (r.c.fn.getLsbD 3) empties)).2

def execLds (r : MRec) (s : State) : Host.Outcome State Fault Refusal := .next (ldsForm s r false)
def execLdsE (r : MRec) (s : State) : Host.Outcome State Fault Refusal := .next (ldsForm s r true)

/-- Append a deferral entry to a word's list: a new list for an Empty word, or where the bits of a Deferred word name none. -/
def appendDeferral (s : State) (f : Firing) (p : Part) (k i : Nat) (r : MRec) : State :=
  let old := wordBits s k
  let tail := old % 2 ^ 32
  let (w, s) := freeWord s
  let s := writeAreaWords s (deferralAt s i) (deferralWords f (p.va.toNat % 64) r.c.ty (r.c.fn.getLsbD 3) w)
  let joins : Bool := wordState s k == some .deferred && decide (tail < deferralSize s)
  let s := if joins then setDeferralNext s tail i else s
  let head := if joins then old / 2 ^ 32 else i
  let s := bankWrite s (writerAt s f r.own.toNat p.big) p.leaf (wordLoc s p) 64 (head * 2 ^ 32 + i)
  setWordState { s with dfr := insertAt s.dfr i f } k (some .deferred)

/-- LDI: a Full word is read; else the form defers, and its activation goes on (R163). -/
def execLdi (r : MRec) (s : State) : Host.Outcome State Fault Refusal :=
  .next (wordForm s r true fun f p k s =>
    if (wordState s k).isNone then returnWord (resolveLsid s f.act r) f k (p.va.toNat % 64) r
    else match freeDeferral s with
      | (none, s) => park s f.act f.node { cls := .tagExhaust, info := 2 } (.form (entryOf s f))
      | (some i, s) => appendDeferral (resolveLsid s f.act r) f p k i r)

end Sys2Proof.Machine
end

