-- ==== Sys2Proof/Machine/Perform.lean ====
section
/-! DEFINITION. STORE_PERFORM: a committed store at its bank or its remote home (R141 to R143, R165, R166, R180, R189, R430, R433). -/

namespace Sys2Proof.Machine

open Sys2Proof

/-! ## Order (R186, R189, R191, R430) -/

/-- Some part of a store is on a device-register page. -/
def onWindow (s : State) (x : Store) : Bool := x.elems.any fun e => match locOf s e.leaf e.big e.va with | .reg _ => true | _ => false

/-- Two stores write a common bit. -/
def commonBits (s : State) (x y : Store) : Bool :=
  x.elems.any fun e => y.elems.any fun d => let q := elemPlace s d; writesPlace s e q.1 q.2 d.width

/-- Two stores of one thread meet: in bits of the scratchpad or of memory, or on the register window. -/
def sameBits (s : State) (y x : Store) : Bool :=
  if y.kind = .scratch ∧ x.kind = .scratch then
    y.elems.any fun e => x.elems.any fun d => overlaps e.va.toNat e.width d.va.toNat d.width
  else y.kind != .scratch && x.kind != .scratch && (commonBits s y x || (onWindow s y && onWindow s x))

/-- An earlier unperformed store of the thread keeps a store back: from a release, from a store that meets it, and from one behind a fence
that orders stores. -/
def keepsBack (s : State) (y x : Store) : Bool :=
  precedes s y.act y.lsid x.act x.lsid && (x.release || sameBits s y x || fenced s (storeKinds true) y.act y.lsid x.act x.lsid)

/-- A waiting access keeps a release back, and a store behind a fence. -/
def loadKeepsBack (s : State) (o : Op) (x : Store) : Bool :=
  let i := nodeLsid s o.f.act o.f.node
  openAccess o && precedes s o.f.act i x.act x.lsid && (x.release || fenced s (loadKinds true) o.f.act i x.act x.lsid)

/-- A committed store may be performed now: not one that a freeze has saved (R303), and an SPST when the forwarding table of its sleeve
has room. -/
def mayPerform (s : State) (sid : Nat) (x : Store) : Bool :=
  x.committed && !x.parked && !x.stale && x.rids.isEmpty && (partOf s x.part).pstate != .frozen
    && (x.kind != .scratch || decide ((sleeveOf s x.sleeve).fwd.length < 32))
    && !(s.stores.any fun y => y.1 != sid && keepsBack s y.2 x)
    && !(s.ops.any fun o => loadKeepsBack s o.2 x)

/-! ## One part at its bank -/

def updStore (s : State) (sid : Nat) (f : Store → Store) : State :=
  match lookup s.stores sid with | some x => { s with stores := insertAt s.stores sid (f x) } | none => s

/-- The first part of a store has been performed. -/
def partDone (s : State) (sid : Nat) : State :=
  match lookup s.stores sid with
  | none => s
  | some x => wake (if x.elems.length ≤ 1 then { s with stores := eraseAt s.stores sid }
      else { s with stores := insertAt s.stores sid { x with elems := x.elems.drop 1, past := x.past ++ x.elems.take 1, rids := [] } })

/-- A part of a store is performed at its remote home: a local copy is updated too, or dropped at scope SYS and while it is being filled
(Table 6.3). -/
def settleCopy (s : State) (x : Store) (e : StoreElem) : State :=
  match locOf s e.leaf e.big e.va with
  | .remote dst a =>
    let whole : Bool := match copyOf s dst (a / 512) with | some c => c.got == 7 | none => true
    if x.scope = .sys ∨ !whole then dropCopy s dst (a / 512)
    else { s with copies := s.copies.map fun c =>
      if c.dev = dst ∧ c.line = a / 512 then
        let o := a % 512
        { c with data := c.data % 2 ^ o + e.pat.toNat % 2 ^ e.width * 2 ^ o + c.data / 2 ^ (o + e.width) * 2 ^ (o + e.width) }
      else c }
  | .dev _ _ | .pod _ | .reg _ => s

/-- The home of a part of a store has performed it. -/
def ackPart (s : State) (sid : Nat) : State :=
  partDone (match lookup s.stores sid with
    | some x => match x.elems with | e :: _ => settleCopy s x e | [] => s
    | none => s) sid

/-- The fault of a committed store about a part (Table 9.6). -/
def storeFault (s : State) (x : Store) (e : StoreElem) (cls : FaultClass) (cause : Nat) (info : Word) : FaultInfo :=
  let w := imgRec (actOf s x.act).image x.node
  faultAt s x.act x.node { cls := cls, cause := cause, wr := true, va := e.va, info := info,
                           width := match Ty.ofCode (w.extractLsb' 80 4) with | some t => t.width | none => 64 }

/-- A committed store that its home refuses is held with its colour (R433). -/
def storeRefused (s : State) (sid : Nat) (x : Store) (i : FaultInfo) : State :=
  holdAfterCommit (updStore s sid fun x => { x with parked := true, rids := [] }) x i sid

/-- Whose store a part is. -/
def writerOf (x : Store) (sid : Nat) (big : Bool) : Writer :=
  { part := x.part, act := x.act, lsid := x.lsid, colour := x.colour, serial := x.serial, sid := sid, big := big }

/-- Linear byte address of the page of a leaf: of the backing of a compact one. -/
def compactPage (e : StoreElem) : Nat := leafPpn e.leaf * (if leafCpt e.leaf then 32768 else 65536)

/-- Send a part of a store to its remote home; at scope SYS the local copy is dropped (Table 6.3). -/
def sendStore (s : State) (sid : Nat) (x : Store) (e : StoreElem) (dst a : Nat) : State :=
  let rid := s.ids % 2 ^ 32
  let (ok, s) := sendRequest s { dst := dst, what := .store sid, addr := a, len := e.width, sys := x.scope == .sys }
    (writeSlot e.width a e.pat.toNat)
  let s := if x.scope = .sys then dropCopy s dst (a / 512) else s
  if ok then updStore s sid fun x => { x with rids := [rid] } else storeRefused s sid x (storeFault s x e .protection 10 0)

/-- With a part of a store at a place of a poisoned sector, the store has now written every bit of the sector (R159). -/
def coversSector (s : State) (x : Store) (e : StoreElem) : Bool :=
  let p := elemPlace s e
  (List.range 256).all fun i => (x.past ++ [e]).any fun d => writesPlace s d p.1 (p.2 / 256 * 256 + i) 1
/-- The poison of a sector goes once a store has written every bit of it. -/
def clearCovered (s : State) (x : Store) (e : StoreElem) (loc : Loc) : State :=
  if poisonLoc s loc && coversSector s x e then setPoisonLoc s loc false else s

/-- An STI meets a Full word (R165). -/
def doubleWrites (s : State) (x : Store) (loc : Loc) : Bool :=
  x.kind == .single && match loc with | .dev apr a => (wordState s (cdaOf apr (a / 8) / 8)).isNone | .pod _ | .remote _ _ | .reg _ => false

/-- The steps of Table 5.2 for a part of a store on device or pod memory. -/
def bankStore (s : State) (sid : Nat) (x : Store) (e : StoreElem) (loc : Loc) : State :=
  let k := match loc with | .dev apr a => cdaOf apr (a / 8) / 8 | _ => 0
  match x.kind with
  | .plain | .scratch => partDone (clearCovered (bankWrite s (writerOf x sid e.big) e.leaf loc e.width e.pat.toNat) x e loc) sid
  | .empty =>
    let s := touch s loc true
    let s := bankDelta s (writerOf x sid e.big) e.leaf loc 0 0 (poisonLoc s loc)
    partDone (if (wordState s k).isNone then setWordState s k (some .empty) else s) sid
  | .fill | .single =>
    if doubleWrites s x loc then
      let s := touch s loc true
      partDone (holdAfterCommit s x (storeFault s x e .doubleWrite 0 (BitVec.ofNat 64 (wordBits s k))) sid) sid
    else
      let old := wordBits s k
      partDone (makeFull (bankWrite s (writerOf x sid e.big) e.leaf loc e.width e.pat.toNat) k old) sid

/-- The stores of a store's thread that precede it and are not performed (R255). -/
def writerStores (s : State) (x : Store) : List HeldBy := (earlierStores s x.act x.lsid).map fun y => .store y.1

/-- An SPST enters its sleeve's forwarding table (R148). -/
def performSpst (s : State) (sid : Nat) (x : Store) : State :=
  let s := updSleeve s x.sleeve fun v => { v with fwd := v.fwd ++ x.elems.map fun e => (e.va.toNat, e.width, e.pat) }
  wake { s with stores := eraseAt s.stores sid }

/-- Perform the first part of a store to memory. -/
def performPart (s : State) (sid : Nat) (x : Store) (e : StoreElem) : State :=
  let loc := locOf s e.leaf e.big e.va
  if !mayPass s (.store sid) [e.spot] then arriveHeld s (.store sid) [e.spot]
  else
  let s := goPast s (.store sid)
  if overflowed s e.leaf e.big e.va then
    parkAccess (updStore s sid fun x => { x with parked := true }) x.part x.act
      (storeFault s x e .compressOverflow 0 (BitVec.ofNat 64 (compactPage e))) (.store sid)
  else if lostLoc s loc && !doubleWrites s x loc then storeRefused s sid x (storeFault s x e .ownerLost 0 0)
  else match ownedLoc s loc with
    | some l => snoopOwner s l none
    | none =>
      match loc with
      | .remote dst a => sendStore s sid x e dst a
      | .reg ofs => partDone (writeWindow s ofs e.pat (writerStores s x)) sid
      | .dev _ _ | .pod _ => bankStore s sid x e loc

/-- STORE_PERFORM. -/
def execStorePerform (sid : Nat) (s : State) : Host.Outcome State Fault Refusal :=
  .next (match lookup s.stores sid with
    | some x => if mayPerform s sid x then
        if x.kind = .scratch then performSpst s sid x
        else match x.elems with
        | e :: _ => performPart s sid x e
        | [] => { s with stores := eraseAt s.stores sid }
      else s
    | none => s)

end Sys2Proof.Machine
end

