-- ==== Sys2Proof/Machine/Atomic.lean ====
section
/-! DEFINITION. The memory atomics AADD to ACAS (R195, R343 to R346). -/

namespace Sys2Proof.Machine

open Sys2Proof

/-- The new value of an element (Table 12.1): `op` is OPC - 0x70; none writes nothing. -/
def atomicNew (op : Nat) (t : Ty) (u : Bool) (v b c : Nat) : Option Nat :=
  let w := t.width
  let rd (x : Nat) : Int := if u then (x : Int) else signedOf w x
  match op with
  | 0 => some ((v + b) % 2 ^ w)
  | 1 => some (writeFloat (fmtOf t) .rne .none false 0 (addNum .rne (readFloat (fmtOf t) v) (readFloat (fmtOf t) b)))
  | 2 => some (if rd b < rd v then b else v)
  | 3 => some (if rd v < rd b then b else v)
  | 4 => some (v &&& b)
  | 5 => some (v ||| b)
  | 6 => some (v ^^^ b)
  | 7 => some b
  | _ => if v = b then some c else none

/-- One read-modify-write at the bank: the old value, whether its sector is poisoned, and the state after it. On a poisoned sector
nothing is written. -/
def bankAtomic (s : State) (wr : Writer) (e : Word) (loc : Loc) (op : Nat) (t : Ty) (u : Bool) (b c : Nat) : Nat × Bool × State :=
  let s := touch s loc true
  let v := readLoc s loc t.width
  if poisonLoc s loc then (v, true, s)
  else match atomicNew op t u v (b % 2 ^ t.width) (c % 2 ^ t.width) with
    | some n => (v, false, bankWrite s wr e loc t.width n)
    | none => (v, false, s)

/-- The old value as an atomic returns it. -/
def atomicResult (t : Ty) (u : Bool) (poi : Bool) (v : Nat) : TokVal := { scalarElem t.width (!u && !t.isFloat) v with poi := poi }

/-- The element type of an atomic, as a message to its home has them (Table 11.3). -/
def atomicMsgTy (t : Ty) : BitVec 2 := (t.code - if t.isFloat then 8 else 0).setWidth 2

/-- An atomic on another device: an ATOMIC message; the local copy of its line is dropped. -/
def remoteAtomic (s : State) (f : Firing) (r : MRec) (op : Nat) (va : Word) (dst a : Nat) : State :=
  let t := r.c.ty
  let u := r.c.fn.getLsbD 3
  let (k, s) := waitOp (resolveLsid s f.act r) f (.remoteAtomic 0 t u)
  let rid := s.ids % 2 ^ 32
  let (ok, s) := sendRequest (dropCopy s dst (a / 512)) { dst := dst, what := .atomic k, addr := a, len := t.width, sys := scopeOf r == .sys }
    fun i => atomicSlot { op := BitVec.ofNat 4 op, ty := atomicMsgTy t, u := u, addr := BitVec.ofNat 42 a,
                          b := opWord f.b, c := opWord f.c, rid := i }
  if ok then { s with ops := insertAt s.ops k { f := f, w := .remoteAtomic rid t u, order := k } }
  else protect (dropOp s k) f { va := va, width := t.width, wr := true, cause := 10 }

/-- An atomic on pod memory (R195): near when this device holds the line exclusive, which is when a sector of it is dirty; else far, at the home of
the line, which takes this device's clean copy away. Its home is asked, and its answer comes in the same step (log 7). -/
def podAtomic (s : State) (wr : Writer) (e : Word) (a op : Nat) (t : Ty) (u : Bool) (b c : Word) : Nat × Bool × State :=
  let line := podLine0 + a / 512
  if (lookupD s.l2 line {}).dirty then bankAtomic s wr e (.pod a) op t u b.toNat c.toNat
  else
    let x := lookupD s.l2 line {}
    let s := if (if hiSector (.pod a) then x.s1 else x.s0) then s else countMiss s line 3 ((a / 8 - windowBase s) / 65536)
    let s := emit { s with l2 := eraseAt s.l2 line }
      (.podAtomic (a / 512) { op := BitVec.ofNat 4 op, ty := atomicMsgTy t, u := u, ofs := BitVec.ofNat 9 a, b := b, c := c })
    let v := readLoc s (.pod a) t.width
    let poi := poisonLoc s (.pod a)
    match if poi then none else atomicNew op t u v (b.toNat % 2 ^ t.width) (c.toNat % 2 ^ t.width) with
    | some n => (v, poi, writeLoc s (.pod a) t.width n)
    | none => (v, poi, s)

/-- An atomic form: the checks of Table 12.2 in order, then the operation at its bank. -/
def atomicForm (s : State) (r : MRec) (op : Nat) : State :=
  fireMem s r fun f s =>
    let t := r.c.ty
    let u := r.c.fn.getLsbD 3
    let n : Need := { use := .atomic, width := t.width, sync := true, psto := imgPsto (actOf s f.act).image }
    match resolve s f n [elemAddr r f] with
    | .done x => x
    | .ok l =>
      match l with
      | [] => s
      | p :: _ =>
        if aliasHeld s f r.own.toNat l then stall s f
        else atStep1 s f l fun s =>
        if overflowed s p.leaf p.big p.va then
          park s f.act f.node { cls := .compressOverflow, va := p.va, width := t.width, wr := true,
                                info := BitVec.ofNat 64 (compactPage { leaf := p.leaf }) } (.form (entryOf s f))
        else match blockedLine s f n l with
          | some x => x
          | none =>
            match partLoc s p with
            | .remote dst a => remoteAtomic s f r op p.va dst a
            | .reg _ => s
            | .pod a =>
              let (v, poi, s) := podAtomic (resolveLsid s f.act r) (writerAt s f r.own.toNat p.big) p.leaf a op t u (opWord f.b) (opWord f.c)
              sendBoth s f (atomicResult t u poi v)
            | .dev _ _ =>
              let (v, poi, s) := bankAtomic (resolveLsid s f.act r) (writerAt s f r.own.toNat p.big) p.leaf (partLoc s p) op t u (opWord f.b).toNat (opWord f.c).toNat
              sendBoth s f (atomicResult t u poi v)

def execAadd (r : MRec) (s : State) : Host.Outcome State Fault Refusal := .next (atomicForm s r 0)
def execAfad (r : MRec) (s : State) : Host.Outcome State Fault Refusal := .next (atomicForm s r 1)
def execAmin (r : MRec) (s : State) : Host.Outcome State Fault Refusal := .next (atomicForm s r 2)
def execAmax (r : MRec) (s : State) : Host.Outcome State Fault Refusal := .next (atomicForm s r 3)
def execAand (r : MRec) (s : State) : Host.Outcome State Fault Refusal := .next (atomicForm s r 4)
def execAor (r : MRec) (s : State) : Host.Outcome State Fault Refusal := .next (atomicForm s r 5)
def execAxor (r : MRec) (s : State) : Host.Outcome State Fault Refusal := .next (atomicForm s r 6)
def execAxch (r : MRec) (s : State) : Host.Outcome State Fault Refusal := .next (atomicForm s r 7)
def execAcas (r : MRec) (s : State) : Host.Outcome State Fault Refusal := .next (atomicForm s r 8)

end Sys2Proof.Machine
end

