-- ==== Sys2Proof/Machine/Buffers.lean ====
section
/-! DEFINITION. Circular buffers CBIN, CBPT, CBAQ and CBRL (R168 to R170, R354) and the stream ports SEND and RECV (R412 to R415). -/

namespace Sys2Proof.Machine

open Sys2Proof

/-! ## Circular buffers -/

/-- Fields of a descriptor (Table 5.9). -/
def cbdWidth (d : Word) : Nat := if d.getLsbD 44 then 1024 else 64
@[inherit_doc cbdWidth] def cbdSlots (d : Word) : Nat := if bits d.toNat 32 12 = 0 then 4096 else bits d.toNat 32 12
@[inherit_doc cbdWidth] def cbdBase (d : Word) : Nat := bits d.toNat 0 25

/-- An operand of CBIN that breaks Table 5.9. -/
def cbinBad (v : Sleeve) (d : Word) : Bool :=
  bits d.toNat 45 15 != 0 || bits d.toNat 25 7 != 0 || cbdBase d % cbdWidth d != 0
    || decide (quadCount v ≤ cbdBase d / 2 ^ 21) || decide (2 ^ 21 < cbdBase d % 2 ^ 21 + cbdSlots d * cbdWidth d)

/-- The counts of a buffer: FREE, FILL, HELD and PIDX (Table 5.10). -/
structure Counts where
  free : Nat := 0
  fill : Nat := 0
  held : Nat := 0
  pidx : Nat := 0
  deriving DecidableEq, Repr

def countsOf (w : Word) : Counts := { free := bits w.toNat 39 13, fill := bits w.toNat 26 13, held := bits w.toNat 13 13, pidx := bits w.toNat 0 12 }
def countsWord (c : Counts) : Word := BitVec.ofNat 64 (c.free * 2 ^ 39 + c.fill * 2 ^ 26 + c.held * 2 ^ 13 + c.pidx % 4096)
def cbCounts (v : Sleeve) (b : Nat) : Counts := countsOf (lookupD v.cbc b 0)
def cbSet (v : Sleeve) (b : Nat) (c : Counts) : Sleeve := { v with cbc := insertAt v.cbc b (countsWord c) }

/-- The value that CBPT writes into a slot (R169). -/
def slotValue (w : Nat) (v : TokVal) : Nat := v.val.toNat % 2 ^ w

/-- Drain the whole forwarding table, so that a write to the scratchpad comes after every committed SPST. -/
def drainAll (v : Sleeve) : Sleeve := { v.fwd.foldl (fun v x => writeScratch v x.1 x.2.1 x.2.2.toNat) v with fwd := [] }

/-- Poison after a write of `n` bits at a scratchpad address: marked in its sectors, or cleared in those that it covers (R450). -/
def markScratch (v : Sleeve) (a n : Nat) (poi : Bool) : Sleeve :=
  if poi then { v with scratchBad := (List.range ((a + n - 1) / 256 + 1 - a / 256)).foldl (fun l k => insertNat l (a / 256 + k)) v.scratchBad }
  else { v with scratchBad := v.scratchBad.filter fun k => !(decide (a ≤ 256 * k) && decide (256 * k + 256 ≤ a + n)) }

/-- Scratchpad address of a slot. -/
def slotAt (v : Sleeve) (b i : Nat) : Nat := cbdBase (lookupD v.cbd b 0) + i * cbdWidth (lookupD v.cbd b 0)

/-- Take and fill the next slot, when one is free: its index. -/
def cbPut (v : Sleeve) (b : Nat) (x : TokVal) : Option (Nat × Sleeve) :=
  let c := cbCounts v b
  let d := lookupD v.cbd b 0
  if c.free = 0 then none
  else
    let v' := markScratch (writeScratch (drainAll v) (slotAt v b c.pidx) (cbdWidth d) (slotValue (cbdWidth d) x)) (slotAt v b c.pidx) (cbdWidth d) x.poi
    some (c.pidx, cbSet v' b { c with pidx := (c.pidx + 1) % cbdSlots d, free := c.free - 1, fill := c.fill + 1 })

/-- What a waiting circular-buffer form does when it is served: its result and the sleeve after it; none while it is blocked. -/
def cbServe (v : Sleeve) : Wait → Option (Nat × Sleeve)
  | .cbin d =>
    let b := bits d.toNat 60 4
    some (b, cbSet { v with cbd := insertAt v.cbd b d } b { free := cbdSlots d })
  | .cbpt b x => cbPut v b x
  | .cbaq b =>
    let c := cbCounts v b
    let n := cbdSlots (lookupD v.cbd b 0)
    if c.fill = 0 then none
    else some (slotAt v b ((c.pidx + n - c.fill % n) % n), cbSet v b { c with fill := c.fill - 1, held := c.held + 1 })
  | .cbrl b =>
    let c := cbCounts v b
    let c := if c.held = 0 then c else { c with held := c.held - 1, free := c.free + 1 }
    some (c.free, cbSet v b c)
  | _ => none

/-- An activation may perform a circular-buffer form. -/
def performs (s : State) (a : Nat) : Bool := match (actOf s a).st with | .running | .parked | .complete | .committed => true | _ => false

/-- The first in arrival order of the waiting circular-buffer forms of a sleeve that can be served: its number, its result, and the sleeve
after it. -/
def nextServed (s : State) (v : Nat) : Option (Nat × Nat × Sleeve) :=
  s.ops.findSome? fun x =>
    if x.2.f.sleeve = v ∧ performs s x.2.f.act then (cbServe (sleeveOf s v) x.2.w).map fun y => (x.1, y) else none

/-- Serve the buffers of a sleeve until nothing more can be served: each time the form that has waited longest (R170). -/
def serveBuffers : Nat → State → Nat → State
  | 0, s, _ => s
  | n + 1, s, v =>
    match nextServed s v with
    | some (k, x, u) => serveBuffers n (finishOp (updSleeve s v fun _ => u) k (scalarOf (BitVec.ofNat 64 x))) v
    | none => s

/-- A circular-buffer form waits at its buffer and is served as soon as it may be. -/
def bufferForm (s : State) (r : GRec) (w : Firing → Wait) : State :=
  fire s r.c r.lit fun f s =>
    let (k, s) := waitOp s f (w f)
    let _ := k
    serveBuffers (s.ops.length + 1) s f.sleeve

/-- The buffer that operand A names. -/
def bufferOf (f : Firing) : Nat := (opWord f.a).toNat % 16

def execCbin (r : GRec) (s : State) : Host.Outcome State Fault Refusal :=
  .next (fire s r.c r.lit fun f s =>
    if cbinBad (sleeveOf s f.sleeve) (opWord f.a) then protect s f { cause := 8 }
    else
      let s := (waitOp s f (.cbin (opWord f.a))).2
      serveBuffers (s.ops.length + 1) s f.sleeve)
def execCbpt (r : GRec) (s : State) : Host.Outcome State Fault Refusal :=
  .next (bufferForm s r fun f => .cbpt (bufferOf f) (f.b.getD nullTok))
def execCbaq (r : GRec) (s : State) : Host.Outcome State Fault Refusal := .next (bufferForm s r fun f => .cbaq (bufferOf f))
def execCbrl (r : GRec) (s : State) : Host.Outcome State Fault Refusal := .next (bufferForm s r fun f => .cbrl (bufferOf f))

/-! ## Stream ports -/

/-- Messages that a port holds at most. -/
def portRoom : Nat := 64

/-- Serve the waiting SENDs and RECVs of a port, in arrival order of each, until nothing more can be served (R413, R414). -/
def servePort : Nat → State → Nat → Nat → State
  | 0, s, _, _ => s
  | n + 1, s, v, k =>
    let q := lookupD (sleeveOf s v).ports k []
    let put (s : State) (l : List TokVal) : State := updSleeve s v fun x => { x with ports := insertAt x.ports k l }
    match q, s.ops.find? fun x => x.2.f.sleeve == v && x.2.w == .recv k with
    | m :: rest, some (o, _) => servePort n (finishOp (put s rest) o m) v k
    | _, _ =>
      match s.ops.find? fun x => (match x.2.w with | .send u j _ => u == v && j == k | _ => false) with
      | some (o, x) =>
        if portRoom ≤ q.length then s
        else match x.w with
          | .send _ _ m => servePort n (finishOp (put s (q ++ [m])) o (scalarOf 0)) v k
          | _ => s
      | none => s

/-- The sleeve and port that a SEND names (Table 14.2). -/
def sendDest (s : State) (f : Firing) (lit : BitVec 32) : Option (Nat × Nat) :=
  let v := if lit.getLsbD 31 then some f.sleeve else (cfgOf s (sleeveOf s f.sleeve).cfg).sleeves[bits lit.toNat 4 12]?
  match v with
  | some v => if lit.toNat % 16 < quadCount (sleeveOf s v) then some (v, lit.toNat % 16) else none
  | none => none

def execSend (r : GRec) (s : State) : Host.Outcome State Fault Refusal :=
  .next (fire s r.c 0 fun f s =>
    match sendDest s f r.lit with
    | none => raise s f.act f.node { cls := .blockShape }
    | some (v, k) =>
      let s := (waitOp s f (.send v k (opA f))).2
      servePort (2 * s.ops.length + 2) s v k)

def execRecv (r : GRec) (s : State) : Host.Outcome State Fault Refusal :=
  .next (fire s r.c 0 fun f s =>
    if quadCount (sleeveOf s f.sleeve) ≤ r.lit.toNat then raise s f.act f.node { cls := .blockShape }
    else
      let s := (waitOp s f (.recv r.lit.toNat)).2
      servePort (2 * s.ops.length + 2) s f.sleeve r.lit.toNat)

end Sys2Proof.Machine
end

