-- ==== Sys2Proof/Machine/Agent.lean ====
section
/-! DEFINITION. Accesses of agents other than the execution nodes: fetches, the loader, islands, migrations (R177, R272, R274). Such
an agent walks the tables itself, and what another device or a pod agent must first send keeps it waiting. -/

namespace Sys2Proof.Machine

open Sys2Proof

/-- How a translation of an agent ends without a leaf: a fault, or a wait for the owner of a table line; with the state after what the walk
has read. -/
inductive AgentStop where
  | fault (i : FaultInfo) (s : State)
  | wait (s : State)
  deriving DecidableEq, Repr

/-- What a translation of an agent gives: a leaf, whether of a 32 MiB page, and the state; or how it stopped. -/
abbrev Translated := Except AgentStop (Word × Bool × State)

/-- Translate an address for an agent in a cache, at a privilege (R272); `held` tells an access that was held at step 1 of Table 5.2. -/
def agentTranslate (s : State) (c : TlbAt) (p : Nat) (sup : Bool) (use : Use) (va : Word) (width : Nat) (held : Bool := false) : Translated :=
  let i : FaultInfo := { va := va, wr := use.writes, fetch := use == .fetch }
  let check (e : Word) (big : Bool) (lvl : Nat) (info : Word) (s : State) : Translated :=
    match permission sup use e with
    | some k => .error (.fault { i with cls := .protection, cause := k, lvl := lvl, info := info } s)
    | none =>
      if pageBad s held use e big va width then .error (.fault { i with cls := .protection, cause := 6, lvl := lvl, info := info } s)
      else .ok (e, big, s)
  if !canonical va then .error (.fault { i with cls := .protection, cause := 1 } s)
  else match tlbLookup s c p va with
    | some t => check t.leaf t.big 7 0 s
    | none =>
      let (l, r) := walkTables s p va
      let s := touchTables s l
      match r with
      | .owned k => .error (.wait (snoopOwner s k none))
      | .stop cause lvl e => .error (.fault { i with cls := .translation, cause := cause, lvl := lvl, info := e } s)
      | .leaf e big _ =>
        match check e big (if big then 2 else 3) e s with
        | .ok (e, big, s) => .ok (e, big, tlbAdd s c { part := p, va := pageBase va big, big := big, leaf := e })
        | .error x => .error x

/-- What a read of an agent gives: bits and their poison, a wait, or an error reply of the home. -/
inductive Got where
  | ok (v : Nat) (poi : Bool) (s : State)
  | wait (s : State)
  | lost
  | refused
  deriving DecidableEq, Repr

/-- Read bits within one sector at a place. -/
def agentRead (s : State) (loc : Loc) (w : Nat) (counts : Bool) : Got :=
  if lostLoc s loc then .lost
  else match ownedLoc s loc with
    | some l => .wait (snoopOwner s l none)
    | none =>
      match loc with
      | .dev _ _ | .pod _ => let s := touch s loc counts; .ok (readLoc s loc w) (poisonLoc s loc) s
      | .reg o => .ok ((readWindow s o).toNat % 2 ^ w) false s
      | .remote dst a =>
        match copyOf s dst (a / 512) with
        | none => .wait (fetchCopy (if counts then countMiss s (remoteLine dst a) 3 (2 ^ 24) else s) dst (a / 512))
        | some c => if c.err then .refused else if c.got = 7 then .ok (copyBits c a w) c.poi s else .wait s

/-- What a read of a virtual range gives: a value, a wait, a fault of translation, or an error reply at an address. -/
inductive RangeGot where
  | ok (v : Nat) (poi : List Bool) (s : State)
  | wait (s : State)
  | fault (i : FaultInfo) (s : State)
  | lost (va : Word) (s : State)
  | refused (va : Word) (s : State)
  deriving DecidableEq, Repr

/-- Read `n` sectors from a sector-aligned virtual address on; `counts` tells whether absent ones are misses for page heat. -/
def agentSectors (s : State) (c : TlbAt) (p : Nat) (sup : Bool) (use : Use) (va : Word) (counts : Bool := true) : Nat → RangeGot
  | 0 => .ok 0 [] s
  | n + 1 =>
    match agentTranslate s c p sup use va 256 with
    | .error (.fault i s) => .fault i s
    | .error (.wait s) => .wait s
    | .ok (e, big, s) =>
      match agentRead s (locOf s e big va) 256 counts with
      | .wait s => .wait s
      | .lost => .lost va s
      | .refused => .refused va s
      | .ok v poi s =>
        match agentSectors s c p sup use (va + 256) counts n with
        | .ok r l s => .ok (v + r * 2 ^ 256) (poi :: l) s
        | x => x

end Sys2Proof.Machine
end

