-- ==== Sys2Proof/Machine/Batches.lean ====
section
/-! DEFINITION. Batches of transfers (R198, R230, R231): XBAT, XWAIT and XSTA (R451), and the end of a transfer. -/

namespace Sys2Proof.Machine

open Sys2Proof

/-! ## Batches (R198, R230) -/

/-- The open batch of a colour: the one after the latest closed. -/
def openBatch (c : Colour) : Batch :=
  match c.batches.getLast? with
  | some b => if b.closed then { num := (b.num + 1) % 2 ^ 32 } else b
  | none => {}
/-- Closed batches, the oldest first. -/
def closedBatches (c : Colour) : List Batch := c.batches.filter (·.closed)
/-- Closed batches that are not counted complete, in closing order. A batch that is empty or has finished behind an unfinished one counts as
not complete here, for the limit of 16, for XSTA and for XWAIT, which R198 and R230 leave open (log 53). -/
def uncounted (c : Colour) : List Batch := (closedBatches c).dropWhile fun b => b.left = 0
/-- A close would make 16 closed batches that are not complete. -/
def closeHeld (c : Colour) : Bool := decide (15 ≤ (uncounted c).length)
/-- Drop closed batches beyond the latest 16 that are retained. -/
def retain (c : Colour) : Colour :=
  let l := closedBatches c
  { c with batches := l.drop (l.length - 16) ++ c.batches.filter fun b => !b.closed }
/-- Close the open batch. -/
def closeBatch (c : Colour) : Colour := retain { c with batches := closedBatches c ++ [{ openBatch c with closed := true }] }
/-- Change a batch of a colour by number. -/
def updBatch (s : State) (k serial num : Nat) (f : Batch → Batch) : State :=
  updColour s k fun c => if c.serial = serial then { c with batches := c.batches.map fun b => if b.num = num then f b else b } else c

/-- A form of a colour that waits for a close comes first among those. -/
def closeWaits (o : Op) : Bool := match o.w with | .xbat | .xferJoin => true | .xwait _ c => !c | _ => false
/-- The forms of a colour that wait for a held close, in arrival order. -/
def waitingCloses (s : State) (k : Nat) : List (Nat × Op) :=
  s.ops.filter fun o => closeWaits o.2 && (actOf s o.2.f.act).colour == k

/-- The record of a form that waits. -/
def formOf (s : State) (f : Firing) : Option Instr :=
  match decodeRecord (imgRec (actOf s f.act).image f.node) with | .ok i => some i | .error _ => none

/-- An operand of a hem form as the token that carries it over the hem channel (R17, R31). -/
def operandToken (f : Firing) (v : Option TokVal) : NetToken :=
  let t : Token := { tag := f.tag, blk := f.blk, node := f.node, v := v.getD nullTok }
  { tok := t, par := parityOf t, kept := t, keptPar := parityOf t, prod := f.act, part := f.part, unit := enCoord f.en, prodNode := f.node }

/-- Let a transfer join the open batch of its colour and go to its island's queue over the hem channel (R17, R449). -/
def joinBatch (s : State) (f : Firing) (i : Instr) : State :=
  let a := actOf s f.act
  let (tid, s) := fresh s
  let b := openBatch (colourOf s a.colour)
  let s := updColour s a.colour fun c =>
    { c with batches := closedBatches c ++ [{ openBatch c with nxfr := (openBatch c).nxfr + 1, left := (openBatch c).left + 1 }] }
  let x : Xfer := { f := f, instr := i, edges := edgesOf s f.act, xisl := ((sleeveOf s f.sleeve).xisl).getD 0, colour := a.colour, serial := a.serial, batch := b.num,
                    st := .flying, seq := a.seq, order := tid }
  let fl : HemFlight := { isl := x.xisl, xfer := tid, a := operandToken f f.a, b := operandToken f f.b, c := operandToken f f.c }
  (waitOp { s with xfers := insertAt s.xfers tid x, flights := s.flights ++ [fl] } f (.xferAccept tid)).2

/-- A transfer joins, after a close of a batch that holds 64 (R230); the flag tells whether the close is held. -/
def tryJoin (s : State) (f : Firing) (i : Instr) : Bool × State :=
  let k := (actOf s f.act).colour
  let c := colourOf s k
  if (openBatch c).nxfr < 64 then (false, joinBatch s f i)
  else if closeHeld c then (true, s)
  else (false, joinBatch (updColour s k closeBatch) f i)

/-- Serve the held closes of a colour in arrival order; a transfer among them waits for its credit and its place too (R17, R223). -/
def serveCloses : Nat → State → Nat → State
  | 0, s, _ => s
  | n + 1, s, k =>
    match waitingCloses s k with
    | [] => s
    | (o, x) :: _ =>
      let c := colourOf s k
      match x.w with
      | .xferJoin =>
        let (h, t) := tryJoin (dropOp s o) x.f ((formOf s x.f).getD .heatDecayDone)
        if h || !xferRoom s x.f.sleeve then s else serveCloses n t k
      | .xbat =>
        if closeHeld c then s
        else serveCloses n (finishOp (updColour s k closeBatch) o (scalarOf (BitVec.ofNat 64 (openBatch c).num))) k
      | .xwait m _ =>
        if closeHeld c then s
        else serveCloses n { updColour s k closeBatch with ops := insertAt s.ops o { x with w := .xwait m true } } k
      | _ => s

/-- XWAITs of a colour whose count is reached send their tokens. -/
def serveWaits (s : State) (k : Nat) : State :=
  s.ops.foldl (fun s o =>
    match o.2.w with
    | .xwait n true =>
      let m := (uncounted (colourOf s k)).length
      if (actOf s o.2.f.act).colour = k ∧ m ≤ n then finishOp s o.1 (scalarOf (BitVec.ofNat 64 m)) else s
    | _ => s) s

/-- What waits for the batches of a colour goes on. -/
def settleBatches (s : State) (k : Nat) : State := serveWaits (serveCloses (s.ops.length + 1) s k) k

/-- Transfers that wait behind a close go on when a credit or a place may have come free (R17, R223). -/
def serveJoins (s : State) : State :=
  ((s.ops.filter fun o => o.2.w == .xferJoin).map fun o => (actOf s o.2.f.act).colour).eraseDups.foldl settleBatches s

/-- Firing of an X-format form that acts at issue. -/
def fireX (s : State) (r : XRec) (body : Firing → State → State) : State := fire s r.c r.lit body

/-- XBAT closes the open batch, now or when the close is no longer held. -/
def execXbat (r : XRec) (s : State) : Host.Outcome State Fault Refusal :=
  .next (fireX s r fun f s => settleBatches (waitOp s f .xbat).2 (actOf s f.act).colour)
def execXwait (r : XRec) (s : State) : Host.Outcome State Fault Refusal :=
  .next (fireX s r fun f s => settleBatches (waitOp s f (.xwait (r.lit.toNat % 16) false)).2 (actOf s f.act).colour)

/-- Units of a batch's transfers are parked (Table 7.9, PARK). -/
def batchParked (s : State) (k serial num : Nat) : Bool :=
  s.parked.any fun q => match q.what with
    | .range t _ _ => match lookup s.xfers t with
      | some x => x.colour == k && x.serial == serial && x.batch == num
      | none => false
    | _ => false

/-- The status word of a batch (Table 7.9). -/
def batchStatus (s : State) (k num : Nat) : Word :=
  let c := colourOf s k
  let word (state : Nat) (b : Batch) : Word :=
    BitVec.ofNat 64 (state * 2 ^ 62 + (if b.stale then 2 ^ 61 else 0) + (if b.fault then 2 ^ 60 else 0)
      + (if batchParked s k c.serial num then 2 ^ 59 else 0) + b.nxfr * 2 ^ 52 + min b.bits (2 ^ 52 - 1))
  if num = (openBatch c).num then word 0 (openBatch c)
  else match (closedBatches c).find? fun b => b.num == num with
    | some b => word (if (uncounted c).any fun u => u.num == num then 1 else 2) b
    | none => BitVec.ofNat 64 (3 * 2 ^ 62)

def execXsta (r : XRec) (s : State) : Host.Outcome State Fault Refusal :=
  .next (fireX s r fun f s => sendBoth s f (scalarOf (batchStatus s (actOf s f.act).colour (low32 (opA f)))))

/-! ## The end of a transfer -/

def updXfer (s : State) (tid : Nat) (f : Xfer → Xfer) : State :=
  match lookup s.xfers tid with | some x => { s with xfers := insertAt s.xfers tid (f x) } | none => s

/-- A transfer is over: it gives up what it holds, and its batch counts it (R198, R229). -/
def endXfer (s : State) (tid : Nat) (f : Batch → Batch) : State :=
  match lookup s.xfers tid with
  | none => s
  | some x =>
    let s := { s with
      xfers := eraseAt s.xfers tid
      flights := s.flights.filter fun y => y.xfer != tid
      parked := s.parked.filter fun q => match q.what with | .range t _ _ => t != tid | _ => true
      remotes := s.remotes.filter fun r => r.2.what != .xfer tid
      ops := if x.slot = 0 then s.ops else eraseAt s.ops x.slot }
    settleBatches (updBatch s x.colour x.serial x.batch fun b => f { b with left := b.left - 1 }) x.colour

/-- Where a fault of a transfer stands (Table 9.6). -/
def xferFault (s : State) (x : Xfer) (i : FaultInfo) : FaultInfo :=
  { i with src := 2, coord := xislCoord x.xisl, tag := x.f.tag, blk := x.f.blk, node := x.f.node, slv := (sleeveOf s x.f.sleeve).desc }

end Sys2Proof.Machine
end

