-- ==== Sys2Proof/Machine/Flags.lean ====
section
/-! DEFINITION. Conditions and classes: the LX9 has no flag register (R112), so what another machine would hold in flags is a
result element. Comparisons (R356, R380), float classes (R381), and minimum and maximum (R379). -/

namespace Sys2Proof.Machine

open Sys2Proof

/-- Integer conditions by code (R356). -/
def intCond (code : Nat) (a b : Int) : Bool :=
  match code with
  | 0 => decide (a = b)
  | 1 => decide (a ≠ b)
  | 2 => decide (a < b)
  | 3 => decide (a ≤ b)
  | 4 => decide (b < a)
  | 5 => decide (b ≤ a)
  | _ => false

/-- Float conditions by code on a comparison's outcome (R380). -/
def floatCond (code : Nat) (c : Option Int) : Bool :=
  match c with
  | none => code == 1 || code == 6
  | some d =>
    match code with
    | 0 => d == 0
    | 1 => d != 0
    | 2 => decide (d < 0)
    | 3 => decide (d ≤ 0)
    | 4 => decide (0 < d)
    | 5 => decide (0 ≤ d)
    | 7 => true
    | _ => false

/-- The class bit of a number of a format (Table 13.4). -/
def classBit (f : Fmt) (x : Num) : Nat :=
  match x with
  | .nan _ => 8
  | .inf s => if s then 0 else 7
  | .fin s n d e =>
    if n = 0 then (if s then 3 else 4)
    else if floorLog2 n d + e < 1 - (f.bias : Int) then (if s then 2 else 5)
    else if s then 1 else 6

/-- Whether the first of two numbers orders below the second, with −0 below +0 (R379). -/
def belowNum (a b : Num) : Bool :=
  match a.compare b with
  | some c => decide (c < 0) || c == 0 && a.neg && !b.neg
  | none => false

/-- FMIN or FMAX of two patterns of a format, given what they stand for (R379). -/
def minMaxNum (f : Fmt) (max : Bool) (x y : Nat) (a b : Num) : Nat :=
  match a.isNan, b.isNan with
  | true, true => f.nanCode a.neg
  | true, false => y
  | false, true => x
  | false, false => if max then (if belowNum a b then y else x) else if belowNum b a then y else x

end Sys2Proof.Machine
end

