-- ==== Sys2Proof/Machine/Lane.lean ====
section
/-! DEFINITION. Lane forms: BCST (R348), LANE (R391), SHUF (R420), REDL and SCNL (R133, R134, R417), CMPX (R357), VLEN (R446),
and the combining step that REDL, SCNL and COMB share (R359). -/

namespace Sys2Proof.Machine

open Sys2Proof

/-- A vector of whole lanes, or null when there is none. -/
def vectorOrNull : List Nat → TokVal
  | [] => nullTok
  | l => vectorOf l

/-- BCST: n lanes; under a 64-bit type the last of an odd number holds no element and is zero (R115, R348). -/
def execBcst (r : GRec) (s : State) : Host.Outcome State Fault Refusal :=
  .next (fireG s r fun f =>
    let w := r.c.ty.width
    let n := if r.lit.toNat % 64 = 0 then f.grant else r.lit.toNat % 64
    let l := lanesOf r.lm w (!r.c.ty.isFloat) n (List.replicate (placesOf r.lm w n) (elemOf .scalar w (opA f) 0))
    vectorOrNull (l ++ List.replicate (n - l.length) 0))

def execLane (r : GRec) (s : State) : Host.Outcome State Fault Refusal :=
  .next (fireG s r fun f =>
    let w := r.c.ty.width
    let i := (opB r f).lane 0 % 512
    let xs := elemsOf r.lm w (opA f)
    scalarElem w (!r.c.ty.isFloat) (xs.getD i 0))

/-- Whole lanes of an operand; a scalar counts as one lane. -/
def wholeLanes (v : TokVal) : List Nat := if v.kind = .vector then (List.range v.ln).map v.lane else [v.lane 0]
def execShuf (r : GRec) (s : State) : Host.Outcome State Fault Refusal :=
  .next (fireG s r fun f =>
    let a := wholeLanes (opA f)
    vectorOrNull (if r.c.ar = .a then rotate a (r.lit.toNat % 32) else (wholeLanes (f.b.getD nullTok)).map fun i => a.getD (i % 32) 0))

def execCmpx (r : GRec) (s : State) : Host.Outcome State Fault Refusal :=
  .next (fireG s r fun f =>
    let m := (opB r f).lane 0
    vectorOrNull (((wholeLanes (opA f)).zipIdx.filter fun (_, i) => bits m i 1 = 1).map (·.1)))

def execVlen (r : GRec) (s : State) : Host.Outcome State Fault Refusal :=
  .next (fireG s r fun f =>
    let a := opA f
    scalarOf (BitVec.ofNat 64 (if a.kind = .vector then placesOf r.lm r.c.ty.width a.ln else 1)))

/-! ## Reductions -/

/-- A float pattern under SAT, as the result of a step that does not round (R120). -/
def satFloat (t : Ty) (sat : Sat) (x : Nat) : Nat :=
  if sat = .none then x else writeFloat (fmtOf t) .rne sat false 0 (readFloat (fmtOf t) x)

/-- One step of a reduction on patterns of a type: red code, rounding and saturation (R120, R359, R417). -/
def redStep (t : Ty) (code : Nat) (m : Rnd) (sat : Sat) (x y : Nat) : Nat :=
  let w := t.width
  match code with
  | 0 =>
    if t.isFloat then writeFloat (fmtOf t) m sat false 0 (addNum m (readFloat (fmtOf t) x) (readFloat (fmtOf t) y))
    else narrowInt w false (sat != .none) (signedOf w x + signedOf w y)
  | 1 =>
    if t.isFloat then satFloat t sat (minMaxNum (fmtOf t) false x y (readFloat (fmtOf t) x) (readFloat (fmtOf t) y))
    else patternOf w (min (signedOf w x) (signedOf w y))
  | 2 =>
    if t.isFloat then satFloat t sat (minMaxNum (fmtOf t) true x y (readFloat (fmtOf t) x) (readFloat (fmtOf t) y))
    else patternOf w (max (signedOf w x) (signedOf w y))
  | 3 => (x &&& y) % 2 ^ w
  | 4 => (x ||| y) % 2 ^ w
  | _ => (x ^^^ y) % 2 ^ w

/-- The reduction of a list of elements: the tree of R133, or in sequence for a float ADD under NVER 7 (R134). -/
def reduceElems (r : GRec) (nver : Nat) (xs : List Nat) : Nat :=
  let op := redStep r.c.ty r.c.fn.toNat r.rnd r.sat
  if nver = 7 ∧ r.c.ty.isFloat ∧ r.c.fn = 0 then reduceSeq op xs else reduceTree op xs

/-- REDL. Of a 64-bit vector of one lane, which holds no element, the spec states no result: a free word (log 3). -/
def execRedl (r : GRec) (s : State) : Host.Outcome State Fault Refusal :=
  .next (fire s r.c r.lit fun f s =>
    let w := r.c.ty.width
    match elemsOf r.lm w (opA f) with
    | [] => let (x, s) := freeWord s; sendBoth s f (scalarOf x)
    | xs => sendBoth s f (scalarElem w (!r.c.ty.isFloat) (reduceElems r (partOf s f.part).nver xs)))

/-- SCNL's result lanes, as many as A has (R417). Under a 64-bit type the last of an odd number holds no element, and the spec states no value of it: a
free value of the operand (log 3). -/
def scanLanes (r : GRec) (nver : Nat) (a : TokVal) : List Nat :=
  let w := r.c.ty.width
  let xs := elemsOf r.lm w a
  let l := lanesOf r.lm w (!r.c.ty.isFloat) a.ln ((List.range xs.length).map fun j => reduceElems r nver (xs.take (j + 1)))
  l ++ List.replicate (a.ln - l.length) (Config.oddLane a.val).toNat

def execScnl (r : GRec) (s : State) : Host.Outcome State Fault Refusal :=
  .next (fireG s r fun f =>
    let w := r.c.ty.width
    let a := opA f
    let nver := (partOf s f.part).nver
    if a.kind = .vector then vectorOrNull (scanLanes r nver a)
    else scalarElem w (!r.c.ty.isFloat) (reduceElems r nver ((elemsOf r.lm w a).take 1)))

/-- Combine two token values at a COMB entry (R359). -/
def combineVals (w96 : RecordWord) (x y : TokVal) : TokVal :=
  match GRec.ofWord w96 with
  | none => x
  | some r =>
    let w := r.c.ty.width
    elementForm r.lm w w (!r.c.ty.isFloat) [x, y] fun l => redStep r.c.ty r.c.fn.toNat r.rnd r.sat (l.getD 0 0) (l.getD 1 0)

end Sys2Proof.Machine
end

