-- ==== Sys2Proof/Machine/Convert.lean ====
section
/-! DEFINITION. Converting forms (R121, R122, R125, R128 to R130, R365 to R367, R371, R407, R411) and UNPK (R445). -/

namespace Sys2Proof.Machine

open Sys2Proof

/-- An element of a type from a number: the float rules, or the integer ones for a float source (R121, Table 4.4). -/
def toElem (t : Ty) (u : Bool) (m : Rnd) (sat : Sat) (draw : Nat) (x : Num) : Nat :=
  if t.isFloat then writeFloat (fmtOf t) m sat false draw x else writeInt t.width u m draw x

/-- Convert one element pattern between types (R121): integer to integer by SAT, every other way through the exact number. -/
def convertElem (src : Ty) (su : Bool) (dst : Ty) (du : Bool) (m : Rnd) (sat : Sat) (draw x : Nat) : Nat :=
  if !src.isFloat && !dst.isFloat then
    narrowInt dst.width du (sat != .none) (if su then ((x % 2 ^ src.width : Nat) : Int) else signedOf src.width x)
  else toElem dst du m sat draw (readElem src su x)

/-- The type of AUX[35:32]. -/
def srcTy (r : GRec) : Ty := (Ty.ofCode (r.aux.extractLsb' 0 4)).getD .i64

/-- The lane and the element within it of result element `e` (R115, R125). A 64-bit element in LM 01 lies in two lanes; its draw takes the
lower, which Table 4.7 leaves open (log 53). -/
def drawPlace (lm : LaneMode) (w e : Nat) : Nat × Nat :=
  match lm with
  | .scalar => (0, 0)
  | .vector => (if w = 64 then 2 * e else e, 0)
  | .packed => (e / (32 / w), e % (32 / w))

/-- The element mapping of CVT and CVTS (R366): `conv` takes the draw place and the source pattern. -/
def convertForm (r : GRec) (signed : Bool) (a : TokVal) (conv : Nat × Nat → Nat → Nat) : TokVal :=
  let ws := (srcTy r).width
  let wd := r.c.ty.width
  let xs := elemsOf r.lm ws a
  let cut := match r.lm with
    | .scalar => 1
    | .vector => if wd = 64 then 16 else 32
    | .packed => 32 * (32 / wd)
  let ys := (xs.take cut).zipIdx.map fun (x, e) => conv (drawPlace r.lm wd e) x
  match a.kind, r.lm with
  | .vector, .vector => vectorElems .vector wd signed ys.length ys
  | .vector, .packed => vectorElems .packed wd signed ((ys.length + 32 / wd - 1) / (32 / wd)) ys
  | _, _ => scalarElem wd signed (conv (0, 0) (elemOf r.lm ws a 0))

/-- An integer destination is extended by its U bit (R366). -/
def dstSigned (r : GRec) : Bool := !r.c.ty.isFloat && !r.aux.getLsbD 5

def execCvt (r : GRec) (s : State) : Host.Outcome State Fault Refusal :=
  .next (fireConvert s r fun m f s =>
    sendBoth s f (convertForm r (dstSigned r) (opA f) fun p x =>
      convertElem (srcTy r) (r.aux.getLsbD 4) r.c.ty (r.aux.getLsbD 5) m.1 m.2 (tokenDraw s f (r.lit.toNat % 65536) p.1 p.2) x))

def execCvts (r : GRec) (s : State) : Host.Outcome State Fault Refusal :=
  .next (fireConvert s r fun m f s =>
    let k := ofF32 (low32 (f.b.getD nullTok))
    sendBoth s f (convertForm r (dstSigned r) (opA f) fun p x =>
      toElem r.c.ty (r.aux.getLsbD 5) m.1 m.2 (tokenDraw s f (r.lit.toNat % 65536) p.1 p.2)
        (mulNum (readElem (srcTy r) (r.aux.getLsbD 4) x) k)))

/-! ## Block quantisation (R129, R411) -/

/-- The largest magnitude of a number list, as a number. -/
def maxMagnitude (xs : List Num) : Num :=
  xs.foldl (fun b x => if (b.compare (x.withSign false)).getD 0 < 0 then x.withSign false else b) (.zero false)

/-- Q: the largest finite magnitude of a type, or 2^(w-1) - 1. -/
def largestOf (t : Ty) : Num :=
  if t.isFloat then readFloat (fmtOf t) (fmtOf t).maxCode else .ofInt ((2 ^ (t.width - 1) - 1 : Nat) : Int)

/-- BlockQuantise: the scale pattern and the element patterns; `draw` gives the bits of element i. -/
def blockQuantise (t : Ty) (m : Rnd) (sat : Sat) (draw : Nat → Nat) (xs : List Num) : Nat × List Nat :=
  if xs.any fun x => x.isNan || x.isInf then
    ((fmtOf .f32).nanCode false, xs.map fun x => toElem t false m sat 0 (.nan x.neg))
  else
    let amax := maxMagnitude xs
    let s := if amax.isZero then 0x3F800000 else writeFloat (fmtOf .f32) .rup .none false 0 (divNum amax (largestOf t))
    (s, xs.zipIdx.map fun (x, i) => toElem t false m sat (draw i) (divNum x (ofF32 s)))

/-- The lanes of a vector, or bits [31:0] of a scalar (R407, R411). -/
def lanesIn (v : TokVal) : List Nat := if v.kind = .vector then (List.range v.ln).map v.lane else [low32 v]

def execQblk (r : GRec) (s : State) : Host.Outcome State Fault Refusal :=
  .next (fireConvert s r fun m f s =>
    let w := r.c.ty.width
    let xs := (lanesIn (opA f)).map ofF32
    let draw (i : Nat) : Nat := tokenDraw s f (r.lit.toNat % 65536) (drawPlace .packed w i).1 (drawPlace .packed w i).2
    let (k, qs) := blockQuantise r.c.ty m.1 m.2 draw xs
    let s := sendTarget s f f.com.t0 (vectorElems .packed w false ((qs.length + 32 / w - 1) / (32 / w)) qs)
    sendTarget s f f.com.t1 (scalarElem 32 false k))

def execDqbk (r : GRec) (s : State) : Host.Outcome State Fault Refusal :=
  .next (fireConvert s r fun m f s =>
    let w := r.c.ty.width
    let a := opA f
    let k := ofF32 (low32 (f.b.getD nullTok))
    let conv (x : Nat) : Nat := writeFloat (fmtOf .f32) m.1 m.2 false 0 (mulNum (readElem r.c.ty false x) k)
    sendBoth s f (match r.lm with
      | .scalar => scalarElem 32 false (conv (elemOf .scalar w a 0))
      | lm => match ((elemsOf lm w a).take 32).map conv with | [] => nullTok | ys => vectorOf ys))

def execPack (r : GRec) (s : State) : Host.Outcome State Fault Refusal :=
  .next (fireConvert s r fun m f s =>
    let w := r.c.ty.width
    let src : Ty := if r.c.ty.isFloat then .f32 else .i32
    let qs := (lanesIn (opA f) ++ lanesIn (f.b.getD nullTok)).map (convertElem src false r.c.ty false m.1 m.2 0)
    sendBoth s f (vectorElems .packed w false ((qs.length + 32 / w - 1) / (32 / w)) qs))

def execUnpk (r : GRec) (s : State) : Host.Outcome State Fault Refusal :=
  .next (fireG s r fun f =>
    let xs := ((elemsOf .packed r.c.ty.width (opA f)).drop (r.lit.toNat % 512)).take 32
    let ys := xs.map fun x => if r.c.ty.isFloat then roundF32 (readElem r.c.ty false x) else patternOf 32 (signedOf r.c.ty.width x)
    match ys with | [] => nullTok | ys => vectorOf ys)

end Sys2Proof.Machine
end

