-- ==== Sys2Proof/Machine/Hem.lean ====
section
/-! DEFINITION. Matrix islands: the hem forms (R205 to R218, R435 to R441), the arrival of their commands (R208, R213, R308), TMMA
(R209, R214, R222, R440), TROT (R219), and their completion (R437). -/

namespace Sys2Proof.Machine

open Sys2Proof

/-! ## Formats and storage (R205 to R207) -/

/-- Format of a TLDA, TLDB or TMMA (Table 7.2). -/
def islFmt (r : TRec) : IslFmt :=
  if r.c.ty = .f32 then (match r.aux.toNat % 4 with | 1 => .i6 | 2 => .i4 | 3 => .i3 | _ => .f .f32) else .f r.c.ty
/-- The element type of a format. -/
def IslFmt.ty : IslFmt → Ty
  | .f t => t | .i6 => .i6 | .i4 => .i4 | .i3 => .i3
/-- The class of a format, as a number (Table 7.2). -/
def IslFmt.cls : IslFmt → Nat
  | .f .bf16 | .f .f16 => 0
  | .f .e5m2 | .f .e4m3 => 1
  | .f .e3m2 | .f .e2m3 | .f .e2m1 => 2
  | .i6 | .i4 => 3
  | .i3 => 4
  | .f _ => 5

/-- Bits of a tile store at a tile-store address, within two rows. -/
def tileBits (x : Island) (a w : Nat) : Nat :=
  let row (k : Nat) : Nat := (lookupD x.tile k 0).toNat
  (row (a / 1024) + row (a / 1024 + 1) * 2 ^ 1024) / 2 ^ (a % 1024) % 2 ^ w
/-- Some quarter row of a run of bits reads as uncorrectable. -/
def tileBad (x : Island) (a n : Nat) : Bool := x.bad.any fun q => decide (a / 256 ≤ q) && decide (q ≤ (a + n - 1) / 256)
/-- Write the part of a run of bits that falls in row `k` of those it touches. -/
def writeTileRow (x : Island) (a n v k : Nat) : Island :=
  let r := a / 1024 + k
  let lo := if k = 0 then a % 1024 else 0
  let hi := min 1024 (a % 1024 + n - 1024 * k)
  let old := (lookupD x.tile r 0).toNat
  let new := old % 2 ^ lo + v / 2 ^ (1024 * k + lo - a % 1024) % 2 ^ (hi - lo) * 2 ^ lo + old / 2 ^ hi * 2 ^ hi
  { x with tile := insertAt x.tile r (BitVec.ofNat 1024 new)
           bad := x.bad.filter fun q => !(q / 4 == r && decide (lo ≤ q % 4 * 256) && decide (q % 4 * 256 + 256 ≤ hi)) }
/-- Write `n` bits of a tile store at a tile-store address; bits outside are unchanged. -/
def writeTile (x : Island) (a n v : Nat) : Island :=
  if n = 0 then x else (List.range ((a % 1024 + n + 1023) / 1024)).foldl (fun x k => writeTileRow x a n v k) x

/-- An accumulator element. -/
def accAt (x : Island) (r j : Nat) : Nat := (lookupD x.acc (128 * r + j) 0).toNat
def setAcc (x : Island) (r j v : Nat) : Island := { x with acc := insertAt x.acc (128 * r + j) (BitVec.ofNat 32 v) }
/-- The poison bit of an accumulator row. -/
def accPoi (x : Island) (r : Nat) : Bool := x.poi.contains r
def setAccPoi (x : Island) (r : Nat) (on : Bool) : Island := { x with poi := if on then insertNat x.poi r else x.poi.filter (· != r) }

/-- The latch that a SLOT names, and its replacement. -/
def latchOf (x : Island) (k : Nat) : Latch := if k = 0 then x.l0 else x.l1
def setLatch (x : Island) (k : Nat) (l : Latch) : Island := if k = 0 then { x with l0 := l } else { x with l1 := l }

/-! ## The scale buffer (R213) -/

def scaleEntry (x : Island) (tag : Nat) : Option ScaleEntry := x.scales.find? fun e => e.tag == tag
def putScale (x : Island) (e : ScaleEntry) : Island := { x with scales := x.scales.filter (fun y => y.tag != e.tag) ++ [e] }
def freeScale (x : Island) (tag : Nat) : Island := { x with scales := x.scales.filter fun y => y.tag != tag }
/-- A latch holds a block tag. -/
def holdsTag (l : Latch) (tag : Nat) : Bool := l.present && l.tag == tag

/-- Bring a latch: it takes a B scale that waits for its tag, and an entry that held nothing else is freed. -/
def bringLatch (x : Island) (k : Nat) (l : Latch) : Island :=
  match (if l.present then scaleEntry x l.tag else none) with
  | some e => match e.sb with
    | some v =>
      let x := setLatch x k { l with scale := some v }
      if e.sa.isEmpty && e.ind.isEmpty then freeScale x l.tag else putScale x { e with sb := none }
    | none => setLatch x k l
  | none => setLatch x k l

/-- Deposit A scales from vector ROW on, or their addresses. -/
def depositA (x : Island) (tag row : Nat) (sa : List Lane) (ind : List Word) : Island :=
  let e := (scaleEntry x tag).getD { tag := tag }
  let e := sa.zipIdx.foldl (fun e y =>
    { e with sa := insertAt e.sa (row + y.2) y.1, ind := e.ind.filter fun z => z.1 != row + y.2 }) e
  let e := ind.zipIdx.foldl (fun (e : ScaleEntry) y =>
    { e with sa := eraseAt e.sa (row + y.2), ind := e.ind.filter (fun z => z.1 != row + y.2) ++ [(row + y.2, y.1)] }) e
  putScale x e
/-- Deposit a B scale: in every latch that holds the tag, else in an entry. -/
def depositB (x : Island) (tag : Nat) (v : Lane) : Island :=
  if holdsTag x.l0 tag ∨ holdsTag x.l1 tag then
    { x with l0 := if holdsTag x.l0 tag then { x.l0 with scale := some v } else x.l0
             l1 := if holdsTag x.l1 tag then { x.l1 with scale := some v } else x.l1 }
  else putScale x { (scaleEntry x tag).getD { tag := tag } with sb := some v }

/-- The block tag of an operand (R210, R438). -/
def blockTag (v : TokVal) : Nat := if v.kind = .null then 0 else v.lane 0 % 2 ^ 24

/-- A TSCL needs an entry that is not free: it is held at its hem channel. -/
def scaleHeld (x : Island) (r : TRec) (a : TokVal) : Bool :=
  let tag := blockTag a
  let kind := r.aux.getLsbD 0
  (scaleEntry x tag).isNone && !(kind && (holdsTag x.l0 tag || holdsTag x.l1 tag)) && decide (4 ≤ x.scales.length)

/-! ## Issue (R208 to R218, R437, R438) -/

/-- Islands that a hem form names in a segment (R208). -/
def islandsNamed (seg : Nat × Nat) (r : TRec) : List Nat :=
  if r.all then (List.range seg.2).map (seg.1 + ·) else [seg.1 + r.isl.toNat]

/-- Rows of a TZRO or TACS STORE: an NROW of 0 encodes 4,096 (R95). -/
def rowsOf (r : TRec) : Nat := if r.nrow = 0 then 4096 else r.nrow.toNat

/-- A hem form's issue: segment, island, budget for a TMMA, ranges; then its command goes out (R437). -/
def hemForm' (s : State) (r : TRec) (i : Instr) (units : Nat) (bad : Firing → Bool) : State :=
  fire s r.c 0 fun f s =>
    let shape := raise s f.act f.node { cls := .blockShape }
    match (sleeveOf s f.sleeve).seg with
    | none => shape
    | some seg =>
      let isls := islandsNamed seg r
      if !r.all && decide (seg.2 ≤ r.isl.toNat) then shape
      else if (colourOf s (actOf s f.act).colour).holding < units * isls.length then raise s f.act f.node { cls := .heavyWithoutLeave }
      else if bad f then shape
      else
        let p := partOf s f.part
        let (k, s) := waitOp s f (.hem s.ids)
        let cmd : HemCmd := { id := k, instr := i, nver := p.nver, seed := p.seed }
        let s := { s with hemOps := insertAt s.hemOps k { f := f, left := isls, result := scalarOf 0 }
                          flights := s.flights ++ isls.map fun n => { isl := n, cmd := cmd, a := operandToken f f.a, b := operandToken f f.b } }
        if units = 0 then s else updAct s f.act fun x => { x with checks := x.checks ++ isls.map fun _ => k }

/-- Elements that a TLDA writes (R211). -/
def tldaElems (r : TRec) (v : TokVal) : List Nat := elemsOf .packed (islFmt r).ty.width v

def execTlda (r : TRec) (s : State) : Host.Outcome State Fault Refusal :=
  .next (hemForm' s r (.tlda r) 0 fun f =>
    decide (2 ^ 22 < 1024 * r.row.toNat + 8 * r.col.toNat + (islFmt r).ty.width * (tldaElems r (opA f)).length))
def execTldb (r : TRec) (s : State) : Host.Outcome State Fault Refusal :=
  .next (hemForm' s r (.tldb r) 0 fun _ => decide (4096 < r.row.toNat + 16 * (islFmt r).ty.width))
/-- Scales that a TSCL without address carries. -/
def tsclLanes (v : TokVal) : List Nat := if v.kind = .vector then (List.range v.ln).map v.lane else [low32 v]
def execTscl (r : TRec) (s : State) : Host.Outcome State Fault Refusal :=
  .next (hemForm' s r (.tscl r) 0 fun f =>
    let kind := r.aux.getLsbD 0
    let ind := r.aux.getLsbD 1
    let count := if ind then r.nrow.toNat else (tsclLanes (f.b.getD nullTok)).length
    (!kind && decide (64 < r.row.toNat + count)) || (ind && (opWord f.b).toNat % 32 != 0))
def execTmma (r : TRec) (s : State) : Host.Outcome State Fault Refusal :=
  .next (hemForm' s r (.tmma r) 4 fun _ => decide (4096 < r.row.toNat + ((islFmt r).ty.width * r.nrow.toNat + 7) / 8))
def execTrot (r : TRec) (s : State) : Host.Outcome State Fault Refusal := .next (hemForm' s r (.trot r) 0 fun _ => false)
def execTzro (r : TRec) (s : State) : Host.Outcome State Fault Refusal :=
  .next (hemForm' s r (.tzro r) 0 fun _ => decide (512 < r.row.toNat + rowsOf r))
def execTacsRead (r : TRec) (s : State) : Host.Outcome State Fault Refusal :=
  .next (hemForm' s r (.tacsRead r) 0 fun _ =>
    r.col.toNat % 32 != 0 || decide (96 < r.col.toNat) || r.nrow.toNat != 1 || decide (512 ≤ r.row.toNat))
def execTacsWrite (r : TRec) (s : State) : Host.Outcome State Fault Refusal :=
  .next (hemForm' s r (.tacsWrite r) 0 fun f =>
    decide (128 < r.col.toNat + (tsclLanes (f.b.getD nullTok)).length) || decide (512 ≤ r.row.toNat))
def execTacsStore (r : TRec) (s : State) : Host.Outcome State Fault Refusal :=
  .next (hemForm' s r (.tacsStore r) 0 fun f =>
    r.col != 0 || decide (512 < r.row.toNat + rowsOf r) || decide (4096 < (opWord f.a).toNat % 4096 + 4 * rowsOf r))
def execTcvq (r : TRec) (s : State) : Host.Outcome State Fault Refusal :=
  .next (hemForm' s r (.tcvq r) 0 fun f =>
    decide (64 < r.row.toNat + r.nrow.toNat) || decide (4096 < (opWord f.a).toNat % 4096 + (r.c.ty.width * r.nrow.toNat + 7) / 8))
def execTwait (r : TRec) (s : State) : Host.Outcome State Fault Refusal := .next (hemForm' s r (.twait r) 0 fun _ => false)

/-! ## Carrying out commands -/

/-- A command has completed on an island, with its part of the result. -/
def cmdDone (s : State) (id isl : Nat) (res : Option TokVal) : State :=
  match lookup s.hemOps id with
  | none => s
  | some o =>
    let v := match res with | some x => { x with poi := x.poi || o.result.poi } | none => o.result
    { s with hemOps := insertAt s.hemOps id { o with left := o.left.erase isl, result := v, last := isl } }

/-- The firing that a command's form left waiting. -/
def cmdFiring (s : State) (id : Nat) : Firing := ((lookup s.hemOps id).map (·.f)).getD {}

/-- TACS READ: 32 columns of a row. -/
def readAcc (x : Island) (r : TRec) : TokVal :=
  { vectorOf ((List.range 32).map fun i => accAt x r.row.toNat (r.col.toNat + i)) with poi := accPoi x r.row.toNat }
/-- Some of `n` accumulator rows from `r` on is poisoned. -/
def anyAccPoi (x : Island) (r n : Nat) : Bool := (List.range n).any fun i => accPoi x (r + i)
/-- TZRO. -/
def zeroAcc (x : Island) (r n : Nat) : Island :=
  (List.range n).foldl (fun x i => (List.range 128).foldl (fun x j => setAcc x (r + i) j 0) (setAccPoi x (r + i) false)) x
/-- TACS STORE: 128 F32 values of a row to four tile-store rows. -/
def storeAcc (x : Island) (r n d : Nat) : Island :=
  (List.range n).foldl (fun x i => writeTile x (1024 * (d + 4 * i)) 4096 (natOfElems 32 ((List.range 128).map (accAt x (r + i))))) x

/-- TCVQ on an island (R217): its scales and the island after it; `idx` is its index in the segment. -/
def quantiseAcc (x : Island) (r : TRec) (c : HemCmd) (idx : Nat) : List Nat × Island :=
  let w := r.c.ty.width
  let d := c.a.word.toNat % 4096
  let rnd := (Rnd.ofCode (r.col.extractLsb' 0 3)).getD .rne
  let sat := (Sat.ofCode (r.col.extractLsb' 3 2)).getD .none
  let base := 64 * r.slot.toNat + r.row.toNat
  (List.range r.nrow.toNat).foldl (fun (l, x) i =>
    let at' := 1024 * d + 128 * w * i
    let draw (k : Nat) : Nat :=
      let b := at' + w * k
      drawBits c.seed (BitVec.ofNat 64 (2 ^ 63 + idx * 2 ^ 48 + r.slot.toNat * 2 ^ 40 + b / 1024 * 2 ^ 16 + b % 1024)) (1#64 <<< 62)
        (r.aux.setWidth 64)
    let (k, q) := blockQuantise r.c.ty rnd sat draw ((List.range 128).map fun j => ofF32 (accAt x (base + i) j))
    (l ++ [k], writeTile x at' (128 * w) (natOfElems w q))) ([], x)

/-- The index of an island in the segment of a firing's sleeve. -/
def segIndex (s : State) (f : Firing) (isl : Nat) : Nat := isl - (((sleeveOf s f.sleeve).seg).getD (0, 0)).1

/-- Carry out a command that neither waits for operands nor for other islands. -/
def runCommand (s : State) (isl : Nat) (c : HemCmd) : State :=
  let x := islandOf s isl
  let put (x : Island) (v : Option TokVal) : State := cmdDone { s with islands := insertAt s.islands isl x } c.id isl v
  match c.instr with
  | .tlda r =>
    let w := (islFmt r).ty.width
    let xs := tldaElems r c.a
    put (writeTile x (1024 * r.row.toNat + 8 * r.col.toNat) (w * xs.length) (natOfElems w xs)) none
  | .tldb r =>
    let n := 16 * (islFmt r).ty.width
    let l : Latch := { present := true, rows := (List.range n).map fun k => lookupD x.tile (r.row.toNat + k) 0, fmt := islFmt r,
                       bad := tileBad x (1024 * r.row.toNat) (1024 * n), tag := blockTag c.a }
    put (bringLatch x r.slot.toNat l) none
  | .tzro r => put (zeroAcc x r.row.toNat (rowsOf r)) none
  | .tacsRead r => put x (some (readAcc x r))
  | .tacsWrite r =>
    let x := (tsclLanes c.b).zipIdx.foldl (fun x y => setAcc x r.row.toNat (r.col.toNat + y.2) y.1) x
    put (setAccPoi x r.row.toNat false) none
  | .tacsStore r =>
    put (storeAcc x r.row.toNat (rowsOf r) (c.a.word.toNat % 4096))
      (some { scalarOf 0 with poi := anyAccPoi x r.row.toNat (rowsOf r) })
  | .tcvq r =>
    let (l, y) := quantiseAcc x r c (segIndex s (cmdFiring s c.id) isl)
    put y (some { vectorOf l with poi := anyAccPoi x (64 * r.slot.toNat + r.row.toNat) r.nrow.toNat })
  | _ => put x none

/-- The TMMA of an island is parked, so that the later commands wait (R222). -/
def tmmaParked (s : State) (isl : Nat) : Bool := s.parked.any fun q => match q.what with | .tmma i => i == isl | _ => false
/-- The TSCLs of an island that are parked (R438). -/
def tsclsParked (s : State) (isl : Nat) : List Nat :=
  s.parked.filterMap fun q => match q.what with | .tscl i c => if i = isl then some c else none | _ => none
/-- A command of an island is parked: what arrives at the island from then on waits (R222, R438). -/
def islandParked (s : State) (isl : Nat) : Bool := tmmaParked s isl || !(tsclsParked s isl).isEmpty
/-- A command that has arrived waits: for a parked TMMA before it, or a TSCL that stood parked when it arrived (R222, R438). -/
def commandHeld (s : State) (isl : Nat) (c : HemCmd) : Bool := tmmaParked s isl || c.behind.any (tsclsParked s isl).contains

/-- A command that starts by an event of its own. -/
def startsAlone (i : Instr) : Bool := match i with | .tmma _ | .trot _ => true | _ => false

/-- Carry out the commands at the head of an island's queue, up to a TMMA or a TROT. -/
def runQueue : Nat → State → Nat → State
  | 0, s, _ => s
  | n + 1, s, isl =>
    match (islandOf s isl).queue with
    | [] => s
    | c :: rest =>
      if startsAlone c.instr || commandHeld s isl c then s
      else runQueue n (runCommand (updIsland s isl fun x => { x with queue := rest }) isl c) isl

/-- Drop the head command of an island and go on with the next ones. -/
def popCommand (s : State) (isl : Nat) : State :=
  let n := (islandOf s isl).queue.length
  runQueue n (updIsland s isl fun x => { x with queue := x.queue.drop 1 }) isl

/-- Where a fault of an island's work stands. -/
def islandFault (s : State) (f : Firing) (isl : Nat) (i : FaultInfo) : FaultInfo :=
  { i with src := 1, coord := islCoord isl, tag := f.tag, blk := f.blk, node := f.node, slv := (sleeveOf s f.sleeve).desc }

/-- Park an access of island work whose activation has committed, under a record of its page (R279, R438). -/
def parkAlone (s : State) (f : Firing) (i : FaultInfo) (what : ParkedKind) : State :=
  let k := colourKey f.part (tagColour f.tag)
  (parkUnder s f.part 0 k (colourOf s k).serial f.sleeve i what).2

/-- What the read of a scale at an address gives. -/
inductive ScaleGot where
  | ok (v : Lane) (poi : Bool) (s : State)
  | wait (s : State)
  | fault (i : FaultInfo) (s : State)

/-- Read an F32 value at a virtual address for an island (R213). -/
def readScale (s : State) (isl p : Nat) (va : Word) : ScaleGot :=
  match agentTranslate s (.grid (isl / 32)) p (supervisor s p) .read va 32 with
  | .error (.fault i s) => .fault i s
  | .error (.wait s) => .wait s
  | .ok (e, big, s) =>
    match locOf s e big va with
    | .reg _ => .fault { cls := .protection, cause := 6, va := va } s
    | loc => match agentRead s loc 32 true with
      | .ok v poi s => .ok (BitVec.ofNat 32 v) poi s
      | .wait s => .wait s
      | .lost => .fault { cls := .ownerLost, va := va } s
      | .refused => .fault { cls := .protection, cause := 10, va := va } s

/-! ## Arrival (R208, R213, R308, R438, R439) -/

/-- Deposit the scales of a TSCL; a B scale at an address is read now. DESIGN CHOICE (log 16): R213 does not say what a poisoned sector does to a
scale; its value is deposited, and the poison goes no further. -/
def carryTscl (s : State) (fl : HemFlight) (r : TRec) (c : HemCmd) (rest : State) : State :=
  let isl := fl.isl
  let tag := blockTag c.a
  let done (t : State) (x : Island) : State := cmdDone { t with islands := insertAt t.islands isl x } c.id isl none
  let x := islandOf s isl
  match r.aux.getLsbD 0, r.aux.getLsbD 1 with
  | false, false => done rest (depositA x tag r.row.toNat ((tsclLanes c.b).map (BitVec.ofNat 32)) [])
  | false, true =>
    done rest (depositA x tag r.row.toNat [] ((List.range r.nrow.toNat).map fun i => c.b.word + BitVec.ofNat 64 (32 * i)))
  | true, false => done rest (depositB x tag (BitVec.ofNat 32 (low32 c.b)))
  | true, true =>
    let f := cmdFiring s c.id
    match readScale rest isl f.part c.b.word with
    | .ok v _ t => done t (depositB x tag v)
    | .wait t => { t with flights := t.flights ++ [fl] }
    | .fault i rest =>
      let i := islandFault s f isl i
      let a := actOf s f.act
      let held : State := { rest with flights := rest.flights ++ [fl] }
      if actLive a then
        if i.cls = .translation then park held f.act f.node i (.tscl isl c.id) else cmdDone (raise rest f.act f.node i) c.id isl none
      else if a.st = .committed then
        if i.cls = .translation then parkAlone held f i (.tscl isl c.id) else cmdDone (recordOnly rest f.part (actOf rest f.act).colour (actOf rest f.act).serial f.act i) c.id isl none
      else cmdDone rest c.id isl none

/-- The TSCL of a flight. -/
def tsclOf (fl : HemFlight) : Option TRec := if fl.xfer ≠ 0 then none else match fl.cmd.instr with | .tscl r => some r | _ => none

/-- A TSCL is held at its hem channel: no scale entry is free for it, or the island is parked. -/
def flightHeld (s : State) (fl : HemFlight) : Bool :=
  match tsclOf fl with
  | some r => scaleHeld (islandOf s fl.isl) r fl.a.tok.v || islandParked s fl.isl
  | none => false

/-- A flight waits behind an earlier one of its channel, unless that is held: a hem channel keeps the order of what enters it (log 55). -/
def flightBehind (s : State) (i : Nat) (fl : HemFlight) : Bool :=
  (s.flights.take i).any fun x => x.isl == fl.isl && (x.xfer == 0) == (fl.xfer == 0) && !flightHeld s x

/-- The parity checks of a flight's operands on the hem channel, which name its unit (Table 10.6): the operands that go on, and whether one
is poisoned. -/
def flightParity (s : State) (fl : HemFlight) (unit : BitVec 16) : HemFlight × Bool × State :=
  let (a, s) := parityCheck s fl.a (some unit)
  let (b, s) := parityCheck s fl.b (some unit)
  let (c, s) := parityCheck s fl.c (some unit)
  ({ fl with a := a, b := b, c := c }, a.tok.v.poi || b.tok.v.poi || c.tok.v.poi, s)

/-- A transfer reaches its transfer island's queue (R17, R223); one with a poisoned operand is not started. -/
def arriveXfer (s t : State) (fl : HemFlight) : State :=
  match lookup s.xfers fl.xfer with
  | none => t
  | some x =>
    let (fl, poisoned, t) := flightParity t fl (xislCoord fl.isl)
    if poisoned then endXfer (raise t x.f.act x.f.node { cls := .poison }) fl.xfer id
    else
      let (k, t) := fresh t
      let f := { x.f with a := x.f.a.map fun _ => fl.a.tok.v, b := x.f.b.map fun _ => fl.b.tok.v, c := x.f.c.map fun _ => fl.c.tok.v }
      serveJoins (updXfer t fl.xfer fun x => { x with f := f, st := .queued, order := k })

/-- A hem command reaches its island; a TSCL is carried out at once (R213). -/
def arriveCommand (s t : State) (fl : HemFlight) : State :=
  let f := cmdFiring s fl.cmd.id
  let (g, poisoned, t) := flightParity t fl (islCoord fl.isl)
  let c := { fl.cmd with a := g.a.tok.v, b := g.b.tok.v, behind := tsclsParked s fl.isl }
  if poisoned then cmdDone (raise t f.act f.node { cls := .poison }) c.id fl.isl none
  else match tsclOf fl with
    | some r => carryTscl s { fl with a := g.a, b := g.b } r c t
    | none =>
      let t := updIsland t fl.isl fun x => { x with queue := x.queue ++ [c] }
      runQueue ((islandOf t fl.isl).queue.length) t fl.isl

/-- HEM_COMMAND_ARRIVAL: the first command or transfer of a channel reaches its island; its operands are checked for parity; a TSCL is held at its channel
while no scale entry is free. -/
def execHemCommandArrival (i : Nat) (s : State) : Host.Outcome State Fault Refusal :=
  .next (match s.flights[i]? with
    | none => s
    | some fl =>
      if flightHeld s fl || flightBehind s i fl || (partOf s fl.a.part).pstate == .frozen then s
      else
        let t := { s with flights := s.flights.eraseIdx i }
        if fl.xfer = 0 then arriveCommand s t fl else arriveXfer s t fl)

/-! ## TMMA (R214, R222) -/

/-- Read the scales of an entry that are still at their addresses: whether all have been read. A poisoned scale sets no poison bit (R439, log 16). -/
def fillScales (s : State) (isl p tag : Nat) : List (Nat × Word) → Except (FaultInfo × State) (Bool × State)
  | [] => .ok (true, s)
  | (k, va) :: rest =>
    match readScale s isl p va with
    | .fault i t => .error (i, t)
    | .wait t => .ok (false, t)
    | .ok v _ t =>
      let t := updIsland t isl fun x =>
        match scaleEntry x tag with | some e => putScale x { e with sa := insertAt e.sa k v, ind := e.ind.filter fun z => z.1 != k } | none => x
      fillScales t isl p tag rest

/-- Element (k, j) of a latch's tile (R206). -/
def tileElem (l : Latch) (k j : Nat) : Nat :=
  let w := l.fmt.ty.width
  let a := w * (128 * k + j)
  let row (n : Nat) : Nat := (l.rows.getD n 0).toNat
  (row (a / 1024) + row (a / 1024 + 1) * 2 ^ 1024) / 2 ^ (a % 1024) % 2 ^ w

/-- One row of a TMMA: vector `i` against the tile. -/
def tmmaRow (nver : Nat) (r : TRec) (l : Latch) (e : ScaleEntry) (x : Island) (i : Nat) : Island :=
  let fa := (islFmt r).ty
  let at' := 1024 * r.row.toNat + 128 * fa.width * i
  let a := (List.range 128).map fun k => readElem fa false (tileBits x (at' + fa.width * k) fa.width)
  let row := 64 * r.slot.toNat + i
  let sa := (lookupD e.sa i 0).toNat
  let sb := (l.scale.getD 0).toNat
  let vals := (List.range 128).map fun j =>
    promote nver a ((List.range 128).map fun k => readElem l.fmt.ty false (tileElem l k j)) sa sb (accAt x row j)
  let y := vals.zipIdx.foldl (fun y v => setAcc y row v.2 v.1) x
  if tileBad x at' (128 * fa.width) || l.bad then setAccPoi y row true else y

/-- The latch that a TMMA uses: it holds the tag, and its B scale is present. -/
def tmmaLatch (x : Island) (tag : Nat) : Option Latch := [x.l0, x.l1].find? fun l => holdsTag l tag && l.scale.isSome
/-- The entry that a TMMA uses: it holds scales 0 to n - 1, or their addresses. -/
def tmmaEntry (x : Island) (tag n : Nat) : Option ScaleEntry :=
  (scaleEntry x tag).filter fun e => (List.range n).all fun i => (lookup e.sa i).isSome || e.ind.any fun z => z.1 == i

/-- The TMMA at the head of an island ends: its entry is freed and it has completed. -/
def endTmma (s : State) (isl : Nat) (c : HemCmd) (tag : Nat) : State :=
  let f := cmdFiring s c.id
  let s := updAct s f.act fun x => { x with checks := x.checks.erase c.id }
  popCommand (cmdDone (updIsland s isl fun x => freeScale x tag) c.id isl none) isl

/-- Start the TMMA at the head of an island: its operand check, and its rows. -/
def startTmma (s : State) (isl : Nat) (c : HemCmd) (r : TRec) : State :=
  let f := cmdFiring s c.id
  let x := islandOf s isl
  let tag := blockTag c.a
  let n := r.nrow.toNat
  match tmmaLatch x tag, tmmaEntry x tag n with
  | some l, some e =>
    match fillScales s isl f.part tag e.ind with
    | .error (i, t) =>
      let s : State := { t with islands := s.islands }
      let i := islandFault s f isl i
      if actLive (actOf s f.act) then
        if i.cls = .translation then park s f.act f.node i (.tmma isl) else endTmma (raise s f.act f.node i) isl c tag
      else endTmma s isl c tag
    | .ok (false, t) => { t with islands := s.islands }
    | .ok (true, t) =>
      if (islFmt r).cls ≠ l.fmt.cls then
        endTmma (raise t f.act f.node (islandFault t f isl { cls := .blockShape })) isl c tag
      else
        let e := (scaleEntry (islandOf t isl) tag).getD e
        let y := (List.range n).foldl (tmmaRow c.nver r l e) (islandOf t isl)
        endTmma { t with islands := insertAt t.islands isl y } isl c tag
  | _, _ => s

/-- TMMA_START. -/
def execTmmaStart (isl : Nat) (s : State) : Host.Outcome State Fault Refusal :=
  .next (match (islandOf s isl).queue with
    | [] => s
    | c :: _ =>
      if commandHeld s isl c || (partOf s (cmdFiring s c.id).part).pstate != .running then s
      else match c.instr with
        | .tmma r => startTmma s isl c r
        | _ => s)

/-! ## TROT (R219) -/

/-- The TROT that every island of a segment has reached. -/
def trotReached (s : State) (seg : Nat × Nat) : Option (HemCmd × TRec) :=
  let isls := (List.range seg.2).map (seg.1 + ·)
  match (islandOf s seg.1).queue with
  | c :: _ => match c.instr with
    | .trot r =>
      if isls.all fun i => match (islandOf s i).queue with | d :: _ => d.id == c.id && !commandHeld s i d | [] => false then some (c, r) else none
    | _ => none
  | [] => none

/-- Rotate a latch of every island of a segment to the next one. -/
def rotateLatches (s : State) (seg : Nat × Nat) (k : Nat) : State :=
  (List.range seg.2).foldl (fun t i =>
    updIsland t (seg.1 + (i + 1) % seg.2) fun x => bringLatch x k (latchOf (islandOf s (seg.1 + i)) k)) s

/-- TROT_START: the latches rotate and the TROT completes. -/
def execTrotStart (sleeve : Nat) (s : State) : Host.Outcome State Fault Refusal :=
  .next (match (sleeveOf s sleeve).seg with
    | none => s
    | some seg =>
      if (partOf s (sleeveOf s sleeve).part).pstate != .running then s
      else match trotReached s seg with
        | some (c, r) =>
          let s := rotateLatches s seg r.slot.toNat
          (List.range seg.2).foldl (fun s i => popCommand (cmdDone s c.id (seg.1 + i) none) (seg.1 + i)) s
        | none => s)

/-! ## Completion (R437) -/

/-- An activation that outlived its colour only for the results of its commands is gone once none is left (R441). -/
def dropGhost (s : State) (a : Nat) : State :=
  let x := actOf s a
  if ((lookup s.colours x.colour).map (·.serial)) = some x.serial || (s.hemOps.any fun o => o.2.f.act == a) then s
  else { s with acts := eraseAt s.acts a }

/-- HEM_COMMAND_COMPLETE: a command has completed on every island that it names, and its result is sent. -/
def execHemCommandComplete (cmd : Nat) (s : State) : Host.Outcome State Fault Refusal :=
  .next (match lookup s.hemOps cmd with
    | some o =>
      if o.left.isEmpty && (partOf s o.f.part).pstate != .frozen && unitCredits s (islCoord o.last) o.f then
        dropGhost (finishFrom { s with hemOps := eraseAt s.hemOps cmd } cmd (islCoord o.last) o.result) o.f.act
      else s
    | none => s)

end Sys2Proof.Machine
end

