-- ==== Sys2Proof/Machine/Transfers.lean ====
section
/-! DEFINITION. Transfer islands: the data transfers XCPY, XTIL, XGAT, XSCT and XFIL (R223, R227, R448 to R450), their acceptance (R229,
R449), their units (R228, R232, R233), and the handles that they use (R224 to R226, R229). -/

namespace Sys2Proof.Machine

open Sys2Proof

/-! ## Operands (R224, R227, Tables 7.7 and 7.8) -/

/-- The record of a data transfer. -/
def dataRec : Instr → Option XRec
  | .xcpy r | .xtil r | .xgat r | .xsct r | .xfil r => some r
  | _ => none

/-- Where a transfer reads or writes: virtual memory, a sleeve's scratchpads or one of its buffers, or a tile store. -/
inductive Space where
  | mem (va : Word)
  | scratch (sleeve a : Nat)
  | buffer (sleeve b : Nat)
  | tile (isl a : Nat)
  deriving DecidableEq, Repr

def handleOf (s : State) (p slot : Nat) : Handle := lookupD (partOf s p).handles slot {}
def setHandle (s : State) (p slot : Nat) (h : Handle) : State := updPart s p fun x => { x with handles := insertAt x.handles slot h }
/-- Generation, slot and offset of a handle value (R224). -/
def hvGen (v : Word) : Nat := bits v.toNat 40 24
@[inherit_doc hvGen] def hvSlot (v : Word) : Nat := bits v.toNat 31 9
@[inherit_doc hvGen] def hvOfs (v : Word) : Nat := bits v.toNat 0 31

/-- What an operand names. -/
def spaceOf (s : State) (p : Nat) (handle : Bool) (v : Word) : Space :=
  if !handle then .mem v
  else
    let h := handleOf s p (hvSlot v)
    match h.kind with
    | 1 => .scratch h.sleeve (h.base.toNat + hvOfs v)
    | 2 => .buffer h.sleeve (h.base.toNat % 16)
    | _ => .mem (h.base + BitVec.ofNat 64 (hvOfs v))

/-- The tile locator of an XTIL: direction, island, first row and rows (Table 7.8), and the pitch. -/
def tilDir (b : Word) : Bool := b.getLsbD 63
@[inherit_doc tilDir] def tilIsl (b : Word) : Nat := bits b.toNat 58 5
@[inherit_doc tilDir] def tilRow (b : Word) : Nat := bits b.toNat 44 12
@[inherit_doc tilDir] def tilRows (b : Word) : Nat := if bits b.toNat 32 12 = 0 then 4096 else bits b.toNat 32 12
def pitchOf (r : XRec) : Nat := if r.lit = 0 then 1024 else r.lit.toNat
/-- Element width and count of an XGAT or XSCT. -/
def gatWidth (r : XRec) : Nat := if bits r.lit.toNat 26 6 = 0 then 64 else bits r.lit.toNat 26 6
@[inherit_doc gatWidth] def gatCount (r : XRec) : Nat := bits r.lit.toNat 0 26

/-- The tile-store place of an XTIL's first row. -/
def tilePlace (s : State) (x : Xfer) : Space :=
  let b := opWord x.f.b
  .tile ((((sleeveOf s x.f.sleeve).seg).getD (0, 0)).1 + tilIsl b) (1024 * tilRow b)
/-- Where a transfer's bits come from and go to. -/
def srcSpace (s : State) (x : Xfer) : Space :=
  match x.instr with
  | .xtil r => if tilDir (opWord x.f.b) then tilePlace s x else spaceOf s x.f.part r.ha (opWord x.f.a)
  | .xcpy r | .xgat r | .xsct r => spaceOf s x.f.part r.ha (opWord x.f.a)
  | _ => .mem 0
@[inherit_doc srcSpace] def dstSpace (s : State) (x : Xfer) : Space :=
  match x.instr with
  | .xtil r => if tilDir (opWord x.f.b) then spaceOf s x.f.part r.ha (opWord x.f.a) else tilePlace s x
  | .xcpy r | .xgat r | .xsct r => spaceOf s x.f.part r.hb (opWord x.f.b)
  | .xfil r => spaceOf s x.f.part r.ha (opWord x.f.a)
  | _ => .mem 0

/-- The bits that a transfer moves. -/
def xferBits (x : Xfer) : Nat :=
  match x.instr with
  | .xcpy r | .xfil r => r.lit.toNat
  | .xgat r | .xsct r => gatWidth r * gatCount r
  | .xtil _ => 1024 * tilRows (opWord x.f.b)
  | _ => 0
/-- The pitch of the memory side of a transfer's rows, when it has rows. -/
def pitch? (x : Xfer) : Option Nat := match x.instr with | .xtil r => some (pitchOf r) | _ => none

/-- A space at an offset of the stream of bits. -/
def Space.plus : Space → Nat → Space
  | .mem va, n => .mem (va + BitVec.ofNat 64 n)
  | .scratch v a, n => .scratch v (a + n)
  | .buffer v b, _ => .buffer v b
  | .tile i a, n => .tile i (a + n)
/-- The bit address of a space, for its sectors. -/
def Space.addr : Space → Nat
  | .mem va => va.toNat
  | .scratch _ a | .tile _ a => a
  | .buffer _ _ => 0
/-- Where bit `lo` of the stream lies on the side of a transfer that has rows of a pitch, or none. -/
def Space.at (sp : Space) (pitch : Option Nat) (lo : Nat) : Space :=
  match sp, pitch with
  | .mem _, some p | .scratch _ _, some p => sp.plus (p * (lo / 1024) + lo % 1024)
  | _, _ => sp.plus lo

/-! ## Units (R228, R233) -/

/-- Bits of a contiguous destination at address `d` that fall in its `u`-th sector: offset and number. -/
def sectorSpan (d total u : Nat) : Nat × Nat :=
  let lo := if u = 0 then 0 else 256 * u - d % 256
  (lo, min total (256 * (u + 1) - d % 256) - lo)
def sectorCount (d total : Nat) : Nat := if total = 0 then 0 else (d % 256 + total + 255) / 256
/-- The same over rows of 1,024 bits at a pitch: `n` rows from row `i` on. -/
def rowSpan (base pitch : Nat) : Nat → Nat → Nat → Nat × Nat
  | 0, _, _ => (0, 0)
  | n + 1, i, u =>
    let d := base + pitch * i
    let c := sectorCount d 1024
    if u < c then let (lo, m) := sectorSpan d 1024 u; (1024 * i + lo, m) else rowSpan base pitch n (i + 1) (u - c)
/-- Slot width of a buffer. -/
def slotWidth (s : State) (v b : Nat) : Nat := cbdWidth (lookupD (sleeveOf s v).cbd b 0)

/-- Units of a transfer. -/
def unitCount (s : State) (x : Xfer) : Nat :=
  match x.instr, dstSpace s x with
  | .xsct r, _ => gatCount r
  | _, .buffer v b => xferBits x / slotWidth s v b
  | .xtil r, .mem va =>
    ((List.range (xferBits x / 1024)).map fun i => sectorCount (va.toNat + pitchOf r * i) 1024).foldl (· + ·) 0
  | .xtil r, .scratch _ a =>
    ((List.range (xferBits x / 1024)).map fun i => sectorCount (a + pitchOf r * i) 1024).foldl (· + ·) 0
  | _, d => sectorCount d.addr (xferBits x)
/-- The bits of the stream that a unit moves: offset and number. -/
def unitSpan (s : State) (x : Xfer) (u : Nat) : Nat × Nat :=
  match x.instr, dstSpace s x with
  | .xsct r, _ => (gatWidth r * u, gatWidth r)
  | _, .buffer v b => (slotWidth s v b * u, slotWidth s v b)
  | .xtil r, .mem va => rowSpan va.toNat (pitchOf r) (xferBits x / 1024) 0 u
  | .xtil r, .scratch _ a => rowSpan a (pitchOf r) (xferBits x / 1024) 0 u
  | _, d => sectorSpan d.addr (xferBits x) u

/-! ## Reading -/

/-- What a read of a transfer gives: bits and their poison, a wait, an access that parks, or a fault that stops the transfer. -/
inductive XGot where
  | ok (v : Nat) (poi : Bool) (s : State)
  | wait (s : State)
  | park (i : FaultInfo) (s : State)
  | stop (i : FaultInfo) (s : State)

/-- The translation cache of a transfer island. -/
def xferTlb (x : Xfer) : TlbAt := .grid (x.xisl / 4)

/-- A translation that has stopped, as a transfer takes it: it waits, parks, or stops. -/
def XGot.ofStop : AgentStop → XGot
  | .wait s => .wait s
  | .fault i s => if i.cls = .translation then .park i s else .stop i s

/-- Read `n` bits of virtual memory of a partition for an island, sector by sector. -/
def readMem (c : TlbAt) (p : Nat) : Nat → State → Word → Nat → XGot
  | 0, s, _, _ => .ok 0 false s
  | k + 1, s, va, n =>
    if n = 0 then .ok 0 false s
    else
      let m := min (256 - va.toNat % 256) n
      match agentTranslate s c p (supervisor s p) .read va m with
      | .error r => .ofStop r
      | .ok (e, big, s) =>
        let loc := locOf s e big va
        let odd : Bool := match loc with | .reg _ => m != 64 || va.toNat % 64 != 0 | _ => false
        if odd then .stop { cls := .alignClass, va := va } s
        else match agentRead s loc m true with
          | .wait s => .wait s
          | .lost => .stop { cls := .ownerLost, va := va } s
          | .refused => .stop { cls := .protection, cause := 10, va := va } s
          | .ok v poi s =>
            match readMem c p k s (va + BitVec.ofNat 64 m) (n - m) with
            | .ok w q s => .ok (v + w * 2 ^ m) (poi || q) s
            | r => r

/-- Read `n` bits of a space. -/
def readSpace (x : Xfer) (s : State) (sp : Space) (n : Nat) : XGot :=
  match sp with
  | .mem va => readMem (xferTlb x) x.f.part 10 s va n
  | .scratch v a =>
    let y := drainAll (sleeveOf s v)
    .ok (readScratch y a n) (y.scratchBad.any fun k => decide (a / 256 ≤ k) && decide (k ≤ (a + n - 1) / 256)) s
  | .tile i a => .ok (tileBits (islandOf s i) a n) (tileBad (islandOf s i) a n) s
  | .buffer _ _ => .ok 0 false s

/-- A range failure (Table 9.7). -/
def rangeStop (va : Word) (wr : Bool) : FaultInfo := { cls := .protection, cause := 8, va := va, wr := wr }

/-- An element at an index from a handle's base lies outside the handle (R450). -/
def elementOutside (s : State) (p : Nat) (handle : Bool) (v : Word) (w idx : Nat) : Bool :=
  handle && decide ((handleOf s p (hvSlot v)).len < hvOfs v + w * idx + w)

/-- Read an index of an XGAT or XSCT. -/
def readIndex (x : Xfer) (s : State) (k : Nat) : XGot :=
  let va := opWord x.f.c + BitVec.ofNat 64 (32 * k)
  match readMem (xferTlb x) x.f.part 4 s va 32 with
  | .ok _ true s => .stop (rangeStop va false) s
  | r => r

/-- Read elements `k` to `k + n - 1` of an XGAT. -/
def gatherElems (x : Xfer) (r : XRec) : Nat → State → Nat → XGot
  | 0, s, _ => .ok 0 false s
  | n + 1, s, k =>
    let w := gatWidth r
    match readIndex x s k with
    | .ok idx _ s =>
      let src := (srcSpace s x).plus (w * idx)
      if elementOutside s x.f.part r.ha (opWord x.f.a) w idx then .stop (rangeStop (match src with | .mem va => va | _ => 0) false) s
      else match readSpace x s src w with
        | .ok v poi s =>
          match gatherElems x r n s (k + 1) with
          | .ok y p s => .ok (v + y * 2 ^ w) (poi || p) s
          | g => g
        | g => g
    | g => g

/-- Bits [lo + n - 1 : lo] of the stream that a transfer moves. -/
def readStream (s : State) (x : Xfer) (lo n : Nat) : XGot :=
  match x.instr with
  | .xgat r =>
    let w := gatWidth r
    match gatherElems x r ((lo + n - 1) / w + 1 - lo / w) s (lo / w) with
    | .ok v p s => .ok (v / 2 ^ (lo % w) % 2 ^ n) p s
    | g => g
  | .xfil _ =>
    let p := (opWord x.f.b).toNat
    .ok (((List.range 18).foldl (fun v k => v + p * 2 ^ (64 * k)) 0) / 2 ^ (lo % 64) % 2 ^ n) false s
  | _ => readSpace x s ((srcSpace s x).at (pitch? x) lo) n

/-! ## Writing -/

/-- How a unit ends. -/
inductive UnitEnd where
  | done (s : State)
  | wait (s : State)
  | park (i : FaultInfo) (s : State)
  | stop (i : FaultInfo) (s : State)

/-- A read that has not given its bits, as a unit ends for it. -/
def XGot.toUnit : XGot → UnitEnd
  | .ok _ _ s => .done s
  | .wait s => .wait s
  | .park i s => .park i s
  | .stop i s => .stop i s

/-- A part of a unit in one sector of memory, checked. -/
structure XPart where
  va   : Word
  ofs  : Nat
  n    : Nat
  leaf : Word
  big  : Bool

/-- Check the parts of a unit's destination in memory; none is left unchecked before the first is written (R228). `who` is the transfer, or
the collective, as step 1 of Table 5.2 knows it. -/
def checkParts (c : TlbAt) (p : Nat) (use : Use) (who : HeldBy) : Nat → State → Word → Nat → Nat → Except UnitEnd (List XPart × State)
  | 0, s, _, _, _ => .ok ([], s)
  | k + 1, s, va, ofs, n =>
    if n = 0 then .ok ([], s)
    else
      let m := min (256 - va.toNat % 256) n
      match agentTranslate s c p (supervisor s p) use va m (waitsAt s who).isSome with
      | .error r => .error (XGot.ofStop r).toUnit
      | .ok (e, big, s) =>
        let (e, big) := movedLeaf s who va e big
        let loc := locOf s e big va
        let spot : Spot := { va := va, leaf := e, big := big }
        let odd : Bool := match loc with | .reg _ => m != 64 || va.toNat % 64 != 0 | _ => false
        if odd then .error (.stop { cls := .alignClass, va := va, wr := true } s)
        else if !mayPass s who [spot] then .error (.wait (arriveHeld s who [spot]))
        else if overflowed s e big va then
          .error (.park { cls := .compressOverflow, va := va, wr := true, info := BitVec.ofNat 64 (compactPage { leaf := e, va := va, big := big }) }
            (goPast s who))
        else if lostLoc s loc then .error (.stop { cls := .ownerLost, va := va, wr := true } s)
        else match ownedLoc s loc with
          | some l => .error (.wait (snoopOwner s l none))
          | none =>
            match checkParts c p use who k s (va + BitVec.ofNat 64 m) (ofs + m) (n - m) with
            | .ok (l, s) => .ok ({ va := va, ofs := ofs, n := m, leaf := e, big := big } :: l, s)
            | .error r => .error r

/-- The unit of a transfer, or the element of a collective, that is being written. -/
def workUnit (s : State) (tid : Nat) : Nat :=
  match lookup s.xfers tid, lookup s.colls tid with
  | some x, _ => match x.redo with | (lo, _) :: _ => lo | [] => x.next
  | none, some c => c.next
  | none, none => 0
/-- Send bits to a remote home, 192 at a time; the flag tells whether every message found a route. -/
def sendBits (tid dst : Nat) : Nat → State → Word → Nat → Nat → Nat → Bool × State
  | 0, s, _, _, _, _ => (true, s)
  | k + 1, s, va, a, n, v =>
    if n = 0 then (true, s)
    else
      let m := min 192 n
      let (ok, s) := sendRequest s { dst := dst, what := .xfer tid, addr := a, len := m, va := va, unit := workUnit s tid } (writeSlot m a (v % 2 ^ m))
      let (ok', s) := sendBits tid dst k s (va + BitVec.ofNat 64 m) (a + m) (n - m) (v / 2 ^ m)
      (ok && ok', s)

/-- Make Full the words of device memory that bits at a place touch, with the words as they stood before (R167). -/
def fillWords (old s : State) (loc : Loc) (n : Nat) : State :=
  match loc with
  | .dev apr a =>
    (List.range ((a + n - 1) / 64 + 1 - a / 64)).foldl (fun s i =>
      let k := cdaOf apr (8 * (a / 64 + i)) / 8
      makeFull s k (wordBits old k)) s
  | .pod _ | .remote _ _ | .reg _ => s

/-- Write a checked part. -/
def writePart (wr : Writer) (full : Bool) (v : Nat) (poi : Bool) (r : Bool × State) (p : XPart) : Bool × State :=
  let (ok, s) := r
  let loc := locOf s p.leaf p.big p.va
  let bits := v / 2 ^ p.ofs % 2 ^ p.n
  match loc with
  | .reg o => (ok, writeWindow s o (BitVec.ofNat 64 bits))
  | .remote dst a =>
    let (o, s) := sendBits wr.sid dst 3 (dropCopy s dst (a / 512)) p.va a p.n bits
    (ok && o, s)
  | .dev _ _ | .pod _ =>
    let t := bankWrite (if poi then setPoisonLoc s loc true else s) { wr with big := p.big } p.leaf loc p.n bits
    let t := if poi then setPoisonLoc t loc true else t
    (ok, wake (if full then fillWords s t loc p.n else t))

/-- Whose writes a transfer's are (R450). -/
def xferWriter (x : Xfer) (tid : Nat) : Writer := { part := x.f.part, act := x.f.act, colour := x.colour, serial := x.serial, sid := tid }

/-- Write the bits of a unit at a place; a slot of a buffer is filled by an op that waits for room (R233). -/
def writeSpace (s : State) (x : Xfer) (tid : Nat) (full : Bool) (sp : Space) (n v : Nat) (poi : Bool) : UnitEnd :=
  match sp with
  | .mem va =>
    match checkParts (xferTlb x) x.f.part (if full then .full else .write) (.xfer tid) 6 s va 0 n with
    | .error r => r
    | .ok (l, s) =>
      let (ok, s) := l.foldl (writePart (xferWriter x tid) full v poi) (true, goPast s (.xfer tid))
      if ok then .done s else .stop { cls := .protection, cause := 10, va := va, wr := true } s
  | .scratch k a => .done (updSleeve s k fun y => markScratch (writeScratch (drainAll y) a n v) a n poi)
  | .tile i a =>
    let mark (y : Island) : Island :=
      if poi then { y with bad := (List.range ((a + n - 1) / 256 + 1 - a / 256)).foldl (fun l k => insertNat l (a / 256 + k)) y.bad } else y
    .done (updIsland s i fun y => mark (writeTile y a n v))
  | .buffer k b =>
    let f : Firing := { part := x.f.part, sleeve := k }
    let (o, s) := waitOp s f (.cbpt b { vectorOf [] with val := valueOfNat v, poi := poi })
    let s := serveBuffers (s.ops.length + 1) (updXfer s tid fun y => { y with slot := o }) k
    if (lookup s.ops o).isSome then .wait s else .done (updXfer s tid fun y => { y with slot := 0 })

/-- Perform a unit: its source bits are read and its destination bits written. -/
def performUnit (s : State) (tid : Nat) (x : Xfer) (u : Nat) : UnitEnd :=
  let (lo, n) := unitSpan s x u
  let full := match dataRec x.instr with | some r => r.full | none => false
  let put (v : Nat) (poi : Bool) (s : State) (sp : Space) : UnitEnd := writeSpace s x tid full sp n v poi
  match x.instr with
  | .xsct r =>
    match readIndex x s u with
    | .ok idx _ s =>
      let dst := (dstSpace s x).plus (gatWidth r * idx)
      if elementOutside s x.f.part r.hb (opWord x.f.b) (gatWidth r) idx then .stop (rangeStop (match dst with | .mem va => va | _ => 0) true) s
      else match readStream s x lo n with
        | .ok v p s => put v p s dst
        | g => g.toUnit
    | g => g.toUnit
  | _ =>
    match readStream s x lo n with
    | .ok v p s => put v p s ((dstSpace s x).at (pitch? x) lo)
    | g => g.toUnit

/-! ## Parked ranges (R232) -/

/-- The records under which units of a transfer are parked. -/
def rangeRecords (s : State) (tid : Nat) : List Nat :=
  (s.parked.filterMap fun q => match q.what with | .range t _ _ => if t = tid then some q.fseq else none | _ => none).eraseDups

/-- The record under which units of a transfer are parked that fault as a given access does, on its page with its class and cause: they are one
range, whether or not that record is outstanding (R232, R280). -/
def ownRange (s : State) (x : Xfer) (tid : Nat) (i : FaultInfo) : Option Nat :=
  (s.records.find? fun r => r.part == x.f.part && r.parks && (rangeRecords s tid).contains r.fseq && r.info.cls == i.cls && r.info.cause == i.cause
    && onePage r.info i).map (·.fseq)

/-- The units from `u` on, at most `n` of them, that fault as a given access does: on its page, with its class and cause. -/
def sameFault (s : State) (tid : Nat) (x : Xfer) (i : FaultInfo) : Nat → Nat → Nat
  | 0, u => u
  | n + 1, u =>
    match performUnit s tid x u with
    | .park j _ => if j.cls = i.cls ∧ j.cause = i.cause ∧ onePage j i then sameFault s tid x i n (u + 1) else u
    | _ => u

/-- Put a unit with the units parked under a record: it joins an interval that it follows. -/
def joinRange (tid f u hi : Nat) : List Parked → List Parked
  | [] => []
  | q :: qs =>
    if q.what = .range tid u hi ∧ q.fseq = f then q :: qs
    else
      match q.what with
      | .range t lo h =>
        if t = tid ∧ q.fseq = f ∧ h + 1 = u then { q with what := .range tid lo hi } :: qs.filter fun z => !(z.what == .range tid u hi && z.fseq == f)
        else q :: joinRange tid f u hi qs
      | _ => q :: joinRange tid f u hi qs

/-- Take the unit that has been dealt with off a transfer's work. -/
def advance (s : State) (tid hi : Nat) : State :=
  updXfer s tid fun x =>
    match x.redo with
    | (_, h) :: rest => { x with redo := if hi < h then (hi + 1, h) :: rest else rest }
    | [] => { x with next := hi + 1 }

/-- Park unit `u`; at a fifth range the transfer stops with the units after it on the page (R232). `last` is the last unit of the
work in hand. -/
def parkUnit (s : State) (tid : Nat) (x : Xfer) (u last : Nat) (i : FaultInfo) : State :=
  let i := xferFault s x { i with unit := BitVec.ofNat 64 u }
  let old := rangeRecords s tid
  let (f, t) := match ownRange s x tid i with
    | some f => (f, addParked s { part := x.f.part, fseq := f, act := 0, what := .range tid u u })
    | none => parkUnder s x.f.part 0 x.colour x.serial x.f.sleeve i (.range tid u u)
  if !old.contains f && decide (4 ≤ old.length) then
    let hi := sameFault s tid x i (last - u) (u + 1) - 1
    let t := { t with parked := t.parked.map fun q => if q.what = .range tid u u ∧ q.fseq = f then { q with what := .range tid u hi } else q }
    updXfer (advance t tid hi) tid fun x => { x with st := .fifth, fifth := f }
  else advance { t with parked := joinRange tid f u u t.parked } tid u

/-! ## Progress and completion (R198, R223, R232) -/

/-- A transfer writes to a remote home that has not answered. -/
def awaitsRemote (s : State) (tid : Nat) : Bool := s.remotes.any fun r => r.2.what == .xfer tid

/-- A transfer stops for a fault of its own (R229). Under a stale handle it is complete at once; else its batch counts it once the writes that have
left it are performed (R198). -/
def stopXfer (s : State) (tid : Nat) (x : Xfer) (i : FaultInfo) : State :=
  let s := recordOnly s x.f.part x.colour x.serial x.f.act (xferFault s x i)
  if i.cls = .staleHandle then endXfer s tid fun b => { b with stale := true }
  else if awaitsRemote s tid then
    let s := updBatch s x.colour x.serial x.batch fun b => { b with fault := true }
    updXfer { s with parked := s.parked.filter (fun q => match q.what with | .range t _ _ => t != tid | _ => true)
                     ops := if x.slot = 0 then s.ops else eraseAt s.ops x.slot } tid fun x => { x with st := .stopped, redo := [], slot := 0 }
  else endXfer s tid fun b => { b with fault := true }

/-- A transfer that has nothing left to do ends; one that has passed its last unit gives up its running place. -/
def progress (s : State) (tid : Nat) : State :=
  match lookup s.xfers tid with
  | none => s
  | some x =>
    if x.st = .stopped then (if awaitsRemote s tid then s else endXfer s tid id)
    else if x.st = .flying ∨ x.st = .queued ∨ x.st = .fifth ∨ !x.redo.isEmpty ∨ x.next < unitCount s x then s
    else if (rangeRecords s tid).isEmpty && !awaitsRemote s tid then endXfer s tid id
    else updXfer s tid fun x => { x with st := .passed }

/-- Running places of an island that are taken (R223). -/
def placesTaken (s : State) (xisl : Nat) : Nat :=
  (s.xfers.filter fun x => x.2.xisl == xisl && (x.2.st == .running || x.2.st == .fifth)).length

/-- The transfer of an island that takes the next running place for its parked ranges: the first that has been replayed. -/
def nextRedo (s : State) (xisl : Nat) : Option Nat :=
  ((s.xfers.filter fun x => x.2.xisl == xisl && x.2.st == .passed && !x.2.redo.isEmpty).foldl (fun b x => match b with
    | none => some x
    | some y => if x.2.order < y.2.order then some x else some y) (none : Option (Nat × Xfer))).map (·.1)

/-- What a transfer's issue edge orders first is performed (Table 6.5). -/
def xferReady (s : State) (x : Xfer) : Bool := issueEdge s x.edges

/-- Write one unit of a running transfer. -/
def stepXfer (s : State) (tid : Nat) (x : Xfer) : State :=
  let (u, last) := match x.redo with
    | (lo, hi) :: _ => (lo, hi)
    | [] => (x.next, unitCount s x - 1)
  let fin (s : State) : State :=
    let n := (unitSpan s x u).2
    progress (advance (updBatch s x.colour x.serial x.batch fun b => { b with bits := min (2 ^ 52 - 1) (b.bits + n) }) tid u) tid
  if x.slot ≠ 0 then
    if (lookup s.ops x.slot).isSome then s else fin (updXfer s tid fun x => { x with slot := 0 })
  else if x.redo.isEmpty && decide (unitCount s x ≤ x.next) then progress s tid
  else match performUnit s tid x u with
    | .done t => fin t
    | .wait t => t
    | .park i s => progress (parkUnit s tid x u last i) tid
    | .stop i s => stopXfer s tid x { i with unit := BitVec.ofNat 64 u }

/-- TRANSFER_UNIT_WRITE: the next unit of a transfer, one of its replayed ranges first. A transfer whose fifth record has been
disposed of goes on, and one that has passed its last unit takes a running place for its ranges. -/
def execTransferUnitWrite (tid : Nat) (s : State) : Host.Outcome State Fault Refusal :=
  .next (match lookup s.xfers tid with
    | none => s
    | some x =>
      if (partOf s x.f.part).pstate != .running || !xferReady s x then s
      else match x.st with
        | .flying | .queued | .stopped => s
        | .running => stepXfer s tid x
        | .fifth =>
          if (rangeRecords s tid).contains x.fifth then s
          else stepXfer (updXfer s tid fun x => { x with st := .running }) tid { x with st := .running }
        | .passed =>
          if x.redo.isEmpty then progress s tid
          else if nextRedo s x.xisl = some tid ∧ placesTaken s x.xisl < 8 then
            stepXfer (updXfer s tid fun x => { x with st := .running }) tid { x with st := .running }
          else s)

/-! ## Issue and acceptance (R229, R449, Table 15.5) -/

/-- A data transfer at issue: BLOCK_SHAPE without a transfer island, or for XTIL without a segment; else it joins its batch. -/
def transferForm (s : State) (r : XRec) (i : Instr) (needsSegment : Bool) : State :=
  fire s r.c r.lit fun f s =>
    let v := sleeveOf s f.sleeve
    if v.xisl.isNone || (needsSegment && v.seg.isNone) then raise s f.act f.node { cls := .blockShape }
    else if (waitingCloses s (actOf s f.act).colour).isEmpty then
      let (h, t) := tryJoin s f i
      if h then (waitOp s f .xferJoin).2 else t
    else (waitOp s f .xferJoin).2

def execXcpy (r : XRec) (s : State) : Host.Outcome State Fault Refusal := .next (transferForm s r (.xcpy r) false)
def execXtil (r : XRec) (s : State) : Host.Outcome State Fault Refusal := .next (transferForm s r (.xtil r) true)
def execXgat (r : XRec) (s : State) : Host.Outcome State Fault Refusal := .next (transferForm s r (.xgat r) false)
def execXsct (r : XRec) (s : State) : Host.Outcome State Fault Refusal := .next (transferForm s r (.xsct r) false)
def execXfil (r : XRec) (s : State) : Host.Outcome State Fault Refusal := .next (transferForm s r (.xfil r) false)

/-- The check of a handle operand (R229): the kinds that suit, whether it is written, and its extent. -/
def handleBad (s : State) (x : Xfer) (v : Word) (kinds : List Nat) (wr : Bool) (extent : Nat) : Option FaultInfo :=
  let h := handleOf s x.f.part (hvSlot v)
  if !h.valid || h.gen != hvGen v then some { cls := .staleHandle, info := v, unit := BitVec.ofNat 64 x.batch }
  else if !kinds.contains h.kind || !(if wr then h.w else h.r) || decide (h.len < hvOfs v + extent) then
    some { cls := .protection, cause := 8, wr := wr }
  else none

/-- The handle checks of a transfer's operands, in their order. -/
def handlesBad (s : State) (x : Xfer) : Option FaultInfo :=
  let a := opWord x.f.a
  let b := opWord x.f.b
  let chk (h : Bool) (v : Word) (kinds : List Nat) (wr : Bool) (n : Nat) : Option FaultInfo :=
    if h then handleBad s x v kinds wr n else none
  match x.instr with
  | .xcpy r => (chk r.ha a [0, 1] false r.lit.toNat).or (chk r.hb b [0, 1, 2] true r.lit.toNat)
  | .xfil r => chk r.ha a [0, 1, 2] true r.lit.toNat
  | .xgat r => (chk r.ha a [0, 1] false 0).or (chk r.hb b [0, 1, 2] true (gatWidth r * gatCount r))
  | .xsct r => (chk r.ha a [0, 1] false (gatWidth r * gatCount r)).or (chk r.hb b [0, 1] true 0)
  | .xtil r =>
    let n := (tilRows b - 1) * pitchOf r + 1024
    if tilDir b then chk r.ha a [0, 1, 2] true n else chk r.ha a [0, 1] false n
  | _ => none

/-- An XTIL's locator is bad (Table 7.8). -/
def locatorBad (s : State) (x : Xfer) : Bool :=
  match x.instr with
  | .xtil _ =>
    let b := opWord x.f.b
    decide ((((sleeveOf s x.f.sleeve).seg).getD (0, 0)).2 ≤ tilIsl b) || bits b.toNat 56 2 != 0 || bits b.toNat 0 32 != 0
      || decide (4096 < tilRow b + tilRows b)
  | _ => false

/-- FULL acts on a transfer: not on an XTIL to a tile store (R450). -/
def fullActs (x : Xfer) : Bool :=
  match x.instr with
  | .xtil r => r.full && tilDir (opWord x.f.b)
  | .xcpy r | .xgat r | .xsct r | .xfil r => r.full
  | _ => false

/-- The FULL check at acceptance: the first destination page (R228, R449). DESIGN CHOICE (log 53): for XSCT, whose elements lie where its indices
say, that is the page of its base B. -/
def fullBad (s : State) (x : Xfer) : Option FaultInfo :=
  if !fullActs x || decide (xferBits x = 0) then none
  else match dstSpace s x with
    | .mem va =>
      match agentTranslate s (xferTlb x) x.f.part (supervisor s x.f.part) .full va 1 with
      | .error (.fault i _) => if i.cls = .translation then none else some i
      | .error (.wait _) | .ok _ => none
    | .scratch _ _ | .buffer _ _ | .tile _ _ => some { cls := .protection, cause := 6, wr := true }

/-- The translation of that page must wait for a line that a pod agent owns: the island waits with it. -/
def fullWaits (s : State) (x : Xfer) : Option State :=
  if !fullActs x || decide (xferBits x = 0) then none
  else match dstSpace s x with
    | .mem va => match agentTranslate s (xferTlb x) x.f.part (supervisor s x.f.part) .full va 1 with
      | .error (.wait t) => some t
      | .error (.fault _ _) | .ok _ => none
    | .scratch _ _ | .buffer _ _ | .tile _ _ => none

/-- A length that is not a multiple of the slot width of a destination buffer (R233). -/
def slotBad (s : State) (x : Xfer) : Bool := match dstSpace s x with | .buffer v b => xferBits x % slotWidth s v b != 0 | _ => false

/-- Why a transfer is rejected at acceptance before its FULL check. -/
def rejectsFirst (s : State) (x : Xfer) : Option FaultInfo :=
  (handlesBad s x).or (if locatorBad s x ∨ slotBad s x then some { cls := .protection, cause := 8 } else none)
/-- Why a transfer is rejected at acceptance. -/
def rejects (s : State) (x : Xfer) : Option FaultInfo := (rejectsFirst s x).or (fullBad s x)

/-- The transfer that waits first at an island. -/
def firstQueued (s : State) (xisl : Nat) : Option (Nat × Xfer) :=
  (s.xfers.filter fun x => x.2.xisl == xisl && x.2.st == .queued).foldl (fun b x => match b with
    | none => some x
    | some y => if x.2.order < y.2.order then some x else some y) none

/-- TRANSFER_ACCEPT: the island takes up the next transfer when a running place is free; a rejected one is complete at once. -/
def execTransferAccept (xisl : Nat) (s : State) : Host.Outcome State Fault Refusal :=
  .next (match firstQueued s xisl with
    | none => s
    | some (tid, x) =>
      if (partOf s x.f.part).pstate != .running || decide (8 ≤ placesTaken s xisl) || (nextRedo s xisl).isSome
          || !unitCredits s (xislCoord xisl) x.f then s
      else
        let answer (s : State) (n : Nat) : State :=
          match s.ops.find? fun o => o.2.w == .xferAccept tid with
          | some (o, _) => finishFrom s o (xislCoord xisl) (scalarOf (BitVec.ofNat 64 (n + x.batch)))
          | none => s
        match (if (rejectsFirst s x).isSome then none else fullWaits s x) with
        | some t => t
        | none =>
          serveJoins (match rejects s x with
            | some i => answer (stopXfer s tid x i) (2 ^ 32)
            | none =>
              let fast := decide (2 ≤ (colourOf s x.colour).holding)
              progress (answer (updXfer s tid fun x => { x with st := .running, fast := fast }) 0) tid))

/-! ## XHND and XREL (R226) -/

/-- The handle values of a transfer's operands. -/
def xferHandles (x : Xfer) : List Word :=
  match dataRec x.instr with
  | some r => (if r.ha then [opWord x.f.a] else []) ++ (if r.hb then [opWord x.f.b] else [])
  | none => []

/-- A generation change takes effect: accepted transfers that use the slot and have units left stop (R229). -/
def stopStale (s : State) (p slot : Nat) : State :=
  s.xfers.foldl (fun s y =>
    let x := y.2
    let left := decide (x.next < unitCount s x) || !x.redo.isEmpty || !(rangeRecords s y.1).isEmpty
    match (xferHandles x).find? fun v => hvSlot v == slot && x.f.part == p && x.st != .flying && x.st != .queued && x.st != .stopped && left with
    | some v => stopXfer s y.1 x { cls := .staleHandle, info := v, unit := BitVec.ofNat 64 x.batch }
    | none => s) s

/-- XHND: the slot's entry, after a check of the operands. -/
def execXhnd (r : XRec) (s : State) : Host.Outcome State Fault Refusal :=
  .next (fireX s r fun f s =>
    let b := (opWord f.b).toNat
    let base := opWord f.a
    let kind := bits b 62 2
    let len := bits b 0 40
    let outside := kind = 1 ∧ quadCount (sleeveOf s f.sleeve) * 2 ^ 21 < base.toNat + len
    if bits b 40 22 ≠ 0 ∨ outside then raise s f.act f.node { cls := .protection, cause := 8 }
    else
      let slot := r.hslot.toNat
      let g := ((handleOf s f.part slot).gen + 1) % 2 ^ 24
      let t := setHandle (stopStale s f.part slot) f.part slot
        { valid := true, kind := kind, r := r.lit.getLsbD 0, w := r.lit.getLsbD 1, base := base, len := len, gen := g, sleeve := f.sleeve }
      sendBoth t f (scalarOf (BitVec.ofNat 64 (g * 2 ^ 40 + slot * 2 ^ 31))))

/-- XREL: releases the slot that a handle value names. -/
def execXrel (r : XRec) (s : State) : Host.Outcome State Fault Refusal :=
  .next (fireX s r fun f s =>
    let v := opWord f.a
    let h := handleOf s f.part (hvSlot v)
    if h.valid && h.gen == hvGen v then
      let s := setHandle (stopStale s f.part (hvSlot v)) f.part (hvSlot v) { h with valid := false, gen := (h.gen + 1) % 2 ^ 24 }
      sendBoth s f (scalarOf 1)
    else sendBoth s f (scalarOf 0))

end Sys2Proof.Machine
end

