-- ==== Sys2Proof/Machine/Collectives.lean ====
section
/-! DEFINITION. Collectives (R234 to R240, R388 to R390): KRSC, KAGT, KARD and KXPR at issue, their exchange of elements with the other
members, their end, and KWAIT. -/

namespace Sys2Proof.Machine

open Sys2Proof

/-! ## What a collective is (R235, R236) -/

/-- The record of a collective, and its form's code. -/
def collRec : Instr → Option (XRec × Nat)
  | .krsc r => some (r, 0)
  | .kagt r => some (r, 1)
  | .kard r => some (r, 2)
  | .kxpr r => some (r, 3)
  | _ => none
/-- Its record's operation and count. -/
def collOp (r : XRec) : Nat := bits r.lit.toNat 28 4
@[inherit_doc collOp] def collCount (r : XRec) : Nat := bits r.lit.toNat 0 28

/-- Source and destination extents in bits for `n` members (Table 7.10). -/
def collExtents (r : XRec) (form n : Nat) : Nat × Nat :=
  let c := collCount r
  let w := r.c.ty.width
  match form with
  | 0 => (n * c * w, c * w)
  | 1 => (c * w, n * c * w)
  | 2 => (c * w, c * w)
  | _ => (c * 2 ^ 19, 64)

/-- A reduction of the members' values of one element in rank order; SATN acts on results narrower than F32 (R236). -/
def collReduce (t : Ty) (op : Nat) (xs : List Nat) : Nat :=
  if t.isFloat then
    writeFloat (fmtOf t) .rne (if t = .f32 then .none else .satn) false 0 (ofF32 (reduceTree (redStep .f32 op .rne .none) (xs.map fun x => roundF32 (readElem t false x))))
  else reduceTree (redStep .i64 op .rne .none) xs

/-! ## Ends (R238, R239) -/

def updColl (s : State) (cid : Nat) (f : Coll → Coll) : State :=
  match lookup s.colls cid with | some x => { s with colls := insertAt s.colls cid (f x) } | none => s
/-- Send a message to every other member. -/
def collSendAll (s : State) (x : Coll) (m : CollMsg) : State :=
  (x.group.filter fun d => d != s.regs.devn.toNat).foldl (fun s d => emitColl s (some x.isl) d m) s
/-- Where a fault of a collective stands. -/
def collFault (s : State) (x : Coll) (i : FaultInfo) : FaultInfo :=
  { i with src := 3, coord := collCoord x.isl, tag := x.f.tag, blk := x.f.blk, node := x.f.node, slv := (sleeveOf s x.f.sleeve).desc }
/-- A collective ends with LOST (1) or MISMATCH (2), its parked access goes, and the others are told. -/
def endColl (s : State) (cid status : Nat) : State :=
  match lookup s.colls cid with
  | some x =>
    if x.status ≠ 0 then s
    else
      let s := updColl s cid fun x => { x with status := status, tell := false }
      collSendAll { s with parked := s.parked.filter fun q => q.what != .coll cid } x (.ended x.group x.num status)
  | none => s
/-- A device is a member that this device has declared lost (R238, R296). -/
def lostMember (s : State) (dev : Nat) : Bool := (List.range 8).any fun k => memberLost s k && memberDev s k == dev
/-- A member was declared lost: every collective with it ends with LOST, a KXPR with a PARITY_PEER_LOST record. -/
def loseMember (s : State) (dev : Nat) : State :=
  s.colls.foldl (fun s y =>
    if y.2.group.contains dev ∧ y.2.begun ∧ y.2.status = 0 then
      let s := match collRec y.2.instr with
        | some (_, 3) => recordOnly s y.2.f.part y.2.colour y.2.serial y.2.f.act (collFault s y.2 { cls := .parityPeerLost })
        | _ => s
      endColl s y.1 1
    else s) s

/-! ## Exchange -/

/-- Read an element or a sector of this member's source. -/
def collRead (s : State) (x : Coll) (va : Word) (w : Nat) : XGot := readMem .coll x.f.part 4 s va w

/-- How a step of a collective ends. -/
inductive CollEnd where
  | go (s : State)
  | wait (s : State)
  | park (i : FaultInfo) (s : State)
  | lost (i : FaultInfo) (s : State)

/-- Carry an access's fault over. -/
def XGot.toEnd : XGot → CollEnd
  | .ok _ _ s => .go s
  | .wait s => .wait s
  | .park i s => .park i s
  | .stop i s => .lost i s

/-- The ranks to which source element `i` goes, and its address and width. -/
def collTargets (x : Coll) (r : XRec) (form i : Nat) : List Nat × Word × Nat :=
  let n := x.group.length
  let others := (List.range n).filter fun k => k != x.rank
  let w := r.c.ty.width
  let at' (k : Nat) : Word := x.src + BitVec.ofNat 64 k
  match form with
  | 0 => ((others.filter fun k => k = i / collCount r), at' (w * i), w)
  | 1 | 2 => (others, at' (w * i), w)
  | _ => ((others.filter fun k => k = i / 2048 % 8), at' (2 ^ 19 * (i / 2048) + 256 * (i % 2048)), 256)
/-- Source elements of a collective. -/
def collSources (x : Coll) (r : XRec) (form : Nat) : Nat :=
  match form with | 0 => x.group.length * collCount r | 1 | 2 => collCount r | _ => 2048 * collCount r

/-- Send source element `i`. -/
def sendElem (s : State) (x : Coll) (r : XRec) (form i : Nat) : CollEnd :=
  match collTargets x r form i with
  | ([], _, _) => .go s
  | (ks, va, w) =>
    match collRead s x va w with
    | .ok v poi s => .go (ks.foldl (fun s k => emitColl s (some x.isl) (x.group.getD k 0) (.elem x.group x.num i (BitVec.ofNat 256 v) poi)) s)
    | g => g.toEnd

/-- A received value. -/
def collGot (x : Coll) (rank i : Nat) : Option (Nat × Bool) := (x.got.find? fun y => y.1 == rank && y.2.1 == i).map fun y => (y.2.2.1, y.2.2.2)
/-- The value of a member's source element: read here, or received; none while it has not come. -/
def memberElem (s : State) (x : Coll) (rank i : Nat) (va : Word) (w : Nat) : Option XGot :=
  if rank = x.rank then some (collRead s x va w) else (collGot x rank i).map fun (v, p) => .ok v p s
/-- The values of several ranks' element `i`, in rank order. -/
def memberElems (s : State) (x : Coll) (i : Nat) (va : Word) (w : Nat) : List Nat → Option (Except XGot (List Nat × Bool × State))
  | [] => some (.ok ([], false, s))
  | k :: ks =>
    match memberElem s x k i va w with
    | none => none
    | some (.ok v p s) =>
      match memberElems s x i va w ks with
      | some (.ok (l, q, s)) => some (.ok (v :: l, p || q, s))
      | r => r
    | some g => some (.error g)

/-- Write an element of the destination; KXPR writes parity units, which R292 leaves to it. -/
def collWrite (s : State) (cid : Nat) (x : Coll) (form : Nat) (va : Word) (w v : Nat) (poi : Bool) : CollEnd :=
  let wr : Writer := { part := x.f.part, act := x.f.act, colour := x.colour, serial := x.serial, sid := cid }
  let put (l : List XPart) (s : State) : CollEnd :=
    let (ok, s) := l.foldl (writePart wr false v poi) (true, goPast s (.xfer cid))
    if ok then .go s else .lost { cls := .protection, cause := 10, va := va, wr := true } s
  if form = 3 ∧ w = 256 then
    match agentTranslate s .coll x.f.part (supervisor s x.f.part) .read va w with
    | .error (.wait s) => .wait s
    | .error (.fault i s) => if i.cls = .translation then .park { i with wr := true } s else .lost { i with wr := true } s
    | .ok (e, big, s) =>
      match permission (supervisor s x.f.part) .write e with
      | some c => .lost { cls := .protection, cause := c, va := va, wr := true, info := e } s
      | none =>
        let (e, big) := movedLeaf s (.xfer cid) va (e &&& ~~~(0x80#64)) big
        let spot : Spot := { va := va, leaf := e &&& ~~~(0x80#64), big := big }
        if !mayPass s (.xfer cid) [spot] then .wait (arriveHeld s (.xfer cid) [spot])
        else put [{ va := va, ofs := 0, n := w, leaf := spot.leaf, big := big }] s
  else match checkParts .coll x.f.part .write (.xfer cid) 4 s va 0 w with
    | .ok (l, s) => put l s
    | .error (.wait s) => .wait s
    | .error (.park i s) => .park i s
    | .error (.stop i s) => .lost i s
    | .error (.done s) => .go s

/-- Destination steps of a collective: its elements, and for KXPR the sectors of every unit and then the count. -/
def collSteps (x : Coll) (r : XRec) (form : Nat) : Nat :=
  match form with | 0 | 2 => collCount r | 1 => x.group.length * collCount r | _ => 2048 * collCount r + 1

/-- Write destination element `e`; none while a value it needs has not come. -/
def writeElem (s : State) (cid : Nat) (x : Coll) (r : XRec) (form e : Nat) : Option CollEnd :=
  let w := r.c.ty.width
  let c := collCount r
  let ranks := List.range x.group.length
  let src (i : Nat) : Word := x.src + BitVec.ofNat 64 i
  let dst : Word := x.dst + BitVec.ofNat 64 (w * e)
  let reduce (i : Nat) : Option CollEnd :=
    match memberElems s x i (src (w * i)) w ranks with
    | none => none
    | some (.error g) => some g.toEnd
    | some (.ok (l, p, s)) => some (collWrite s cid x form dst w (collReduce r.c.ty (collOp r) l) p)
  match form with
  | 0 => reduce (x.rank * c + e)
  | 2 => reduce e
  | 1 =>
    match memberElem s x (e / c) (e % c) (src (w * (e % c))) w with
    | none => none
    | some (.ok v p s) => some (collWrite s cid x form dst w v p)
    | some g => some g.toEnd
  | _ =>
    if e = 2048 * c then some (collWrite s cid x form x.dst 64 c false)
    else if e / 2048 % 8 ≠ x.rank then some (.go s)
    else
      let va := src (2 ^ 19 * (e / 2048) + 256 * (e % 2048))
      match memberElems s x e va 256 (ranks.filter fun k => k != x.rank) with
      | none => none
      | some (.error g) => some g.toEnd
      | some (.ok (l, p, s)) => some (collWrite s cid x form va 256 (l.foldl Nat.xor 0) p)

/-- Every member agrees. -/
def allAgreed (x : Coll) : Bool := (List.range x.group.length).all fun k => k = x.rank || x.agreed.contains k
/-- Its destination is written. -/
def collWritten (x : Coll) : Bool := match collRec x.instr with | some (r, form) => decide (collSteps x r form ≤ x.next) | none => true

/-- How a fault ends a step: the collective parks at the element, or ends with LOST under a record. -/
def collStop (cid : Nat) (x : Coll) (unit : Nat) : CollEnd → State
  | .go s | .wait s => s
  | .park i s => (parkUnder s x.f.part 0 x.colour x.serial x.f.sleeve (collFault s x { i with unit := BitVec.ofNat 64 unit }) (.coll cid)).2
  | .lost i s => endColl (recordOnly s x.f.part x.colour x.serial x.f.act (collFault s x { i with unit := BitVec.ofNat 64 unit })) cid 1

/-- Let a collective send and write what it can. -/
def driveColl : Nat → State → Nat → State
  | 0, s, _ => s
  | n + 1, s, cid =>
    match lookup s.colls cid with
    | none => s
    | some x =>
      match collRec x.instr with
      | none => s
      | some (r, form) =>
        if !x.begun || x.status != 0 || !allAgreed x || (partOf s x.f.part).pstate == .frozen || s.parked.any (fun q => q.what == .coll cid) then s
        else if x.sent < collSources x r form then
          match sendElem s x r form x.sent with
          | .go t => driveColl n (updColl t cid fun x => { x with sent := x.sent + 1 }) cid
          | e => collStop cid x x.sent e
        else if x.next < collSteps x r form then
          match writeElem s cid x r form x.next with
          | none => s
          | some (.go t) => driveColl n (updColl t cid fun x => { x with next := x.next + 1 }) cid
          | some e => collStop cid x x.next e
        else s

/-- The steps that a collective may still make. -/
def collWork (s : State) (cid : Nat) : Nat :=
  match lookup s.colls cid with
  | some x => match collRec x.instr with | some (r, form) => collSources x r form + collSteps x r form + 1 | none => 0
  | none => 0

/-! ## Messages (R238) -/

/-- Take a message from a member into a collective that has begun. -/
def takeMessage (s : State) (cid : Nat) (x : Coll) (src : Nat) (m : CollMsg) : State :=
  match x.group.idxOf? src, collRec x.instr with
  | some rank, some (r, form) =>
    match m with
    | .agree _ _ f ty op count n _ _ =>
      if f = form ∧ ty = r.c.ty.code.toNat ∧ op = collOp r ∧ count = collCount r ∧ n = x.group.length then
        updColl s cid fun x => { x with agreed := insertNat x.agreed rank }
      else endColl s cid 2
    | .elem _ _ i v p => updColl s cid fun x => { x with got := x.got ++ [(rank, i, v.toNat, p)] }
    | .ended _ _ st => if st = 0 then s else endColl s cid st
    | .askHeld | .askUnit _ | .held _ | .unit _ _ _ => s
  | _, _ => s

/-- The group and number that a message names. -/
def msgKey : CollMsg → Option (List Nat × Nat)
  | .agree g n _ _ _ _ _ _ _ | .elem g n _ _ _ | .ended g n _ => some (g, n)
  | .askHeld | .askUnit _ | .held _ | .unit _ _ _ => none
/-- The next number of a group's collectives on this device. -/
def collNext (s : State) (g : List Nat) : Nat := ((s.collSeq.find? fun y => y.1 == g).map (·.2)).getD 0

/-- A message concerns a collective: it names its group and number there, or it states another member count for the same place under the
same group slot (R238, log 54). -/
def concerns (x : Coll) (src : Nat) (m : CollMsg) : Bool :=
  msgKey m == some (x.group, x.num)
    || match m with
      | .agree _ _ _ _ _ _ n slot place => n != x.group.length && slot == x.slot && place == x.place && x.group.contains src
      | _ => false

/-- A collective message arrives: it is taken, kept for a collective that has not begun here, or dropped when that is over. -/
def receiveColl (s : State) (src : Nat) (m : CollMsg) : State :=
  match msgKey m with
  | none => s
  | some (g, n) =>
    match s.colls.find? fun y => concerns y.2 src m with
    | some (cid, x) =>
      if x.status ≠ 0 then s
      else if x.begun then
        let s := takeMessage s cid x src m
        driveColl (collWork s cid) s cid
      else { s with collBox := s.collBox ++ [(src, m)] }
    | none => if n < collNext s g then s else { s with collBox := s.collBox ++ [(src, m)] }

/-- COLLECTIVE_START: the first collective that waits at an island begins: it tells the members what it runs, and takes what has
come for it. -/
def execCollectiveStart (cisl : Nat) (s : State) : Host.Outcome State Fault Refusal :=
  .next (match s.colls.find? fun y => y.2.isl == cisl && !y.2.begun && y.2.status == 0 with
    | none => s
    | some (cid, x) =>
      match collRec x.instr with
      | none => s
      | some (r, form) =>
        if (partOf s x.f.part).pstate != .running || !issueEdge s x.edges then s
        else
          let s := updColl s cid fun x => { x with begun := true }
          if form = 3 ∧ (x.group != (List.range 8).map (memberDev s) ∨ 2 ≤ s.regs.gstate) then endColl s cid 2
          else if x.group.any (lostMember s) then
            endColl (if form = 3 then recordOnly s x.f.part x.colour x.serial x.f.act (collFault s x { cls := .parityPeerLost }) else s) cid 1
          else
            let s := collSendAll s x (.agree x.group x.num form r.c.ty.code.toNat (collOp r) (collCount r) x.group.length x.slot x.place)
            let mine := s.collBox.filter fun y => concerns x y.1 y.2
            let s := { s with collBox := s.collBox.filter fun y => !concerns x y.1 y.2 }
            let s := mine.foldl (fun s y => match lookup s.colls cid with | some x => takeMessage s cid x y.1 y.2 | none => s) s
            driveColl (collWork s cid) s cid)

/-! ## Completion and KWAIT (R239, R390) -/

/-- KWAITs of a colour whose count is reached send their tokens and take its flags. -/
def serveKwaits (s : State) (k : Nat) : State :=
  s.ops.foldl (fun s o =>
    match o.2.w with
    | .kwait n =>
      let c := colourOf s k
      if (actOf s o.2.f.act).colour = k ∧ (actOf s o.2.f.act).serial = c.serial ∧ c.colls.length ≤ n then
        finishOp (updColour s k fun c => { c with lost := false, mismatch := false }) o.1
          (scalarOf (BitVec.ofNat 64 (c.colls.length + (if c.lost then 256 else 0) + (if c.mismatch then 512 else 0))))
      else s
    | _ => s) s

/-- COLLECTIVE_COMPLETE: a collective whose destination writes here are performed, or that has ended, leaves its colour's count. -/
def execCollectiveComplete (cid : Nat) (s : State) : Host.Outcome State Fault Refusal :=
  .next (
    let s := driveColl (collWork s cid) s cid
    match lookup s.colls cid with
    | none => s
    | some x =>
      if x.status = 0 ∧ (!collWritten x ∨ awaitsRemote s cid) then s
      else
        let s := if x.tell then collSendAll s x (.ended x.group x.num x.status) else s
        let s := { s with colls := eraseAt s.colls cid, remotes := s.remotes.filter fun r => r.2.what != .xfer cid }
        let s := updColour s x.colour fun c =>
          if c.serial = x.serial then { c with colls := c.colls.erase cid, lost := c.lost || x.status == 1, mismatch := c.mismatch || x.status == 2 } else c
        serveKwaits s x.colour)

def execKwait (r : XRec) (s : State) : Host.Outcome State Fault Refusal :=
  .next (fireX s r fun f s => serveKwaits (waitOp s f (.kwait (r.lit.toNat % 16))).2 (actOf s f.act).colour)

/-! ## Issue (R234, R388, R389) -/

/-- Read the member list: `n` N32 entries; none when it cannot be read. -/
def readMembers (p : Nat) : Nat → State → Word → Option (List Nat × Option State)
  | 0, _, _ => some ([], none)
  | n + 1, s, va =>
    match readMem .coll p 4 s va 32 with
    | .ok v false s => (readMembers p n s (va + 32)).map fun (l, t) => (v :: l, t)
    | .wait s => some ([], some s)
    | .ok _ true _ | .park _ _ | .stop _ _ => none

/-- The group of a slot: its members, or nothing when R234 rejects it; `wait` when the list must first be fetched. An entry with bits
[31:22] that are not zero rejects it too, which R234 leaves open (log 53). -/
inductive GroupGot where
  | ok (members : List Nat)
  | wait (s : State)
  | bad
  deriving DecidableEq, Repr
def groupOf (s : State) (p slot : Nat) : GroupGot :=
  let h := handleOf s p slot
  if !h.valid || h.kind != 3 || h.len % 32 != 0 || decide (h.len / 32 < 2) || decide (256 < h.len / 32) then .bad
  else match readMembers p (h.len / 32) s h.base with
    | none => .bad
    | some (_, some t) => .wait t
    | some (l, none) =>
      if (l.any fun v => decide (2 ^ 22 ≤ v)) || (l.filter fun v => v == s.regs.devn.toNat).length != 1 then .bad else .ok l

/-- The handle check of a collective's operand: KIND 00, with its permissions and extent (R229, R235). -/
def collHandleBad (s : State) (p : Nat) (handle : Bool) (v : Word) (rd wr : Bool) (extent : Nat) : Option FaultInfo :=
  let h := handleOf s p (hvSlot v)
  if !handle then none
  else if !h.valid || h.gen != hvGen v then some { cls := .staleHandle, info := v }
  else if h.kind != 0 || (rd && !h.r) || (wr && !h.w) || decide (h.len < hvOfs v + extent) then some { cls := .protection, cause := 8, wr := wr }
  else none
/-- The virtual address of an operand. -/
def collAddr (s : State) (p : Nat) (handle : Bool) (v : Word) : Word :=
  if handle then (handleOf s p (hvSlot v)).base + BitVec.ofNat 64 (hvOfs v) else v

/-- A collective form at issue: leave, group, handles; then it waits at a collective island of its die (R389). A KXPR that issues while the group is
held or rebuilt has ended with MISMATCH for every member. -/
def collectiveForm (s : State) (r : XRec) (i : Instr) (form : Nat) : State :=
  fireX s r fun f s =>
    let a := actOf s f.act
    let (j, s) := choose s 2
    let x : Coll := { f := f, instr := i, colour := a.colour, serial := a.serial, edges := edgesOf s f.act, isl := 2 * (f.en / 1024) + j }
    let reject (i : FaultInfo) : State := sendBoth (recordOnly s f.part x.colour x.serial f.act (collFault s x i)) f (scalarOf 0)
    if (colourOf s a.colour).holding < 8 then raise s f.act f.node { cls := .heavyWithoutLeave }
    else match groupOf s f.part r.hslot.toNat with
      | .wait t => stall t f
      | .bad => reject { cls := .staleHandle, info := BitVec.ofNat 64 ((handleOf s f.part r.hslot.toNat).gen * 2 ^ 40 + r.hslot.toNat * 2 ^ 31) }
      | .ok g =>
        let e := collExtents r form g.length
        match (collHandleBad s f.part r.ha (opWord f.a) true (form == 3) e.1).or (collHandleBad s f.part r.hb (opWord f.b) false true e.2) with
        | some i => reject i
        | none =>
          if collCount r = 0 then sendBoth s f (scalarOf 1)
          else
            let (cid, s) := fresh s
            let n := collNext s g
            let slot := 512 * f.part + r.hslot.toNat
            let k := lookupD s.slotSeq slot 0
            let s := { s with slotSeq := insertAt s.slotSeq slot (k + 1) }
            let x := { x with group := g, num := n, slot := slot, place := k, rank := (g.idxOf? s.regs.devn.toNat).getD 0, src := collAddr s f.part r.ha (opWord f.a),
                              dst := collAddr s f.part r.hb (opWord f.b) }
            let x := if form = 3 ∧ 2 ≤ s.regs.gstate then { x with status := 2, tell := true } else x
            let s := { s with colls := insertAt s.colls cid x, collSeq := (g, n + 1) :: s.collSeq.filter fun y => y.1 != g }
            sendBoth (updColour s a.colour fun c => { c with colls := c.colls ++ [cid] }) f (scalarOf 1)

def execKrsc (r : XRec) (s : State) : Host.Outcome State Fault Refusal := .next (collectiveForm s r (.krsc r) 0)
def execKagt (r : XRec) (s : State) : Host.Outcome State Fault Refusal := .next (collectiveForm s r (.kagt r) 1)
def execKard (r : XRec) (s : State) : Host.Outcome State Fault Refusal := .next (collectiveForm s r (.kard r) 2)
def execKxpr (r : XRec) (s : State) : Host.Outcome State Fault Refusal := .next (collectiveForm s r (.kxpr r) 3)

end Sys2Proof.Machine
end

