-- ==== Sys2Proof/Machine/Fence.lean ====
section
/-! DEFINITION. FENCE (R191, R192): what it waits for, its completion, and its park when a parity holder is lost. -/

namespace Sys2Proof.Machine

open Sys2Proof

/-- A record of an activation lies in an earlier activation of a fence's thread. -/
def earlierAct (s : State) (a lsid fence own : Nat) : Bool := a != fence && precedes s a lsid fence own

/-- A load of an earlier activation whose value is not fixed. -/
def openLoad (s : State) (o : Op) (fence own : Nat) : Bool :=
  openAccess o && earlierAct s o.f.act (nodeLsid s o.f.act o.f.node) fence own

/-- A delta that a survivable fence awaits: of a store of its colour that had committed at its issue, or of an earlier activation
of its thread. -/
def awaitsDelta (s : State) (f : Firing) (await : List Nat) (d : Delta) : Bool :=
  let own := nodeLsid s f.act f.node
  (d.sid != 0 && await.contains d.sid)
    || earlierAct s d.act d.lsid f.act own

/-- A protected store: one made through a mapping with the protected attribute (R192). -/
def protStore (y : Store) : Bool := y.elems.any fun e => leafProt e.leaf

/-- What a fence waits for has come: every earlier activation of its thread has committed, and their accesses that its kind orders
are performed; with .SRV the deltas it awaits are acknowledged. -/
def fenceReady (s : State) (f : Firing) (srv loads stores : Bool) (await : List Nat) : Bool :=
  let x := actOf s f.act
  let own := nodeLsid s f.act f.node
  predCommitted s x
    && !(loads && s.ops.any fun o => openLoad s o.2 f.act own)
    && !(stores && s.stores.any fun y => earlierAct s y.2.act y.2.lsid f.act own)
    && !(srv && (s.stores.any (fun y => await.contains y.1 || protStore y.2 && earlierAct s y.2.act y.2.lsid f.act own)
      || s.deltas.any (awaitsDelta s f await)))

/-- The stores of a colour that a survivable fence awaits at its issue: those of activations that have committed (R192). -/
def awaitedStores (s : State) (f : Firing) : List Nat :=
  let x := actOf s f.act
  (s.stores.filter fun y => y.2.colour == x.colour && y.2.serial == x.serial && y.2.committed && y.2.kind != .scratch).map (·.1)
    ++ (s.deltas.filter fun d => d.colour == x.colour && d.serial == x.serial && d.part == f.part && d.sid != 0
          && (actOf s d.act).st == .committed).map (·.sid)

/-- FENCE waits, and completes at once when nothing is left to wait for. -/
def execFence (r : MRec) (s : State) : Host.Outcome State Fault Refusal :=
  .next (fireMem s r fun f s =>
    let srv := r.c.fn.getLsbD 3 && s.regs.gen
    let await := if srv then awaitedStores s f else []
    (waitOp (resolveLsid s f.act r) f (.fence srv true (r.ordr != .acquire) await false)).2)

/-- Fences that await a delta which its lost holder will never acknowledge park, once (R192). -/
def parkFences (s : State) : State :=
  s.ops.foldl (fun s o =>
    match o.2.w with
    | .fence true _ _ await false =>
      let f := o.2.f
      let waiting := !s.parked.any fun q => q.what == .fence o.1
      let kept := !(actOf s f.act).deferred.any fun d => d.park == some (.fence o.1)
      if waiting && kept && s.deltas.any fun d => d.lost && awaitsDelta s f await d then
        park s f.act f.node { cls := .parityPeerLost } (.fence o.1)
      else s
    | _ => s) s

/-- FENCE_COMPLETE. -/
def execFenceComplete (op : Nat) (s : State) : Host.Outcome State Fault Refusal :=
  .next (match lookup s.ops op with
    | some o => match o.w with
      | .fence srv loads stores await _ =>
        if s.parked.any fun q => q.what == .fence op then s
        else if fenceReady s o.f srv loads stores await then finishOp s op (scalarOf 0)
        else parkFences s
      | _ => s
    | none => s)

end Sys2Proof.Machine
end

