-- ==== Sys2Proof/Machine/Gusset.lean ====
section
/-! DEFINITION. Gusset groups (R290 to R303): the group registers, deltas that arrive and their acknowledgements, lost members, and
the commands HOLD, RELEASE and REBUILD; collective and rebuild traffic (R238, R298). -/

namespace Sys2Proof.Machine

open Sys2Proof

/-! ## Members -/

/-- The rank of a device whose entry is valid and not lost. -/
def rankOf (s : State) (dev : Nat) : Option Nat :=
  (List.range 8).find? fun k => memberValid s k && !memberLost s k && memberDev s k == dev
/-- The other ranks. -/
def otherRanks (s : State) : List Nat := (List.range 8).filter fun k => k != s.regs.rank
/-- Every delta to a live holder has been acknowledged. -/
def allAcked (s : State) : Bool := s.deltas.all (·.lost)
/-- DRAINED is set once a held group has drained (Table 10.1). -/
def checkDrained (s : State) : State :=
  if s.regs.gstate = 2 ∧ allAcked s ∧ !s.regs.drained then updRegs s fun r => { r with drained := true } else s
/-- Cycles of a time in microseconds. -/
def cyclesOf (s : State) (us : Nat) : Nat := us * s.mc.clock
/-- A message was discarded (HLDR). -/
def discardMsg (s : State) : State := updRegs s fun r => { r with hldr := r.hldr + 1 }

/-- A member becomes lost for this device (R296): its deltas are discarded, fences that await one park, collectives end, a rebuild
stops. -/
def loseRank (s : State) (k : Nat) : State :=
  let dev := memberDev s k
  let s := updRegs s fun r => { r with gmem := insertAt r.gmem k (lookupD r.gmem k 0 ||| 0x4000000000000000#64),
                                       rberr := r.rberr || r.gstate == 3 }
  let s := { s with deltas := s.deltas.map (fun d => if d.rank = k then { d with lost := true } else d)
                    early := s.early.filter (fun d => d.rank != k), rbTo := eraseAt s.rbTo k }
  wake (parkFences (loseMember (dropDeltas s [dev]) dev))

/-! ## Registers (R293, R299, Table 10.9) -/

/-- A parked survivable fence. -/
def parkedFence (q : Parked) : Bool := match q.what with | .fence _ => true | _ => false
/-- A fence without its survivable part. -/
def plainFence (o : Op) : Op :=
  match o.w with
  | .fence true l st _ again => { o with w := .fence false l st [] again }
  | _ => o
/-- Survivable fences complete as fences without .SRV do, once the group is off (R299). -/
def freeFences (s : State) : State :=
  let gone := s.parked.filter parkedFence
  let t : State := { s with
    ops := s.ops.map fun o => (o.1, plainFence o.2)
    parked := s.parked.filter fun q => !parkedFence q
    acts := s.acts.map fun x => (x.1, { x.2 with deferred := x.2.deferred.filter fun d => match d.park with | some (.fence _) => false | _ => true })
    records := s.records.filter fun r => !(r.info.cls == .parityPeerLost && gone.any fun q => q.part == r.part && q.fseq == r.fseq) }
  gone.foldl (fun s q => unpark s q.act) t

/-- A write of GCFG. -/
def writeGcfg (s : State) (v : Word) : State :=
  let rank := bits v.toNat 0 3
  if s.regs.gstate = 3 ∨ (v.getLsbD 63 ∧ !usable s 1) then s
  else if v.getLsbD 63 ∧ !s.regs.gen then
    if (List.range 8).all (memberValid s) && memberDev s rank == s.regs.devn.toNat then
      updRegs { s with deltas := [], early := [], dseqTo := [], dseqFrom := [], rbTo := [] } fun r =>
        { r with gen := true, rank := rank, gstate := 1, drained := false, rberr := false }
    else s
  else if !v.getLsbD 63 ∧ s.regs.gen then
    wake (freeFences (updRegs { dropDeltas s ((List.range 8).map (memberDev s)) with deltas := [], early := [] } fun r => { r with gen := false, rank := rank, gstate := 0 }))
  else updRegs s fun r => { r with rank := rank }

/-- A store whose delta was discarded has parity on a live holder (R297): REBUILD has written its unit on the device that took the rank,
and that device's entry is valid and not lost. -/
def parityBack (s : State) (d : Delta) : Bool :=
  memberValid s d.rank && !memberLost s d.rank && decide (2048 * (d.sector / 2048 + 1) ≤ lookupD s.rbTo d.rank 0)
/-- Discarded deltas whose stores have parity again are awaited no more. -/
def settleLost (s : State) : State := { s with deltas := s.deltas.filter fun d => !(d.lost && parityBack s d) }

/-- A write of a member entry: with V set and LOST clear the numbering and the count towards and from the rank restart (R293). -/
def writeGmem (s : State) (k : Nat) (v : Word) : State :=
  if s.regs.gstate = 3 then s
  else
    let was := memberLost s k
    let s := if v.getLsbD 63 ∧ !v.getLsbD 62 then dropDeltas s [memberDev s k] else s
    let s := updRegs s fun r => { r with gmem := insertAt r.gmem k (v &&& 0xC0000000003FFFFF#64) }
    if v.getLsbD 63 ∧ !v.getLsbD 62 then
      wake (settleLost { s with
        dseqTo := insertAt s.dseqTo k 0, dseqFrom := insertAt s.dseqFrom k 0
        deltas := s.deltas.map fun d => if d.rank = k then { d with lost := true } else d
        early := s.early.filter fun d => d.rank != k })
    else if v.getLsbD 62 ∧ !was then loseRank s k else s

def execGcfgWrite (v : Word) (s : State) : Host.Outcome State Fault Refusal := .next (writeGcfg s v)
def execGmemWrite (k : Nat) (v : Word) (s : State) : Host.Outcome State Fault Refusal := .next (if k < 8 then writeGmem s k v else s)

/-- MEMBER_LOST_TIMEOUT: the holder of a rank has left a delta unacknowledged for GLTO (R296). -/
def execMemberLostTimeout (rank : Nat) (s : State) : Host.Outcome State Fault Refusal :=
  .next (if s.regs.glto != 0 && !memberLost s rank
      && (deltasTo s rank).any fun d => decide (d.sent + cyclesOf s s.regs.glto ≤ s.cycle) then loseRank s rank else s)

/-! ## Deltas that arrive (R294, R295) -/

/-- The full sequence number nearest the one expected. -/
def extendDseq (expected : BitVec 32) (low : BitVec 26) : BitVec 32 :=
  let d := (low.toNat + 2 ^ 26 - expected.toNat % 2 ^ 26) % 2 ^ 26
  if d < 2 ^ 25 then expected + BitVec.ofNat 32 d else expected + BitVec.ofNat 32 d - BitVec.ofNat 32 (2 ^ 26)

/-- Bit address, in the linear aperture, of a sector of the protected region. -/
def sectorAddr (s : State) (sector : Nat) : Nat := regionBase s + 256 * sector

/-- Apply a delta to its parity sector. -/
def applyDelta (s : State) (sector : Nat) (delta : Sector) (poison : Bool) : State :=
  let loc : Loc := .dev 0 (sectorAddr s sector)
  let was := poisonLoc s loc
  let s := touch s loc true
  let count (s : State) : State := updRegs s fun r => { r with gpps := r.gpps + 1 }
  if was then s
  else if poisonLoc s loc then count s
  else if poison then count (setPoisonLoc s loc true)
  else bankWrite s {} 0 loc 256 (Nat.xor (readLoc s loc 256) delta.toNat)

/-- Apply the deltas of a rank that come next in DSEQ order, and acknowledge them. -/
def applyNext : Nat → State → Nat → State
  | 0, s, _ => s
  | n + 1, s, k =>
    let e := lookupD s.dseqFrom k 0
    match s.early.find? fun d => d.rank == k && d.dseq == e with
    | none => s
    | some d =>
      let s := { s with early := s.early.filter (fun x => !(x.rank == k && x.dseq == e)), dseqFrom := insertAt s.dseqFrom k (e + 1) }
      let s := applyDelta s d.sector d.delta d.poison
      applyNext n (sendSlot s (memberDev s k) 0 (dackSlot e)).2 k

/-- A delta arrives: it waits behind a gap; one that was applied before is acknowledged again. -/
def takeDelta (s : State) (src : Nat) (m : DeltaMsg) (poison : Bool) : State :=
  match rankOf s src with
  | none => discardMsg s
  | some k =>
    let p := m.sector.toNat / 2048
    if !takesPart s || s.regs.gpn ≤ p || p % 8 != s.regs.rank || k == s.regs.rank then discardMsg s
    else
      let e := lookupD s.dseqFrom k 0
      let n := extendDseq e m.dseq
      if (n - e).toNat < 2 ^ 31 then
        let d : Delta := { rank := k, sector := m.sector.toNat, dseq := n, poison := poison, delta := m.delta }
        let s := { s with early := s.early.filter (fun x => !(x.rank == k && x.dseq == n)) ++ [d] }
        applyNext s.early.length s k
      else (sendSlot s src 0 (dackSlot (e - 1))).2

def execDelta (src : Nat) (m : DeltaMsg) (s : State) : Host.Outcome State Fault Refusal := .next (takeDelta s src m false)
def execPdelta (src : Nat) (m : DeltaMsg) (s : State) : Host.Outcome State Fault Refusal := .next (takeDelta s src m true)

/-- DACK: a cumulative acknowledgement frees places. -/
def takeDack (s : State) (src : Nat) (dseq : BitVec 32) : State :=
  match rankOf s src with
  | none => s
  | some k => wake { s with deltas := s.deltas.filter fun d => d.lost || d.rank != k || decide (2 ^ 31 ≤ (dseq - d.dseq).toNat) }
def execDack (src : Nat) (dseq : BitVec 32) (s : State) : Host.Outcome State Fault Refusal := .next (takeDack s src dseq)

/-! ## Commands (Table 10.1) -/

def execHold (s : State) : Host.Outcome State Fault Refusal :=
  .next (if s.regs.gstate = 1 then updRegs s fun r => { r with gstate := 2, drained := false } else s)
def execRelease (s : State) : Host.Outcome State Fault Refusal :=
  .next (if s.regs.gstate = 2 then wake (updRegs s fun r => { r with gstate := 1, drained := false }) else s)

/-- A rebuild stops. -/
def stopRebuild (s : State) : State := updRegs s fun r => { r with rberr := true }
/-- A member of the group is unreachable over Helup. -/
def cutOff (s : State) : Bool := (otherRanks s).any fun k => (routePort s (memberDev s k) 0).isNone
/-- Ask the seven other members for something; a member that no route reaches stops the rebuild. -/
def askMembers (s : State) (m : CollMsg) : State :=
  if cutOff s then stopRebuild s
  else (otherRanks s).foldl (fun s k => emitColl s none (memberDev s k) m) s

/-- REBUILD begins with the check that every other member is valid, not lost, held and drained. -/
def execRebuild (s : State) : Host.Outcome State Fault Refusal :=
  .next (if s.regs.gstate = 2 then
      let s := updRegs { s with rebuilt := 0, rbHeld := [], rbGot := [] } fun r => { r with gstate := 3, rberr := false }
      if (otherRanks s).all fun k => memberValid s k && !memberLost s k then askMembers s .askHeld else stopRebuild s
    else s)

/-- Sectors of the region. -/
def regionSectors (s : State) : Nat := 2048 * s.regs.gpn

/-- A rebuild has written every unit. -/
def rebuildWhole (s : State) : Bool := s.rbHeld.length == 7 && decide (regionSectors s ≤ s.rebuilt)
/-- REBUILD_DONE: a rebuild has written every unit, or has stopped; one that has not is stopped when a member that it has asked can no longer be
reached (R298). -/
def execRebuildDone (s : State) : Host.Outcome State Fault Refusal :=
  .next (if s.regs.gstate = 3 && (s.regs.rberr || rebuildWhole s || cutOff s) then
      let s := if rebuildWhole s then s else stopRebuild s
      wake (updRegs { s with rbHeld := [], rbGot := [] } fun r => { r with gstate := 2 })
    else s)

/-- Write the next sector of a rebuild from the seven members' sectors, and ask for the one after it. -/
def rebuildSector (s : State) : State :=
  let mine := s.rbGot.filter fun x => x.2.1 == s.rebuilt
  if (otherRanks s).all fun k => mine.any fun x => x.1 == k then
    let loc : Loc := .dev 0 (sectorAddr s s.rebuilt)
    let v := mine.foldl (fun v x => Nat.xor v x.2.2.1.toNat) 0
    let s := bankWrite s {} 0 loc 256 v
    let s := if mine.any fun x => x.2.2.2 then setPoisonLoc s loc true else s
    let s := { s with rebuilt := s.rebuilt + 1, rbGot := [] }
    if s.rebuilt < regionSectors s then askMembers s (.askUnit s.rebuilt) else s
  else s

/-- The rank for which a device of a group rebuilds: its own, or a lost one: survivors admit the spare only after its rebuild (R300). -/
def askerRank (s : State) (src : Nat) : Option Nat :=
  let lost := (List.range 8).filter fun k => memberValid s k && memberLost s k
  (rankOf s src).or ((lost.find? fun k => memberDev s k == src).or lost.head?)

/-- A rebuild asks for sector `n` once it has written those before it; with the last one answered it has all it needs (R297). -/
def answerUnit (s : State) (src k n : Nat) : State :=
  let loc : Loc := .dev 0 (sectorAddr s n)
  let s := touch s loc true
  let done := if n + 1 = regionSectors s then n + 1 else n
  let s := settleLost { s with rbTo := insertAt s.rbTo k (max done (lookupD s.rbTo k 0)) }
  emitColl s none src (.unit n (BitVec.ofNat 256 (readLoc s loc 256)) (poisonLoc s loc))

/-- Rebuild traffic: requests of the device that rebuilds, and the answers of the members to this one. -/
def rebuildMessage (s : State) (src : Nat) (m : CollMsg) : State :=
  match m with
  | .askHeld => if takesPart s && (askerRank s src).isSome then emitColl s none src (.held (s.regs.gstate == 2 && s.regs.drained)) else discardMsg s
  | .askUnit n =>
    match askerRank s src with
    | some k => if !takesPart s ∨ regionSectors s ≤ n then discardMsg s else answerUnit s src k n
    | none => discardMsg s
  | .held _ | .unit _ _ _ | .agree _ _ _ _ _ _ _ _ _ | .elem _ _ _ _ _ | .ended _ _ _ =>
  match rankOf s src with
  | none => discardMsg s
  | some k =>
    match m with
    | .held ok =>
      if s.regs.gstate ≠ 3 ∨ s.regs.rberr then s
      else if !ok then stopRebuild s
      else
        let s := { s with rbHeld := insertNat s.rbHeld k }
        if s.rbHeld.length = 7 ∧ 0 < regionSectors s then askMembers s (.askUnit 0) else s
    | .unit n v poi =>
      if s.regs.gstate ≠ 3 ∨ s.regs.rberr ∨ n ≠ s.rebuilt ∨ s.rbGot.any (fun x => x.1 == k && x.2.1 == n) then s
      else rebuildSector { s with rbGot := s.rbGot ++ [(k, n, v, poi)] }
    | .askHeld | .askUnit _ | .agree _ _ _ _ _ _ _ _ _ | .elem _ _ _ _ _ | .ended _ _ _ => s

/-- COLL: collective and rebuild traffic (R238, R298). -/
def execColl (src : Nat) (m : CollMsg) (s : State) : Host.Outcome State Fault Refusal :=
  .next (match m with
    | .agree _ _ _ _ _ _ _ _ _ | .elem _ _ _ _ _ | .ended _ _ _ => receiveColl s src m
    | .askHeld | .askUnit _ | .held _ | .unit _ _ _ => rebuildMessage s src m)

end Sys2Proof.Machine
end

