-- ==== Sys2Proof/Machine/Control.lean ====
section
/-! DEFINITION. Control forms: EXIT and EXITX (R373, R375), WAVE, LENT, LEAV, LBND and LCNT (R392 to R394, R399, R447), the
colour forms CTXA, CTXF, CTXJ and CTXS (R361 to R364), CALL, RET and SPAWN (R353, R419, R422). -/

namespace Sys2Proof.Machine

open Sys2Proof

/-! ## Exits -/

/-- A firing of an exit form: a null operand produces no exit (R32, R373). -/
def fireExit (s : State) (r : CRec) (body : Firing → State → State) : State :=
  let s := begin s r.c r.bofs
  let f := s.cur
  if anyPoisoned f then killFiring s f else if anyNull f then s else body f s

def execExitB (r : CRec) (s : State) : Host.Outcome State Fault Refusal :=
  .next (fireExit s r fun f s => takeExit s f r.exn.toNat (.block (farBlock f.blk r.bofs)))
def execExitEoi (r : CRec) (s : State) : Host.Outcome State Fault Refusal :=
  .next (fireExit s r fun f s => takeExit s f r.exn.toNat .endIteration)
def execExitLeave (r : CRec) (s : State) : Host.Outcome State Fault Refusal :=
  .next (fireExit s r fun f s => takeExit s f r.exn.toNat .leave)
def execExitEoc (r : CRec) (s : State) : Host.Outcome State Fault Refusal :=
  .next (fireExit s r fun f s => takeExit s f r.exn.toNat .endColour)
/-- EXITX: an address that is not a multiple of 16,384 is BLOCK_SHAPE (R375). -/
def execExitx (r : CRec) (s : State) : Host.Outcome State Fault Refusal :=
  .next (fireExit s r fun f s =>
    if (opWord f.a).toNat % 16384 ≠ 0 then raise s f.act f.node { cls := .blockShape }
    else takeExit s f r.exn.toNat (.block (opWord f.a)))

/-! ## Loops -/

/-- WAVE, LENT and LEAV send A with its markers under TG (R399, R447). -/
def execWave (r : GRec) (s : State) : Host.Outcome State Fault Refusal := .next (fireG s r opA)
def execLent (r : GRec) (s : State) : Host.Outcome State Fault Refusal := .next (fireG s r opA)
def execLeav (r : GRec) (s : State) : Host.Outcome State Fault Refusal := .next (fireG s r opA)

/-- The bound of LBND: B, or LIT zero-extended (R392). -/
def boundOf (r : GRec) (f : Firing) : Nat := if r.c.ar = .a then r.lit.toNat else (opWord f.b).toNat
def execLbnd (r : GRec) (s : State) : Host.Outcome State Fault Refusal :=
  .next (fire s r.c r.lit fun f s =>
    let v := opWord f.a + 1
    sendTarget s f (if v.toNat < boundOf r f then f.com.t0 else f.com.t1) (scalarOf v))

/-- The head block that an LCNT pushes towards (R393). -/
def lcntHead (f : Firing) : Word := match f.com.t0 with | .far _ _ _ => lcntBlock f 16 | _ => f.blk
/-- LCNT: its generator, or the leaving token at once for a trip count of 0; of a null operand one null token to T1 (R394). -/
def execLcnt (r : GRec) (s : State) : Host.Outcome State Fault Refusal :=
  .next (
    let s := begin s r.c r.lit
    let f := s.cur
    if anyPoisoned f then killFiring s f
    else if anyNull f then sendLeaving s f nullTok
    else if tagFaults f then raise s f.act f.node { cls := .tagDepth }
    else
      let n := low32 (opA f)
      let s := enterLoop s f (lcntHead f) (some n)
      if n = 0 ∧ actLive (actOf s f.act) then sendLeaving s f (scalarOf 0) else s)

/-! ## Colours -/

/-- The frame of a new colour: F0 upward from the ports present; a vector gives lanes 0 and 1 (R353, R422). -/
def argFrame (l : List (Option TokVal)) : Map Word := l.zipIdx.filterMap fun x => x.1.map fun v => (x.2, v.word)

/-- Create a colour from a form, place it and start its thread; when it cannot be placed the form waits and its activation parks
(R40, R77, R353). -/
def createChild (s : State) (f : Firing) (blk : Word) (c : Colour) (waits : ColourState) : State :=
  match takeNumber s f.part with
  | (none, s) => s
  | (some n, s) =>
    let a := actOf s f.act
    let key := drawKeyOf (colourOf s a.colour).key f.tag f.node (BitVec.ofNat 32 (threadOf s f.part f.tag).committed)
    let s := createColour s f.part n { c with grant := f.grant, key := key, creator := f.act, edges := edgesOf s f.act, sblk := blk, args := c.f }
    match placeColour s (colourKey f.part n) waits with
    | some s => sendBoth (startThread s f.part (rootTag n) blk f.act 0 0) f (scalarOf (BitVec.ofNat 64 n))
    | none =>
      let s := (waitOp s f (.place (colourKey f.part n))).2
      park s f.act f.node { cls := .tagExhaust, info := 1 } (.colour (colourKey f.part n))

def execCtxa (r : CRec) (s : State) : Host.Outcome State Fault Refusal :=
  .next (fire s r.c r.bofs fun f s =>
    createChild s f (farBlock f.blk r.bofs) { f := argFrame [f.a, f.b, f.c], sleeve := f.sleeve } .spilled)
/-- CALL: the return tag is the caller's; the continuation block is known when the caller commits (R59, R353). -/
def execCall (r : CRec) (s : State) : Host.Outcome State Fault Refusal :=
  .next (fire s r.c r.bofs fun f s =>
    let a := actOf s f.act
    createChild s f (farBlock f.blk r.bofs)
      { f := argFrame [f.a, f.b, f.c], sleeve := f.sleeve, called := true, rtag := f.tag, caller := f.act, callerKey := a.colour,
        callerSerial := a.serial } .spilled)
def execSpawn (r : CRec) (s : State) : Host.Outcome State Fault Refusal :=
  .next (fire s r.c r.bofs fun f s =>
    match spawnSleeve s f.sleeve (opWord f.a) with
    | none => raise s f.act f.node { cls := .blockShape }
    | some v => createChild s f (farBlock f.blk r.bofs)
        { f := argFrame [f.b, f.c], sleeve := v, retry := (opWord f.a).getLsbD 63 } .queued)

/-- The key of the colour that a form names in an operand's low 16 bits. -/
def namedColour (f : Firing) (x : Word) : Nat := colourKey f.part (x.toNat % 65536)

def execCtxf (r : GRec) (s : State) : Host.Outcome State Fault Refusal :=
  .next (fire s r.c r.lit fun f s =>
    let k := if r.c.ar = .start then (actOf s f.act).colour else namedColour f (opWord f.a)
    if live s k then sendBoth (updAct s f.act fun x => { x with ends := x.ends ++ [(k, (colourOf s k).serial)] }) f (scalarOf 1)
    else sendBoth s f (scalarOf 0))

def execCtxj (r : GRec) (s : State) : Host.Outcome State Fault Refusal :=
  .next (fire s r.c r.lit fun f s =>
    let k := namedColour f (opWord f.a)
    if k = (actOf s f.act).colour then raise s f.act f.node { cls := .blockShape }
    else if live s k then (waitOp s f (.ctxj k (colourOf s k).serial)).2
    else sendBoth s f (scalarOf (BitVec.ofNat 64 ((opWord f.a).toNat % 65536))))

def execCtxs (r : GRec) (s : State) : Host.Outcome State Fault Refusal :=
  .next (fire s r.c r.lit fun f s =>
    let k := namedColour f (opWord f.a)
    let g := (opWord f.b).toNat % 64
    if live s k ∧ 1 ≤ g ∧ g ≤ 32 then
      sendBoth (updAct s f.act fun x => { x with grants := x.grants ++ [(k, (colourOf s k).serial, g)] }) f (scalarOf 1)
    else sendBoth s f (scalarOf 0))

/-- The tokens that a RET holds for the continuation: A for both targets with AR 01, A and B with AR 10 and 11 (R419). -/
def retTokens (r : CRec) (f : Firing) : List (Nat × Port × TokVal) :=
  let one (t : Target) (v : Option TokVal) : List (Nat × Port × TokVal) :=
    match t, v with
    | .far k p _, some v => [(k.toNat, p, v.unmarked)]
    | _, _ => []
  match r.c.ar with
  | .start => []
  | .a => one f.com.t0 f.a ++ one f.com.t1 f.a
  | .ab | .abc => one f.com.t0 f.a ++ one f.com.t1 f.b

/-- RET: a null A, B or C still produces the exit; with a null predicate it produces nothing (R32, R419). -/
def execRet (r : CRec) (s : State) : Host.Outcome State Fault Refusal :=
  .next (
    let s := begin s r.c r.bofs
    let f := s.cur
    if anyPoisoned f then killFiring s f
    else if isNull f.p then s
    else if !(colourOf s (actOf s f.act).colour).called then raise s f.act f.node { cls := .blockShape }
    else
      let s := takeExit s f r.exn.toNat .ret
      updAct s f.act fun x => if actLive x then { x with rets := retTokens r f } else x)

end Sys2Proof.Machine
end

