-- ==== Sys2Proof/Machine/Threads.lean ====
section
/-! DEFINITION. The events of tokens, activations, loops and colours up to commit: delivery and refill (R47, R75, R308), mapping and
start (R21, R45, R304), fetch, prediction and prefetch of blocks (R68, R103, R104, R284), iterations (R54, R394), and the end, the
placing and the retry of colours (R39, R42, R312). -/

namespace Sys2Proof.Machine

open Sys2Proof

/-! ## Tokens -/

/-- A token of a RET is on its way until the stores of the callee's colour are performed (Table 6.5). -/
def retHeld (s : State) (n : NetToken) : Bool :=
  let x := actOf s n.prod
  n.ret && s.stores.any fun y => y.2.colour == x.colour && y.2.serial == x.serial

/-- The quad that a token in flight goes to: that of its destination slot where the activation has started, or its colour's home quad, where
it waits for one (R12, R46, R54). -/
def arrivalQuad (s : State) (n : NetToken) : Option Nat :=
  let slotOf (a : Nat) : Option Nat := if (actOf s a).started then some (enOf (actOf s a) n.tok.node / 4) else none
  match n.dest with
  | .node a => slotOf a
  | .slot _ _ => none
  | .far => some (((farReceiver s n).bind slotOf).getD (homeOf s n))

/-- A token between two slots of one quad, which does not leave the quad (R12). -/
def withinQuad (s : State) (n : NetToken) : Bool :=
  match arrivalQuad s n, unitNamed n.unit with
  | some q, some (.en e) => q == e / 4
  | _, _ => false

/-- TOKEN_DELIVERY: a token in flight reaches its quad, checked for parity at every hop on the way; one that stays in its quad makes no hop
(R12, R31, R308). -/
def execTokenDelivery (i : Nat) (s : State) : Host.Outcome State Fault Refusal :=
  .next (match s.net[i]? with
    | none => s
    | some n =>
      if retHeld s n then s else
      let t := { s with net := s.net.eraseIdx i }
      if withinQuad s n then deliver combineVals t n
      else
        let (n, t) := parityCheck t n (some n.unit)
        deliver combineVals t n)

/-- The first spilled token of its quad, while its quad has room below OFF (R75). -/
def mayRefill (s : State) (i : Nat) (x : Spilled) : Bool :=
  (partOf s x.t.part).pstate == .running && !((s.spilled.take i).any fun y => y.quad == x.quad && y.t.part == x.t.part)
    && decide (occupancy s x.quad < (partOf s x.t.part).off)
    && quadRoom s x.quad (match x.t.dest with | .node a => partnerNeed s a x.t.tok.node [x.t] | .slot _ _ | .far => (1, farBytes x.t))

/-- TOKEN_REFILL. -/
def execTokenRefill (i : Nat) (s : State) : Host.Outcome State Fault Refusal :=
  .next (match s.spilled[i]? with
    | none => s
    | some x =>
      if mayRefill s i x then
        let s := updPart { s with spilled := s.spilled.eraseIdx i } x.t.part fun p => { p with tkrc := p.tkrc + 1 }
        let (n, s) := refillCheck (readSpilled s x) x.t x.quad
        match n.dest with
        | .node a => matchToken combineVals s a n true
        | .slot _ _ | .far => deliver combineVals s n
      else s)

/-! ## Mapping and start (R21, R45) -/

/-- The activations that occupy a mapping of a sleeve. -/
def mapUsers (s : State) (v : Nat) (m : Mapped) : List (Nat × Act) :=
  s.acts.filter fun x => actLive x.2 && x.2.started && x.2.sleeve == v && x.2.blk == m.blk && x.2.place == m.place

/-- Good node slots that no mapping occupies. -/
def freeSlots (v : Sleeve) : List Nat :=
  (v.good.flatMap fun e => (List.range 16).map (16 * e + ·)).filter fun k => !(v.maps.any fun m => m.place.contains k)

/-! ## Block-image caches (R11, Table 1.1) -/

/-- A mapping has a node on a quad. -/
def Mapped.onQuad (m : Mapped) (q : Nat) : Bool := m.place.any fun k => k / 64 == q

/-- The images that mappings in use need in a quad's cache. -/
def neededOn (s : State) (v q : Nat) : List (Word × Image) :=
  (((sleeveOf s v).maps.filter fun m => m.onQuad q && !(mapUsers s v m).isEmpty).map fun m => (m.blk, m.img)).eraseDups

/-- A quad's cache holds an image, or can be given it: 32 images, of which those of mappings in use stay. -/
def cacheTakes (s : State) (v q : Nat) (i : Word × Image) : Bool :=
  (lookupD (sleeveOf s v).images q []).contains i || decide ((neededOn s v q).length < 32)

/-- The images that a sleeve's predictor has read ahead and that lie in a quad's cache: that of its first quad. -/
def aheadOn (s : State) (v q : Nat) : List (Nat × Word × Image) :=
  if sleeveQuad (sleeveOf s v) 0 = q then s.prefetched.filter fun x => x.1 == v else []

/-- Free one place in a quad's cache when its 32 are taken: an image read ahead goes, or the oldest that no mapping in use needs, and with it the
idle mappings that need it. DESIGN CHOICE (log 61): the spec does not say which image gives way. -/
def cachePlace (s : State) (v q : Nat) : State :=
  let l := lookupD (sleeveOf s v).images q []
  if l.length + (aheadOn s v q).length < 32 then s
  else match aheadOn s v q with
    | x :: _ => { s with prefetched := s.prefetched.erase x }
    | [] =>
      let need := neededOn s v q
      match l.find? fun i => !need.contains i with
      | none => s
      | some i => updSleeve s v fun y =>
          { y with images := insertAt y.images q (l.erase i)
                   maps := y.maps.filter fun m => !(m.onQuad q && (m.blk, m.img) == i) }

/-- Keep a verified image in the cache of a quad that takes it; one that has gone is fetched and verified again, unless its configuration lists
it (R103, R105). -/
def cacheImage (s : State) (v q : Nat) (blk : Word) (img : Image) : State :=
  if (lookupD (sleeveOf s v).images q []).contains (blk, img) || !cacheTakes s v q (blk, img) then s
  else updSleeve (cachePlace s v q) v fun y => { y with images := insertAt y.images q (lookupD y.images q [] ++ [(blk, img)]) }

/-- Place a block on free slots, any of those on quads whose caches take its image. -/
def placeBlock (s : State) (v : Nat) (blk : Word) (img : Image) : Option (List Nat × State) :=
  let n := imgNcnt img
  let free := (freeSlots (sleeveOf s v)).filter fun k => cacheTakes s v (k / 64) (blk, img)
  if free.length < n then none
  else
    let (i, s) := choose s (max free.length 1)
    let place := (rotate free i).take n
    let s := (place.map (· / 64)).eraseDups.foldl (fun s q => cacheImage s v q blk img) s
    some (place, updSleeve s v fun x => { x with maps := x.maps ++ [{ blk := blk, place := place, img := img }] })

/-- Map a block for an activation of a tag: a mapping that no activation of that tag occupies, or new slots, taken from mappings
that nothing occupies when there are too few. -/
def mapBlock (s : State) (v : Nat) (p : Nat) (tag blk : Word) (img : Image) : Option (List Nat × State) :=
  let fits (m : Mapped) : Bool := m.blk == blk && m.img == img && !(mapUsers s v m).any fun x => x.2.tag == tag && x.2.part == p
  match (sleeveOf s v).maps.find? fits with
  | some m => some (m.place, s)
  | none =>
    match placeBlock s v blk img with
    | some r => some r
    | none => placeBlock (updSleeve s v fun x => { x with maps := x.maps.filter fun m => !(mapUsers s v m).isEmpty }) v blk img

/-- The writer of a root colour's START has not performed all that it did before it wrote TOKHI (R255). -/
def rootAwaits (s : State) (c : Colour) : Bool :=
  match c.root with
  | none => false
  | some r => r.after.any fun h => match h with
    | .store i => (lookup s.stores i).isSome
    | .inbound n => s.inbound.any fun x => x.n == n
    | .form _ _ | .xfer _ => false

/-- An activation may start now. -/
def mayStart (s : State) (x : Act) : Bool :=
  let c := colourOf s x.colour
  !rootAwaits s c &&
  (x.st == .predicted || x.st == .running) && !x.started && !x.isTwin && (partOf s x.part).pstate == .running
    && c.serial == x.serial && c.st == .resident && !c.held

/-- The ready sets of a block's start triggers (R45, R47). DESIGN CHOICE (log 53): each takes a matching-store entry without operand-buffer bytes
until it fires, though R49 speaks of tokens alone. -/
def triggers (s : State) (a : Nat) (place : List Nat) (img : Image) : List Entry :=
  ((List.range (imgNcnt img)).filter fun k => recAr (imgRec img k) == 0 && recPm (imgRec img k) == 0).map fun k =>
    let en := place.getD k 0 / 16
    { quad := en / 4, en := en, act := a, node := k, stamp := some s.cycle }

/-- Give an activation that has started the far tokens that wait for it (R46); one whose slot lies on another quad than that of its waiting
place makes a hop (R12, R31). -/
def giveFar (s : State) (a : Nat) : State :=
  s.far.foldl (fun s w =>
    if farReceiver s w.t = some a then
      let t := { s with far := s.far.erase w }
      let (n, t) := if enOf (actOf s a) w.t.tok.node / 4 = w.quad then (w.t, t) else parityCheck t w.t (some w.t.unit)
      deliverTo combineVals (updAct t a fun x => { x with inbox := x.inbox ++ [n] }) a n
    else s) s

/-- The starting token of an iteration goes to a quad that is Throttled (R74). -/
def startThrottled (s : State) (x : Act) (place : List Nat) : Bool :=
  x.loop != 0 && x.seq == 1 && s.throttled.contains (place.getD (threadOf s x.part x.tag).entryNode 0 / 64)

/-- The Predicted activations that hold slots of a sleeve, themselves or by their twins. -/
def predictedOn (s : State) (v : Nat) : List Nat :=
  (s.acts.filter fun x => x.2.st == .predicted && x.2.started && !x.2.isTwin
    && (x.2.sleeve == v || x.2.twin != 0 && (actOf s x.2.twin).sleeve == v)).map (·.1)

/-- Restart the Predicted activations that hold slots of a sleeve, to make room for a current block (R21), when there are any. -/
def makeRoom (s : State) (x : Act) (v : Nat) : Option State :=
  if x.st = .running ∧ !(predictedOn s v).isEmpty then some ((predictedOn s v).foldl restart s) else none

/-- Start a mapped activation, and its twin at `b` when there is one: read-table values, start triggers, waiting far tokens. -/
def beginAct (s : State) (a : Nat) (place : List Nat) (img : Image) (twin : Option (Nat × List Nat)) : State :=
  let x := actOf s a
  let g := (colourOf s x.colour).grant
  let b := (twin.map (·.1)).getD 0
  let s := updAct s a fun x => { x with started := true, place := place, image := img, grant := g, twin := b }
  let s := { s with entries := s.entries ++ triggers s a place img }
  let s := match twin with
    | some (b, pl) =>
      let y : Act := { actOf s a with sleeve := (sleeveOf s x.sleeve).liner, place := pl, twin := a, isTwin := true, inbox := [], deferred := [],
                                      creator := 0, pred := 0 }
      { s with acts := insertAt s.acts b y, entries := s.entries ++ triggers s b pl img }
    | none => s
  let s := deliverG s a x.sleeve
  let s := if b = 0 then s else deliverG s b x.sleeve
  let s := if x.st = .running then deliverFrame s a else s
  giveFar (updColour s x.colour fun c => { c with active := s.cycle }) a

/-- What the mapper can do for an activation now: start it, make room for it, or nothing. -/
def tryStart (s : State) (a : Nat) : Option State :=
  let x := actOf s a
  if !(mayStart s x) then none
  else match imageFor s x.sleeve x.blk with
    | none => none
    | some img =>
      match mapBlock s x.sleeve x.part x.tag x.blk img with
      | none => makeRoom s x x.sleeve
      | some (place, t) =>
        if startThrottled s x place then none
        else
          let v := (sleeveOf s x.sleeve).liner
          if imgLine img ∧ v ≠ 0 then
            let (b, t) := fresh t
            match mapBlock t v x.part x.tag x.blk img with
            | none => makeRoom s x v
            | some (pl, t) => some (beginAct t a place img (some (b, pl)))
          else some (beginAct t a place img none)

/-- How far a colour number is from its turn at a mapper that served `last` (R79). -/
def turnsTo (last n : Nat) : Nat := (n + 65536 - last - 1) % 65536

/-- Another colour of the sleeve, with an activation that can start, has its turn before the colour of an activation. -/
def turnOver (s : State) (x : Act) : Bool :=
  let last := (sleeveOf s x.sleeve).lastColour
  s.acts.any fun y => y.2.sleeve == x.sleeve && y.2.colour != x.colour && mayStart s y.2
    && decide (turnsTo last (y.2.colour % 65536) < turnsTo last (x.colour % 65536)) && (tryStart s y.1).isSome

/-- ACTIVATION_START: the mapper serves the colours of its sleeve round robin (R79). -/
def startAct (s : State) (a : Nat) : State :=
  let x := actOf s a
  match tryStart s a with
  | none => s
  | some t => if turnOver s x then s else updSleeve t x.sleeve fun v => { v with lastColour := x.colour % 65536 }

def execActivationStart (act : Nat) (s : State) : Host.Outcome State Fault Refusal := .next (startAct s act)

/-! ## Fetch, prediction and prefetch -/

/-- The translation cache of a sleeve's fetches, and the coordinate that their records name. -/
def sleeveTlb (s : State) (v : Nat) : TlbAt := .grid (descGrid (sleeveOf s v).desc)
@[inherit_doc sleeveTlb] def sleeveCoord (s : State) (v : Nat) : BitVec 16 := enCoord (4 * sleeveQuad (sleeveOf s v) 0)

/-- The verified image of a loop's head gives its window and order; a head that is no loop head is BLOCK_SHAPE of the activation
that pushed, or of the iteration (R52, R53). -/
def learnLoops (s : State) (v : Nat) (blk : Word) (img : Image) (a : Nat) : State :=
  s.loops.foldl (fun s x =>
    if x.2.sleeve = v ∧ x.2.head = blk ∧ x.2.window.isNone then
      if imgRole img = 1 then updLoop s x.1 fun l => { l with window := some (imgWin img), ordered := imgOrd img }
      else raise s (if actLive (actOf s x.2.entry) then x.2.entry else a) 0 { cls := .blockShape }
    else s) s

/-- An image that fails verification Faults the activation that it is fetched for; a loop of that head admits no more (R52, R103). -/
def badImage (s : State) (a loc : Nat) : State :=
  let x := actOf s a
  let s := { s with loops := s.loops.map fun y => if y.2.sleeve = x.sleeve ∧ y.2.head = x.blk then (y.1, { y.2 with failed := true }) else y }
  raise s a 0 { cls := .badEncoding, src := 4, fetch := true, info := BitVec.ofNat 64 loc, coord := sleeveCoord s x.sleeve }

/-- The image that the predictor has read ahead. -/
def prefetchedOf (s : State) (v : Nat) (blk : Word) : Option Image := (s.prefetched.find? fun x => x.1 == v && x.2.1 == blk).map (·.2.2)

/-- Far tokens that waited for a block whose image was not known are told apart (R122): those for mode ports are mode tokens, and the others go
where R46 sends them. -/
def giveModes (s : State) (v : Nat) (blk : Word) : State :=
  let mine (n : NetToken) : Bool := n.sleeve == v && n.tok.blk == blk
  let s := s.far.foldl (fun s w =>
    if mine w.t && toModePort s w.t then modeToken { s with far := s.far.erase w } v w.t.prod blk w.t.tok.node w.t.tok.v else s) s
  (s.unsorted.filter mine).foldl (fun s n =>
    if toModePort s n then modeToken s v n.prod blk n.tok.node n.tok.v else deliver combineVals s { n with made := .keep })
    { s with unsorted := s.unsorted.filter fun n => !mine n }

/-- The quad of a sleeve whose cache takes an image that is fetched: the first that can. -/
def fetchQuad (s : State) (v : Nat) (i : Word × Image) : Option Nat := (sleeveQuads (sleeveOf s v)).find? fun q => cacheTakes s v q i

/-- A verified image comes into a cache of its sleeve: it gives its loops their window, and its mode tokens are known. -/
def keepImage (s : State) (a v q : Nat) (blk : Word) (img : Image) : State :=
  let s := { s with prefetched := s.prefetched.filter fun x => !(x.1 == v && x.2.1 == blk) }
  giveModes (learnLoops (cacheImage s v q blk img) v blk img a) v blk

/-- BLOCK_FETCH_VERIFY: an unlisted block at its first mapping (R103). -/
def fetchBlock (s : State) (a : Nat) : State :=
  let x := actOf s a
  let at' (i : FaultInfo) : FaultInfo := { i with src := 4, fetch := true, coord := sleeveCoord s x.sleeve }
  if !actLive x || x.started || x.isTwin || x.st == .held || x.st == .parked || !x.deferred.isEmpty || (imageFor s x.sleeve x.blk).isSome
      || (partOf s x.part).pstate != .running then s
  else if x.blk.toNat % 16384 ≠ 0 then badImage s a 0x100
  else match agentSectors s (sleeveTlb s x.sleeve) x.part (supervisor s x.part) .fetch x.blk true 64 with
    | .wait s => s
    | .fault i s => if i.cls = .translation then park s a 0 (at' i) (.fetch a) else raise s a 0 (at' i)
    | .lost va s => raise s a 0 (at' { cls := .ownerLost, va := va })
    | .refused va s => raise s a 0 (at' { cls := .protection, cause := 10, va := va })
    | .ok v poi s =>
      let img := (prefetchedOf s x.sleeve x.blk).getD (BitVec.ofNat 16384 v)
      if poi.any id then badImage s a 0x500
      else match verify img x.blk (usable s 0) with
        | some loc => badImage s a loc
        | none => match fetchQuad s x.sleeve (x.blk, img) with
          | some q => keepImage s a x.sleeve q x.blk img
          | none => s

def execBlockFetchVerify (act : Nat) (s : State) : Host.Outcome State Fault Refusal := .next (fetchBlock s act)

/-- No node of an activation's block can still enter a loop: its image is known, and every LENT, LCNT and node with TG 2 has fired (R53). Until then
the predictor names no successor, for that may be the continuation, which is created Held. -/
def entersNoLoop (s : State) (x : Act) : Bool :=
  match imageFor s x.sleeve x.blk with
  | none => false
  | some img => (List.range (min (imgNcnt img) 128)).all fun k =>
      x.fired.getLsbD k || !(recOpc (imgRec img k) == 0x11 || recOpc (imgRec img k) == 0x14 || recTg (imgRec img k) == 2)

/-- PREDICT_SUCCESSOR: one Predicted successor after the last activation of a thread; one more than three beyond its oldest uncommitted one
is Held (R67, R68). -/
def execPredictSuccessor (act : Nat) (blk : Word) (s : State) : Host.Outcome State Fault Refusal :=
  .next (
    let x := actOf s act
    let h := threadOf s x.part x.tag
    let named : Bool := match x.exits with | [] => true | (_, _, .block b) :: _ => b == blk | _ => false
    if actLive x && !x.isTwin && h.acts.getLast? == some act && named && x.pushed.isNone && entersNoLoop s x
        && !(x.st == .held && (x.awaits != 0 || x.loop != 0 && x.seq == 1))
        && (partOf s x.part).pstate == .running && !(colourOf s x.colour).held then
      (addAct s x.part x.tag blk (if h.acts.length ≤ 3 then .predicted else .held) 0 0).2
    else s)

/-- The cache of a sleeve's first quad has a place for an image that is read ahead: beside those in use and those read ahead. -/
def aheadRoom (s : State) (v : Nat) : Bool :=
  let q := sleeveQuad (sleeveOf s v) 0
  decide ((lookupD (sleeveOf s v).images q []).length + (aheadOn s v q).length < 32)

/-- A block that sequential prefetch may read: within 8 images after one that the sleeve has mapped, in one 64 KiB region. -/
def prefetchable (s : State) (v : Nat) (blk : Word) : Bool :=
  blk.toNat % 16384 == 0 && (imageFor s v blk).isNone && (prefetchedOf s v blk).isNone && aheadRoom s v
    && (sleeveOf s v).maps.any fun m => m.blk.toNat / 2 ^ 19 == blk.toNat / 2 ^ 19 && decide (m.blk.toNat < blk.toNat)
      && decide (blk.toNat ≤ m.blk.toNat + 8 * 16384)

/-- IMAGE_PREFETCH: raises nothing; an image that fails verification is discarded (R104, R284). -/
def execImagePrefetch (sleeve : Nat) (blk : Word) (s : State) : Host.Outcome State Fault Refusal :=
  .next (
    let p := (sleeveOf s sleeve).part
    if prefetchable s sleeve blk && (partOf s p).pstate == .running then
      match agentSectors s (sleeveTlb s sleeve) p (supervisor s p) .fetch blk false 64 with
      | .ok v poi t =>
        let img := BitVec.ofNat 16384 v
        if poi.any id || (verify img blk (usable s 0)).isSome then t else { t with prefetched := t.prefetched ++ [(sleeve, blk, img)] }
      | .wait t => t
      | .fault _ t | .lost _ t | .refused _ t => t
    else s)

/-! ## Iterations -/

/-- The destination quad of a node of a loop's head, where the head is mapped. -/
def headQuad (s : State) (x : Loop) (node : Nat) : Option Nat :=
  ((sleeveOf s x.sleeve).maps.find? fun m => m.blk == x.head).map fun m => m.place.getD node 0 / 64

/-- The first activation of an iteration is admitted: Held until now, it is Predicted (R54, Table 2.7). -/
def admitIteration (s : State) (x : Loop) (l j creator : Nat) : State :=
  let h := threadOf s x.part (iterTag x j)
  match h.acts.find? fun a => (actOf s a).st == .held && h.loop == l && h.iter == j with
  | some a => updAct s a fun y => { y with st := .predicted }
  | none => startThread s x.part (iterTag x j) x.head creator l j

/-- ITERATION_START: the next iteration starts at the head, once a token for it waits, the window admits it and the quad of that
token's node is Open (R54, R74); the token's producer is its creator (R44, R394). -/
def execIterationStart (loop : Nat) (s : State) : Host.Outcome State Fault Refusal :=
  .next (match lookup s.loops loop with
    | none => s
    | some x =>
      let j := x.next
      match x.waiting.find? fun y => y.1 == j with
      | none => s
      | some (_, n) =>
        let closed : Bool := match headQuad s x n.tok.node with | some q => s.throttled.contains q | none => false
        if !admits x j || closed || (partOf s x.part).pstate != .running || (colourOf s (colourKey x.part (tagColour x.parent))).held then s
        else
          let s := updLoop s loop fun y => { y with next := j + 1, waiting := y.waiting.filter fun z => z.1 != j }
          let s := admitIteration s x loop j (if x.counted.isSome then x.entry else n.prod)
          let s := updThread s x.part (iterTag x j) fun h => { h with entryNode := n.tok.node }
          (x.waiting.filter fun z => z.1 == j).foldl (fun s z => deliverFar combineVals s { z.2 with made := .keep }) s)

/-- LCNT_ITERATION_TOKEN: the generator produces the token of the next iteration that the window admits (R58, R394). -/
def execLcntIterationToken (loop : Nat) (s : State) : Host.Outcome State Fault Refusal :=
  .next (match lookup s.loops loop with
    | none => s
    | some x =>
      match x.counted with
      | none => s
      | some n =>
        let j := x.genNext
        if n ≤ j || !admits x j || s.throttled.contains x.quad || (partOf s x.part).pstate != .running then s
        else
          let s := updLoop s loop fun y => { y with genNext := j + 1 }
          match x.gen.com.t0 with
          | .node k p _ | .far k p _ => sendUnder s x.gen (.far k p false) x.head (iterTag x j) .push (scalarOf (BitVec.ofNat 64 j))
          | .none | .slot _ _ => s)

/-! ## Colours -/

/-- Everything of an Ending colour has ended: its activations are terminal and its stores performed (R42, R255, R363). -/
def colourOver (s : State) (k : Nat) (c : Colour) : Bool :=
  c.st == .ending
    && !(s.acts.any fun x => x.2.colour == k && x.2.serial == c.serial && actLive x.2)
    && !(s.stores.any fun x => x.2.colour == k && x.2.serial == c.serial)

/-- Purge what waits for a colour: far tokens, spilled tokens and tokens in flight to activations of it (R42). An activation that did not commit stays
listed while a hem command of it is under way, so that its result is purged (R441). -/
def purgeColour (s : State) (k : Nat) (c : Colour) : State :=
  let mine (n : NetToken) : Bool := n.part == c.part && tagColour n.tok.tag == c.num
  let loopsOf := s.loops.filter fun x => x.2.colour == k && x.2.serial == c.serial
  let count := (s.far.filter fun x => mine x.t).length + (s.spilled.filter fun x => mine x.t).length
    + (loopsOf.map fun x => x.2.waiting.length).foldl (· + ·) 0
  dead { s with
    far := s.far.filter fun x => !mine x.t
    spilled := s.spilled.filter fun x => !mine x.t
    unsorted := s.unsorted.map (unwanted mine)
    loops := s.loops.filter fun x => !(x.2.colour == k && x.2.serial == c.serial)
    threads := s.threads.filter fun h => !(h.part == c.part && tagColour h.tag == c.num)
    parked := s.parked.filter fun q => q.what != .colour k
    acts := s.acts.filter fun x => !(x.2.colour == k && x.2.serial == c.serial)
      || (x.2.st != .committed && s.hemOps.any fun o => o.2.f.act == x.1) } c.part count

/-- Answer the CTXJs that wait for a colour (R363). -/
def answerJoins (s : State) (k : Nat) (c : Colour) : State :=
  s.ops.foldl (fun s o => if o.2.w = .ctxj k c.serial then finishOp s o.1 (scalarOf (BitVec.ofNat 64 c.num)) else s) s

/-- COLOUR_FREE: an Ending colour becomes Free; a root colour's DONE record is written, and its place in the regulator returns. -/
def execColourFree (part col : Nat) (s : State) : Host.Outcome State Fault Refusal :=
  .next (
    let k := colourKey part col
    match lookup s.colours k with
    | none => s
    | some c =>
      let full : Bool := match c.root with | some r => egressFull s r.queue | none => false
      if !colourOver s k c || full || (partOf s part).pstate == .frozen then s
      else
        let s := purgeColour s k c
        let s := { s with colours := eraseAt s.colours k }
        let s := match c.root with
          | some r => egress s r.queue 2 0 r.iseq ([r.cookie, BitVec.ofNat 64 c.num] ++ (List.range 4).map fun i => lookupD c.f i 0)
          | none => s
        answerJoins s k c)

/-- COLOUR_RESIDENT: the first colour of the spill area of a home quad becomes resident as an entry there is free; one that must become resident,
the first with an activation Predicted or Running, takes the entry of a victim when all are in use (R39). -/
def execColourResident (part col : Nat) (s : State) : Host.Outcome State Fault Refusal :=
  .next (
    let k := colourKey part col
    match lookup s.colours k with
    | none => s
    | some c =>
      let v := sleeveOf s c.sleeve
      let quad := homeQuad v c.num
      let waits := waitingColours s c.sleeve quad
      if (partOf s part).pstate != .running || !waits.any fun y => y.1 == k then s
      else if (residents s c.sleeve quad).length < 64 then
        if (waits.head?.map (·.1)) = some k then makeResident s k else s
      else if ((waits.find? fun y => busyColour s y.1).map (·.1)) = some k then
        match victimOf s c.sleeve quad k with
        | some y => spillColour (makeResident s k) y .spilled
        | none => s
      else s)

/-- SPAWN_RETRY_REISSUE: a killed child is created again under a fresh number, with its draw key and arguments (R312); it waits while
no number or no place is free. -/
def execSpawnRetryReissue (i : Nat) (s : State) : Host.Outcome State Fault Refusal :=
  .next (match s.retries[i]? with
    | none => s
    | some c =>
      if !mayCreate s c.sleeve || (partOf s c.part).pstate != .running then s
      else match takeNumber s c.part with
        | (none, _) => s
        | (some n, t) =>
          let t := createColour t c.part n { f := c.args, grant := c.grant, key := c.key, retry := true, reissued := true, sblk := c.sblk, args := c.args, edges := c.edges,
                                             sleeve := c.sleeve }
          match placeColour t (colourKey c.part n) .queued with
          | some u => startThread { u with retries := u.retries.eraseIdx i } c.part (rootTag n) c.sblk 0 0 0
          | none => s)

end Sys2Proof.Machine
end

