-- ==== Sys2Proof/Machine/Replay.lean ====
section
/-! DEFINITION. The replay register (R282, R283, R372): what re-issues a parked access, the actions of Table 9.8, writes that are
held (R259, R286), and their events; the return from a fault. -/

namespace Sys2Proof.Machine

open Sys2Proof

/-! ## Stores translated again (R276, R283) -/

/-- The use that a store's translation checks. -/
def storeUse : StoreKind → Use
  | .plain | .scratch => .write
  | .fill | .single => .sync
  | .empty => .empty

/-- Translate the parts of a store again, from the tables. -/
def translateElems (s : State) (p : Nat) (use : Use) (psto : Bool) : List StoreElem → Except AgentStop (List StoreElem × State)
  | [] => .ok ([], s)
  | e :: es =>
    match agentTranslate s .none p (supervisor s p) use e.va e.width with
    | .error i => .error i
    | .ok (leaf, big, s) =>
      if leafProt leaf && !psto then .error (.fault { cls := .protection, cause := 6, va := e.va, wr := true, info := leaf } s)
      else match translateElems s p use psto es with
        | .ok (l, s) => .ok ({ e with leaf := leaf, big := big } :: l, s)
        | .error i => .error i

/-- A store is translated again: it goes on, parks again, or faults its activation; a committed one is held as R433 gives. One whose table
line a pod agent owns stays stale, and is neither performed nor committed, until the owner has answered. -/
def retranslate (s : State) (sid : Nat) : State :=
  match lookup s.stores sid with
  | none => s
  | some x =>
    match translateElems s x.part (storeUse x.kind) (imgPsto (actOf s x.act).image) x.elems with
    | .ok (l, s) => { s with stores := insertAt s.stores sid { x with elems := l, parked := false, stale := false } }
    | .error (.wait s) => updStore s sid fun x => { x with parked := false, stale := true }
    | .error (.fault i s) =>
      let s := updStore s sid fun x => { x with stale := false }
      let i : FaultInfo := { faultAt s x.act x.node i with
        width := match Ty.ofCode ((imgRec (actOf s x.act).image x.node).extractLsb' 80 4) with | some t => t.width | none => 64 }
      if x.committed then
        if i.cls = .translation then parkAccess (updStore s sid fun x => { x with parked := true }) x.part x.act i (.store sid)
        else storeRefused s sid x i
      else if i.cls = .translation then park (updStore s sid fun x => { x with parked := true }) x.act x.node i (.store sid)
      else raise s x.act x.node i

/-! ## Compact pages (R161) -/

/-- Write the 2,048 bits of a block of the compact space at a place, with their poison. -/
def copyBlock (s : State) (u : Nat) (at' : Nat → Loc) : State :=
  (List.range 8).foldl (fun s k =>
    let old : Loc := .dev 3 (2048 * u + 256 * k)
    setPoisonLoc (writeLoc s (at' k) 256 (readLoc s old 256)) (at' k) (poisonLoc s old)) s

/-- A pinned block is written back under the leaf that its page has now: to a compact backing again, where it may overflow again, or to
memory, compressed where the leaf says so (R160, R161). -/
def movePinned (s : State) (u : Nat) (e : Word) (big : Bool) (va : Word) : State :=
  let at' (k : Nat) : Loc := locOf s e big (va + BitVec.ofNat 64 (256 * k))
  let moved : State := copyBlock { s with pinned := s.pinned.filter (· != u) } u at'
  match at' 0 with
  | .dev 3 a =>
    let v := a / 2048
    if v = u then s
    else if blockSize (readDev moved 3 (2048 * v) 2048) ≤ 128 then moved
    else updRegs { moved with pinned := insertNat moved.pinned v, overflow := insertNat moved.overflow (compactKey (v / 256) big) }
      fun r => { r with cmovf := r.cmovf + 1 }
  | .dev apr a =>
    let v := cdaToLinear (cdaOf apr (a / 8)) / 256
    if !moved.regs.cmbas.getLsbD 0 || inMetadata moved v then setPacked moved v 0
    else if leafCmp e then storeBlock moved v
    else setPacked (setBlockState moved v 0) v 0
  | .pod _ => moved
  | .remote _ _ | .reg _ => s

/-- The pinned blocks of the page that a COMPRESS_OVERFLOW record names are written back under its new leaves, where those are other ones;
once none is left the page is no longer overflow-held. -/
def writePinned (s : State) (p : Nat) (i : FaultInfo) : State :=
  let ppn := i.info.toNat / 32768
  let big := s.overflow.contains (compactKey ppn true) && ppn % 512 == 0
  let size := if big then 512 else 1
  let mine (u : Nat) : Bool := decide (ppn ≤ u / 256) && decide (u / 256 < ppn + size)
  let base := pageBase i.va big
  let s := (s.pinned.filter mine).foldl (fun s u =>
    let va := base + BitVec.ofNat 64 (2048 * (u - 256 * ppn))
    match (walkTables s p va).2 with
    | .leaf e b _ => movePinned s u e b va
    | .stop _ _ _ | .owned _ => s) s
  if s.pinned.any mine then s else { s with overflow := s.overflow.filter (· != compactKey ppn big) }

/-! ## What a replay re-issues -/

/-- A colour that could not be placed is placed again, and its thread starts (R77). -/
def placeAgain (s : State) (q : Parked) (k : Nat) : State :=
  match s.ops.find? fun o => o.2.w == .place k with
  | none => s
  | some (o, x) =>
    let c := colourOf s k
    let spawn : Bool := recOpc (imgRec (actOf s x.f.act).image x.f.node) == 0x1B
    match placeColour s k (if spawn then .queued else .spilled) with
    | some t => finishOp (startThread t c.part (rootTag c.num) c.sblk x.f.act 0 0) o (scalarOf (BitVec.ofNat 64 c.num))
    | none => park s q.act x.f.node { cls := .tagExhaust, info := 1 } (.colour k)

/-- Re-issue one parked access, which is no longer listed: its activation is Running again unless another of its accesses is parked. -/
def reissue (s : State) (q : Parked) : State :=
  let s := unpark s q.act
  match q.what with
  | .form e => { s with entries := s.entries ++ [{ e with stamp := some s.cycle }] }
  | .fetch _ | .tmma _ | .tscl _ _ => s
  | .token t _ => match t.dest with
    | .node a => if actLive (actOf s a) then arrive combineVals s a t
      else if (actOf s a).isTwin ∨ (actOf s a).st = .committed then s else dead s t.part 1
    | .slot _ _ | .far => deliver combineVals s t
  | .colour k => placeAgain s q k
  | .store sid => retranslate s sid
  | .fence op => match lookup s.ops op with
    | some o => match o.w with
      | .fence srv l st await _ => { s with ops := insertAt s.ops op { o with w := .fence srv l st await true } }
      | _ => s
    | none => s
  | .range tid lo hi => updXfer s tid fun x => { x with redo := x.redo ++ [(lo, hi)] }
  | .coll cid => driveColl (collWork s cid) s cid

/-- What ERET waits for of a re-issued access: a TMMA is known by its command. -/
def awaitKind (s : State) : ParkedKind → ParkedKind
  | .tmma isl => .tscl isl ((((islandOf s isl).queue.head?).map (·.id)).getD 0)
  | k => k

/-- Re-issue parked accesses in park order. -/
def reissueAll (s : State) (sel : Parked → Bool) : List ParkedKind × State :=
  let l := s.parked.filter sel
  (l.map fun q => awaitKind s q.what, l.foldl reissue { s with parked := s.parked.filter fun q => !sel q })

/-! ## The actions (Table 9.8) -/

/-- The outstanding record of a number: one that has been written (R279). -/
def recordOf (s : State) (p f : Nat) : Option Outstanding := s.records.find? fun r => r.part == p && r.fseq == f && recordWritten s r
/-- Change an outstanding record. -/
def updRecord (s : State) (r : Outstanding) (g : Outstanding → Outstanding) : State :=
  { s with records := s.records.map fun q => if q.part == r.part && q.fseq == r.fseq then g q else q }
/-- Accesses are parked under a record. -/
def parksUnder (s : State) (r : Outstanding) : Bool := s.parked.any fun q => q.part == r.part && q.fseq == r.fseq
/-- A record whose action has been performed is disposed of, unless it names a frozen master, or accesses stay parked under it. -/
def closeRecord (s : State) (r : Outstanding) : State :=
  if s.records.any fun q => q.part == r.part && q.fseq == r.fseq && (q.frozen || parksUnder s q) then s else dispose s r.part r.fseq

/-- Release the hold that a record put on a colour (R165, R433). -/
def releaseHold (s : State) (r : Outstanding) : State :=
  updRecord (updColour s r.colour fun c => if c.serial = r.serial then { c with dw := c.dw.erase r.fseq } else c) r fun q => { q with holds := false }

/-- REPLAY: the accesses it re-issued, and the state. It suits a record under which accesses park, though none may be left, and one that holds a
colour. The record takes no more accesses: a second failure writes a new one (R283). -/
def replayRecord (s : State) (r : Outstanding) : List ParkedKind × State :=
  if !r.parks && !parksUnder s r && !r.holds then ([], s)
  else
    let s := if r.info.cls = .compressOverflow then writePinned s r.part r.info else s
    let s := updRecord s r fun q => { q with parks := false }
    let (l, s) := reissueAll (if r.holds then releaseHold s r else s) fun q => q.part == r.part && q.fseq == r.fseq
    (l, closeRecord s r)

/-- REPLAY_ALL. -/
def replayParked (s : State) (p : Nat) : List ParkedKind × State :=
  let rs := s.records.filter fun r => r.part == p && (r.parks || parksUnder s r)
  let s := rs.foldl (fun s r => if r.info.cls = .compressOverflow then writePinned s p r.info else s) s
  let s := rs.foldl (fun s r => if r.holds then releaseHold s r else s) s
  let s := rs.foldl (fun s r => updRecord s r fun q => { q with parks := false }) s
  let (l, s) := reissueAll s fun q => q.part == p
  (l, rs.foldl closeRecord s)

/-- A parked access that ABANDON acts on: all but a committed store. -/
def abandons (s : State) (q : Parked) : Bool :=
  match q.what with
  | .store sid => match lookup s.stores sid with | some x => !x.committed | none => true
  | _ => true

/-- Abandon one parked access. -/
def abandonOne (s : State) (q : Parked) : State :=
  match q.what with
  | .range tid _ _ => progress (dropParked s q) tid
  | .tmma isl =>
    let s := unpark s q.act
    match (islandOf s isl).queue with
    | c :: _ => endTmma s isl c (blockTag c.a)
    | [] => s
  | .tscl isl _ =>
    let s := unpark (dropParked s q) q.act
    runQueue ((islandOf s isl).queue.length) s isl
  | .coll _ => dropParked s q
  | .form _ | .fetch _ | .token _ _ | .colour _ | .store _ | .fence _ => if actLive (actOf s q.act) then faultAct s q.act else s

/-- ABANDON: the record takes no more accesses; it stays for an END when an activation was Faulted. -/
def abandonRecord (s : State) (r : Outstanding) : State :=
  let sel (q : Parked) : Bool := q.part == r.part && q.fseq == r.fseq && abandons s q
  let l := s.parked.filter sel
  let faults := l.any fun q => match q.what with | .range _ _ _ | .tmma _ | .tscl _ _ | .coll _ => false | _ => true
  if l.isEmpty then s
  else
    let s := l.foldl abandonOne { s with parked := s.parked.filter fun q => !sel q }
    if faults then updRecord s r fun q => { q with parks := false } else closeRecord s r

/-- END: the record's colour goes to Ending, as a CTXF naming it would. -/
def endRecord (s : State) (r : Outstanding) : State :=
  let c := colourOf s r.colour
  closeRecord (if c.serial = r.serial then endColour s r.colour else s) r

/-- A record whose master issues again stays outstanding while its colour is live. -/
def thawClose (s : State) (r : Outstanding) : State :=
  let c := colourOf s r.colour
  if c.serial = r.serial && (c.st != .ending || r.holds) && live s r.colour then s else closeRecord s r
/-- THAW: the master that the record froze issues again, though other records froze it too (R289); the Faulted activation stays Faulted. -/
def thawRecord (s : State) (r : Outstanding) : State :=
  if !r.frozen then s
  else
    let mine (q : Outstanding) : Bool := q.part == r.part && q.sleeve == r.sleeve && q.frozen
    let l := s.records.filter mine
    let s := updSleeve s r.sleeve fun v => { v with frozen := [] }
    l.foldl thawClose { s with records := s.records.map fun q => if mine q then { q with frozen := false } else q }

/-! ## Writes to RPLY (R282) -/

/-- A THAW of a master is held while a MASTER_FROZEN record of it waits (R259). -/
def thawHeld (s : State) (r : Outstanding) : Bool :=
  ((queueOf s (sleeveQueue s r.sleeve)).extra).any fun ws =>
    (ws.getD 0 0).toNat / 2 ^ 56 == 0x0D && (sleeveOf s r.sleeve).frozen.contains (ws.getD 4 0).toNat

/-- A replay command word. -/
def replayWord (act arg : Nat) : Word := BitVec.ofNat 64 (act % 256 * 2 ^ 56 + arg % 2 ^ 32)

/-- A write waits: for the end of a freeze, or for a record. -/
def rplyWaits (s : State) (p : Nat) (v : Word) : Bool :=
  (partOf s p).pstate == .freezing || (partOf s p).pstate == .frozen || (bits v.toNat 56 8 == 5 && match recordOf s p (bits v.toNat 0 32) with
    | some r => thawHeld s r
    | none => false)

/-- Perform a write to RPLY: an action that does not suit its record is ignored. `order` is that of the SWR, 0 for the window. -/
def performRply (s : State) (p : Nat) (v : Word) (order : Nat) : State :=
  let note (x : List ParkedKind × State) : State :=
    if order = 0 ∨ x.1.isEmpty then x.2 else updPart x.2 p fun y => { y with replays := y.replays ++ [(order, x.1)] }
  if bits v.toNat 32 24 ≠ 0 then s
  else if bits v.toNat 56 8 = 2 then note (replayParked s p)
  else match recordOf s p (bits v.toNat 0 32) with
    | none => s
    | some r =>
      match bits v.toNat 56 8 with
      | 1 => note (replayRecord s r)
      | 3 => abandonRecord s r
      | 4 => endRecord s r
      | 5 => thawRecord s r
      | _ => s

/-- A write to RPLY: writes take effect in the order written. -/
def writeRply (s : State) (p : Nat) (v : Word) (order : Nat) : State :=
  if !(partOf s p).rply.isEmpty || rplyWaits s p v then updPart s p fun x => { x with rply := x.rply ++ [(v, order)] }
  else performRply s p v order

/-- The held writes of a partition that may be performed now. -/
def drainRply : Nat → State → Nat → State
  | 0, s, _ => s
  | n + 1, s, p =>
    match (partOf s p).rply with
    | [] => s
    | (v, o) :: rest => if rplyWaits s p v then s else drainRply n (performRply (updPart s p fun x => { x with rply := rest }) p v o) p

def execReplay (part : Nat) (fseq : BitVec 32) (s : State) : Host.Outcome State Fault Refusal :=
  .next (writeRply s part (replayWord 1 fseq.toNat) 0)
def execReplayAll (part : Nat) (s : State) : Host.Outcome State Fault Refusal := .next (writeRply s part (replayWord 2 0) 0)
def execAbandon (part : Nat) (fseq : BitVec 32) (s : State) : Host.Outcome State Fault Refusal :=
  .next (writeRply s part (replayWord 3 fseq.toNat) 0)
def execReplayEnd (part : Nat) (fseq : BitVec 32) (s : State) : Host.Outcome State Fault Refusal :=
  .next (writeRply s part (replayWord 4 fseq.toNat) 0)
def execThaw (part : Nat) (fseq : BitVec 32) (s : State) : Host.Outcome State Fault Refusal :=
  .next (writeRply s part (replayWord 5 fseq.toNat) 0)

/-! ## ERET (R372) -/

/-- A re-issued access has been carried out: performed, parked again or faulted; a store of an activation that has not committed once
it is in the store buffer. -/
def carriedOut (s : State) (p : Nat) (k : ParkedKind) : Bool :=
  let again := s.parked.any fun q => q.part == p && (match q.what, k with
    | .form e, .form d => e.act == d.act && e.node == d.node
    | .tmma i, .tscl j _ => i == j
    | x, y => x == y)
  again || match k with
  | .form e =>
    let mine (d : Entry) : Bool := d.act == e.act && d.node == e.node
    !(s.entries.any mine || s.stalled.any mine || (s.walks.any fun w => w.2.waiting.any fun x => mine x.e)
      || (s.dir.any fun d => d.2.forms.any mine)
      || s.ops.any fun o => o.2.f.act == e.act && o.2.f.node == e.node && (openValue o.2.w || match o.2.w with | .lds _ _ _ _ _ => true | _ => false))
  | .fetch a => !actLive (actOf s a) || (imageFor s (actOf s a).sleeve (actOf s a).blk).isSome
  | .token _ _ | .colour _ | .coll _ => true
  | .store sid => match lookup s.stores sid with | none => true | some x => x.parked || !x.committed && !x.stale
  | .fence op => (lookup s.ops op).isNone
  | .range tid lo hi => match lookup s.xfers tid with
    | none => true
    | some x => !(x.redo.any fun r => decide (lo ≤ r.1) && r.2 == hi) && !awaitsRemote s tid
  | .tmma _ => true
  | .tscl isl c => !((islandOf s isl).queue.any fun x => x.id == c) && !(s.flights.any fun x => x.isl == isl && x.cmd.id == c)

/-- ERET_COMPLETE: every replay action that an SWR committed before it has been carried out. -/
def execEretComplete (op : Nat) (s : State) : Host.Outcome State Fault Refusal :=
  .next (match lookup s.ops op with
    | some o => match o.w with
      | .eret n =>
        let p := o.f.part
        let left := (partOf s p).replays.filter fun x => !(x.2.all (carriedOut s p))
        if left.any (fun x => decide (x.1 < n)) || (partOf s p).rply.any (fun x => x.2 != 0 && decide (x.2 < n)) then s
        else finishOp (updPart s p fun x => { x with replays := left }) op (scalarOf 0)
      | _ => s
    | none => s)

end Sys2Proof.Machine
end

