-- ==== Sys2Proof/Machine/Registers.lean ====
section
/-! DEFINITION. The system registers (Table 14.5): how each is read, at which privilege (R24, R71, R124, R175, R268, R281, R317, R333,
R427), and what a write does (R25, R72, R158, R171, R173, R268, R281, R299, R315, R317, R428); SRD and SWR, and the events that write
a register. -/

namespace Sys2Proof.Machine

open Sys2Proof

/-! ## Fields -/

/-- Bits [59:15] of a base register. -/
def baseMask : Word := 0x0FFFFFFFFFFF8000#64
/-- A LOG field: 0, or within bounds. -/
def logLegal (lo hi n : Nat) : Bool := n == 0 || (decide (lo ≤ n) && decide (n ≤ hi))
/-- The holdings of a partition's colours (HVUSE). -/
def unitsHeld (s : State) (p : Nat) : Nat := ((s.colours.filter fun x => x.2.part == p).map (·.2.holding)).foldl (· + ·) 0
/-- FSTAT. -/
def fstat (s : State) (p : Nat) : Nat :=
  (match (partOf s p).pstate with | .running => 0 | .freezing => 1 | .frozen => 2 | .empty => 3) * 2 ^ 62
    + (s.sleeves.filter fun v => v.2.part == p && !v.2.frozen.isEmpty).length % 2 ^ 16 * 2 ^ 32
    + (s.parked.filter fun q => q.part == p).length % 2 ^ 32
def flag (b : Bool) (n : Nat) : Nat := if b then 2 ^ n else 0

/-! ## Reading -/

/-- A matching-store or numeric register of a partition (Tables 2.8 and 4.6). -/
def readPartReg (x : Partition) (num : Nat) : Word :=
  match num with
  | 0x440 => BitVec.ofNat 64 (x.on * 256 + x.off)
  | 0x441 => x.tksb
  | 0x442 => BitVec.ofNat 64 x.tksn
  | 0x443 => x.clsb
  | 0x444 => BitVec.ofNat 64 x.clsn
  | 0x448 => x.tksc
  | 0x449 => x.tkrc
  | 0x44A => x.thrc
  | 0x44B => x.clsc
  | 0x44C => x.deadc
  | 0x44D => BitVec.ofNat 64 x.mshw
  | 0x450 => x.seed
  | 0x451 => BitVec.ofNat 64 x.nver
  | _ => 0

/-- A memory register (Table 5.10). -/
def readMemReg (s : State) (num : Nat) : Word :=
  let r := s.regs
  match num with
  | 0x460 => BitVec.ofNat 64 r.heatk
  | 0x461 => r.heatb
  | 0x462 => BitVec.ofNat 64 (flag r.heatRun 0)
  | 0x463 => r.heats
  | 0x464 => r.cmbas
  | 0x465 => r.cmraw
  | 0x466 => r.cmmcm
  | 0x467 => r.cmovf
  | 0x468 => r.cmpsn
  | 0x469 => r.dfrb
  | 0x46A => BitVec.ofNat 64 r.dfrn
  | 0x46B => BitVec.ofNat 64 s.dfr.length
  | 0x46C => r.ecsel.setWidth 64
  | 0x46D =>
    let (cor, unc) := lookupD s.mc.mirror r.ecsel.toNat (0, 0)
    if 96 ≤ bits r.ecsel.toNat 4 7 then 0 else BitVec.ofNat 64 (min unc 0xFFFF * 2 ^ 32 + min cor 0xFFFF)
  | _ => 0

/-- A queue register (Table 8.10). -/
def readQueueReg (x : Queue) (k : Nat) : Word :=
  match k with
  | 0 => BitVec.ofNat 64 (flag x.en 63 + x.pri * 2 ^ 48 + x.age * 2 ^ 40 + x.xoff * 2 ^ 16 + x.xon)
  | 1 => x.qegb
  | 2 => BitVec.ofNat 64 x.qegn
  | 3 => BitVec.ofNat 64 x.qwdt
  | 4 => BitVec.ofNat 64 x.qwdc
  | 5 => x.eseq ++ x.next
  | 6 => x.qimg
  | _ => 0

/-- A translation and fault register (Table 9.3). -/
def readFaultReg (s : State) (p k : Nat) : Word :=
  let x := partOf s p
  match k with
  | 0 => x.ptbr
  | 1 => BitVec.ofNat 64 (flag x.sup 0)
  | 2 => x.fqb
  | 3 => BitVec.ofNat 64 x.fqn
  | 4 => x.fseq ++ x.fack
  | 6 => BitVec.ofNat 64 (fstat s p)
  | 7 => x.fimg
  | _ => 0

/-- A reliability register (Table 10.9), by number from 0x0800. -/
def readRelReg (s : State) (k : Nat) : Word :=
  let r := s.regs
  if 1 ≤ k ∧ k ≤ 8 then lookupD r.gmem (k - 1) 0
  else match k with
  | 0x00 => BitVec.ofNat 64 (flag r.gen 63 + r.rank)
  | 0x09 => r.gpb
  | 0x0A => BitVec.ofNat 64 r.gpn
  | 0x0B => BitVec.ofNat 64 (r.gstate * 2 ^ 62 + flag r.drained 61 + flag r.rberr 60 + (s.deltas.filter fun d => !d.lost).length % 2 ^ 32)
  | 0x0D => BitVec.ofNat 64 r.glto
  | 0x0E => r.gdlt
  | 0x0F => r.gpps
  | 0x10 => r.plog.setWidth 64
  | 0x11 => r.tptc
  | 0x12 => r.tplc
  | 0x13 => r.lmis
  | 0x14 => r.lmlc
  | 0x15 => BitVec.ofNat 64 r.ownto
  | 0x16 => r.olb
  | 0x17 => BitVec.ofNat 64 r.oln
  | 0x18 => r.olnext ++ r.olack
  | _ => 0

/-- HLST: the ports in service. -/
def portsUp (s : State) : Nat := (List.range 24).foldl (fun m p => m + flag (portOf s p).up p) 0

/-- An identity, CXL or Helup register (Table 11.4). -/
def readIdReg (s : State) (num : Nat) : Word :=
  let r := s.regs
  match num with
  | 0x900 => BitVec.ofNat 64 (9 * 2 ^ 48 + 9 * 2 ^ 40 + r.devn.toNat)
  | 0x901 => r.dfeat
  | 0x902 => r.dmask
  | 0x903 => r.dboot
  | 0x910 => r.cxwb
  | 0x911 => BitVec.ofNat 64 r.cxws
  | 0x920 => BitVec.ofNat 64 (flag r.hxen 63 + r.hxto * 2 ^ 16 + r.hxpart)
  | 0x921 => BitVec.ofNat 64 r.hxwb
  | 0x922 => BitVec.ofNat 64 r.hxwn
  | 0x923 => r.hrtb
  | 0x924 => BitVec.ofNat 64 (portsUp s)
  | 0x925 => r.hlrt
  | 0x926 => r.hldr
  | _ => 0

/-- A system register by number, for an issuing partition and sleeve; the window has neither (log 18). A number that names none
reads zero (R426). -/
def readReg (s : State) (issuer : Option (Nat × Nat)) (num : Nat) : Word :=
  if 0x400 ≤ num ∧ num ≤ 0x41F then lookupD s.regs.badn (num - 0x400) 0
  else if 0x420 ≤ num ∧ num ≤ 0x427 then lookupD s.regs.badi (num - 0x420) 0
  else if num = 0x428 then s.regs.badx
  else if num = 0x429 then s.regs.badc
  else if 0x440 ≤ num ∧ num < 0x460 then match issuer with | some (p, _) => readPartReg (partOf s p) num | none => 0
  else if 0x460 ≤ num ∧ num < 0x480 then readMemReg s num
  else if 0x480 ≤ num ∧ num < 0x490 then match issuer with | some (_, v) => lookupD (sleeveOf s v).cbd (num - 0x480) 0 | none => 0
  else if 0x490 ≤ num ∧ num < 0x4A0 then match issuer with | some (_, v) => lookupD (sleeveOf s v).cbc (num - 0x490) 0 | none => 0
  else if 0x4A0 ≤ num ∧ num < 0x4B0 then (partOf s (num - 0x4A0)).grids.setWidth 64
  else if 0x4B0 ≤ num ∧ num < 0x4C0 then BitVec.ofNat 64 (partOf s (num - 0x4B0)).hvcap
  else if 0x4C0 ≤ num ∧ num < 0x4D0 then BitVec.ofNat 64 (unitsHeld s (num - 0x4C0))
  else if 0x500 ≤ num ∧ num < 0x700 then readQueueReg (queueOf s ((num - 0x500) / 8)) (num % 8)
  else if 0x700 ≤ num ∧ num < 0x800 then readFaultReg s ((num - 0x700) / 16) (num % 16)
  else if 0x800 ≤ num ∧ num < 0x820 then readRelReg s (num - 0x800)
  else if 0x900 ≤ num ∧ num < 0x940 then readIdReg s num
  else 0

/-- Reserved numbers within the tables. -/
def reservedReg (num : Nat) : Bool :=
  decide (num < 0x400) || (decide (0x42A ≤ num) && decide (num < 0x440)) || (decide (0x445 ≤ num) && decide (num < 0x448))
    || num == 0x44E || num == 0x44F || (decide (0x452 ≤ num) && decide (num < 0x460)) || num == 0x46E || num == 0x46F
    || (decide (0x470 ≤ num) && decide (num < 0x480)) || (decide (0x4D0 ≤ num) && decide (num < 0x500))
    || (decide (0x500 ≤ num) && decide (num < 0x700) && num % 8 == 7) || (decide (0x700 ≤ num) && decide (num < 0x800) && decide (8 ≤ num % 16))
    || (decide (0x819 ≤ num) && decide (num < 0x900)) || (decide (0x904 ≤ num) && decide (num < 0x910))
    || (decide (0x912 ≤ num) && decide (num < 0x920)) || decide (0x927 ≤ num)

/-- SRD of a register at user privilege raises nothing: a number that names none, and the registers whose tables do not give reading
only to supervisor privilege (R71, R124, R175, R317). -/
def userReads (num : Nat) : Bool :=
  reservedReg num || (decide (0x440 ≤ num) && decide (num < 0x460)) || num == 0x463 || (decide (0x465 ≤ num) && decide (num ≤ 0x468))
    || (decide (0x480 ≤ num) && decide (num < 0x4A0)) || num == 0x80E || num == 0x80F || (decide (0x811 ≤ num) && decide (num ≤ 0x814))

/-- An SWR of partition `p` to a register is reserved to supervisor privilege by its table; one to a number that an SWR does not
write is ignored and raises nothing (R273, R428). -/
def swrWrites (p num : Nat) : Bool :=
  !reservedReg num && (
    (decide (0x400 ≤ num) && decide (num < 0x460)) || (decide (0x460 ≤ num) && decide (num ≤ 0x46A)) || num == 0x46C
      || (decide (0x700 + 16 * p + 2 ≤ num) && decide (num ≤ 0x700 + 16 * p + 5)) || (decide (0x80E ≤ num) && decide (num ≤ 0x818)))

/-! ## Writing -/

/-- ORs a value into a bad-unit register (R25). -/
def orBadUnits (s : State) (num : Nat) (v : Word) : State :=
  if 0x400 ≤ num ∧ num ≤ 0x41F then updRegs s fun r => { r with badn := insertAt r.badn (num - 0x400) (lookupD r.badn (num - 0x400) 0 ||| v) }
  else if 0x420 ≤ num ∧ num ≤ 0x427 then updRegs s fun r => { r with badi := insertAt r.badi (num - 0x420) (lookupD r.badi (num - 0x420) 0 ||| v) }
  else if num = 0x428 then updRegs s fun r => { r with badx := r.badx ||| v }
  else if num = 0x429 then updRegs s fun r => { r with badc := r.badc ||| v }
  else s

/-- A write of a matching-store or numeric register. -/
def writePartReg (s : State) (p num : Nat) (v : Word) : State :=
  let n := v.toNat
  let log := bits n 0 5
  let tokens := s.spilled.any fun x => x.t.part == p
  let colours := !(spilledColours s p).isEmpty
  let set (f : Partition → Partition) : State := updPart s p f
  match num with
  | 0x440 =>
    let on := bits n 8 7
    let off := bits n 0 7
    if on = 0 ∨ 64 < on ∨ on ≤ off then s else set fun x => { x with on := on, off := off }
  | 0x441 => if tokens then s else set fun x => { x with tksb := v &&& baseMask }
  | 0x442 => if tokens ∨ !logLegal 10 24 log then s else set fun x => { x with tksn := log }
  | 0x443 => if colours then s else set fun x => { x with clsb := v &&& baseMask }
  | 0x444 => if colours ∨ !logLegal 6 16 log then s else set fun x => { x with clsn := log }
  | 0x448 => set fun x => { x with tksc := v }
  | 0x449 => set fun x => { x with tkrc := v }
  | 0x44A => set fun x => { x with thrc := v }
  | 0x44B => set fun x => { x with clsc := v }
  | 0x44C => set fun x => { x with deadc := v }
  | 0x44D => set fun x => { x with mshw := bits n 0 12 }
  | 0x450 => set fun x => { x with seed := v }
  | 0x451 => if bits n 0 4 = 7 ∨ bits n 0 4 = 9 then set fun x => { x with nver := bits n 0 4 } else s
  | _ => s

/-- A write of a memory register. -/
def writeMemReg (s : State) (num : Nat) (v : Word) : State :=
  let n := v.toNat
  let set (f : Regs → Regs) : State := updRegs s f
  match num with
  | 0x460 => if 12 < bits n 0 4 then s else { set (fun r => { r with heatk := bits n 0 4 }) with misses := [] }
  | 0x461 => set fun r => { r with heatb := v &&& 0x0FFFFFFFC0000001#64 }
  | 0x462 => if v.getLsbD 0 then set fun r => { r with heatRun := true } else s
  | 0x463 => set fun r => { r with heats := v }
  | 0x464 =>
    let w := v &&& 0x0FFFFFFE00000001#64
    if v.getLsbD 0 ∧ (!usable s 3 ∨ s.regs.cmbas.getLsbD 0) then s
    else updRegs (if s.regs.cmbas.getLsbD 0 then leavePacked s else s) fun r => { r with cmbas := w }
  | 0x465 => set fun r => { r with cmraw := v }
  | 0x466 => set fun r => { r with cmmcm := v }
  | 0x467 => set fun r => { r with cmovf := v }
  | 0x468 => set fun r => { r with cmpsn := v }
  | 0x469 => if s.dfr.isEmpty then set fun r => { r with dfrb := v &&& baseMask } else s
  | 0x46A => if s.dfr.isEmpty && logLegal 10 24 (bits n 0 5) then set fun r => { r with dfrn := bits n 0 5 } else s
  | 0x46C => set fun r => { r with ecsel := v.setWidth 14 }
  | _ => s

/-- Some configuration of a partition has a sleeve on a grid. -/
def gridLoaded (s : State) (g : Nat) : Bool := s.sleeves.any fun v => descGrid v.2.desc == g
/-- A write of PGRD. -/
def writePgrd (s : State) (p : Nat) (v : Word) : State :=
  let new : BitVec 16 := v.setWidth 16
  let old := (partOf s p).grids
  let bad (g : Nat) : Bool :=
    (new.getLsbD g && (List.range 16).any fun q => q != p && (partOf s q).grids.getLsbD g) || (new.getLsbD g != old.getLsbD g && gridLoaded s g)
  if (List.range 16).any bad then s else updPart s p fun x => { x with grids := new }

/-- A write of QCFG: clearing EN empties the FIFO (R268). -/
def writeQcfg (s : State) (c : Nat) (v : Word) : State :=
  let n := v.toNat
  let xoff := bits n 16 9
  let xon := bits n 0 9
  if xoff ≤ xon ∨ 256 < xoff then s
  else
    let en := v.getLsbD 63
    updQueue s c fun q =>
      let q := { q with en := en, pri := bits n 48 3, age := bits n 40 8, xoff := xoff, xon := xon, eff := bits n 48 3, aged := 0 }
      if en then q else { q with fifo := [], cdrop := q.cdrop + BitVec.ofNat 64 q.fifo.length }

/-- A write of a queue register. -/
def writeQueueReg (s : State) (c k : Nat) (v : Word) : State :=
  let n := v.toNat
  match k with
  | 0 => writeQcfg s c v
  | 1 => drainEgress (updQueue s c fun q => { q with qegb := v &&& baseMask }) c
  | 2 => if logLegal 6 16 (bits n 0 5) then drainEgress (updQueue s c fun q => { q with qegn := bits n 0 5 }) c else s
  | 3 => updQueue s c fun q => { q with qwdt := bits n 0 32 }
  | 5 => if (queueOf s c).en then s else updQueue s c fun q => { q with eseq := v.extractLsb' 32 32, next := v.setWidth 32 }
  | 6 => updQueue s c fun q => { q with qimg := v &&& baseMask }
  | _ => s

/-- A write to FQSEQ frees places of the fault queue (R280). -/
def writeFqseq (s : State) (p : Nat) (v : Word) : State :=
  drainFaults (updPart s p fun x => { x with fack := v.setWidth 32 }) p

/-- A write of a translation and fault register; PTBR and TCTL only through the window. -/
def writeFaultReg (s : State) (p k : Nat) (v : Word) (window : Bool) (order : Nat) : State :=
  match k with
  | 0 => if window then updPart s p fun x => { x with ptbr := v &&& 0x800000FFFFFFE000#64 } else s
  | 1 => if window then updPart s p fun x => { x with sup := v.getLsbD 0 } else s
  | 2 => drainFaults (updPart s p fun x => { x with fqb := v &&& baseMask }) p
  | 3 => if logLegal 6 16 (bits v.toNat 0 5) then drainFaults (updPart s p fun x => { x with fqn := bits v.toNat 0 5 }) p else s
  | 4 => writeFqseq s p v
  | 5 => writeRply s p v order
  | _ => s

/-! ### The owner-lost log (R315) -/

/-- Write the waiting entries of the owner-lost log whose places are free, in order. -/
def flushOwnerLog : Nat → State → State
  | 0, s => s
  | n + 1, s =>
    match s.olrecs with
    | [] => s
    | (f, ws) :: rs =>
      if (f + 2 ^ 32 - s.regs.olack.toNat - 1 + 2 ^ 32) % 2 ^ 32 < 2 ^ s.regs.oln then
        flushOwnerLog n { writeRecord s (s.regs.olb.toNat + 256 * (f % 2 ^ s.regs.oln)) ws with olrecs := rs }
      else s
/-- The waiting entries whose places are free are written; with OLN.LOG 0 all are discarded. -/
def drainOwnerLog (s : State) : State := if s.regs.oln = 0 then { s with olrecs := [] } else flushOwnerLog s.olrecs.length s
/-- A write to OLSEQ. -/
def writeOlseq (s : State) (v : Word) : State := drainOwnerLog (updRegs s fun r => { r with olack := v.setWidth 32 })

/-- A write of a reliability register. -/
def writeRelReg (s : State) (k : Nat) (v : Word) (window : Bool) : State :=
  let n := v.toNat
  let set (f : Regs → Regs) : State := updRegs s f
  if k < 0x0E then
    if !window then s
    else if 1 ≤ k ∧ k ≤ 8 then writeGmem s (k - 1) v
    else match k with
    | 0x00 => writeGcfg s v
    | 0x09 => if s.regs.gstate = 3 ∨ s.regs.gen then s else set fun r => { r with gpb := v &&& 0x0FFFFFFE00000000#64 }
    | 0x0A =>
      if s.regs.gstate = 3 ∨ s.regs.gen ∨ bits n 0 23 % 8 ≠ 0 ∨ 6835936 < bits n 0 23 then s else set fun r => { r with gpn := bits n 0 23 }
    | 0x0D => set fun r => { r with glto := bits n 0 32 }
    | _ => s
  else match k with
    | 0x0E => set fun r => { r with gdlt := v }
    | 0x0F => set fun r => { r with gpps := v }
    | 0x10 => if v.getLsbD 17 ∨ (unitNamed (v.setWidth 16)).isNone then s else set fun r => { r with plog := 0 }
    | 0x11 => set fun r => { r with tptc := v }
    | 0x12 => set fun r => { r with tplc := v }
    | 0x13 => set fun r => { r with lmis := v }
    | 0x14 => set fun r => { r with lmlc := v }
    | 0x15 => if bits n 0 32 = 0 ∨ 1000000 < bits n 0 32 then s else set fun r => { r with ownto := bits n 0 32 }
    | 0x16 => drainOwnerLog (set fun r => { r with olb := v &&& baseMask })
    | 0x17 => if logLegal 6 16 (bits n 0 5) then drainOwnerLog (set fun r => { r with oln := bits n 0 5 }) else s
    | 0x18 => writeOlseq s v
    | _ => s

/-- A write of an identity, CXL or Helup register: through the window only (R333). -/
def writeIdReg (s : State) (num : Nat) (v : Word) : State :=
  let n := v.toNat
  let set (f : Regs → Regs) : State := updRegs s f
  match num with
  | 0x900 => if s.cfgs.isEmpty then set fun r => { r with devn := v.setWidth 22 } else s
  | 0x902 => if s.cfgs.isEmpty then set fun r => { r with dmask := v } else s
  | 0x910 => set fun r => { r with cxwb := v &&& 0x0000FFFFFFFF0000#64 }
  | 0x911 => if 16 ≤ bits n 0 6 ∧ bits n 0 6 ≤ 42 then set fun r => { r with cxws := bits n 0 6 } else s
  | 0x920 => set fun r => { r with hxen := v.getLsbD 63, hxto := bits n 16 32, hxpart := bits n 0 4 }
  | 0x921 => set fun r => { r with hxwb := bits n 0 24 }
  | 0x922 => set fun r => { r with hxwn := bits n 0 24 }
  | 0x923 => set fun r => { r with hrtb := v &&& baseMask }
  | 0x925 => set fun r => { r with hlrt := v }
  | 0x926 => set fun r => { r with hldr := v }
  | _ => s

/-- A group command (Table 10.1). -/
def groupCommand (s : State) (v : Word) : State :=
  let run (o : Host.Outcome State Fault Refusal) : State := match o with | .next t => t | _ => s
  if bits v.toNat 0 56 ≠ 0 then s
  else match bits v.toNat 56 8 with
    | 1 => run (execHold s)
    | 2 => run (execRelease s)
    | 3 => run (execRebuild s)
    | _ => s

/-- A write of a system register under its row's rules (R428). An SWR reaches its own partition's copy, and none of the registers
that are written only through the window; the window reaches no partition's copy of those without a number (log 18). -/
def writeReg (s : State) (num : Nat) (v : Word) (via : Via) : State :=
  let window : Bool := match via with | .mgmt | .bar _ _ => true | .swr _ _ => false
  let own (p : Nat) : Bool := match via with | .mgmt | .bar _ _ => true | .swr q _ => p == q
  if 0x400 ≤ num ∧ num < 0x440 then orBadUnits s num v
  else if 0x440 ≤ num ∧ num < 0x460 then match via with | .swr p _ => writePartReg s p num v | .mgmt | .bar _ _ => s
  else if 0x460 ≤ num ∧ num < 0x480 then writeMemReg s num v
  else if 0x700 ≤ num ∧ num < 0x800 then
    let p := (num - 0x700) / 16
    if own p then
      let (order, s) := if window then (0, s) else fresh s
      writeFaultReg s p (num % 16) v window order
    else s
  else if num = 0x80C then if window then groupCommand s v else s
  else if 0x800 ≤ num ∧ num < 0x820 then writeRelReg s (num - 0x800) v window
  else if !window then s
  else if 0x4A0 ≤ num ∧ num < 0x4B0 then writePgrd s (num - 0x4A0) v
  else if 0x4B0 ≤ num ∧ num < 0x4C0 then updPart s (num - 0x4B0) fun x => { x with hvcap := bits v.toNat 0 16 }
  else if 0x500 ≤ num ∧ num < 0x700 then writeQueueReg s ((num - 0x500) / 8) (num % 8) v
  else if 0x900 ≤ num ∧ num < 0x940 then writeIdReg s num v
  else s

/-! ## Events -/

/-- A read of BAR0, of 64 bits at a byte offset: the cuff region, the registers of the management window, and zero elsewhere (R321). -/
def readBar (s : State) (ofs : Nat) : Word :=
  if ofs < 0x40000 then readWindow s ofs
  else if 0x100000 ≤ ofs ∧ ofs < 0x180000 then readReg s none ((ofs - 0x100000) / 8)
  else 0
/-- A write of BAR0, of 64 bits at a byte offset. -/
def writeBar (s : State) (ofs : Nat) (v : Word) : State :=
  if ofs < 0x40000 then writeWindow s ofs v (s.inbound.map fun x => .inbound x.n)
  else if 0x100000 ≤ ofs ∧ ofs < 0x180000 then writeReg s ((ofs - 0x100000) / 8) v .mgmt
  else s

/-- REGISTER_WRITE; and a host's access to BAR0, which completes as an Unsupported Request unless it is 8 bytes wide at a multiple of 8. -/
def execRegisterWrite (num : Nat) (v : Word) (via : Via) (s : State) : Host.Outcome State Fault Refusal :=
  .next (match via with
    | .mgmt | .swr _ _ => writeReg s num v via
    | .bar width write =>
      if width ≠ 8 ∨ num % 8 ≠ 0 then { s with out := s.out ++ [.bar num none] }
      else if write then writeBar s num v
      else { s with out := s.out ++ [.bar num (some (readBar s num))] })
def execHeatkWrite (v : Word) (s : State) : Host.Outcome State Fault Refusal := .next (writeMemReg s 0x460 v)
def execHeatdWrite (v : Word) (s : State) : Host.Outcome State Fault Refusal := .next (writeMemReg s 0x462 v)
def execCmbasWrite (v : Word) (s : State) : Host.Outcome State Fault Refusal := .next (writeMemReg s 0x464 v)
def execBadUnitWrite (num : Nat) (v : Word) (s : State) : Host.Outcome State Fault Refusal := .next (orBadUnits s num v)
def execQcfgWrite (cuff : Nat) (v : Word) (s : State) : Host.Outcome State Fault Refusal := .next (onCuff s cuff fun s => writeQcfg s cuff v)
def execFqseqWrite (part : Nat) (v : Word) (s : State) : Host.Outcome State Fault Refusal := .next (if part < 16 then writeFqseq s part v else s)
def execOlseqWrite (v : Word) (s : State) : Host.Outcome State Fault Refusal := .next (writeOlseq s v)

/-! ## SRD and SWR (R425, R427, R428) -/

/-- The register that an SRD names. -/
def srdNumber (r : GRec) (f : Firing) : Nat := if r.c.ar = .start then r.lit.toNat % 65536 else (opWord f.a).toNat % 65536

/-- PROTECTION with cause PRIVFORM (R273). -/
def privForm (s : State) (f : Firing) : State := protect s f { cause := 7 }

/-- SRD: the register as it stands in the cycle of issue. -/
def execSrd (r : GRec) (s : State) : Host.Outcome State Fault Refusal :=
  .next (fire s r.c 0 fun f s =>
    let num := srdNumber r f
    if !supervisor s f.part && !userReads num then privForm s f
    else sendBoth s f (scalarOf (readReg s (some (f.part, f.sleeve)) num)))

/-- SWR: privilege at issue; the write takes effect at commit. -/
def execSwr (r : GRec) (s : State) : Host.Outcome State Fault Refusal :=
  .next (fire s r.c 0 fun f s =>
    let num := r.lit.toNat % 65536
    if !supervisor s f.part && swrWrites f.part num then privForm s f
    else sendBoth (updAct s f.act fun x => { x with swrs := x.swrs ++ [(f.node, num, opWord f.a)] }) f (scalarOf 0))

end Sys2Proof.Machine
end

