-- ==== Sys2Proof/Machine/System.lean ====
section
/-! DEFINITION. The system forms: TRAP and BKPT (R351, R444), ERET (R372), HVYA and HVYR (R261, R262, R386), FRZ (R384), TLBI
(R276), PMIG (R200, R277, R408), DRCL (R316) and LCMP with the lining rule (R304 to R307), and the events that end their waits. -/

namespace Sys2Proof.Machine

open Sys2Proof

/-! ## Traps and ERET -/

def execTrap (r : GRec) (s : State) : Host.Outcome State Fault Refusal :=
  .next (fire s r.c 0 fun f s => raise s f.act f.node { cls := .softwareTrap })
def execBkpt (r : GRec) (s : State) : Host.Outcome State Fault Refusal :=
  .next (fire s r.c 0 fun f s => raise s f.act f.node { cls := .breakpoint })

/-- A form that only supervisor privilege may perform (R273). -/
def fireSup (s : State) (r : GRec) (body : Firing → State → State) : State :=
  fire s r.c 0 fun f s => if supervisor s f.part then body f s else privForm s f

/-- ERET waits for the replay actions of the SWRs that have committed by now. -/
def execEret (r : GRec) (s : State) : Host.Outcome State Fault Refusal :=
  .next (fireSup s r fun f s => let (n, s) := fresh s; (waitOp s f (.eret n)).2)

/-! ## Budget units (R261, R262) -/

/-- The units that an HVYA or HVYR names. -/
def unitsOf (r : GRec) (f : Firing) : Nat := if r.c.ar = .start then r.lit.toNat else (opWord f.a).toNat % 65536

/-- Holdings of a configuration's colours. -/
def configUnits (s : State) (c : Nat) : Nat :=
  ((s.colours.filter fun x => (sleeveOf s x.2.sleeve).cfg == c).map (·.2.holding)).foldl (· + ·) 0

/-- The holding of a firing's colour. -/
def holdingOf (s : State) (f : Firing) : Nat := (colourOf s (actOf s f.act).colour).holding

/-- Set a colour's holding and send it. -/
def setHolding (s : State) (f : Firing) (n : Nat) : State :=
  updColour s (actOf s f.act).colour fun c => { c with holding := n }

/-- HVYA: a request that could never be granted is HEAVY_WITHOUT_LEAVE; any other waits at the regulator. -/
def execHvya (r : GRec) (s : State) : Host.Outcome State Fault Refusal :=
  .next (fire s r.c 0 fun f s =>
    let n := unitsOf r f
    let h := holdingOf s f
    if n = 0 then sendBoth s f (scalarOf (BitVec.ofNat 64 h))
    else if (cfgOf s (sleeveOf s f.sleeve).cfg).budget < n ∨ (partOf s f.part).hvcap < n ∨ 65535 < h + n then
      raise s f.act f.node { cls := .heavyWithoutLeave }
    else
      let (k, s) := waitOp s f (.hvya n)
      updPart s f.part fun x => { x with regulator := x.regulator ++ [k] })

/-- HVYR: 0 and more than the holding return every unit held. -/
def execHvyr (r : GRec) (s : State) : Host.Outcome State Fault Refusal :=
  .next (fire s r.c 0 fun f s =>
    let n := unitsOf r f
    let h := holdingOf s f
    let left := if n = 0 then 0 else h - n
    sendBoth (setHolding s f left) f (scalarOf (BitVec.ofNat 64 left)))

/-- HEAVY_GRANT: the request at the head of a partition's regulator is granted when both limits allow it. -/
def execHeavyGrant (part : Nat) (s : State) : Host.Outcome State Fault Refusal :=
  .next (match (partOf s part).regulator with
    | [] => s
    | k :: rest =>
      match lookup s.ops k with
      | some { f := f, w := .hvya n, order := _ } =>
        let c := (sleeveOf s f.sleeve).cfg
        if (partOf s part).pstate = .running ∧ configUnits s c + n ≤ (cfgOf s c).budget ∧ unitsHeld s part + n ≤ (partOf s part).hvcap then
          let h := holdingOf s f + n
          finishOp (setHolding (updPart s part fun x => { x with regulator := rest }) f h) k (scalarOf (BitVec.ofNat 64 h))
        else s
      | _ => updPart s part fun x => { x with regulator := rest })

/-! ## FRZ (R384) -/

/-- FRZ arms a freeze of its partition. -/
def execFrz (r : GRec) (s : State) : Host.Outcome State Fault Refusal :=
  .next (fireSup s r fun f s =>
    updAct s f.act fun x => { x with frz := some (if r.c.ar = .start then none else some (opWord f.a)) })

/-! ## TLBI (R276) -/

/-- An address lies in the 64 KiB page or the 32 MiB page of another; with none, everywhere. -/
def onPages (page : Option Word) (va : Word) : Bool :=
  match page with
  | none => true
  | some a => pageBase va true == pageBase a true

/-- A cached translation covers the page. -/
def covers (p : Nat) (page : Option Word) (x : TlbEntry) : Bool :=
  x.part == p && match page with | none => true | some a => x.va == pageBase a x.big

/-- A store was translated with an entry that is removed: its page is the 64 KiB page, or the 32 MiB page of its leaf. -/
def usesPages (page : Option Word) (e : StoreElem) : Bool :=
  match page with
  | none => true
  | some a => pageBase e.va e.big == pageBase a e.big

/-- Remove translations; stores that have not committed are translated again before they may. -/
def invalidate (s : State) (p : Nat) (page : Option Word) : State :=
  let uses (x : Store) : Bool := x.part == p && x.kind != .scratch && !x.committed && !x.parked && x.elems.any (usesPages page)
  let l := (s.stores.filter fun x => uses x.2).map (·.1)
  l.foldl retranslate (tlbRemove s (covers p page))

/-- The committed stores that TLBI waits for. -/
def awaitedBy (s : State) (p : Nat) (page : Option Word) : List Nat :=
  (s.stores.filter fun x =>
    x.2.part == p && x.2.kind != .scratch && x.2.committed && !x.2.parked && x.2.elems.any (usesPages page)).map (·.1)

/-- TLBI: the translations are removed at issue, and its token waits. -/
def tlbiForm (s : State) (r : GRec) (page : Firing → Option Word) : State :=
  fireSup s r fun f s =>
    let pg := page f
    invalidate (waitOp s f (.tlbi pg (awaitedBy s f.part pg))).2 f.part pg

def execTlbiPage (r : GRec) (s : State) : Host.Outcome State Fault Refusal := .next (tlbiForm s r fun f => some (opWord f.a))
def execTlbiPart (r : GRec) (s : State) : Host.Outcome State Fault Refusal := .next (tlbiForm s r fun _ => none)

/-- The first and last address that a waiting memory form touches. -/
def opRange (s : State) (o : Op) : Word × Word :=
  let w := imgRec (actOf s o.f.act).image o.f.node
  let a := opWord o.f.a + (w.extractLsb' 0 32).signExtend 64
  let t := match Ty.ofCode (w.extractLsb' 80 4) with | some t => t.width | none => 64
  let n := if recOpc w = 0x62 then t * vectorCount t o.f.grant else t
  (a, a + BitVec.ofNat 64 (n - 1))

/-- A form that waits for memory, and whose access is not performed. -/
def accessWait : Wait → Bool
  | .remote _ _ _ _ | .remoteAtomic _ _ _ | .window _ | .lds _ _ _ _ _ => true
  | _ => false

/-- The partition of a transfer, a collective or a migration whose writes are under way. -/
def xferPart (s : State) (tid : Nat) : Option Nat :=
  match lookup s.xfers tid, lookup s.colls tid, lookup s.ops tid with
  | some x, _, _ => some x.f.part
  | none, some x, _ => some x.f.part
  | none, none, some o => some o.f.part
  | none, none, none => none

/-- An access that used a removed translation is not performed yet. -/
def tlbiHeld (s : State) (op p : Nat) (page : Option Word) (await : List Nat) : Bool :=
  (s.stores.any fun x => await.contains x.1 && !x.2.parked)
    || (s.ops.any fun o => decide (o.1 < op) && o.2.f.part == p && accessWait o.2.w
      && (onPages page (opRange s o.2).1 || onPages page (opRange s o.2).2))
    || s.remotes.any fun r => match r.2.what with | .xfer t => xferPart s t == some p | _ => false

/-- TLBI_COMPLETE. -/
def execTlbiComplete (op : Nat) (s : State) : Host.Outcome State Fault Refusal :=
  .next (match lookup s.ops op with
    | some { f := f, w := .tlbi page await, order := _ } => if tlbiHeld s op f.part page await then s else finishOp s op (scalarOf 0)
    | _ => s)

/-! ## PMIG (R200, R277) -/

/-- The cause-9 fault of a migration: the entry read last and its level. -/
def migrateFault (s : State) (f : Firing) (va e : Word) (big : Bool) : State :=
  protect s f { cause := 9, va := va, lvl := if big then 2 else 3, info := e }

/-- An old and a new leaf entry that may not be migrated. -/
def migrateBad (s : State) (e new : Word) (big : Bool) : Bool :=
  big || leafRemote s e || !new.getLsbD 63 || !new.getLsbD 62 || pteBad s new 3 || (leafProt e && leafRemote s new)

/-- From the walk of the page on: lock it, unless it is locked. -/
def lockPage (s : State) (f : Firing) (va new : Word) : State :=
  if !canonical va then protect s f { cause := 1, va := va }
  else
    let (l, r) := walkTables s f.part va
    let s := touchTables s l
    match r with
    | .owned k => snoopOwner s k (some (entryOf s f))
    | .stop cause lvl e =>
      park s f.act f.node { cls := .translation, cause := cause, lvl := lvl, va := va, info := e } (.form (entryOf s f))
    | .leaf e big loc =>
      if migrateBad s e new big then migrateFault s f va e big
      else if lockedLoc s e big va then sendBoth s f (scalarOf 0)
      else (waitOp { s with locks := s.locks ++ [{ part := f.part, va := va, old := e, new := new }] } f (.pmig va (BitVec.ofNat 64 loc) new e 0)).2

/-- A form's own read met an owner-lost line (R314). -/
def ownerFault (s : State) (f : Firing) (va : Word) : State := raise s f.act f.node { cls := .ownerLost, va := va }

/-- PMIG: the descriptor is read, and the page locked. -/
def execPmig (r : GRec) (s : State) : Host.Outcome State Fault Refusal :=
  .next (fireSup s r fun f s =>
    let a := opWord f.a
    if a.toNat % 64 ≠ 0 then raise s f.act f.node { cls := .alignClass, va := a }
    else
      let n : Need := { use := .read, width := 64, unnamed := true }
      match resolve s f n [a, a + 64] with
      | .done t => t
      | .ok l =>
        match blockedLine s f { n with width := 0 } l with
        | some t => t
        | none =>
          match l with
          | [p, q] =>
            match agentRead s (partLoc s p) 64 true with
            | .wait t => stall t f
            | .lost => ownerFault s f p.va
            | .refused => protect s f { cause := 10, va := p.va }
            | .ok va b t =>
              match agentRead t (partLoc t q) 64 true with
              | .wait u => stall u f
              | .lost => ownerFault t f q.va
              | .refused => protect t f { cause := 10, va := q.va }
              | .ok new c u =>
                if b || c then killFiring u f else lockPage u f (pageBase (BitVec.ofNat 64 va) false) (BitVec.ofNat 64 new)
          | _ => s)

/-- Places of the sectors of a page under a leaf. -/
def sectorLoc (s : State) (e va : Word) (k : Nat) : Loc := locOf s e false (va + BitVec.ofNat 64 (256 * k))

/-- Copy one sector: data and poison, with a delta of a protected page. -/
def copySector (wr : Writer) (old new va : Word) (s : State) (k : Nat) : State :=
  let src := sectorLoc s old va k
  let dst := sectorLoc s new va k
  let exists' : Bool := match dst with | .dev apr a => apertureExists apr (a / 8) | .pod _ => true | .remote _ _ | .reg _ => false
  match src with
  | .reg _ | .remote _ _ => s
  | .dev _ _ | .pod _ =>
    if !exists' then s
    else
      let s := touch s src true
      let bad := poisonLoc s src
      let s := bankWrite s wr new dst 256 (readLoc s src 256)
      if bad then setPoisonLoc s dst true else s

/-- The words of a page: number of the old word, and of the new one. -/
def wordMoves (s : State) (old new va : Word) : List (Nat × Nat) :=
  (List.range 8192).filterMap fun i =>
    match locOf s old false (va + BitVec.ofNat 64 (64 * i)), locOf s new false (va + BitVec.ofNat 64 (64 * i)) with
    | .dev p a, .dev q b => some (cdaOf p (a / 8) / 8, cdaOf q (b / 8) / 8)
    | _, _ => none

/-- Carry the F and D bits over, and the LDSs that wait at the words. -/
def moveWords (s : State) (p : Nat) (old new va : Word) : State :=
  let m := wordMoves s old new va
  let s := m.foldl (fun s x => setWordState s x.2 (wordState s x.1)) s
  { s with ops := s.ops.map fun o =>
      match o.2.w with
      | .lds k ofs t z e =>
        if o.2.f.part = p ∧ pageBase (opRange s o.2).1 false = va then
          match m.find? fun x => x.1 == k with
          | some x => (o.1, { o.2 with w := .lds x.2 ofs t z e })
          | none => o
        else o
      | _ => o }

/-- Send a sector of a page to another device; the flag tells whether its messages found a route. -/
def sendPageSector (op : Nat) (old va : Word) (dst a : Nat) (s : State) (k : Nat) : Bool × State :=
  let src := sectorLoc s old va k
  match src with
  | .reg _ | .remote _ _ => (true, s)
  | .dev _ _ | .pod _ =>
    let s := touch s src true
    sendBits op dst 3 (dropCopy s dst ((a + 256 * k) / 512)) (va + BitVec.ofNat 64 (256 * k)) (a + 256 * k) 256 (readLoc s src 256)

/-- Release a migration lock; what it held goes on. -/
def unlock (s : State) (p : Nat) (va : Word) : State :=
  wake { s with locks := s.locks.filter fun l => !(l.part == p && l.va == va) }

/-- A migration that cannot be done: its lock is released and its fault raised. -/
def failPmig (s : State) (op : Nat) (i : FaultInfo) : State :=
  match lookup s.ops op with
  | some { f := f, w := .pmig va _ _ _ _, order := _ } => raise (unlock (dropOp s op) f.part va) f.act f.node i
  | _ => s

/-- A leaf reaches a 64 KiB frame of another at an address. -/
def onFrame (s : State) (old e : Word) (big : Bool) (va : Word) : Bool :=
  leafApr e == leafApr old && leafDev e == leafDev old && leafDr e == leafDr old && leafCpt e == leafCpt old
    && frameAddr e big va / 2 ^ 19 == leafPpn old && !leafRemote s e
/-- A spot on a page that has been switched lies on the new copy. -/
def moveSpot (s : State) (old new : Word) (x : Spot) : Spot := if onFrame s old x.leaf x.big x.va then { x with leaf := new, big := false } else x

/-- Committed stores and held accesses on the old copy, whatever mapping they came through, are performed on the new one (R200). -/
def moveHeld (s : State) (old new : Word) : State :=
  { s with
    stores := s.stores.map fun x =>
      if x.2.committed && x.2.kind != .scratch then
        (x.1, { x.2 with elems := x.2.elems.map fun e => let y := moveSpot s old new e.spot; { e with leaf := y.leaf, big := y.big } })
      else x
    waits := s.waits.map fun h =>
      if h.spots.any fun x => onFrame s old x.leaf x.big x.va then { h with spots := h.spots.map (moveSpot s old new), moved := true } else h }

/-- A cached translation reaches a frame. -/
def reaches (s : State) (old : Word) (x : TlbEntry) : Bool :=
  if x.big then leafApr x.leaf == leafApr old && leafDev x.leaf == leafDev old && leafDr x.leaf == leafDr old && leafCpt x.leaf == leafCpt old
    && leafPpn x.leaf / 512 == leafPpn old / 512
  else onFrame s old x.leaf false x.va

/-- Write the new leaf, remove every translation that can reach the old copy and release the lock: the switch, at one instant. The
partition's stores that have not committed are translated again, as TLBI.PAGE has them. -/
def switchPage (s : State) (op : Nat) (f : Firing) (va loc new old : Word) : State :=
  let s := bankWrite s {} 0 (.dev 0 (8 * loc.toNat)) 64 new.toNat
  let s := invalidate (tlbRemove (moveHeld s old new) (reaches s old)) f.part (some va)
  finishOp (unlock s f.part va) op (scalarOf 1)

/-- A line of a page that a pod agent owns. -/
def pageOwned (s : State) (e va : Word) : Option Nat :=
  (List.range 1024).findSome? fun k => ownedLoc s (sectorLoc s e va (2 * k))
/-- A line of a page that is owner-lost. -/
def pageLost (s : State) (e va : Word) : Option Word :=
  ((List.range 1024).find? fun k => lostLoc s (sectorLoc s e va (2 * k))).map fun k => va + BitVec.ofNat 64 (512 * k)

/-- The migration goes on from a sector. -/
def setPmig (s : State) (op : Nat) (f : Firing) (va loc new old : Word) (k : Nat) : State :=
  { s with ops := insertAt s.ops op { f := f, w := .pmig va loc new old k, order := op } }

/-- Copy the sectors of a page from the `k`-th on, as far as none is held (R294): how many are copied. -/
def copyPage (wr : Writer) (op : Nat) (old new va : Word) (free : Spot → State → Bool) : Nat → State → Nat → Nat × State
  | 0, s, k => (k, s)
  | n + 1, s, k =>
    let spot : Spot := { va := va + BitVec.ofNat 64 (256 * k), leaf := new }
    if 2048 ≤ k || !free spot s then (k, s) else copyPage wr op old new va free n (copySector wr old new va s k) (k + 1)

/-- Send the sectors of a page to another device; none when a message finds no route. -/
def sendPage (op : Nat) (old va : Word) (dst a : Nat) (s : State) : Bool × State :=
  (List.range 2048).foldl (fun r k => let (ok, s) := sendPageSector op old va dst a r.2 k; (r.1 && ok, s)) (true, s)

/-- PMIG_SWITCH: the copy, as far as it may go, and the switch once it is whole. -/
def migrate (s : State) (op : Nat) (f : Firing) (va loc new old : Word) (next : Nat) : State :=
  let here (l : Lock) : Bool := l.part == f.part && l.va == va
  let free (x : Spot) (s : State) : Bool := !heldSpots { s with locks := s.locks.filter fun l => !here l } [x]
  let wr : Writer := { writerAt s f (nodeLsid s f.act f.node) false with lsid := 0 }
  match pageLost s old va, pageLost s new va, pageOwned s old va, pageOwned s new va with
  | some a, _, _, _ | none, some a, _, _ => failPmig s op { cls := .ownerLost, va := a }
  | none, none, some l, _ | none, none, none, some l => snoopOwner s l none
  | none, none, none, none =>
    match locOf s new false va with
    | .remote dst a =>
      if next = 0 then
        let (ok, t) := sendPage op old va dst a s
        if ok then setPmig t op f va loc new old 2048 else failPmig t op { cls := .protection, cause := 10, va := va, wr := true }
      else if awaitsRemote s op then s else switchPage s op f va loc new old
    | .dev _ _ | .pod _ | .reg _ =>
      let (k, t) := copyPage wr op old new va free 2048 s next
      if k < 2048 then setPmig t op f va loc new old k else switchPage (moveWords t f.part old new va) op f va loc new old

def execPmigSwitch (op : Nat) (s : State) : Host.Outcome State Fault Refusal :=
  .next (match lookup s.ops op with
    | some { f := f, w := .pmig va loc new old next, order := _ } =>
      if (partOf s f.part).pstate = .frozen then s else migrate s op f va loc new old next
    | _ => s)

/-! ## DRCL (R316) -/

/-- The source of a DRCL: two sectors of B, or of the home memory; with their poison. -/
def drclSource (s : State) (f : Firing) (home : Nat) (b : Word) : Except State (Nat × Bool × Nat × Bool × State) :=
  if b = 0 then
    let lo : Loc := .dev 0 home
    let hi : Loc := .dev 0 (home + 256)
    .ok (readLoc s lo 256, poisonLoc s lo, readLoc s hi 256, poisonLoc s hi, s)
  else
    let n : Need := { use := .read, width := 512, unnamed := true }
    match resolve s f n [b] with
    | .done t => .error t
    | .ok l =>
      match blockedLine s f { n with width := 0 } l, l with
      | some t, _ => .error t
      | none, [p, q] =>
        match agentRead s (partLoc s p) 256 true with
        | .wait t => .error (stall t f)
        | .lost => .error (ownerFault s f p.va)
        | .refused => .error (protect s f { cause := 10, va := p.va })
        | .ok v x t =>
          match agentRead t (partLoc t q) 256 true with
          | .wait u => .error (stall u f)
          | .lost => .error (ownerFault t f q.va)
          | .refused => .error (protect t f { cause := 10, va := q.va })
          | .ok w y u => .ok (v, x, w, y, u)
      | none, _ => .error s

/-- The line of a DRCL is reclaimed. -/
def reclaim (s : State) (f : Firing) (leaf : Word) (home line : Nat) (v : Nat × Bool × Nat × Bool) : State :=
  let wr := writerAt s f 0 false
  let one (s : State) (ofs x : Nat) (bad : Bool) : State :=
    let loc : Loc := .dev 0 (home + ofs)
    let s := bankWrite s wr leaf loc 256 x
    if bad then setPoisonLoc s loc true else s
  let s := one (one s 0 v.1 v.2.1) 256 v.2.2.1 v.2.2.2
  wake { s with dir := eraseAt s.dir line, ownerLost := s.ownerLost.filter (· != line) }

def execDrcl (r : GRec) (s : State) : Host.Outcome State Fault Refusal :=
  .next (fireSup s r fun f s =>
    let a := opWord f.a
    let b := opWord f.b
    if b.toNat % 512 ≠ 0 then raise s f.act f.node { cls := .alignClass, va := b }
    else match resolve s f { use := .atomic, unnamed := true } [a] with
      | .done t => t
      | .ok l =>
        match l with
        | [] => s
        | p :: _ =>
          match partLoc s p with
          | .dev 0 addr =>
            let line := addr / 512
            if !s.ownerLost.contains line then sendBoth s f (scalarOf 0)
            else atStep1 s f l fun s => match drclSource s f (512 * line) b with
              | .error t => t
              | .ok (v, x, w, y, s) => sendBoth (reclaim s f p.leaf (512 * line) line (v, x, w, y)) f (scalarOf 1)
          | .dev _ _ | .pod _ | .remote _ _ | .reg _ => protect s f { cause := 6, va := a, wr := true })

/-! ## LCMP and linings (R304 to R307) -/

/-- Pass the operands of an LCMP on: A to T0, B to T1; with a null one, null to each (R32). -/
def passBoth (s : State) (f : Firing) : State :=
  if anyNull f then sendBoth s f nullTok else
  let t := sendTarget s f f.com.t0 (f.a.getD nullTok)
  if actLive (actOf s f.act) && !actLive (actOf t f.act) then t else sendTarget t f f.com.t1 (f.b.getD nullTok)

/-- The LCMPs of an original whose twin's have matched: those that compare equal go on. -/
def passEqual (s : State) (a : Nat) : State :=
  let y := actOf s (actOf s a).twin
  s.ops.foldl (fun s o =>
    if o.2.f.act = a ∧ o.2.w = .lcmp then
      match y.lcmps.find? fun z => z.1 == o.2.f.node with
      | some z =>
        if some z.2.2.1 = o.2.f.a ∧ some z.2.2.2 = o.2.f.b then
          passBoth (updAct (dropOp s o.1) a fun x => { x with equal := x.equal ++ [o.2.f.node] }) o.2.f
        else s
      | none => s
    else s) s

/-- LCMP: the original waits for its twin's; without a lining it passes its operands on (R304, R306). The twin sends nothing. -/
def execLcmp (r : GRec) (s : State) : Host.Outcome State Fault Refusal :=
  .next (
    let s := begin s r.c 0
    let f := s.cur
    let x := actOf s f.act
    if anyPoisoned f then killFiring s f
    else if isNull f.p then (if x.isTwin then s else sendBoth s f nullTok)
    else
      let s := updAct s f.act fun y => { y with lcmps := y.lcmps ++ [(f.node, f.en, f.a.getD nullTok, f.b.getD nullTok)] }
      if x.isTwin then passEqual s x.twin
      else if x.twin = 0 then passBoth s f
      else passEqual (waitOp s f .lcmp).2 f.act)

/-- A mismatch of an original and its twin (R307): the node that a record names, and the ENs that a second one marks bad. -/
def mismatchOf (s : State) (a : Nat) : Option (Nat × List Nat) :=
  let x := actOf s a
  let y := actOf s x.twin
  let unequal := x.lcmps.filterMap fun z =>
    match y.lcmps.find? fun w => w.1 == z.1 with
    | some w => if z.2.2 = w.2.2 then none else some (z.1, [z.2.1, w.2.1])
    | none => none
  match unequal with
  | z :: _ => some (z.1, unequal.flatMap (·.2))
  | [] =>
    match x.exits, y.exits with
    | (n, k, _) :: _, (m, j, _) :: _ => if n = m then none else some (k, [enOf x k, enOf y j])
    | _, _ => if y.st = .faulted ∨ y.st = .killed then some (0, []) else none

/-- A mismatch takes effect: the pair starts again, or the original is Faulted at the second one in a row. -/
def takeMismatch (s : State) (a : Nat) : State :=
  let x := actOf s a
  if x.isTwin || x.twin = 0 || !(x.st == .running || x.st == .complete) then s
  else match mismatchOf s a with
    | none => s
    | some (node, ens) =>
      if x.mismatches = 0 then
        let s := recordOnly (updRegs s fun r => { r with lmis := r.lmis + 1 }) x.part x.colour x.serial a (faultAt s a node { cls := .liningMismatch })
        let (b, s) := addAct (squash s [a] x.part) x.part x.tag x.blk .predicted x.creator x.awaits
        updAct s b fun z => { z with mismatches := 1 }
      else
        let s := updRegs s fun r => { r with lmlc := r.lmlc + 1 }
        raise (ens.foldl (fun s e => setBadUnit s (enCoord e)) s) a node { cls := .liningMismatch }

/-- The lining checks at the end of a cycle. -/
def checkLinings (s : State) : State :=
  ((s.acts.filter fun x => actLive x.2 && x.2.twin != 0 && !x.2.isTwin).map (·.1)).foldl takeMismatch s

end Sys2Proof.Machine
end

