-- ==== Sys2Proof/Machine/Commit.lean ====
section
/-! DEFINITION. ACTIVATION_COMMIT: when a Complete activation commits (R44, R65, R66, R79, R148, R165, R209, R307), and what takes effect
then (R53 to R60, R66, R122, R362, R364, R384, R419, R428). -/

namespace Sys2Proof.Machine

open Sys2Proof

/-! ## What commit waits for -/

/-- A target is a node of the firing's own block and thread. -/
def ownTarget (f : Firing) (t : Target) : Bool :=
  match t with
  | .node _ _ g => !g || f.com.tg == .keep
  | .none | .slot _ _ | .far _ _ _ => false

/-- A waiting form of an activation whose answer the activation still needs: a load, a fence or a system form always, and a form whose
wait another activation may end only when its answer goes to a node of the own block (R440: no hem form). -/
def waitKeeps (o : Op) : Bool :=
  let own := ownTarget o.f o.f.com.t0 || ownTarget o.f o.f.com.t1
  match o.w with
  | .data _ | .remote _ _ _ _ | .remoteAtomic _ _ _ | .fence _ _ _ _ _ | .tlbi _ _ | .hvya _ | .eret _ | .place _ | .lcmp => true
  | .lds _ _ _ _ _ | .window _ | .ctxj _ _ | .kwait _ | .xwait _ _ | .xbat | .xferJoin | .xferAccept _ | .send _ _ _ | .recv _
  | .cbin _ | .cbpt _ _ | .cbaq _ | .cbrl _ | .pmig _ _ _ _ _ => own
  | .hem _ => false

/-- Nothing of an activation is under way: tokens to it or from it in the network, ready or waiting sets, waiting forms. A thread that it
created thus holds every token that it sent there before the creator's commit lets that thread commit (R44). -/
def quietAct (s : State) (a : Nat) : Bool :=
  !(s.net.any fun n => n.prod == a || match n.dest with | .node b | .slot b _ => b == a | .far => false)
    && !(s.spilled.any fun x => x.t.prod == a && x.t.dest == .far)
    && !(s.entries.any fun e => e.act == a && e.stamp.isSome)
    && !(s.stalled.any fun e => e.act == a)
    && !(s.walks.any fun w => w.2.waiting.any fun x => x.e.act == a)
    && !(s.dir.any fun d => d.2.forms.any fun e => e.act == a)
    && !(s.ops.any fun o => o.2.f.act == a && waitKeeps o.2)
    && !(s.stores.any fun x => x.2.act == a && (x.2.parked || x.2.stale))

/-- The twin of an original is Complete with the same exit number, and every LCMP has compared equal (R307). -/
def liningAgrees (s : State) (x : Act) : Bool :=
  let y := actOf s x.twin
  x.twin == 0 || (y.st == .complete && (x.exits.map (·.1)) == (y.exits.map (·.1)) && x.lcmps.all fun z => x.equal.contains z.1)

/-- The SPSTs of an activation, and room for them in its sleeve's forwarding table (R148). -/
def ownSpsts (s : State) (a : Nat) : List (Nat × Store) := s.stores.filter fun x => x.2.act == a && x.2.kind == .scratch
@[inherit_doc ownSpsts] def tableRoom (s : State) (a : Nat) : Bool :=
  decide ((sleeveOf s (actOf s a).sleeve).fwd.length + (ownSpsts s a).length ≤ 32)

/-- A Complete activation may commit now. -/
def mayCommit (s : State) (a : Nat) : Bool :=
  let x := actOf s a
  let c := colourOf s x.colour
  (lookup s.acts a).isSome && x.st == .complete && !x.isTwin && (partOf s x.part).pstate == .running && c.serial == x.serial
    && c.dw.all x.exempt.contains && predCommitted s x && x.checks.isEmpty && x.deferred.isEmpty && liningAgrees s x
    && quietAct s a && tableRoom s a

/-! ## Effects at commit -/

/-- The loops that an activation has entered take the frame that their iterations read (R57). -/
def takeViews (s : State) (a : Nat) (x : Act) : State :=
  let c := colourOf s x.colour
  let v := if x.loop = 0 then (c.f, c.w) else ((loopOf s x.loop).view).getD (c.f, c.w)
  { s with loops := s.loops.map fun l => if l.2.entry = a then (l.1, { l.2 with view := some v }) else l }

/-- Frame writes: to the colour's frame, or held with the iteration (R57, R66). -/
def commitWrites (s : State) (x : Act) : State :=
  if x.loop = 0 then applyWrites s x.part x.tag (frameWrites x)
  else updThread s x.part x.tag fun h => { h with writes := h.writes ++ frameWrites x }

/-- SPSTs in LSID order. -/
def byLsid (l : List (Nat × Store)) : List (Nat × Store) :=
  (List.range 32).flatMap fun i => l.filter fun x => x.2.lsid == i

/-- Stores are released, and SPSTs performed into the forwarding table (R66, R148); one that must come after accesses that are not performed
follows them (R189, R202). -/
def commitStores (s : State) (a : Nat) : State :=
  let s := { s with stores := s.stores.map fun y => if y.2.act = a then (y.1, { y.2 with committed := true }) else y }
  (byLsid (ownSpsts s a)).foldl (fun s y => if mayPerform s y.1 y.2 then performSpst s y.1 y.2 else s) s

/-- SWRs in ascending node index (R428). -/
def commitSwrs (s : State) (x : Act) : State :=
  (List.range 128).foldl (fun s k =>
    (x.swrs.filter fun w => w.1 == k).foldl (fun s w => writeReg s w.2.1 w.2.2 (.swr x.part x.sleeve)) s) s

/-- A freeze of a running partition begins (R286). -/
def beginFreeze (s : State) (p : Nat) (c : FreezeCause) (img : Option Word) : State :=
  updPart s p fun x => if x.pstate = .running then { x with pstate := .freezing, freeze := some (c, img) } else x

/-- An armed freeze begins with the commit (R384). -/
def commitFreeze (s : State) (x : Act) : State :=
  match x.frz with
  | some img => beginFreeze s x.part (.form (sleeveQueue s x.sleeve)) img
  | none => s

/-- The colours of CTXF go to Ending, and those of CTXS take their grant, when they are still live (R362, R364). -/
def commitColours (s : State) (x : Act) : State :=
  let s := x.grants.foldl (fun s g =>
    if live s g.1 && (colourOf s g.1).serial == g.2.1 then updColour s g.1 fun c => { c with grant := g.2.2 } else s) s
  x.ends.foldl (fun s e => if live s e.1 && (colourOf s e.1).serial == e.2 then endColour s e.1 else s) s

/-- The continuation block of the colours that an activation called (R59). -/
def fixCalls (s : State) (a : Nat) (blk : Word) : State :=
  { s with colours := s.colours.map fun c => if c.2.called ∧ c.2.caller = a then (c.1, { c.2 with cblk := blk }) else c }

/-- The thread goes on at a block: at the successor that was predicted, or at a new one, which is Held after a loop (R43, R53). -/
def continueAt (s : State) (a : Nat) (x : Act) (blk : Word) : State :=
  let s := fixCalls s a blk
  match x.pushed with
  | some (h, _) =>
    let s := squash s (laterInThread s x) x.part
    let l := (loopEntered s a h).getD 0
    finishLoop (addAct s x.part x.tag blk .held 0 l).2 l
  | none => if (laterInThread s x).isEmpty then (addAct s x.part x.tag blk .predicted 0 0).2 else s

/-- A thread has ended: far tokens that wait for an activation of it are purged (R46). -/
def endThread (s : State) (p : Nat) (tag : Word) : State := endThreads s fun h => h.part == p && h.tag == tag

/-- The tokens that a RET held go to the continuation under the return tag (R419). -/
def sendReturns (s : State) (a : Nat) (x : Act) (node : Nat) : State :=
  let c := colourOf s x.colour
  x.rets.foldl (fun s r =>
    let n : NetToken := { tok := { tag := c.rtag, blk := c.cblk, node := r.1, port := r.2.1, v := r.2.2 }, dest := .far, prod := a, prodTag := x.tag,
                          prodSeq := x.seq, unit := enCoord (enOf x node), part := x.part, sleeve := colourSleeve s x.part c.rtag, ret := true,
                          prodNode := node }
    if toModePort s n then modeToken s n.sleeve a n.tok.blk n.tok.node n.tok.v else launch s n) s

/-- The exit takes effect (Table 13.1, R419). -/
def commitExit (s : State) (a : Nat) (x : Act) : State :=
  match x.exits with
  | [] => s
  | (_, node, dst) :: _ =>
    let h := threadOf s x.part x.tag
    match dst with
    | .block b => continueAt s a x b
    | .endIteration =>
      let s := updLoop s x.loop fun l => if l.counted = some (x.iter + 1) then { l with writes := h.writes } else l
      endIteration (endThread s x.part x.tag) x.loop x.iter
    | .leave => leaveLoop (endThread s x.part x.tag) x.loop x.iter h.writes
    | .endColour => endColour s x.colour
    | .ret => endColour (sendReturns s a x node) x.colour

/-- What is left of an activation that has committed: its twin, sets that can no longer fire, and spilled tokens for them. -/
def clearAct (s : State) (a : Nat) (x : Act) : State :=
  let mine (y : Spilled) : Bool := match y.t.dest with | .node b => b == a | _ => false
  let n := (partOf s x.part).deadc
  let s := if x.twin = 0 then s else updPart (retire s [x.twin] .committed x.part) x.part fun p => { p with deadc := n }
  let s := dead { s with spilled := s.spilled.filter fun y => !mine y } x.part (s.spilled.filter mine).length
  { s with entries := s.entries.filter (fun e => e.act != a)
           threads := s.threads.map fun h => { h with acts := h.acts.filter (· != a) } }

/-- The commit of an activation. -/
def commitAct (s : State) (a : Nat) : State :=
  let x := actOf s a
  match completionFault s x with
  | some node => raise s a node { cls := .blockShape }
  | none =>
    let s := takeViews s a x
    let s := updAct s a fun y => { y with st := .committed }
    let s := updColour s x.colour fun c => { c with active := s.cycle }
    let s := updThread s x.part x.tag fun h => { h with committed := h.committed + 1 }
    let s := commitStores (commitWrites s x) a
    let s := x.modes.foldl (fun s m => modeEffect s m.1 m.2.1 m.2.2.1 m.2.2.2) s
    let s := commitExit (commitFreeze (commitSwrs s x) x) a x
    commitColours (clearAct s a x) x

/-! ## Armed freezes (R384) -/

/-- The activations of a partition that have armed a freeze and may commit now, in ascending colour number. -/
def armedReady (s : State) (p : Nat) : List Nat :=
  s.colours.flatMap fun c => (s.acts.filter fun x => x.2.colour == c.1 && x.2.part == p && x.2.frz.isSome && mayCommit s x.1).map (·.1)

/-- Any of a list: the free choice of those that commit in the same cycle (log 2). -/
def someOf : List Nat → State → List Nat × State
  | [], s => ([], s)
  | a :: l, s =>
    let (i, s) := choose s 2
    let (m, s) := someOf l s
    (if i = 0 then m else a :: m, s)

/-- Commit activations that have armed a freeze in the cycle in which it begins: the first begins it, unless it has begun, and the others join
it. -/
def joinFreeze (s : State) (p : Nat) (l : List Nat) : State :=
  l.foldl (fun s a => if mayCommit (updPart s p fun x => { x with pstate := .running }) a then commitAct s a else s) s

/-- A freeze begins by a FREEZE token or a watchdog; armed freezes whose activations commit in that cycle join it. -/
def freezeJoined (s : State) (p : Nat) (c : FreezeCause) (img : Option Word) : State :=
  let (l, s) := someOf (armedReady s p) s
  joinFreeze (beginFreeze s p c img) p l

/-- An activation that has armed a freeze commits, with any others of its partition that may commit in the same cycle; the one of the lowest
colour number supplies the image address. -/
def commitArmed (s : State) (a : Nat) : State :=
  let p := (actOf s a).part
  let ready := armedReady s p
  let (l, s) := someOf (ready.filter (· != a)) s
  joinFreeze s p (ready.filter fun b => b == a || l.contains b)

/-- ACTIVATION_COMMIT. -/
def execActivationCommit (act : Nat) (s : State) : Host.Outcome State Fault Refusal :=
  .next (if mayCommit s act then (if (actOf s act).frz.isSome then commitArmed s act else commitAct s act) else s)

end Sys2Proof.Machine
end

