-- ==== Sys2Proof/Machine/Dataflow.lean ====
section
/-! DEFINITION. Dataflow forms: MOV, MOVI, NULL, GATE, JOIN, TAGR, TAGS (R33, R385, R387, R403 to R405, R442, R443) and the
firing of COMB (R359). -/

namespace Sys2Proof.Machine

open Sys2Proof

/-- A copying form (R33): `kills` tells whether an operand other than A is poisoned, `void` whether one other than A is null.
A poisoned A is copied; without poison a null operand sends null (R32). -/
def copyForm (s : State) (r : GRec) (kills void : Firing → Bool) : State :=
  let s := begin s r.c r.lit
  let f := s.cur
  let a := opA f
  if kills f then killFiring s f
  else if !a.poi && (a.kind == .null || void f) then sendBoth s f nullTok
  else if tagFaults f then raise s f.act f.node { cls := .tagDepth }
  else sendBoth s f a

/-- MOV copies A with its lane count, markers and poison bit (R403). -/
def execMov (r : GRec) (s : State) : Host.Outcome State Fault Refusal :=
  .next (copyForm s r (fun f => isPoisoned f.p) fun f => isNull f.p)
/-- GATE passes A once B has arrived (R385). -/
def execGate (r : GRec) (s : State) : Host.Outcome State Fault Refusal :=
  .next (copyForm s r (fun f => isPoisoned f.b || isPoisoned f.p) fun f => isNull f.b || isNull f.p)
def execMovi (r : GRec) (s : State) : Host.Outcome State Fault Refusal :=
  .next (firePure s r.c 0 fun _ => scalarOf (r.lit.signExtend 64))
def execNull (r : GRec) (s : State) : Host.Outcome State Fault Refusal := .next (fireG s r fun _ => nullTok)
/-- JOIN sends its count; its entry holds null when every counted token was (R387). -/
def execJoin (r : GRec) (s : State) : Host.Outcome State Fault Refusal :=
  .next (firePure s r.c 0 fun _ => scalarOf (BitVec.ofNat 64 (r.lit.toNat % 65536)))
def execTagr (r : GRec) (s : State) : Host.Outcome State Fault Refusal := .next (fireG s r fun f => scalarOf f.tag)

/-- Send a value to a target as a far token under a computed tag (R443). -/
def sendTagged (s : State) (f : Firing) (t : Target) (u : Word) (v : TokVal) : State :=
  match t with
  | .node k p _ => sendUnder s f (.far k p false) f.blk u .keep v
  | .far k p _ => sendUnder s f (.far k p false) (farBlock f.blk f.ofs) u .keep v
  | .none | .slot _ _ => s
/-- TAGS sends A, with its markers, under the tag in B, and null for a null A or P (R443). A null B names no tag: null goes to the targets under the
tag of the matched set, which the manual leaves open (log 53). -/
def execTags (r : GRec) (s : State) : Host.Outcome State Fault Refusal :=
  .next (
    let s := begin s r.c r.lit
    let f := s.cur
    let b := opWord f.b
    let v := if anyNull f then nullTok else opA f
    if anyPoisoned f then killFiring s f
    else if isNull f.b then sendBoth s f nullTok
    else if 6 ≤ tagDepth b then (if anyNull f then s else raise s f.act f.node { cls := .tagDepth })
    else sendTagged (sendTagged s f f.com.t0 (cleanTag b) v) f f.com.t1 (cleanTag b) v)

/-- COMB sends what its entry has combined, with zero marker bits (R359). -/
def execComb (r : GRec) (s : State) : Host.Outcome State Fault Refusal := .next (firePure s r.c 0 fun f => (opA f).unmarked)

end Sys2Proof.Machine
end

