-- ==== Sys2Proof/Machine/Float.lean ====
section
/-! DEFINITION. Float element forms (R376 to R381). -/

namespace Sys2Proof.Machine

open Sys2Proof

/-- FTZ (AUX[32]). -/
def ftzOf (r : GRec) : Bool := r.aux.getLsbD 0

/-- Operand `i` of a float element form: what its pattern stands for, A under NA, subnormals flushed under FTZ (R377). -/
def floatArg (r : GRec) (xs : List Nat) (i : Nat) : Num :=
  let f := fmtOf r.c.ty
  let x := readFloat f (xs.getD i 0)
  flushIn f (ftzOf r) (if i = 0 then applyNa r.na x else x)

/-- A float element form that rounds its exact result once (R377). -/
def floatForm (s : State) (r : GRec) (n : Nat) (op : (Nat → Num) → Num) : State :=
  let w := r.c.ty.width
  fireG s r fun f => elementForm r.lm w w false (operandsOf r n f) fun xs =>
    writeFloat (fmtOf r.c.ty) r.rnd r.sat (ftzOf r) 0 (op (floatArg r xs))

/-- A float element form whose result is a pattern of the same width. -/
def floatPat (s : State) (r : GRec) (n : Nat) (op : List Nat → Nat) : State :=
  let w := r.c.ty.width
  fireG s r fun f => elementForm r.lm w w false (operandsOf r n f) op

def execFadd (r : GRec) (s : State) : Host.Outcome State Fault Refusal :=
  .next (floatForm s r 2 fun x => addNum r.rnd (x 0) (x 1))
/-- a - b: a NaN B keeps its own sign (R111). -/
def subNum (m : Rnd) (a b : Num) : Num := if b.isNan then (firstNan [a, b]).getD b else addNum m a (b.withSign (!b.neg))
def execFsub (r : GRec) (s : State) : Host.Outcome State Fault Refusal :=
  .next (floatForm s r 2 fun x => subNum r.rnd (x 0) (x 1))
def execFmul (r : GRec) (s : State) : Host.Outcome State Fault Refusal := .next (floatForm s r 2 fun x => mulNum (x 0) (x 1))
def execFfma (r : GRec) (s : State) : Host.Outcome State Fault Refusal :=
  .next (floatForm s r 3 fun x => fmaNum r.rnd (x 0) (x 1) (x 2))
def execFdiv (r : GRec) (s : State) : Host.Outcome State Fault Refusal := .next (floatForm s r 2 fun x => divNum (x 0) (x 1))
def execFsqrt (r : GRec) (s : State) : Host.Outcome State Fault Refusal := .next (floatForm s r 1 fun x => sqrtNum (x 0))
def execFrcp (r : GRec) (s : State) : Host.Outcome State Fault Refusal := .next (floatForm s r 1 fun x => rcpNum (x 0))
def execFrsq (r : GRec) (s : State) : Host.Outcome State Fault Refusal := .next (floatForm s r 1 fun x => rsqNum (x 0))
def execFex2 (r : GRec) (s : State) : Host.Outcome State Fault Refusal := .next (floatForm s r 1 fun x => exp2Num (x 0))
def execFlg2 (r : GRec) (s : State) : Host.Outcome State Fault Refusal := .next (floatForm s r 1 fun x => log2Num (x 0))
def execFtnh (r : GRec) (s : State) : Host.Outcome State Fault Refusal := .next (floatForm s r 1 fun x => tanhNum (x 0))

/-- FMIN and FMAX return an operand unchanged: A after NA, and a subnormal under FTZ as zero (R379). -/
def minMaxForm (s : State) (r : GRec) (max : Bool) : State :=
  let f := fmtOf r.c.ty
  let pattern (xs : List Nat) (i : Nat) : Nat :=
    let x := floatArg r xs i
    if x.isZero then f.code x.neg 0 else f.code x.neg (xs.getD i 0 % 2 ^ (f.width - 1))
  floatPat s r 2 fun xs => minMaxNum f max (pattern xs 0) (pattern xs 1) (floatArg r xs 0) (floatArg r xs 1)
def execFmin (r : GRec) (s : State) : Host.Outcome State Fault Refusal := .next (minMaxForm s r false)
def execFmax (r : GRec) (s : State) : Host.Outcome State Fault Refusal := .next (minMaxForm s r true)

def execFcmp (r : GRec) (s : State) : Host.Outcome State Fault Refusal :=
  .next (floatPat s r 2 fun xs => if floatCond r.c.fn.toNat ((floatArg r xs 0).compare (floatArg r xs 1)) then 1 else 0)
def execFcls (r : GRec) (s : State) : Host.Outcome State Fault Refusal :=
  .next (floatPat s r 1 fun xs => 2 ^ classBit (fmtOf r.c.ty) (floatArg r xs 0))

/-- a × 2^n (R377). Past ±1,000 every n gives the same rounded result, so n is cut there. -/
def scaleNum (a : Num) (n : Int) : Num :=
  match a with
  | .fin s m d e => .fin s m d (e + max (-1000) (min 1000 n))
  | .nan _ | .inf _ => a
/-- FSCL: n is 32 bits of B, of its lane or of LIT, and in LM 10 a 16-bit element. -/
def execFscl (r : GRec) (s : State) : Host.Outcome State Fault Refusal :=
  let w := r.c.ty.width
  .next (fireG s r fun f =>
    let ops := operandsOf r 2 f
    let a := ops.getD 0 nullTok
    let b := ops.getD 1 nullTok
    let count (lm : LaneMode) (e : Nat) : Int :=
      match b.kind, lm with
      | .vector, .packed => signedOf 16 (elemOf .packed 16 b e)
      | .vector, .vector => signedOf 32 (b.lane e)
      | .vector, .scalar => signedOf 32 (b.lane 0)
      | _, .packed => if r.c.ar = .a then signedOf 32 b.word.toNat else signedOf 16 b.word.toNat
      | _, _ => signedOf 32 b.word.toNat
    let one (lm : LaneMode) (e : Nat) : Nat :=
      writeFloat (fmtOf r.c.ty) r.rnd r.sat (ftzOf r) 0 (scaleNum (floatArg r [elemOf lm w a e] 0) (count lm e))
    match r.lm, minLn ops with
    | .scalar, _ => scalarElem w false (one .scalar 0)
    | lm, none => scalarElem w false (one lm 0)
    | lm, some n => vectorElems lm w false n ((List.range (placesOf lm w n)).map (one lm)))

end Sys2Proof.Machine
end

