-- ==== Sys2Proof/Machine/Freeze.lean ====
section
/-! DEFINITION. The parts of a freeze that act on the machine (R286, R369, R401, R435), and a partition reset (R28, R266, R267). -/

namespace Sys2Proof.Machine

open Sys2Proof

/-! ## What a partition holds -/

/-- A grid of the partition holds a quad; a matrix island; a transfer island. -/
def ownsQuad (s : State) (p q : Nat) : Bool := (partOf s p).grids.getLsbD (q / 32)
@[inherit_doc ownsQuad] def ownsIsland (s : State) (p i : Nat) : Bool := (partOf s p).grids.getLsbD (i / 32)
/-- A transfer, a collective or a matched set is of the partition. -/
def ownsColl (p : Nat) (x : Coll) : Bool := x.f.part == p
@[inherit_doc ownsColl] def ownsXfer (p : Nat) (x : Xfer) : Bool := x.f.part == p
@[inherit_doc ownsColl] def ownsEntry (s : State) (p : Nat) (e : Entry) : Bool := (lookup s.acts e.act).isSome && (actOf s e.act).part == p

/-! ## When step 5 of R286 may be reached -/

/-- A store waits for a group hold: it is saved as it is. -/
def groupHeld (s : State) (x : Store) : Bool :=
  s.regs.gen && decide (2 ≤ s.regs.gstate) && match x.elems with | e :: _ => leafProt e.leaf | [] => false

/-- Every committed store of a partition is performed, parked, or held by a group hold, behind which others may wait. -/
def storesSettled (s : State) (p : Nat) : Bool :=
  let mine := s.stores.filter fun x => x.2.part == p && x.2.committed && !x.2.parked
  let waits := mine.any fun x => groupHeld s x.2
  mine.all fun x => groupHeld s x.2 || (waits && x.2.rids.isEmpty && !mayPerform s x.1 x.2)

/-- A form whose request another device may already have performed. -/
def atHome : Wait → Bool
  | .remoteAtomic _ _ _ => true
  | _ => false

/-- A freeze with scales in flight places them in their entries before the image is read (Table 7.12). -/
def scalesInFlight (s : State) (p : Nat) : Bool := s.flights.any fun x => x.a.part == p && (tsclOf x).isSome && !flightHeld s x

/-- Steps 3 and 4: what runs has stopped or completed. -/
def freezeSettled (s : State) (p : Nat) : Bool :=
  !(s.colls.any fun x => ownsColl p x.2 && x.2.begun && x.2.status == 0 && !s.parked.any fun q => q.what == .coll x.1)
    && !(s.xfers.any fun x => ownsXfer p x.2 && awaitsRemote s x.1)
    && !(s.ops.any fun o => o.2.f.part == p && (atHome o.2.w || match o.2.w with | .pmig _ _ _ _ _ => true | _ => false))
    && !scalesInFlight s p && storesSettled s p && s.sleeves.all fun v => v.2.part != p || v.2.fwd.isEmpty

/-! ## Forms that a freeze saves as not issued (R369, R401, R435) -/

/-- A record empties the word that it reads: LDS.E. -/
def emptiesWord (w : RecordWord) : Bool := recOpc w == 0x64 && w.extractLsb' 32 2 == 3

/-- A waiting form of a living activation issues again at resume, a load whose data have not returned too; not an LDS.E that has emptied its
word, which has been performed (R204). A CTXJ goes on waiting for the colour that held its number at issue (R363). -/
def unissued (s : State) (p : Nat) (k : Nat) (o : Op) : Bool :=
  o.f.part == p && actLive (actOf s o.f.act) &&
    match o.w with
    | .remote _ _ _ _ | .lds _ _ _ _ _ | .window _ | .tlbi _ _ | .eret _ | .hvya _ | .kwait _ | .xwait _ _ | .xbat
    | .xferJoin | .send _ _ _ | .recv _ => true
    | .data _ => !emptiesWord (imgRec (actOf s o.f.act).image o.f.node)
    | .fence _ _ _ _ _ => !(s.parked.any fun q => q.what == .fence k)
    | .remoteAtomic _ _ _ | .ctxj _ _ | .pmig _ _ _ _ _ | .xferAccept _ | .cbin _ | .cbpt _ _ | .cbaq _ | .cbrl _ | .hem _ | .place _
    | .lcmp => false

/-- A record that has not issued after all: its node has not fired, and its LSID is unresolved again (R183). -/
def unresolve (s : State) (f : Firing) : State :=
  let w := imgRec (actOf s f.act).image f.node
  let own := BitVec.twoPow 32 (w.extractLsb' 44 5).toNat
  let s := updAct s f.act fun x => { x with fired := x.fired &&& ~~~(BitVec.twoPow 128 f.node) }
  if memForm (recOpc w) then updAct s f.act fun x => { x with issued := x.issued &&& ~~~own, resolved := x.resolved &&& ~~~own } else s

/-- Waiting forms, and sets whose access waits, are ready sets again. -/
def unissue (s : State) (p : Nat) : State :=
  let back := s.ops.filter fun o => unissued s p o.1 o.2
  let s := back.foldl (fun s o => unresolve s o.2.f) s
  let sets := back.map (fun o => entryOf s o.2.f) ++ s.stalled.filter (ownsEntry s p)
    ++ s.walks.flatMap (fun w => if w.2.part = p then w.2.waiting.map (·.e) else []) ++ s.dir.flatMap (fun d => d.2.forms.filter (ownsEntry s p))
  let gone (k : Nat) : Bool := back.any fun o => o.1 == k
  let t : State := { s with
    ops := s.ops.filter fun o => !gone o.1
    stalled := s.stalled.filter fun e => !ownsEntry s p e
    walks := s.walks.filter fun w => w.2.part != p
    dir := s.dir.map fun d => (d.1, { d.2 with forms := d.2.forms.filter fun e => !ownsEntry s p e })
    remotes := s.remotes.filter fun r => match r.2.what with | .load k _ => !gone k | _ => true
    entries := s.entries ++ sets.map fun e => { e with stamp := some s.cycle } }
  updPart t p fun x => { x with regulator := x.regulator.filter fun k => !gone k }

/-! ## Loads in progress (R29, R252) -/

/-- A load in progress ends ABANDONED, and its CONFIG token is pending. -/
def abandonLoad (s : State) (c : Nat) : State :=
  let q := queueOf s c
  match (match q.pend with | some t => some t | none => q.fifo.head?) with
  | none => s
  | some t =>
    let s := egress s c 1 Status.abandoned.code (Ingress.ofWords t.hi t.lo).seq [t.lo, 0]
    updQueue s c fun q => { q with pend := some t, fifo := if q.pend.isSome then q.fifo else q.fifo.drop 1, cfg := 0 }
/-- Step 2 of R286, once the LOADED records have places. -/
def abandonLoads (s : State) (p : Nat) : State :=
  let l := s.loading.filter fun x => x.part == p
  if l.isEmpty || l.any fun x => egressFull s x.cuff then s
  else updPart (l.foldl (fun s x => abandonLoad s x.cuff) { s with loading := s.loading.filter fun x => x.part != p }) p fun x => { x with ldab := true }

/-! ## Partition reset (R267) -/

/-- The cuffs of a partition are emptied. -/
def resetCuff (s : State) (c : Nat) : State :=
  updQueue s c fun q => { q with cdrop := q.cdrop + BitVec.ofNat 64 q.fifo.length, fifo := [], on := true, cfg := 0, frame := [], pend := none,
                                 dropping := false }

/-- A collective of the partition that has begun ends for its other members as for a lost member; one that waits is cancelled. -/
def cancelColls (s : State) (p : Nat) : State :=
  let mine := s.colls.filter fun x => ownsColl p x.2
  let s := mine.foldl (fun s x => if x.2.begun && x.2.status == 0 then collSendAll s x.2 (.ended x.2.group x.2.num 1) else s) s
  { s with colls := s.colls.filter (fun x => !ownsColl p x.2)
           remotes := s.remotes.filter fun r => match r.2.what with | .xfer k => !(mine.any fun x => x.1 == k) | _ => true }

/-- The pages that migrations of a partition have locked are released: their waits are discarded (R369, R401). -/
def unlockAll (s : State) (p : Nat) : State :=
  s.ops.foldl (fun s o => match o.2.w with | .pmig va _ _ _ _ => if o.2.f.part = p then unlock s p va else s | _ => s) s

/-- The messages that the stream ports of some sleeves hold (R415). -/
def queuedMessages (l : List (Nat × Sleeve)) : Nat := ((l.flatMap fun v => v.2.ports).map (·.2.length)).foldl (· + ·) 0

/-- The work of a partition is discarded: every configuration, sleeve, colour, activation, token, wait and parked access. The stores that a frozen
partition still holds are parked accesses (R303); else committed stores are performed yet. -/
def discardWork (s : State) (p : Nat) : State :=
  let s := unlockAll s p
  let ice := (partOf s p).pstate == .frozen
  let s := dead s p (queuedMessages (s.sleeves.filter fun x => x.2.part == p))
  let act (a : Nat) : Bool := (lookup s.acts a).isSome && (actOf s a).part == p
  let mine (n : NetToken) : Bool := n.part == p
  let xs := s.xfers.filter fun x => ownsXfer p x.2
  let ops := s.ops.filter fun o => o.2.f.part == p
  let t : State := { s with
    cfgs := s.cfgs.filter fun x => x.2.part != p
    colours := s.colours.filter fun x => x.2.part != p
    acts := s.acts.filter fun x => x.2.part != p
    threads := s.threads.filter fun h => h.part != p
    loops := s.loops.filter fun x => x.2.part != p
    net := s.net.filter fun n => !mine n
    far := s.far.filter fun x => !mine x.t
    unsorted := s.unsorted.filter fun n => !mine n
    entries := s.entries.filter fun e => !act e.act
    spilled := s.spilled.filter fun x => !mine x.t
    throttled := s.throttled.filter fun q => !ownsQuad s p q
    ops := s.ops.filter fun o => !(ops.any fun x => x.1 == o.1)
    stores := s.stores.filter fun x => x.2.part != p || (x.2.committed && !x.2.parked && !ice)
    parked := s.parked.filter fun q => q.part != p
    records := s.records.filter fun r => r.part != p
    retries := s.retries.filter fun c => c.part != p
    prefetched := s.prefetched.filter fun x => (sleeveOf s x.1).part != p
    sleeves := s.sleeves.filter fun x => x.2.part != p
    islands := s.islands.filter fun x => !ownsIsland s p x.1
    flights := s.flights.filter fun x => x.a.part != p
    hemOps := s.hemOps.filter fun x => x.2.f.part != p
    xfers := s.xfers.filter fun x => !ownsXfer p x.2
    remotes := s.remotes.filter fun r => match r.2.what with
      | .xfer k => !(xs.any fun x => x.1 == k) && !(ops.any fun x => x.1 == k)
      | .load k _ | .atomic k => !(ops.any fun x => x.1 == k)
      | .image k => k != p
      | .store _ | .copy _ _ => true
    stalled := s.stalled.filter fun e => !act e.act
    walks := s.walks.filter fun w => w.2.part != p
    dir := s.dir.map fun d => (d.1, { d.2 with forms := d.2.forms.filter fun e => !act e.act })
    loading := s.loading.filter fun x => x.part != p }
  updPart (cancelColls t p) p fun x => { x with handles := [], regulator := [], replays := [], freeze := none, frozen := none, imgLeft := none, ldab := false }

/-- A partition reset, without its records. -/
def partitionReset (s : State) (p : Nat) : State :=
  let s := discardWork s p
  let s := (partCuffs s p).foldl resetCuff s
  let s : State := { s with tlbQuad := s.tlbQuad.filter (fun x => !ownsQuad s p x.1)
                            tlbGrid := s.tlbGrid.filter fun x => !(partOf s p).grids.getLsbD x.1 }
  updPart s p fun x => { x with seed := 0, nver := 9, pstate := .empty }

/-- The enabled queues of a partition. -/
def enabledQueues (s : State) (p : Nat) : List Nat := (partCuffs s p).filter fun c => (queueOf s c).en
/-- A RESET record (Table 8.7). -/
def resetRecord (s : State) (p q : Nat) (st : Status) (iseq : BitVec 32) : State := egress s q 0x0A st.code iseq [0, gridMask s p]

/-- A host RESET (R266). -/
def hostReset (s : State) (p q : Nat) (iseq : BitVec 32) : State :=
  let s := partitionReset s p
  (enabledQueues s p).foldl (fun s c => resetRecord s p c .host (if c = q then iseq else 0)) s

/-- Steps 3 and 4 of R266, after a watchdog's freeze; `img` is the image's address when one has been written. -/
def watchdogReset (s : State) (p : Nat) (l : List (Nat × Nat)) (img : Word) : State :=
  let s := partitionReset s p
  (enabledQueues s p).foldl (fun s c => match l.find? fun x => x.1 == c with
    | some (_, n) => egress s c 9 Status.watchdog.code 0 [BitVec.ofNat 64 n, gridMask s p, img]
    | none => resetRecord s p c .watchdog 0) s

/-- The queues of a partition whose watchdogs have expired, with their thresholds in units (R265). -/
def expired (s : State) (p : Nat) : List (Nat × Nat) :=
  (partCuffs s p).filterMap fun c =>
    let n := watchdogLimit s c
    if (queueOf s c).en && !(liveRoots s c).isEmpty && n != 0 && decide (n ≤ (queueOf s c).qwdc) then some (c, n / 65536) else none

/-- WATCHDOG_EXPIRY of a queue: the partition freezes, and the freezes that FRZs have armed join it (R266, R384). DESIGN CHOICE (log 53): when
several queues of the partition expire in one cycle, R266 does not say whose QIMG names the image area; it is that of the lowest cuff. -/
def execWatchdogExpiry (queue : Nat) (s : State) : Host.Outcome State Fault Refusal :=
  .next (match partOfCuff s queue with
    | none => s
    | some p =>
      let l := expired s p
      match l with
      | [] => s
      | (c, _) :: _ =>
        if (l.any fun x => x.1 == queue) && (partOf s p).pstate == .running then
          let img := (queueOf s c).qimg
          freezeJoined s p (.watchdog l) (if img = 0 then none else some img)
        else s)

end Sys2Proof.Machine
end

