-- ==== Sys2Proof/Machine/Home.lean ====
section
/-! DEFINITION. This device as a home: READ, WRITE and ATOMIC of other devices (R329, R346), requests of pod agents to the exported
HDM-DB range (R323), the owner-lost rule (R313, R315), and snoops from the homes of pod lines to this device's L2 (R187). -/

namespace Sys2Proof.Machine

open Sys2Proof

/-! ## Requests over Helup (R329) -/

/-- The leaf by which the home performs an outside access at a linear bit address: this device, linear aperture, protected in the
protected region. -/
def exportLeaf (s : State) (a : Nat) : Word :=
  BitVec.ofNat 64 (3 * 2 ^ 62 + s.regs.devn.toNat * 2 ^ 40 + a / 2 ^ 19 % 2 ^ 26 * 2 ^ 14
    + (if s.regs.gen && (unitOf? s a).isSome then 128 else 0) + 24)

/-- Bits lie within the export window, on memory that exists, and touch no parity unit (R329). -/
def exported (s : State) (a n : Nat) : Bool :=
  s.regs.hxen && decide (8 * 65536 * s.regs.hxwb ≤ a) && decide (a + n ≤ 8 * 65536 * (s.regs.hxwb + s.regs.hxwn))
    && apertureExists 0 (a / 8) && apertureExists 0 ((a + n - 1) / 8)
    && !(s.regs.gen && (onParity s a || onParity s (a + n - 1)))

/-- An ERROR reply (Table 11.3): 1 NOROUTE, 2 REFUSED, 3 TIMEOUT. -/
def replyError (s : State) (src line status : Nat) (rid : BitVec 32) : State := (sendSlot s src line (errorSlot status rid)).2

/-- A request that R329 does not serve: ERROR REFUSED, and a PROTECTION record with cause REMOTE for partition HXCFG.PART. -/
def refuseInbound (s : State) (src line : Nat) (rid : BitVec 32) (wr : Bool) : State :=
  recordOnly (replyError s src line 2 rid) s.regs.hxpart 0 0 0 { cls := .protection, cause := 10, wr := wr }

/-- Parts of bits of the linear aperture, one a sector. -/
def linearParts (a n : Nat) : List Part := partsOf 0 (BitVec.ofNat 64 a) n
/-- The place of a part of the linear aperture. -/
def linearLoc (p : Part) : Loc := .dev 0 p.va.toNat

/-- What a home does with a request: it has dealt with it, or the request waits there. -/
inductive Served where
  | done (s : State)
  | waits (s : State)
  deriving DecidableEq, Repr

/-- A part of a request at its home: its leaf and its place, those of the new copy when a switch has moved it there (R200). -/
def homePart (s : State) (who : HeldBy) (p : Part) : Part :=
  let (e, big) := movedLeaf s who p.va (exportLeaf s p.va.toNat) false
  { p with leaf := e, big := big }
@[inherit_doc homePart] def homeLoc (s : State) (who : HeldBy) (p : Part) : Loc :=
  match (waitsAt s who).bind fun h => if h.moved then h.spots.find? fun x => x.va == p.va else none with
  | some x => locOf s x.leaf x.big p.va
  | none => linearLoc p

/-- Serve an access of another device to bits of the export window: owner-lost lines answer with an error, owned ones wait for their
owner, and write-class accesses may be held at step 1 of Table 5.2. -/
def serveBits (s : State) (who : HeldBy) (src a n : Nat) (rid : BitVec 32) (wr : Bool) (act : List (Part × Loc) → State → State) : Served :=
  let l := linearParts a n
  if n = 0 ∨ 192 < n then .done (replyError (discardMsg s) src (a / 512) 2 rid)
  else if !exported s a n then .done (refuseInbound s src (a / 512) rid wr)
  else if l.any fun p => lostLoc s (linearLoc p) then .done (replyError s src (a / 512) 2 rid)
  else match l.findSome? fun p => ownedLoc s (linearLoc p) with
    | some k => .waits (snoopOwner s k none)
    | none =>
      let at' := l.map fun p => (homePart s who p, homeLoc s who p)
      let spots := spotsOf (at'.map (·.1))
      if !wr then .done (act at' s)
      else if mayPass s who spots then .done (act at' (goPast s who))
      else .waits (arriveHeld s who spots)

/-- A message about a place that a switch has moved to another device goes on there, and is answered from there. -/
def forwardTo (s : State) (src dst line : Nat) (w : BitVec 320) : State := (sendFrom s src dst line w).2

/-- The bits of parts, and whether one is poisoned. -/
def gatherParts (s : State) (l : List Part) : Nat × Bool :=
  l.foldl (fun (v, poi) p => (v + readLoc s (linearLoc p) p.width * 2 ^ p.ofs, poi || poisonLoc s (linearLoc p))) (0, false)

/-- A READ (R329). -/
def serveRead (s : State) (who : HeldBy) (src : Nat) (m : AccessMsg) : Served :=
  serveBits s who src m.addr.toNat m.len.toNat m.rid false fun l s =>
    let s := l.foldl (fun s p => touch s p.2 true) s
    let (v, poi) := gatherParts s (l.map (·.1))
    (sendSlot s src (m.addr.toNat / 512) (readDataSlot { poi := poi, data := BitVec.ofNat 192 v, rid := m.rid })).2

/-- A WRITE (R329). -/
def serveWrite (s : State) (who : HeldBy) (src : Nat) (m : AccessMsg) : Served :=
  serveBits s who src m.addr.toNat m.len.toNat m.rid true fun l s =>
    let away : Bool := l.any fun p => match p.2 with | .remote _ _ => true | .dev _ _ | .pod _ | .reg _ => false
    let s := l.foldl (fun s p =>
      let v := bits m.data.toNat p.1.ofs p.1.width
      match p.2 with
      | .remote dst a => forwardTo s src dst (a / 512) (writeSlot p.1.width a v m.rid)
      | loc => bankWrite s {} p.1.leaf loc p.1.width v) s
    if away then s else (sendSlot s src (m.addr.toNat / 512) (writeAckSlot m.rid)).2

/-- The element type of an ATOMIC message: TY is N8 to N64 by its code, and the float of that code for AFAD (R346, Table 11.3). -/
def atomicTy (op : BitVec 4) (ty : BitVec 2) : Option Ty :=
  if op = 1 ∧ ty = 3 then none else Ty.ofCode (BitVec.ofNat 4 (ty.toNat + if op = 1 then 8 else 0))

/-- An ATOMIC (R346). A message that names no class A or class S element is refused. -/
def serveAtomic (s : State) (who : HeldBy) (src : Nat) (m : AtomicMsg) : Served :=
  let a := m.addr.toNat
  match atomicTy m.op m.ty with
  | none => .done (refuseInbound s src (a / 512) m.rid true)
  | some t =>
    if 8 < m.op.toNat ∨ alignClass a t.width = .x then .done (refuseInbound s src (a / 512) m.rid true)
    else serveBits s who src a t.width m.rid true fun l s =>
      match l with
      | (_, .remote dst b) :: _ => forwardTo s src dst (b / 512) (atomicSlot { m with addr := BitVec.ofNat 42 b })
      | (p, loc) :: _ =>
        let (v, poi, s) := bankAtomic s {} p.leaf loc m.op.toNat t m.u m.b.toNat m.c.toNat
        (sendSlot s src (a / 512) (atomicDataSlot { poi := poi, data := BitVec.ofNat 192 v, rid := m.rid })).2
      | [] => s

/-! ## Requests of pod agents (R313, R323) -/

/-- A directory entry, cleared away when it says nothing. -/
def putDir (s : State) (line : Nat) (d : DirLine) : State :=
  { s with dir := if d = {} then eraseAt s.dir line else insertAt s.dir line d }
def dirOf (s : State) (line : Nat) : DirLine := lookupD s.dir line {}

/-- The two sectors of a line of the exported range. -/
def lineLocs (line : Nat) : List Loc := [.dev 0 (512 * line), .dev 0 (512 * line + 256)]
/-- Write a whole line at its home; the range is no mapping, so no delta is sent. -/
def writeLine (s : State) (line : Nat) (data : BitVec 512) : State :=
  bankWrite (bankWrite s {} 0 (.dev 0 (512 * line)) 256 (data.toNat % 2 ^ 256)) {} 0 (.dev 0 (512 * line + 256)) 256 (data.toNat / 2 ^ 256)
/-- Answer an agent with a line. -/
def podReply (s : State) (agent line : Nat) : State :=
  let s := (lineLocs line).foldl (fun s l => touch s l true) s
  emit s (.pod agent line false ((lineLocs line).any (poisonLoc s)) (BitVec.ofNat 512 (readDev s 0 (512 * line) 512)))
/-- Answer an agent with an error. -/
def podError (s : State) (agent line : Nat) : State := emit s (.pod agent line true false 0)

/-- The spots of a line that a pod agent writes: the range is no mapping, so that only a migration lock holds the write. -/
def lineSpots (s : State) (who : HeldBy) (line : Nat) : List Spot :=
  [512 * line, 512 * line + 256].map fun a =>
    let (e, big) := movedLeaf s who (BitVec.ofNat 64 a) (exportLeaf s a &&& ~~~(0x80#64)) false
    { va := BitVec.ofNat 64 a, leaf := e, big := big }
/-- Write a line where it lies: on the new copy after a switch. -/
def writeLineAt (s : State) (who : HeldBy) (line : Nat) (data : BitVec 512) : State :=
  match (waitsAt s who).map (·.moved) with
  | some true =>
    (lineSpots s who line).zipIdx.foldl (fun s x =>
      let v := data.toNat / 2 ^ (256 * x.2) % 2 ^ 256
      match locOf s x.1.leaf x.1.big x.1.va with
      | .remote dst a => (sendSlot (sendSlot s dst (a / 512) (writeSlot 192 a (v % 2 ^ 192) 0)).2 dst (a / 512) (writeSlot 64 (a + 192) (v / 2 ^ 192) 0)).2
      | loc => bankWrite s {} x.1.leaf loc 256 v) s
  | _ => writeLine s line data

/-- A far atomic of a pod agent at its home (R195), on the new copy after a switch; its answer is the old value in the element's place in the line,
and an error for one that names no class A or class S element. -/
def podFarAtomic (s : State) (who : HeldBy) (r : PodRequest) (m : PodAtomic) : State :=
  let a := 512 * r.line + m.ofs.toNat
  match atomicTy m.op m.ty with
  | none => podError s r.agent r.line
  | some t =>
    if 8 < m.op.toNat ∨ alignClass a t.width = .x ∨ 512 < m.ofs.toNat + t.width then podError s r.agent r.line
    else
      let x := (lineSpots s who r.line).getD (m.ofs.toNat / 256) {}
      let va := BitVec.ofNat 64 a
      match if ((waitsAt s who).map (·.moved)).getD false then locOf s x.leaf x.big va else .dev 0 a with
      | .remote dst b => forwardTo s r.agent dst (b / 512) (atomicSlot { op := m.op, ty := m.ty, u := m.u, addr := BitVec.ofNat 42 b, b := m.b, c := m.c, rid := 0 })
      | loc =>
        let (v, poi, s) := bankAtomic s {} x.leaf loc m.op.toNat t m.u m.b.toNat m.c.toNat
        emit s (.pod r.agent r.line false poi (BitVec.ofNat 512 (v * 2 ^ m.ofs.toNat)))

/-- Serve a request to a line that no other agent holds exclusive. -/
def servePodFree (s : State) (who : HeldBy) (r : PodRequest) : Served :=
  let d := dirOf s r.line
  match r.ask with
  | .read => .done (podReply s r.agent r.line)
  | .share => .done (podReply (putDir s r.line { d with owner := none, sharers := insertNat d.sharers r.agent }) r.agent r.line)
  | .own =>
    if heldSpots s (lineSpots s who r.line) then .waits s else
    let s := (d.sharers.filter (· != r.agent)).foldl (fun s g => emit s (.snoop g r.line)) s
    .done (podReply (putDir s r.line { d with owner := some r.agent, sharers := [], asked := none }) r.agent r.line)
  | .write data =>
    let spots := lineSpots s who r.line
    if mayPass s who spots then .done (goPast (writeLineAt s who r.line data) who) else .waits (arriveHeld s who spots)
  | .atomic m =>
    let spots := lineSpots s who r.line
    if mayPass s who spots then .done (goPast (podFarAtomic s who r m) who) else .waits (arriveHeld s who spots)
  | .writeBack _ => .done s
  | .drop => .done (putDir s r.line { d with sharers := d.sharers.filter (· != r.agent) })

/-- Serve a request: an owner-lost line answers with an error and discards write-backs; a line that another agent owns waits for its
answer to a snoop. -/
def servePod (s : State) (who : HeldBy) (r : PodRequest) : Served :=
  let d := dirOf s r.line
  if deviceBytes ≤ 64 * r.line then .done (podError s r.agent r.line)
  else if s.ownerLost.contains r.line then
    match r.ask with
    | .writeBack _ | .drop => .done s
    | .read | .share | .own | .write _ | .atomic _ => .done (podError s r.agent r.line)
  else match d.owner with
    | none => servePodFree s who r
    | some g =>
      if g = r.agent then servePodFree s who r
      else match r.ask with
        | .writeBack _ | .drop => servePodFree s who r
        | .read | .share | .own | .write _ | .atomic _ =>
          .done (snoopOwner (putDir s r.line { d with waiting := d.waiting ++ [r] }) r.line none)

/-! ## Waiting requests -/

/-- The lines that a request is about. -/
def requestLines : Instr → List Nat
  | .read _ m | .write _ m => [m.addr.toNat / 512, (m.addr.toNat + m.len.toNat - 1) / 512]
  | .atomic _ m => [m.addr.toNat / 512]
  | .podLineRequest r => [r.line]
  | _ => []

/-- A request that writes, or asks to. -/
def writeClass : Instr → Bool
  | .write _ _ | .atomic _ _ => true
  | .podLineRequest r => match r.ask with | .own | .write _ | .writeBack _ | .atomic _ => true | .read | .share | .drop => false
  | _ => false

/-- Serve a request at its home. -/
def serveRequest (s : State) (who : HeldBy) : Instr → Served
  | .read src m => serveRead s who src m
  | .write src m => serveWrite s who src m
  | .atomic src m => serveAtomic s who src m
  | .podLineRequest r => servePod s who r
  | _ => .done s

/-- Offer a request to its bank: one that writes stays behind one that waits for the same line (R142, R327); a read is not kept behind a held
write (Table 5.11). -/
def offerRequest (s : State) (x : Inbound) : State :=
  if writeClass x.i && s.inbound.any fun y => (requestLines y.i).any (requestLines x.i).contains then { s with inbound := s.inbound ++ [x] }
  else match serveRequest s (.inbound x.n) x.i with
    | .done t => t
    | .waits t => { t with inbound := t.inbound ++ [x] }

/-- A request arrives; one that waits takes a number. -/
def arriveRequest (s : State) (i : Instr) : State :=
  let t := offerRequest s { n := s.ids, i := i }
  if t.inbound.length = s.inbound.length then t else { t with ids := t.ids + 1 }

/-- The requests that wait at the home are served again, in their order. -/
def serveInbound (s : State) : State := s.inbound.foldl offerRequest { s with inbound := [] }

/-- The owner of a line has given it up: the requests that wait are served in order, this device's PREFs bring the line in, and its forms
issue again. -/
def ownerGone (s : State) (line : Nat) : State :=
  let d := dirOf s line
  let s := putDir s line { d with owner := none, waiting := [], forms := [], asked := none, prefs := [] }
  let s := d.prefs.foldl prefetchLine s
  let s := { s with entries := s.entries ++ d.forms.map fun e => { e with stamp := some s.cycle } }
  wake (d.waiting.foldl (fun s r => arriveRequest s (.podLineRequest r)) s)

/-- A write-back, or a drop, of the owner itself. -/
def ownerWriteBack (s : State) (r : PodRequest) : State :=
  match r.ask with
  | .writeBack data => ownerGone (writeLine s r.line data) r.line
  | .drop => ownerGone s r.line
  | .read | .share | .own | .write _ | .atomic _ => s

def execRead (src : Nat) (m : AccessMsg) (s : State) : Host.Outcome State Fault Refusal := .next (arriveRequest s (.read src m))
def execWrite (src : Nat) (m : AccessMsg) (s : State) : Host.Outcome State Fault Refusal := .next (arriveRequest s (.write src m))
def execAtomic (src : Nat) (m : AtomicMsg) (s : State) : Host.Outcome State Fault Refusal := .next (arriveRequest s (.atomic src m))

/-- POD_LINE_REQUEST. -/
def execPodLineRequest (r : PodRequest) (s : State) : Host.Outcome State Fault Refusal :=
  .next (match r.ask with
    | .writeBack _ | .drop =>
      if (dirOf s r.line).owner = some r.agent ∧ !s.ownerLost.contains r.line then ownerWriteBack s r else arriveRequest s (.podLineRequest r)
    | .read | .share | .own | .write _ | .atomic _ => arriveRequest s (.podLineRequest r))

/-- SNOOP_REPLY: the exclusive owner's answer; a late one about an owner-lost line is discarded. -/
def execSnoopReply (line : Nat) (m : SnoopAnswer) (s : State) : Host.Outcome State Fault Refusal :=
  .next (if s.ownerLost.contains line ∨ (dirOf s line).owner.isNone then s
    else match m with
      | .clean => ownerGone s line
      | .dirty data => ownerGone (writeLine s line data) line)

/-! ## Owner-lost lines (R313, R315) -/

/-- Write an entry of the owner-lost log: sequence number, owner, the line's canonical byte address, and the cycle. -/
def logOwnerLost (s : State) (owner line : Nat) : State :=
  let n := s.regs.olnext
  let s := updRegs s fun r => { r with olnext := n + 1 }
  if s.regs.oln = 0 then s
  else drainOwnerLog { s with olrecs := s.olrecs ++
    [(n.toNat, [BitVec.ofNat 64 (n.toNat * 2 ^ 32 + owner % 2 ^ 22), BitVec.ofNat 64 (linearToCda (64 * line) / 64 * 64), BitVec.ofNat 64 s.cycle, 0])] }

/-- A line becomes owner-lost: both sectors are poisoned, every waiting request gets an error reply, and an entry is logged. -/
def loseOwner (s : State) (line owner : Nat) : State :=
  let d := dirOf s line
  let s := { s with ownerLost := insertNat s.ownerLost line }
  let s := (lineLocs line).foldl (fun s l => setPoisonLoc s l true) s
  let s := d.waiting.foldl (fun s r => podError s r.agent r.line) (putDir s line {})
  let s := { s with entries := s.entries ++ d.forms.map fun e => { e with stamp := some s.cycle } }
  logOwnerLost (wake s) owner line

/-- OWNER_LOST_TIMEOUT: a snoop has stayed unanswered for OWNTO. -/
def execOwnerLostTimeout (line : Nat) (s : State) : Host.Outcome State Fault Refusal :=
  .next (match (dirOf s line).owner, (dirOf s line).asked with
    | some g, some n => if n + cyclesOf s s.regs.ownto ≤ s.cycle then loseOwner s line g else s
    | _, _ => s)

/-! ## Messages of the homes of pod lines to this device's L2 (R187, R314) -/

/-- The bits of a pod line's dirty sectors that are discarded: what the home holds there is not known here. -/
def loseDirty (s : State) (line : Nat) (x : L2Line) : State :=
  let one (s : State) (a : Nat) : State :=
    (List.range 4).foldl (fun s k => let (w, s) := freeWord s; writePod s (a + 64 * k) 64 w.toNat) s
  let s := if x.d0 then one s (512 * line) else s
  if x.d1 then one s (512 * line + 256) else s

/-- SNOOP: the home of a pod line, named by its host physical address / 64, asks this device's L2, which answers with its dirty copy
and gives the line up when it is to be invalidated. An error reply of the home, to which the line is owner-lost, takes the copy away; its
dirty data are discarded, and accesses to the line get the error until the home is heard from again (R314, log 7). After a write of another
agent of the pod the line has the contents that the agent left there. -/
def execSnoop (line : Nat) (kind : SnoopKind) (s : State) : Host.Outcome State Fault Refusal :=
  .next (
    let k := podLine0 + line
    let x := lookupD s.l2 k {}
    let answer : State :=
      emit { s with podLost := s.podLost.filter (· != line) }
        (.snoopAnswer line (if x.dirty then some (BitVec.ofNat 512 (readPod s (512 * line) 512)) else none))
    match kind with
    | .share => if (lookup s.l2 k).isSome then { answer with l2 := insertAt s.l2 k { x with d0 := false, d1 := false } } else answer
    | .invalidate => { answer with l2 := eraseAt s.l2 k }
    | .lost => loseDirty { s with l2 := eraseAt s.l2 k, podLost := insertNat s.podLost line } line x
    | .written data poi =>
      let s := if (lookup s.l2 k).isSome then { answer with l2 := eraseAt s.l2 k } else { s with podLost := s.podLost.filter (· != line) }
      setPodPoison (setPodPoison (writePod s (512 * line) 512 data.toNat) (2 * line) poi) (2 * line + 1) poi)

end Sys2Proof.Machine
end

