-- ==== Sys2Proof/Machine/Integer.lean ====
section
/-! DEFINITION. Integer element forms (R342, R347, R349, R350, R355, R356, R370, R402, R453). -/

namespace Sys2Proof.Machine

open Sys2Proof

/-- FN[3]: elements are read unsigned. -/
def unsignedFn (r : GRec) : Bool := r.c.fn.getLsbD 3

/-- An integer element form on integers: `u` reads unsigned, `sat` clamps, else the result wraps (R342). -/
def intForm (s : State) (r : GRec) (n : Nat) (u sat : Bool) (op : List Int → Int) : State :=
  let w := r.c.ty.width
  let rd (x : Nat) : Int := if u then (x : Int) else signedOf w x
  fireG s r fun f => elementForm r.lm w w (!u) (operandsOf r n f) fun xs => narrowInt w u sat (op (xs.map rd))

/-- An integer element form on w-bit patterns, with a signed result (R402). -/
def patForm (s : State) (r : GRec) (n : Nat) (op : Nat → List Nat → Nat) : State :=
  let w := r.c.ty.width
  fireG s r fun f => elementForm r.lm w w true (operandsOf r n f) fun xs => op w xs % 2 ^ w

/-- Operand `i` of an element. -/
def arg (xs : List Int) (i : Nat) : Int := xs.getD i 0
@[inherit_doc arg] def pat (xs : List Nat) (i : Nat) : Nat := xs.getD i 0

def execAdd (r : GRec) (s : State) : Host.Outcome State Fault Refusal :=
  .next (intForm s r 2 (unsignedFn r) (r.c.fn.getLsbD 0) fun xs => arg xs 0 + arg xs 1)
def execSub (r : GRec) (s : State) : Host.Outcome State Fault Refusal :=
  .next (intForm s r 2 (unsignedFn r) (r.c.fn.getLsbD 0) fun xs => arg xs 0 - arg xs 1)
def execMul (r : GRec) (s : State) : Host.Outcome State Fault Refusal :=
  .next (intForm s r 2 (unsignedFn r) (r.c.fn.getLsbD 0) fun xs => arg xs 0 * arg xs 1)
def execMulh (r : GRec) (s : State) : Host.Outcome State Fault Refusal :=
  .next (intForm s r 2 (unsignedFn r) false fun xs => (arg xs 0 * arg xs 1) / ((2 ^ r.c.ty.width : Nat) : Int))
/-- Division towards zero; by zero, all ones (R370). -/
def divide (a b : Int) : Int := if b = 0 then -1 else Int.tdiv a b
def execDiv (r : GRec) (s : State) : Host.Outcome State Fault Refusal :=
  .next (intForm s r 2 (unsignedFn r) false fun xs => divide (arg xs 0) (arg xs 1))
def execRem (r : GRec) (s : State) : Host.Outcome State Fault Refusal :=
  .next (intForm s r 2 (unsignedFn r) false fun xs => if arg xs 1 = 0 then arg xs 0 else Int.tmod (arg xs 0) (arg xs 1))
def execNeg (r : GRec) (s : State) : Host.Outcome State Fault Refusal :=
  .next (intForm s r 1 false (r.c.fn.getLsbD 0) fun xs => -arg xs 0)
def execAbs (r : GRec) (s : State) : Host.Outcome State Fault Refusal :=
  .next (intForm s r 1 false (r.c.fn.getLsbD 0) fun xs => (arg xs 0).natAbs)
def execMin (r : GRec) (s : State) : Host.Outcome State Fault Refusal :=
  .next (intForm s r 2 (unsignedFn r) false fun xs => min (arg xs 0) (arg xs 1))
def execMax (r : GRec) (s : State) : Host.Outcome State Fault Refusal :=
  .next (intForm s r 2 (unsignedFn r) false fun xs => max (arg xs 0) (arg xs 1))
def execAnd (r : GRec) (s : State) : Host.Outcome State Fault Refusal :=
  .next (patForm s r 2 fun _ xs => pat xs 0 &&& pat xs 1)
def execOr (r : GRec) (s : State) : Host.Outcome State Fault Refusal :=
  .next (patForm s r 2 fun _ xs => pat xs 0 ||| pat xs 1)
def execXor (r : GRec) (s : State) : Host.Outcome State Fault Refusal :=
  .next (patForm s r 2 fun _ xs => pat xs 0 ^^^ pat xs 1)
def execAndn (r : GRec) (s : State) : Host.Outcome State Fault Refusal :=
  .next (patForm s r 2 fun w xs => pat xs 0 &&& (2 ^ w - 1 - pat xs 1))
/-- Shift and rotate counts are patterns read unsigned (R402). -/
def execShl (r : GRec) (s : State) : Host.Outcome State Fault Refusal :=
  .next (patForm s r 2 fun w xs => if w ≤ pat xs 1 then 0 else pat xs 0 * 2 ^ pat xs 1)
def execShr (r : GRec) (s : State) : Host.Outcome State Fault Refusal :=
  .next (patForm s r 2 fun w xs => if w ≤ pat xs 1 then 0 else pat xs 0 / 2 ^ pat xs 1)
def execShra (r : GRec) (s : State) : Host.Outcome State Fault Refusal :=
  .next (patForm s r 2 fun w xs => patternOf w (signedOf w (pat xs 0) / ((2 ^ min w (pat xs 1) : Nat) : Int)))
def execRot (r : GRec) (s : State) : Host.Outcome State Fault Refusal :=
  .next (patForm s r 2 fun w xs => pat xs 0 * 2 ^ (pat xs 1 % w) ||| pat xs 0 / 2 ^ (w - pat xs 1 % w))

/-- Zero bits above the highest one of a w-bit pattern, below its lowest one, and one bits (R355, R402). -/
def leadingZeros : Nat → Nat → Nat
  | 0, _ => 0
  | w + 1, x => if x / 2 ^ w % 2 = 1 then 0 else leadingZeros w x + 1
@[inherit_doc leadingZeros] def trailingZeros : Nat → Nat → Nat
  | 0, _ => 0
  | w + 1, x => if x % 2 = 1 then 0 else trailingZeros w (x / 2) + 1
@[inherit_doc leadingZeros] def onesCount : Nat → Nat → Nat
  | 0, _ => 0
  | w + 1, x => x % 2 + onesCount w (x / 2)

/-- An integer form whose result is a count, kept signed-extended at width w. -/
def execClz (r : GRec) (s : State) : Host.Outcome State Fault Refusal :=
  .next (patForm s r 1 fun w xs => leadingZeros w (pat xs 0))
def execCtz (r : GRec) (s : State) : Host.Outcome State Fault Refusal :=
  .next (patForm s r 1 fun w xs => trailingZeros w (pat xs 0))
def execPopc (r : GRec) (s : State) : Host.Outcome State Fault Refusal :=
  .next (patForm s r 1 fun w xs => onesCount w (pat xs 0))

/-- Bfx (R349). -/
def fieldOf (u : Bool) (a : Int) (p n : Nat) : Int :=
  if n = 0 then 0
  else
    let f := a / ((2 ^ p : Nat) : Int) % ((2 ^ n : Nat) : Int)
    if !u && decide (((2 ^ (n - 1) : Nat) : Int) ≤ f) then f - ((2 ^ n : Nat) : Int) else f
/-- The low bits of a control operand at an element place: of the scalar, or of the lane (R349, R350). -/
def controlAt (lm : LaneMode) (w : Nat) (v : TokVal) (e : Nat) : Nat :=
  match v.kind, lm with
  | .vector, .vector => v.lane (if w = 64 then 2 * e else e)
  | .vector, _ => v.lane 0
  | _, _ => v.word.toNat
/-- A bit-field form: `op` takes the places of the operands (R349, R350). -/
def bitField (s : State) (r : GRec) (signed : Bool) (op : (Nat → Nat) → (Nat → Nat) → Nat) : State :=
  let w := r.c.ty.width
  fireG s r fun f =>
    let ops := operandsOf r 3 f
    let at' (e i : Nat) : Nat := elemOf r.lm w (ops.getD i nullTok) e
    let ctl (e i : Nat) : Nat := controlAt r.lm w (ops.getD i nullTok) e
    match r.lm, minLn ops with
    | .scalar, _ | _, none => scalarElem w signed (op (at' 0) (ctl 0))
    | lm, some n => vectorElems lm w signed n ((List.range (placesOf lm w n)).map fun e => op (at' e) (ctl e))
def execBfx (r : GRec) (s : State) : Host.Outcome State Fault Refusal :=
  let w := r.c.ty.width
  let u := unsignedFn r
  .next (bitField s r (!u) fun x c =>
    patternOf w (fieldOf u (if u then (x 0 : Int) else signedOf w (x 0)) (c 1 % 256) (c 2 % 256)))
/-- Bfi (R350): position in bits [7:0] of C, length in bits [15:8]. -/
def insertField (a b c : Nat) : Nat :=
  let m := (2 ^ bits c 8 8 - 1) * 2 ^ bits c 0 8
  (a ^^^ (a &&& m)) ||| (b * 2 ^ bits c 0 8 &&& m)
def execBfi (r : GRec) (s : State) : Host.Outcome State Fault Refusal :=
  .next (bitField s r true fun x c => insertField (x 0) (x 1) (c 2) % 2 ^ r.c.ty.width)
/-- CMP (R356). -/
def execCmp (r : GRec) (s : State) : Host.Outcome State Fault Refusal :=
  let w := r.c.ty.width
  let u := unsignedFn r
  let rd (x : Nat) : Int := if u then (x : Int) else signedOf w x
  .next (fireG s r fun f => elementForm r.lm w w (!u) (operandsOf r 2 f) fun xs =>
    if intCond (r.c.fn.toNat % 8) (rd (pat xs 0)) (rd (pat xs 1)) then 1 else 0)
def execSel (r : GRec) (s : State) : Host.Outcome State Fault Refusal :=
  .next (patForm s r 3 fun _ xs => if pat xs 0 ≠ 0 then pat xs 1 else pat xs 2)

end Sys2Proof.Machine
end

