-- ==== Sys2Proof/Machine/Archive.lean ====
section
/-! DEFINITION. The sections CONFIG, SLEEVE, TOKEN, ISLAND, TRANSFER and STREAM of a freeze image (R123, R149, R225, R287, Table 9.11): the words
that a freeze writes, and what a resume takes from them. The spec lists what CONFIG, SLEEVE and the handle table hold and gives their fields no places:
they stand in the order of Table 9.11, with a count before each list (log 19). -/

namespace Sys2Proof.Machine

open Sys2Proof

/-! ## Sections -/

/-- A section: its type, its sleeve index or 0xFFFF, and its words. -/
structure Section where
  type  : Nat := 0
  slv   : Nat := 0xFFFF
  words : List Word := []
  deriving DecidableEq, Repr

/-- Index of a sleeve within its partition. -/
def sleeveIndex (s : State) (p v : Nat) : Nat := (partSleeves s p).idxOf v

/-- `n` words whose bits are those of a list of numbers, and the numbers of the bits that words set. -/
def bitWords (n : Nat) (l : List Nat) : List Word :=
  (List.range n).map fun i => BitVec.ofNat 64 (((l.filter fun k => k / 64 == i).map fun k => 2 ^ (k % 64)).foldl (· + ·) 0)
@[inherit_doc bitWords] def wordBitsOf (l : List Word) : List Nat :=
  l.zipIdx.flatMap fun x => ((List.range 64).filter x.1.getLsbD).map (64 * x.2 + ·)

/-- A counted list of words: its length, then its elements; and what is read of one, with the words after it. -/
def counted (l : List Word) : List Word := BitVec.ofNat 64 l.length :: l
@[inherit_doc counted] def uncount : List Word → List Word × List Word
  | [] => ([], [])
  | n :: l => (l.take n.toNat, l.drop n.toNat)

/-! ## CONFIG -/

/-- Units that the colours of a configuration hold (R261). -/
def budgetUse (s : State) (c : Nat) : Nat :=
  ((s.colours.filter fun k => (sleeveOf s k.2.sleeve).cfg == c && k.2.st != .free).map (·.2.holding)).foldl (· + ·) 0
/-- A cuff: its selected configuration's place in the list, from 1, the pending frame, and a pending CONFIG. -/
def cuffWords (q : Queue) (cfgs : List Nat) : List Word :=
  BitVec.ofNat 64 (if cfgs.contains q.cfg then cfgs.idxOf q.cfg + 1 else 0) :: (List.range 64).map (fun k => lookupD q.frame k 0)
    ++ (match q.pend with | some t => [1, t.hi, t.lo] | none => [0, 0, 0])
def configSection (s : State) (p : Nat) : Section :=
  let l := s.cfgs.filter fun x => x.2.part == p
  { type := 2, words := counted (l.flatMap fun x => [x.2.addr, x.2.gen.setWidth 64, BitVec.ofNat 64 (budgetUse s x.1)])
      ++ (partCuffs s p).flatMap fun c => cuffWords (queueOf s c) (l.map (·.1)) }

/-- The configurations of a snapshot with the address and GEN that CONFIG gives. -/
def takeConfigs (m : Map Configuration) (l : List Word) : Map Configuration :=
  m.zipIdx.map fun x => (x.1.1, { x.1.2 with addr := l.getD (3 * x.2) 0, gen := (l.getD (3 * x.2 + 1) 0).setWidth 32 })
/-- A cuff with what its 68 words hold; the order of a pending CONFIG stays. -/
def takeCuff (q : Queue) (cfgs : List Nat) (l : List Word) : Queue :=
  { q with cfg := if l.getD 0 0 = 0 then 0 else cfgs.getD ((l.getD 0 0).toNat - 1) 0
           frame := ((List.range 64).map fun k => (k, l.getD (1 + k) 0)).filter fun x => x.2 != 0
           pend := if l.getD 65 0 = 1 then some { hi := l.getD 66 0, lo := l.getD 67 0, order := (q.pend.map (·.order)).getD 0 } else none }

/-! ## SLEEVE -/

/-- Words of a sleeve's scratchpads: 32,768 to a quad. -/
def padWords (v : Sleeve) : Nat := 32768 * quadCount v
/-- A sleeve: its place, its mapped images, current modes, scratchpads with their poison, forwarding table, CBD and CBC. -/
def sleeveWords (grids : List Nat) (v : Sleeve) : List Word :=
  BitVec.ofNat 64 (grids.idxOf (descGrid v.desc) * 2 ^ 48 + descShape v.desc * 2 ^ 32 + descRow v.desc * 2 ^ 16 + descCol v.desc)
    :: counted (v.maps.map (·.blk)) ++ counted (v.modes.flatMap fun m => [m.1, BitVec.ofNat 64 (m.2.1 * 2 ^ 32 + m.2.2.1 * 2 ^ 16 + m.2.2.2)])
    ++ (List.range (padWords v)).map (fun i => BitVec.ofNat 64 (readScratch v (64 * i) 64)) ++ bitWords (padWords v / 256) v.scratchBad
    ++ counted (v.fwd.flatMap fun x => [BitVec.ofNat 64 x.1, BitVec.ofNat 64 x.2.1, x.2.2])
    ++ (List.range 16).map (fun b => lookupD v.cbd b 0) ++ (List.range 16).map (fun b => lookupD v.cbc b 0)
def sleeveSections (s : State) (p : Nat) : List Section :=
  (partSleeves s p).map fun v => { type := 3, slv := sleeveIndex s p v, words := sleeveWords (partGrids s p) (sleeveOf s v) }

/-- The bytes that words make, in canonical form. -/
def cellsOf (l : List Word) : List Host.Cell :=
  l.zipIdx.flatMap fun x => ((List.range 8).map fun j => (8 * x.2 + j, x.1.extractLsb' (8 * j) 8)).filter fun c => c.2 != unlisted
/-- Groups of `n` words. -/
def groupsOf (n : Nat) (l : List Word) : List (List Word) := (List.range (l.length / max n 1)).map fun i => (l.drop (n * i)).take n
/-- The bits of CBD and CBC that are not reserved (Tables 5.9, 5.10). -/
def cbdMask : Word := 0xF0001FFF01FFFFFF
@[inherit_doc cbdMask] def cbcMask : Word := 0x000FFFFFFFFFEFFF
/-- A sleeve of the grids that the image was written on, with what the words of its section hold; reserved bits read zero (R5). -/
def takeSleeve (grids : List Nat) (v : Sleeve) (l : List Word) : Sleeve :=
  let w := (l.getD 0 0).toNat
  let (maps, l) := uncount (l.drop 1)
  let (modes, l) := uncount l
  let n := padWords v
  let (fwd, r) := uncount (l.drop (n + n / 256))
  { v with desc := mkDesc (grids.getD (w / 2 ^ 48) 0) (bits w 32 3) (bits w 16 2) (bits w 0 3)
           maps := v.maps.zipIdx.map (fun m => { m.1 with blk := maps.getD m.2 0 })
           modes := (groupsOf 2 modes).map (fun m =>
             let x := (m.getD 1 0).toNat
             (m.getD 0 0, bits x 32 32, bits x 16 16, bits x 0 16))
           scratch := cellsOf (l.take n), scratchBad := wordBitsOf ((l.drop n).take (n / 256))
           fwd := (groupsOf 3 fwd).map (fun x => ((x.getD 0 0).toNat, (x.getD 1 0).toNat, x.getD 2 0))
           cbd := (List.range 16).map (fun b => (b, r.getD b 0 &&& cbdMask)), cbc := (List.range 16).map fun b => (b, r.getD (16 + b) 0 &&& cbcMask) }

/-! ## The handle table -/

/-- The 512 entries of a partition's handle table: base; valid bit, KIND, permissions and length; generation (R225). -/
def handleWords (x : Partition) : List Word :=
  (List.range 512).flatMap fun i =>
    let h := lookupD x.handles i {}
    [h.base, BitVec.ofNat 64 ((if h.valid then 2 ^ 63 else 0) + h.kind % 4 * 2 ^ 61 + (if h.r then 2 ^ 60 else 0) + (if h.w then 2 ^ 59 else 0) + h.len % 2 ^ 40),
      BitVec.ofNat 64 h.gen]
/-- The entries of a handle table with what the words of TRANSFER hold. -/
def takeHandles (m : Map Handle) (l : List Word) : Map Handle :=
  m.map fun x =>
    let w := l.getD (3 * x.1 + 1) 0
    (x.1, { x.2 with base := l.getD (3 * x.1) 0, valid := w.getLsbD 63, kind := bits w.toNat 61 2, r := w.getLsbD 60, w := w.getLsbD 59,
                     len := bits w.toNat 0 40, gen := (l.getD (3 * x.1 + 2) 0).toNat })

/-! ## Token images (Table 2.1) -/

/-- The image of a token makes a freeze image invalid at resume. -/
def tokenImageBad (l : List Word) : Bool :=
  let w1 := (l.getD 1 0).toNat
  let w2 := (l.getD 2 0).toNat
  let ln := bits w2 8 6
  bits w1 0 9 != 0 || bits w2 16 40 != 0 || bits w2 0 4 != 0 ||
    match bits w2 14 2 with
    | 0 => ln != 0
    | 1 => ln != 1
    | 2 => ln == 0 || decide (32 < ln)
    | _ => true
/-- The value that a token image holds. -/
def imageValue (l : List Word) : TokVal :=
  let w := l.getD 2 0
  { kind := match bits w.toNat 14 2 with | 0 => .null | 1 => .scalar | _ => .vector, ln := bits w.toNat 8 6, eor := w.getLsbD 7, eot := w.getLsbD 6
    eos := w.getLsbD 5, poi := w.getLsbD 4, val := valueOfNat (natOfElems 64 (((l.drop 3).take 16).map (·.toNat))) }
/-- A block address from a field [63:18] (Tables 2.1 and 2.13). -/
def fieldBlock (w : Nat) : Word := BitVec.ofNat 64 (if bits w 63 1 = 1 then 2 ^ 64 - 2 ^ 60 + w / 2 ^ 18 * 2 ^ 14 else w / 2 ^ 18 * 2 ^ 14)
/-- A port by its code. -/
def portNamed (n : Nat) : Port := match n % 4 with | 0 => .a | 1 => .b | 2 => .c | _ => .p
/-- A token in flight with what its image holds. -/
def takeNet (n : NetToken) (l : List Word) : NetToken :=
  let w := (l.getD 1 0).toNat
  { n with tok := { tag := l.getD 0 0, blk := fieldBlock w, node := bits w 11 7, port := portNamed (bits w 9 2), v := imageValue l }
           par := (l.getD 2 0).extractLsb' 56 8 }

/-! ## TOKEN -/

/-- The 24 words of a TOKEN entry. -/
def tokenEntry (t : NetToken) (kind : Nat) : List Word := (spillWords t 0).take 19 ++ [BitVec.ofNat 64 (kind * 2 ^ 56), 0, 0, 0, 0]
/-- A token at a port of an activation's node, with the parity of its image. -/
def portToken (s : State) (a node : Nat) (p : Port) (v : TokVal) : NetToken :=
  let t : Token := { tag := (actOf s a).tag, blk := (actOf s a).blk, node := node, port := p, v := v }
  { tok := t, par := parityOf t }
/-- The entries of a matching-store entry: its tokens as waiting or ready ones, a JOIN's count, a reduction's partial value. -/
def entryTokens (s : State) (e : Entry) : List Word :=
  let opc := recOpc (imgRec (actOf s e.act).image e.node)
  let kind := if e.stamp.isSome then 5 else 0
  if e.stamp.isNone ∧ 0 < e.count then
    let v := if opc = 0x05 then scalarOf (BitVec.ofNat 64 e.count) else e.a.getD nullTok
    tokenEntry (portToken s e.act e.node .a v) (if opc = 0x05 then 1 else 2)
  else [Port.a, .b, .c, .p].flatMap fun p => match e.port p with
    | some v => tokenEntry (portToken s e.act e.node p v) kind
    | none => []
/-- Waiting tokens, ready sets, counts, generators and pending mode tokens of a partition. -/
def tokenSection (s : State) (p : Nat) : Section :=
  let acts := s.acts.filter fun x => x.2.part == p && actLive x.2
  { type := 6, words :=
      (s.entries.filter (ownsEntry s p)).flatMap (entryTokens s)
        ++ (s.net.filter fun n => n.part == p).flatMap (fun n => tokenEntry n 0)
        ++ (s.far.filter fun n => n.t.part == p).flatMap (fun n => tokenEntry n.t 0)
        ++ (s.unsorted.filter fun n => n.part == p).flatMap (fun n => tokenEntry n 0)
        ++ (s.loops.filter fun l => l.2.part == p).flatMap (fun l => l.2.waiting.flatMap fun w => tokenEntry w.2 0)
        ++ (s.loops.filter fun l => l.2.part == p && l.2.counted.isSome && !l.2.done).flatMap (fun l =>
            tokenEntry (portToken s l.2.gen.act l.2.gen.node .a (scalarOf (BitVec.ofNat 64 ((l.2.counted.getD 0) * 2 ^ 32 + l.2.genNext)))) 3)
        ++ acts.flatMap fun x => x.2.modes.flatMap fun m => tokenEntry (portToken s x.1 m.2.2.1 .c m.2.2.2) 4 }

/-- An island: its tile store, its accumulators, their poison bits, those of the quarter rows, and words of the image's own format. -/
def islandWords (x : Island) (free : Word) : List Word :=
  (List.range 4096).flatMap (fun r => (List.range 16).map fun k => (lookupD x.tile r 0).extractLsb' (64 * k) 64)
    ++ (List.range 32768).map (fun k => lookupD x.acc (2 * k + 1) 0 ++ lookupD x.acc (2 * k) 0)
    ++ bitWords 1024 x.poi ++ bitWords 256 x.bad ++ [free]
/-- An island with what the words of its section hold. -/
def takeIsland (x : Island) (l : List Word) : Island :=
  let acc := l.drop 65536
  { x with tile := ((List.range 4096).map fun r => (r, BitVec.ofNat 1024 (natOfElems 64 (((l.drop (16 * r)).take 16).map (·.toNat))))).filter fun y => y.2 != 0
           acc := ((List.range 32768).flatMap fun k =>
             let w := acc.getD k 0
             [(2 * k, w.setWidth 32), (2 * k + 1, w.extractLsb' 32 32)]).filter fun y => y.2 != 0
           poi := wordBitsOf (acc.drop 32768 |>.take 1024), bad := wordBitsOf (acc.drop 33792 |>.take 256) }
def islandSections (s : State) (p : Nat) (free : Word) : List Section :=
  (partSleeves s p).flatMap fun v => match (sleeveOf s v).seg with
    | some (lo, n) => (List.range n).map fun i => { type := 7, slv := sleeveIndex s p v, words := islandWords (islandOf s (lo + i)) free }
    | none => []

/-- The messages of a sleeve's stream ports, as token images. -/
def streamSections (s : State) (p : Nat) : List Section :=
  (partSleeves s p).filterMap fun v =>
    let m := (sleeveOf s v).ports.flatMap (·.2)
    if m.isEmpty then none
    else some { type := 10, slv := sleeveIndex s p v, words := m.flatMap fun x => (spillWords { tok := { v := x }, par := parityOf { v := x } } 0).take 19 }

/-! ## What a resume takes from TOKEN and STREAM -/

/-- The token images of a section that are still to be taken. -/
abbrev Supply := List (List Word)
/-- Take the next image for one thing; the images and things run out together in an image of this partition. -/
def takeOne {α : Type} (f : α → List Word → α) (x : α) : Supply → α × Supply
  | [] => (x, [])
  | w :: l => (f x w, l)
/-- Take images for the elements of a list, in order. -/
def takeEach {α : Type} (f : α → Supply → α × Supply) : List α → Supply → List α × Supply
  | [], l => ([], l)
  | x :: xs, l =>
    let (y, l) := f x l
    let (ys, l) := takeEach f xs l
    (y :: ys, l)
/-- A matching-store entry takes its count, its partial value, or the tokens at its ports. -/
def takeEntry' (s : State) (e : Entry) (l : Supply) : Entry × Supply :=
  if e.stamp.isNone ∧ 0 < e.count then
    if recOpc (imgRec (actOf s e.act).image e.node) = 0x05 then takeOne (fun e w => { e with count := (imageValue w).word.toNat }) e l
    else takeOne (fun e w => if e.a.isSome then { e with a := some (imageValue w) } else e) e l
  else [Port.a, .b, .c, .p].foldl (fun r p => if (e.port p).isSome then takeOne (fun e w => e.put p (imageValue w)) r.1 r.2 else r) (e, l)
/-- A generator of an LCNT loop takes its trip count and next index. -/
def takeGen (x : Nat × Loop) (w : List Word) : Nat × Loop :=
  let v := (imageValue w).word.toNat
  (x.1, { x.2 with counted := some (v / 2 ^ 32), genNext := v % 2 ^ 32 })

/-- A snapshot with what the entries of TOKEN hold, in the order of `tokenSection`; `s` holds the snapshot's activations. -/
def takeTokens (s : State) (n : Snapshot) (l : Supply) : Snapshot :=
  let (entries, l) := takeEach (takeEntry' s) n.entries l
  let (net, l) := takeEach (takeOne takeNet) n.net l
  let (far, l) := takeEach (takeOne fun (x : FarToken) w => { x with t := takeNet x.t w }) n.far l
  let (unsorted, l) := takeEach (takeOne takeNet) n.unsorted l
  let (loops, l) := takeEach (fun (x : Nat × Loop) l =>
    let (w, l) := takeEach (takeOne fun (y : Nat × NetToken) w => (y.1, takeNet y.2 w)) x.2.waiting l
    ((x.1, { x.2 with waiting := w }), l)) n.loops l
  let (loops, l) := takeEach (fun (x : Nat × Loop) l => if x.2.counted.isSome && !x.2.done then takeOne takeGen x l else (x, l)) loops l
  let (acts, _) := takeEach (fun (x : Nat × Act) l =>
    if actLive x.2 then
      let (m, l) := takeEach (takeOne fun (y : Nat × Word × Nat × TokVal) w => (y.1, y.2.1, y.2.2.1, imageValue w)) x.2.modes l
      ((x.1, { x.2 with modes := m }), l)
    else (x, l)) n.acts l
  { n with entries := entries, net := net, far := far, unsorted := unsorted, loops := loops, acts := acts }

/-- A sleeve's stream ports take their messages. -/
def takePorts (v : Sleeve) (l : Supply) : Sleeve :=
  { v with ports := (takeEach (fun (x : Nat × List TokVal) l =>
      let (m, l) := takeEach (takeOne fun (_ : TokVal) w => imageValue w) x.2 l
      ((x.1, m), l)) v.ports l).1 }

end Sys2Proof.Machine
end

