-- ==== Sys2Proof/Machine/Wave.lean ====
section
/-! DEFINITION. The freeze image (R286, R287, Tables 9.10 and 9.11): its registers, colours, header and directory, its writing, and
FREEZE_END. -/

namespace Sys2Proof.Machine

open Sys2Proof

/-! ## Sections -/

/-- The numbers of the registers in REGS: Tables 2.8, 4.6 and 9.3, and HVCAP. -/
def imageRegs (p : Nat) : List Nat :=
  [0x440, 0x441, 0x442, 0x443, 0x444, 0x448, 0x449, 0x44A, 0x44B, 0x44C, 0x44D, 0x450, 0x451, 0x4B0 + p]
    ++ (List.range 8).map fun k => 0x700 + 16 * p + k
/-- A register of REGS. -/
def imageReg (s : State) (p n : Nat) : Word :=
  if n < 0x460 then readPartReg (partOf s p) n
  else if n < 0x700 then BitVec.ofNat 64 (partOf s p).hvcap else readFaultReg s p (n % 16)
def regsSection (s : State) (p : Nat) : Section :=
  { type := 1, words := (imageRegs p).flatMap fun n => [BitVec.ofNat 64 n, imageReg s p n] }

/-- The colours of a partition, and the re-issues that wait as queued spawns of number zero (R312). -/
def imageColours (s : State) (p : Nat) : List Colour :=
  (s.colours.filter fun x => x.2.part == p && x.2.st != .free).map (·.2)
    ++ (s.retries.filter fun c => c.part == p).map fun c => { c with num := 0, st := .queued, f := c.args, w := [], called := false, holding := 0 }
def colourSection (s : State) (p : Nat) (free : Word) : Section :=
  { type := 4, words := (imageColours s p).flatMap fun c =>
      colourEntry s c (sleeveIndex s p c.sleeve) (BitVec.ofNat 64 c.holding :: List.replicate 59 free) }

/-- The sections of a partition's image. The words of layouts that are not architected are free; the first of ACTIVATION is the number
of the model's copy (log 19). -/
def imageSections (s : State) (p id : Nat) (free : Word) : List Section :=
  [regsSection s p, configSection s p] ++ sleeveSections s p
    ++ [colourSection s p free, { type := 5, words := [BitVec.ofNat 64 id, free] }, tokenSection s p] ++ islandSections s p free
    ++ [{ type := 8, words := handleWords (partOf s p) ++ [free] }, { type := 9, words := [free, free] }] ++ streamSections s p

/-- Words of a section filled up to 4 KiB. -/
def padPage (l : List Word) : List Word := l ++ List.replicate ((512 - l.length % 512) % 512) 0

/-- Directory entries and contents of sections that begin at a word of the image. -/
def layout : Nat → List Section → List Word × List Word
  | _, [] => ([], [])
  | o, x :: xs =>
    let body := padPage x.words
    let (d, b) := layout (o + body.length) xs
    ([BitVec.ofNat 64 (x.type * 2 ^ 56 + x.slv % 65536 * 2 ^ 40 + 8 * x.words.length), BitVec.ofNat 64 (8 * o)] ++ d, body ++ b)

/-- The words of an image (Table 9.10). -/
def imageWords (s : State) (p id : Nat) (wdog : Bool) (free : Word) : List Word :=
  let secs := imageSections s p id free
  let head := 512 * ((8 + 2 * secs.length + 511) / 512)
  let (dir, body) := layout head secs
  let len := 8 * (head + body.length)
  padPage ([BitVec.ofNat 64 (2 ^ 48 + (partGrids s p).length * 2 ^ 32 + Config.imgId.toNat),
            BitVec.ofNat 64 (secs.length * 2 ^ 32 + flag (partOf s p).ldab 1 + flag wdog 0), BitVec.ofNat 64 len, 0, 0, 0, 0, 0] ++ dir) ++ body

/-- The values of the sectors that words make. -/
def sectorsOf : List Word → List Nat
  | a :: b :: c :: d :: l => (d ++ c ++ b ++ a).toNat :: sectorsOf l
  | l => match l with | [] => [] | _ => [natOfElems 64 (l.map (·.toNat))]

/-! ## Writing (step 5 of R286) -/

/-- What the translation of an image gives: its sectors, the status of the first that fails (R247, R286), or a wait. -/
inductive ImagePlan where
  | ok (l : List ImageSector) (s : State)
  | bad (status : Nat)
  | wait (s : State)
  deriving DecidableEq, Repr

/-- Translate the sectors of an image, in order. -/
def planImage (s : State) (p : Nat) (va : Word) : List Nat → ImagePlan
  | [] => .ok [] s
  | v :: vs =>
    match agentTranslate s .none p true .write va 256 with
    | .error (.wait s) => .wait s
    | .error (.fault i _) => .bad (if i.cls = .translation then Status.translation.code else Status.protection.code)
    | .ok (e, big, s) =>
      let loc := locOf s e big va
      let refused : Bool := match loc with | .reg _ => true | .dev _ _ | .pod _ | .remote _ _ => lostLoc s loc || overflowed s e big va
      if refused then .bad Status.protection.code
      else match planImage s p (va + 256) vs with
        | .ok l s => .ok ({ va := va, leaf := e, big := big, v := v } :: l) s
        | r => r

/-- A sector cannot be written yet: a lock, a group hold, or an owner in the pod. -/
def sectorWaits (s : State) (x : ImageSector) : Bool := heldWrite s x.leaf x.big x.va || (ownedLoc s (locOf s x.leaf x.big x.va)).isSome
/-- Write a sector of an image; the flag tells whether it found its way. -/
def writeSector (p : Nat) (r : Bool × State) (x : ImageSector) : Bool × State :=
  let (ok, s) := r
  match locOf s x.leaf x.big x.va with
  | .remote dst a =>
    let send (s : State) (a n v : Nat) : Bool × State :=
      sendRequest s { dst := dst, what := .image p, addr := a, len := n } (writeSlot n a v)
    let (ok1, s) := send (dropCopy s dst (a / 512)) a 192 (x.v % 2 ^ 192)
    let (ok2, s) := send s (a + 192) 64 (x.v / 2 ^ 192)
    (ok && ok1 && ok2, s)
  | loc => (ok, bankWrite s { part := p, big := x.big } x.leaf loc 256 x.v)

/-! ## The model's copy -/

/-- What an image holds of a partition beside its architected sections. -/
def snapshotOf (s : State) (p : Nat) : Snapshot :=
  let mine (n : NetToken) : Bool := n.part == p
  { num := p, grids := partGrids s p, ids := s.ids, part := partOf s p
    queues := s.queues.filter fun x => (partOf s p).grids.getLsbD (x.1 / 4)
    sleeves := s.sleeves.filter fun x => x.2.part == p
    cfgs := s.cfgs.filter fun x => x.2.part == p
    colours := s.colours.filter fun x => x.2.part == p && x.2.st != .free
    acts := s.acts.filter fun x => x.2.part == p
    threads := s.threads.filter fun h => h.part == p
    loops := s.loops.filter fun x => x.2.part == p
    net := s.net.filter mine
    far := s.far.filter fun x => mine x.t
    unsorted := s.unsorted.filter mine
    entries := s.entries.filter (ownsEntry s p)
    spilled := s.spilled.filter fun x => mine x.t
    ops := s.ops.filter fun o => o.2.f.part == p
    stores := s.stores.filter fun x => x.2.part == p
    parked := s.parked.filter fun q => q.part == p
    records := s.records.filter fun r => r.part == p
    retries := s.retries.filter fun c => c.part == p
    islands := s.islands.filter fun x => ownsIsland s p x.1
    flights := s.flights.filter fun x => x.a.part == p
    hemOps := s.hemOps.filter fun x => x.2.f.part == p
    xfers := s.xfers.filter fun x => ownsXfer p x.2
    colls := s.colls.filter fun x => ownsColl p x.2 }

/-- Write the sectors of an image in order, as far as none must wait: those that are left, and whether every one found its way. -/
def writeSectors (p : Nat) : List ImageSector → Bool → State → List ImageSector × Bool × State
  | [], ok, s => ([], ok, s)
  | x :: xs, ok, s =>
    if sectorWaits s x then
      (x :: xs, ok, match ownedLoc s (locOf s x.leaf x.big x.va) with | some k => snoopOwner s k none | none => s)
    else let (ok, s) := writeSector p (ok, s) x; writeSectors p xs ok s

/-- Go on with the sectors of an image that are left; with the last one its status is known. -/
def writeLeft (s : State) (p : Nat) (l : List ImageSector) (ok : Bool) : State :=
  match writeSectors p l ok s with
  | ([], ok, s) => updPart s p fun x => { x with imgLeft := none, frozen := some (if ok then (0, true) else (Status.protection.code, false)) }
  | (l, ok, s) => updPart s p fun x => { x with imgLeft := some (l, ok) }

/-- Write the image of a partition at an address, or set the status of the failure; it waits while a sector must wait. -/
def writeImage (s : State) (p : Nat) (va : Word) (wdog : Bool) : State :=
  let (id, t) := fresh s
  let (free, t) := freeWord t
  match (partOf s p).imgLeft with
  | some (l, ok) => writeLeft s p l ok
  | none =>
    if va.toNat % 32768 ≠ 0 then updPart s p fun x => { x with frozen := some (Status.protection.code, false) }
    else match planImage t p va (sectorsOf (imageWords t p id wdog free)) with
      | .wait s => s
      | .bad c => updPart s p fun x => { x with frozen := some (c, false) }
      | .ok l t => writeLeft { t with snaps := insertAt t.snaps id (snapshotOf t p) } p l true

/-! ## The end of a freeze (step 6) -/

/-- Set FIMG and write the FROZEN record, or reset the partition after a watchdog expiry. -/
def endFreeze (s : State) (p : Nat) (c : FreezeCause) (img : Option Word) (st : Nat) (written : Bool) : State :=
  let a := img.getD 0
  let s := updPart s p fun x => { x with fimg := (a &&& baseMask) ||| BitVec.ofNat 64 st, pstate := .frozen, frozen := none, imgLeft := none }
  match c with
  | .token q n => egress s q 0x0B 0 n [a, gridMask s p]
  | .form q => egress s q 0x0B 0 0 [a, gridMask s p]
  | .watchdog l => watchdogReset s p l (if written then a else 0)

/-- A FROZEN record has a place. -/
def frozenRoom (s : State) : FreezeCause → Bool
  | .token q _ | .form q => (queueOf s q).qegn == 0 || decide ((queueOf s q).hold.length < 64)
  | .watchdog _ => true

/-- The image of a watchdog's freeze waits for the fault records that wait for a place: they are written before it (R289). -/
def imageHeld (s : State) (p : Nat) (c : FreezeCause) (img : Option Word) : Bool :=
  match c with
  | .watchdog _ => img.isSome && !(partOf s p).frecs.isEmpty
  | .token _ _ | .form _ => false

/-- FREEZE_END. -/
def execFreezeEnd (part : Nat) (s : State) : Host.Outcome State Fault Refusal :=
  .next (match (partOf s part).pstate, (partOf s part).freeze with
    | .freezing, some (c, img) =>
      let go (s : State) : State :=
        match (partOf s part).frozen with
        | some (st, written) =>
          if !frozenRoom s c || s.remotes.any fun r => r.2.what == .image part then s else endFreeze s part c img st written
        | none => s
      match (partOf s part).frozen with
      | some _ => go s
      | none =>
        let s := abandonLoads s part
        if (s.loading.any fun x => x.part == part) || !freezeSettled s part || imageHeld s part c img then s
        else
          let s := unissue s part
          match img with
          | none => go (updPart s part fun x => { x with frozen := some (0, false) })
          | some va => go (writeImage s part va (match c with | .watchdog _ => true | .token _ _ | .form _ => false))
    | _, _ => s)

end Sys2Proof.Machine
end

