-- ==== Sys2Proof/Machine/Loader.lean ====
section
/-! DEFINITION. The loader: configuration records (R247, R248, Table 8.4), verification (R102), placement (R19, R21, R23, R26, R84),
eviction (R252) and the six steps of a load (R250, R251). -/

namespace Sys2Proof.Machine

open Sys2Proof

/-! ## Reading (R247) -/

/-- What a read of the loader gives: bits and whether a sector of them was poisoned; a wait; or the status of a failed load, with word 3
of its record. -/
inductive Loaded (α : Type) where
  | ok (v : α) (s : State)
  | wait (s : State)
  | bad (c : Status) (word3 : Nat) (s : State)

/-- Read `n` bits at a virtual address at supervisor privilege. -/
def loaderRead (s : State) (p : Nat) (use : Use) (va : Word) (n : Nat) : Loaded (Nat × Bool) :=
  let o := va.toNat % 256
  match agentSectors s .none p true use (va - BitVec.ofNat 64 o) true ((o + n + 255) / 256) with
  | .ok v poi s => .ok (v / 2 ^ o % 2 ^ n, poi.any id) s
  | .wait s => .wait s
  | .fault i s => .bad (if i.cls = .translation then .translation else .protection) 0 s
  | .lost _ s | .refused _ s => .bad .protection 0 s

/-! ## The record (Table 8.4) -/

/-- A configuration record. -/
structure CfgRecord where
  /-- Its first 256 bytes. -/
  head : Nat := 0
  imgs : List Word := []
  pins : List (BitVec 16) := []

def CfgRecord.word (r : CfgRecord) (i : Nat) : Nat := bits r.head (64 * i) 64
def CfgRecord.nslv (r : CfgRecord) : Nat := bits (r.word 0) 32 16
def CfgRecord.nimg (r : CfgRecord) : Nat := bits (r.word 0) 24 8
def CfgRecord.entry (r : CfgRecord) : Nat := bits (r.word 0) 16 8
def CfgRecord.shape (r : CfgRecord) : Nat := bits (r.word 0) 13 3
/-- Islands of a ring segment. -/
def CfgRecord.seg (r : CfgRecord) : Nat := match bits (r.word 0) 11 2 with | 0 => 0 | 1 => 8 | 2 => 16 | _ => 32
def CfgRecord.xfr (r : CfgRecord) : Bool := bits (r.word 0) 10 1 == 1
def CfgRecord.lin (r : CfgRecord) : Bool := bits (r.word 0) 9 1 == 1
def CfgRecord.pin (r : CfgRecord) : Bool := bits (r.word 0) 8 1 == 1
def CfgRecord.floor (r : CfgRecord) : Bool := bits (r.word 0) 7 1 == 1
def CfgRecord.nver (r : CfgRecord) : Nat := bits (r.word 0) 0 4
def CfgRecord.seed (r : CfgRecord) : Word := BitVec.ofNat 64 (r.word 1)
def CfgRecord.gen (r : CfgRecord) : BitVec 32 := BitVec.ofNat 32 (r.word 2 / 2 ^ 32)
def CfgRecord.draw (r : CfgRecord) : BitVec 32 := BitVec.ofNat 32 (r.word 2)
def CfgRecord.budget (r : CfgRecord) : Nat := bits (r.word 3) 48 16
def CfgRecord.colmax (r : CfgRecord) : Nat := bits (r.word 3) 32 16
def CfgRecord.wdt (r : CfgRecord) : Nat := bits (r.word 3) 0 32
def CfgRecord.lanes (r : CfgRecord) : Nat := bits (r.word 4) 16 8
def CfgRecord.spkb (r : CfgRecord) : Nat := bits (r.word 4) 0 16

/-- A NVER that the register takes (Table 4.6). -/
def nverLegal (n : Nat) : Bool := n == 7 || n == 9

/-- The fixed part of a record is malformed. -/
def CfgRecord.malformed (r : CfgRecord) : Bool :=
  bits (r.word 0) 48 16 != 1 || r.nslv == 0 || decide (256 < r.nslv) || r.nimg == 0 || decide (r.nimg ≤ r.entry) || bits (r.word 0) 4 3 != 0
    || !nverLegal r.nver || bits (r.word 4) 24 40 != 0 || r.lanes == 0 || decide (32 < r.lanes) || decide (256 < r.spkb)
    || r.word 5 != 0 || r.word 6 != 0 || r.word 7 != 0

/-- The resource floor is broken by the record (R248); and by its images. -/
def CfgRecord.floorBad (r : CfgRecord) : Bool :=
  r.floor && (decide (4 < shapeQuads r.shape) || decide (8 < r.seg) || r.colmax == 0 || decide (16 < r.colmax) || decide (128 < r.spkb))
@[inherit_doc CfgRecord.floorBad] def imageFloorBad (img : Image) : Bool :=
  (List.range (imgRcnt img)).any (fun i => bits (imgRead img i) 30 2 == 0 && decide (48 ≤ bits (imgRead img i) 24 6))
    || (List.range (imgWcnt img)).any fun i => bits (imgWrite img i) 14 2 == 0 && decide (48 ≤ bits (imgWrite img i) 0 6)

/-- Pinned descriptors. -/
def CfgRecord.npin (r : CfgRecord) : Nat := if r.pin then r.nslv * (if r.lin then 2 else 1) else 0

/-- Read the fixed part of a record. -/
def readHead (s : State) (p : Nat) (va : Word) : Loaded CfgRecord :=
  match loaderRead s p .read va 2048 with
  | .ok (v, false) s => .ok { head := v } s
  | .ok (_, true) s => .bad .badConfig 0 s
  | .wait s => .wait s
  | .bad c w s => .bad c w s

/-- Read the image list and the descriptors. -/
def readRest (s : State) (p : Nat) (va : Word) (r : CfgRecord) : Loaded CfgRecord :=
  match loaderRead s p .read (va + 2048) (64 * r.nimg + 16 * r.npin) with
  | .ok (v, false) s => .ok { r with imgs := (List.range r.nimg).map (fun i => BitVec.ofNat 64 (v / 2 ^ (64 * i)))
                                     pins := (List.range r.npin).map fun j => BitVec.ofNat 16 (v / 2 ^ (64 * r.nimg + 16 * j)) } s
  | .ok (_, true) s => .bad .badConfig 0 s
  | .wait s => .wait s
  | .bad c w s => .bad c w s

/-- Step 3: read and check a record whose fixed part has been read. -/
def readRecord (s : State) (p : Nat) (va : Word) (r : CfgRecord) : Loaded CfgRecord :=
  if r.malformed || r.floorBad || (r.lin && !usable s 2) then .bad .badConfig 0 s
  else match readRest s p va r with
    | .ok r s =>
      if r.imgs.any fun a => a.toNat % 16384 != 0 then .bad .badConfig 0 s
      else match r.pins.find? fun d => !descLegal d with
        | some d => .bad .badCoord d.toNat s
        | none => .ok r s
    | x => x

/-- Step 4: read and verify images (R102). A poisoned sector fails the check code. -/
def readImages (p : Nat) : List Word → State → Loaded (List (Word × Image))
  | [], s => .ok [] s
  | a :: as, s =>
    match loaderRead s p .fetch a 16384 with
    | .ok (v, poi) s =>
      let img : Image := BitVec.ofNat 16384 v
      match (if poi then some 0x500 else verify img a (usable s 0)) with
      | some l => .bad .badEncoding l s
      | none =>
        match readImages p as s with
        | .ok l s => .ok ((a, img) :: l) s
        | x => x
    | .wait s => .wait s
    | .bad c w s => .bad c w s

/-! ## Placement (R19, R21, R23, R26, R84) -/

/-- Where a sleeve goes. -/
structure Placed where
  desc : BitVec 16 := 0
  seg  : Option (Nat × Nat) := none
  xisl : Option Nat := none
  deriving DecidableEq, Repr

/-- What a configuration's sleeves need: shape, nodes of the largest block, islands of a segment, a transfer island. -/
structure Needs where
  shape : Nat := 0
  nodes : Nat := 0
  seg   : Nat := 0
  xfr   : Bool := false
  deriving DecidableEq, Repr

/-- The legal origins of a shape in a partition's grids (Table 1.4). -/
def originsOf (s : State) (p shape : Nat) : List (BitVec 16) :=
  ((partGrids s p).flatMap fun g => (List.range 4).flatMap fun r => (List.range 8).map fun c => mkDesc g shape r c).filter descLegal

/-- The quads and islands that sleeves hold. -/
def quadsHeld (l : List (Nat × Sleeve)) : List Nat := l.flatMap fun v => sleeveQuads v.2
@[inherit_doc quadsHeld] def islandsHeld (l : List (Nat × Sleeve)) : List Nat :=
  l.flatMap fun v => match v.2.seg with | some (lo, n) => (List.range n).map (lo + ·) | none => []

/-- The free good ring segments of a grid. -/
def segmentsOf (s : State) (g size : Nat) (used : List Nat) : List (Nat × Nat) :=
  ((List.range (32 / max size 1)).map fun k => (32 * g + size * k, size)).filter fun x =>
    (List.range size).all fun i => !used.contains (x.1 + i) && !islBad s (x.1 + i)
/-- The good transfer islands of a grid. -/
def xislandsOf (s : State) (g : Nat) : List Nat := ((List.range 4).map (4 * g + ·)).filter fun i => !xislBad s i

/-- A sleeve at one origin, when it can take the blocks there; `i` makes the free choices. -/
def placeAt (s : State) (n : Needs) (quads isls : List Nat) (i : Nat) (d : BitVec 16) : Option Placed :=
  if (descQuads d).any quads.contains || decide (16 * (goodEns s d).length < n.nodes) then none
  else
    let x := rotate (xislandsOf s (descGrid d)) i
    if n.xfr && x.isEmpty then none
    else if n.seg = 0 then some { desc := d, xisl := if n.xfr then x.head? else none }
    else (rotate (segmentsOf s (descGrid d) n.seg isls) i).head?.map fun g => { desc := d, seg := some g, xisl := if n.xfr then x.head? else none }

/-- Place sleeves one after the other, each at the first of its candidates that takes it. -/
def placeAll (s : State) (n : Needs) (i : Nat) : List Nat → List Nat → List (List (BitVec 16)) → Option (List Placed)
  | _, _, [] => some []
  | quads, isls, c :: cs =>
    match c.findSome? (placeAt s n quads isls i) with
    | none => none
    | some x =>
      let more := match x.seg with | some (lo, k) => (List.range k).map (lo + ·) | none => []
      (placeAll s n i (descQuads x.desc ++ quads) (more ++ isls) cs).map (x :: ·)

/-- The needs of a record's sleeves, and of its lining sleeves. -/
def needsOf (r : CfgRecord) (imgs : List (Word × Image)) : Needs :=
  { shape := r.shape, nodes := (imgs.map fun x => imgNcnt x.2).foldl max 0, seg := r.seg, xfr := r.xfr }
/-- A sleeve of the shape is smaller than the largest MINS of the blocks (R84). -/
def tooSmall (r : CfgRecord) (imgs : List (Word × Image)) : Bool :=
  imgs.any fun x => decide (shapeQuads r.shape < 2 * 2 ^ imgMins x.2)

/-- Place a configuration beside sleeves that stay: its first sleeves, then its lining sleeves. -/
def placeConfig (s : State) (p : Nat) (r : CfgRecord) (imgs : List (Word × Image)) (keep : List (Nat × Sleeve)) (i : Nat) :
    Option (List Placed × List Placed) :=
  let n := needsOf r imgs
  let any := rotate (originsOf s p r.shape) i
  let cand (k : Nat) : List (BitVec 16) :=
    if r.pin then (r.pins[k]?).toList.filter fun d => (partOf s p).grids.getLsbD (descGrid d) else any
  if tooSmall r imgs then none
  else match placeAll s n i (quadsHeld keep) (islandsHeld keep) ((List.range r.nslv).map cand) with
    | none => none
    | some l =>
      if !r.lin then some (l, [])
      else (placeAll s { n with seg := 0, xfr := false } i (l.flatMap (fun x => descQuads x.desc) ++ quadsHeld keep) []
          ((List.range r.nslv).map fun k => cand (r.nslv + k))).map fun m => (l, m)

/-! ## Loaded configurations (R249, R252, R256) -/

/-- The configurations of a partition. -/
def partCfgs (s : State) (p : Nat) : List (Nat × Configuration) := s.cfgs.filter fun x => x.2.part == p
/-- The resident configuration of a record. -/
def residentCfg (s : State) (p : Nat) (addr : Word) (gen : BitVec 32) : Option Nat :=
  ((partCfgs s p).find? fun x => x.2.addr == addr && x.2.gen == gen).map (·.1)
/-- A sleeve of a configuration, or a lining sleeve. -/
def ownsSleeve (s : State) (c v : Nat) : Bool := (cfgOf s c).sleeves.contains v || (cfgOf s c).liners.contains v
/-- A configuration has an activation in flight (R22, R252, R256); that of a SEND which waits for space at a port of its sleeves counts as one, though
it may have committed (R434). -/
def cfgBusy (s : State) (c : Nat) : Bool :=
  (s.acts.any fun a => ownsSleeve s c a.2.sleeve && actLive a.2)
    || s.ops.any fun o => match o.2.w with | .send v _ _ => ownsSleeve s c v | _ => false

/-- Dissolve a configuration's sleeves; cuffs that selected it have no selection, and the messages at its stream ports are counted (R415). The spec does not say what becomes of the colours that live
on them without an activation in flight: they go to Ending, and re-issues that wait for a place are dropped (log 53). -/
def dissolve (s : State) (c : Nat) : State :=
  let mine := ownsSleeve s c
  let left := (s.colours.filter fun k => mine k.2.sleeve && k.2.st != .free).map (·.1)
  let s := left.foldl endColour { s with retries := s.retries.filter fun k => !mine k.sleeve }
  let s := dead s (cfgOf s c).part (queuedMessages (s.sleeves.filter fun v => mine v.1))
  { s with cfgs := eraseAt s.cfgs c
           sleeves := s.sleeves.filter fun v => !mine v.1
           prefetched := s.prefetched.filter fun f => !mine f.1
           queues := s.queues.map fun q => if q.2.cfg = c then (q.1, { q.2 with cfg := 0 }) else q }
/-- Evict a configuration (R252). The record counts as an event, with ISEQ 0, though a CONFIG caused the eviction: the spec does not say (log
53). -/
def evict (s : State) (c : Nat) : State :=
  let x := cfgOf s c
  egress (dissolve s c) x.queue 3 Status.evicted.code 0 [x.addr]

/-- Evict configurations one after the other; none when the queue of one has no room for its record by then, outside the places that are
reserved (R259). -/
def evictAll : List Nat → State → Option State
  | [], s => some s
  | c :: cs, s => if egressFull s (cfgOf s c).queue then none else evictAll cs (evict s c)

/-- The least recently started of a list of configurations. DESIGN CHOICE (log 53): of several that were never started, or started in one cycle,
R252 does not say which goes first; it is the first of the list. -/
def leastRecent (l : List (Nat × Configuration)) : Option (Nat × Configuration) :=
  l.foldl (fun b x => match b with | none => some x | some y => if x.2.started < y.2.started then some x else some y) none

/-- Sleeves of configurations. -/
def sleevesOf (s : State) (l : List (Nat × Configuration)) : List (Nat × Sleeve) := s.sleeves.filter fun v => l.any fun c => c.1 == v.2.cfg

/-- Find a placement, evicting idle configurations one by one, least recently started first: what is evicted, and the placement. -/
def findPlace (s : State) (p : Nat) (r : CfgRecord) (imgs : List (Word × Image)) (i : Nat) :
    Nat → List (Nat × Configuration) → List Nat → Option (List Nat × List Placed × List Placed)
  | 0, _, _ => none
  | n + 1, keep, gone =>
    match (if keep.length < 8 then placeConfig s p r imgs (sleevesOf s keep) i else none) with
    | some (l, m) => some (gone, l, m)
    | none =>
      match leastRecent (keep.filter fun c => !cfgBusy s c.1) with
      | some (c, _) => findPlace s p r imgs i n (keep.filter fun x => x.1 != c) (gone ++ [c])
      | none => none

/-! ## Forming sleeves (R149, R205, R251) -/

/-- G0 to G31 of a sleeve (Table 8.5). -/
def sleeveG (s : State) (p : Nat) (r : CfgRecord) (d : BitVec 16) (index : Nat) (lining : Bool) : Map Word :=
  let n (x : Nat) : Word := BitVec.ofNat 64 x
  [n r.nslv, n index, n (shapeQuads (descShape d)), n (32 * (partGrids s p).length), n r.seg, d.setWidth 64, s.regs.devn.setWidth 64,
    if lining then 1 else 0].zipIdx.map (fun x => (x.2, x.1)) ++ (List.range 24).map fun k => (8 + k, n (r.word (8 + k)))

/-- The islands of a segment as a load leaves them (R205). DESIGN CHOICE (log 53), for R205 does not say what becomes of commands of the earlier
sleeve: those queued at the islands are dropped with them, and those still on a hem channel arrive. -/
def clearSegment (s : State) (seg : Option (Nat × Nat)) : State :=
  match seg with
  | some (lo, n) => { s with islands := s.islands.filter fun x => !(decide (lo ≤ x.1) && decide (x.1 < lo + n)) }
  | none => s

/-- A sleeve formed at a place. -/
def formSleeve (s : State) (p c : Nat) (r : CfgRecord) (x : Placed) (index : Nat) (lining : Bool) (liner : Nat) : Sleeve :=
  { part := p, cfg := c, desc := x.desc, index := index, good := goodEns s x.desc, lining := lining, liner := liner, seg := x.seg, xisl := x.xisl,
    g := sleeveG s p r x.desc index lining }

/-- Step 6: form the sleeves of a configuration, with identifiers from the next on. -/
def formConfig (s : State) (p q : Nat) (addr : Word) (r : CfgRecord) (imgs : List (Word × Image)) (l m : List Placed) : Nat × State :=
  let c := s.ids
  let first (i : Nat) : Nat := c + 1 + i
  let lin (i : Nat) : Nat := c + 1 + l.length + i
  let cfg : Configuration :=
    { part := p, addr := addr, gen := r.gen, queue := q, nslv := r.nslv, seg := r.seg, xfr := r.xfr, lin := r.lin, images := imgs,
      entry := r.imgs.getD r.entry 0, shape := r.shape, draw := r.draw, budget := r.budget, colmax := r.colmax, wdt := r.wdt, lanes := r.lanes,
      sleeves := (List.range l.length).map first, liners := (List.range m.length).map lin, pin := r.pin }
  let s := { s with ids := c + 1 + l.length + m.length, cfgs := insertAt s.cfgs c cfg }
  let s := l.zipIdx.foldl (fun s x =>
    clearSegment { s with sleeves := insertAt s.sleeves (first x.2) (formSleeve s p c r x.1 x.2 false (if m.isEmpty then 0 else lin x.2)) } x.1.seg) s
  (c, m.zipIdx.foldl (fun s x => { s with sleeves := insertAt s.sleeves (lin x.2) (formSleeve s p c r x.1 x.2 true 0) }) s)

/-! ## A load (R250) -/

/-- How serving a CONFIG goes: it is served; it waits for what it reads, or for sleeves to become idle, in a state. -/
inductive LoadEnd where
  | served (s : State)
  | waits (s : State)

/-- The LOADED record of a token. -/
def loadedRecord (s : State) (q : Nat) (t : Ingress) (st : Status) (word3 word4 : Nat) : State :=
  egress s q 1 st.code t.seq [t.payload, BitVec.ofNat 64 word3, BitVec.ofNat 64 word4]
/-- A load in progress has done step 1. -/
def noteSeeded (s : State) (q : Nat) : State := { s with loading := s.loading.map fun x => if x.cuff = q then { x with seeded := true } else x }
/-- A failed load: the cuff has no selected configuration (R254). -/
def failLoad (s : State) (q : Nat) (t : Ingress) (st : Status) (word3 : Nat) : State :=
  loadedRecord (updQueue s q fun x => { x with cfg := 0 }) q t st word3 0
/-- Descriptor of a configuration's sleeve 0. -/
def firstDesc (s : State) (c : Nat) : Nat := (sleeveOf s ((cfgOf s c).sleeves.headD 0)).desc.toNat

/-- The end of step 6: the entry image is in the block-image cache of sleeve 0, at its first quad (R11, R250). -/
def loadEntry (s : State) (c : Nat) : State :=
  let x := cfgOf s c
  let v := x.sleeves.headD 0
  match x.images.find? fun i => i.1 == x.entry, sleeveQuads (sleeveOf s v) with
  | some (blk, img), q :: _ => cacheImage s v q blk img
  | _, _ => s

/-- Step 1: SEED and NVER. -/
def writeSeed (s : State) (p : Nat) (r : CfgRecord) : State :=
  updPart s p fun x => { x with seed := r.seed, nver := if nverLegal r.nver then r.nver else x.nver }

/-- Steps 5 and 6, with the images verified. -/
def placeLoad (s : State) (p q : Nat) (t : Ingress) (r : CfgRecord) (imgs : List (Word × Image)) : LoadEnd :=
  match r.pins.find? fun d => descShape d != r.shape with
  | some d => .served (failLoad s q t .badCoord d.toNat)
  | none =>
    let (i, u) := choose s 4096
    match findPlace s p r imgs i 9 (partCfgs s p) [] with
    | some (gone, l, m) =>
      match evictAll gone u with
      | none => .waits s
      | some u =>
        if egressFull u q then .waits s
        else
          let (c, s) := formConfig u p q t.payload r imgs l m
          .served (loadedRecord (updQueue (loadEntry s c) q fun x => { x with cfg := c }) q t .ok 0 (firstDesc s c))
    | none =>
      if !(partCfgs s p).isEmpty && (placeConfig s p r imgs [] i).isSome then .waits s else .served (failLoad u q t .noPlacement 0)

/-- Serve a CONFIG. SEED and NVER are written once, when its record has been read: `seeded` tells that they have been (R250). -/
def load (s : State) (p q : Nat) (t : Ingress) (seeded : Bool) : LoadEnd :=
  match readHead s p t.payload with
  | .wait s => .waits s
  | .bad c w s => .served (failLoad s q t c w)
  | .ok r s =>
    let s := noteSeeded (if seeded then s else writeSeed s p r) q
    match residentCfg s p t.payload r.gen with
    | some c => .served (loadedRecord (updQueue s q fun x => { x with cfg := c }) q t .ok 0 (2 ^ 63 + firstDesc s c))
    | none =>
      match readRecord s p t.payload r with
      | .wait s => .waits s
      | .bad c w s => .served (failLoad s q t c w)
      | .ok r s =>
        match readImages p r.imgs s with
        | .wait s => .waits s
        | .bad c w s => .served (failLoad s q t c w)
        | .ok imgs s =>
          if r.floor && imgs.any fun x => imageFloorBad x.2 then .served (failLoad s q t .badConfig 0) else placeLoad s p q t r imgs

/-- A CONFIG needs a load, as far as the loader can tell now: all but that of a resident configuration, one included whose record cannot be
read (R257). -/
def needsLoad (s : State) (p : Nat) (t : Ingress) : Bool :=
  match readHead s p t.payload with
  | .ok r _ => (residentCfg s p t.payload r.gen).isNone
  | .wait _ | .bad _ _ _ => true

end Sys2Proof.Machine
end

