-- ==== Sys2Proof/Machine/Relocate.lean ====
section
/-! DEFINITION. A relocating resume (R288): the names that a freeze image's work takes in the partition that it resumes in, and the
steps of the resume. -/

namespace Sys2Proof.Machine

open Sys2Proof

/-! ## Renaming -/

/-- How names change: identifiers by a base, the partition, grids by their ordinals, and node slots on bad ENs. -/
structure Shift where
  base  : Nat := 0
  part  : Nat := 0
  grids : List (Nat × Nat) := []
  slots : List (Nat × Nat) := []
  /-- Bad transfer islands of the target, each with a good one of its grid. -/
  xisls : List (Nat × Nat) := []
  /-- Activations, to find the EN of a node. -/
  acts  : Map Act := []

def pairOf (l : List (Nat × Nat)) (x : Nat) : Nat := ((l.find? fun y => y.1 == x).map (·.2)).getD x
def Shift.id (h : Shift) (n : Nat) : Nat := if n = 0 then 0 else n + h.base
def Shift.key (h : Shift) (k : Nat) : Nat := if k % 65536 = 0 then 0 else colourKey h.part (k % 65536)
def Shift.grid (h : Shift) (g : Nat) : Nat := pairOf h.grids g
/-- A unit number of `n` to a grid: 32 quads, 128 ENs, 32 islands, 4 transfer islands or cuffs, 2,048 node slots. -/
def Shift.of (h : Shift) (n x : Nat) : Nat := n * h.grid (x / n) + x % n
def Shift.quad (h : Shift) (q : Nat) : Nat := h.of 32 q
def Shift.isl (h : Shift) (i : Nat) : Nat := h.of 32 i
def Shift.four (h : Shift) (c : Nat) : Nat := h.of 4 c
/-- A transfer island: its own, or the one that replaces it when it is bad (R23, R288). -/
def Shift.xisl (h : Shift) (i : Nat) : Nat := pairOf h.xisls (h.four i)
/-- A node slot: its own, or the one that replaces it on a bad EN. -/
def Shift.slot (h : Shift) (k : Nat) : Nat := pairOf h.slots (h.of 2048 k)
def Shift.coord (h : Shift) (c : BitVec 16) : BitVec 16 := BitVec.ofNat 16 (h.of 4096 c.toNat)
/-- The EN of a node of an activation. -/
def Shift.en (h : Shift) (a node en : Nat) : Nat :=
  match (lookup h.acts a).bind fun x => x.place[node]? with
  | some k => h.slot k / 16
  | none => h.of 128 en
def Shift.serial (h : Shift) (n : Nat) : Nat := h.id n

def Shift.firing (h : Shift) (f : Firing) : Firing :=
  { f with part := h.part, sleeve := h.id f.sleeve, act := h.id f.act, en := h.en f.act f.node f.en }
def Shift.dest (h : Shift) : Dest → Dest
  | .node a => .node (h.id a) | .slot a i => .slot (h.id a) i | .far => .far
def Shift.net (h : Shift) (n : NetToken) : NetToken :=
  { n with dest := h.dest n.dest, prod := h.id n.prod, unit := h.coord n.unit, part := h.part, sleeve := h.id n.sleeve }
def Shift.entry (h : Shift) (e : Entry) : Entry :=
  let en := h.en e.act e.node e.en
  { e with quad := en / 4, en := en, act := h.id e.act, prods := e.prods.map (fun x => (x.1, h.id x.2)), parts := e.parts.map fun x => (h.id x.1, x.2) }
def Shift.spilled (h : Shift) (x : Spilled) : Spilled :=
  let q := match x.t.dest with | .node a => h.en a x.t.tok.node (4 * x.quad) / 4 | .slot _ _ | .far => h.quad x.quad
  { x with t := h.net x.t, quad := q }
def Shift.kind (h : Shift) : ParkedKind → ParkedKind
  | .form e => .form (h.entry e)
  | .fetch a => .fetch (h.id a)
  | .token t q => .token (h.net t) (h.spilled { t := t, quad := q }).quad
  | .colour k => .colour (h.key k)
  | .store i => .store (h.id i)
  | .fence i => .fence (h.id i)
  | .range t a b => .range (h.id t) a b
  | .tmma i => .tmma (h.isl i)
  | .tscl i c => .tscl (h.isl i) (h.id c)
  | .coll c => .coll (h.id c)
def Shift.parked (h : Shift) (q : Parked) : Parked := { q with part := h.part, act := h.id q.act, what := h.kind q.what }
def Shift.record (h : Shift) (r : Outstanding) : Outstanding :=
  { r with part := h.part, colour := h.key r.colour, serial := h.serial r.serial, act := h.id r.act, sleeve := h.id r.sleeve }
def Shift.act (h : Shift) (x : Act) : Act :=
  { x with part := h.part, sleeve := h.id x.sleeve, colour := h.key x.colour, serial := h.serial x.serial, loop := h.id x.loop, pred := h.id x.pred,
           creator := h.id x.creator, place := x.place.map h.slot, ends := x.ends.map (fun e => (h.key e.1, h.serial e.2))
           grants := x.grants.map (fun g => (h.key g.1, h.serial g.2.1, g.2.2)), modes := x.modes.map (fun m => (h.id m.1, m.2))
           checks := x.checks.map h.id, inbox := x.inbox.map h.net
           deferred := x.deferred.map (fun d => { d with park := d.park.map h.kind }), twin := h.id x.twin, awaits := h.id x.awaits
           lcmps := x.lcmps.map fun l => (l.1, h.of 128 l.2.1, l.2.2) }
def Shift.after (h : Shift) (l : List HeldBy) : List HeldBy := l.map fun x => match x with | .store i => .store (h.id i) | x => x
def Shift.thread (h : Shift) (t : Thread) : Thread :=
  { t with part := h.part, acts := t.acts.map h.id, loop := h.id t.loop, creator := h.id t.creator }
def Shift.loop (h : Shift) (l : Loop) : Loop :=
  { l with part := h.part, sleeve := h.id l.sleeve, colour := h.key l.colour, serial := h.serial l.serial, quad := h.quad l.quad, gen := h.firing l.gen,
           entry := h.id l.entry, waiting := l.waiting.map fun w => (w.1, h.net w.2) }
def Shift.colour (h : Shift) (c : Colour) : Colour :=
  { c with part := h.part, serial := h.serial c.serial, caller := h.id c.caller, callerKey := h.key c.callerKey, callerSerial := h.serial c.callerSerial,
           sleeve := h.id c.sleeve, creator := h.id c.creator, edges := c.edges.map h.id, root := c.root.map (fun r => { r with queue := h.four r.queue, after := h.after r.after })
           colls := c.colls.map h.id }
def Shift.wait (h : Shift) : Wait → Wait
  | .fence a b c l d => .fence a b c (l.map h.id) d
  | .tlbi p l => .tlbi p (l.map h.id)
  | .eret n => .eret (h.id n)
  | .ctxj k n => .ctxj (h.key k) (h.serial n)
  | .xferAccept t => .xferAccept (h.id t)
  | .send v p m => .send (h.id v) p m
  | .hem c => .hem (h.id c)
  | .place k => .place (h.key k)
  | w => w
def Shift.op (h : Shift) (o : Op) : Op := { f := h.firing o.f, w := h.wait o.w, order := h.id o.order }
def Shift.store (h : Shift) (x : Store) : Store :=
  { x with part := h.part, sleeve := h.id x.sleeve, act := h.id x.act, colour := h.key x.colour, serial := h.serial x.serial, rids := [] }
def Shift.cmd (h : Shift) (c : HemCmd) : HemCmd := { c with id := h.id c.id, behind := c.behind.map h.id }
def Shift.island (h : Shift) (x : Island) : Island := { x with queue := x.queue.map h.cmd }
def Shift.flight (h : Shift) (x : HemFlight) : HemFlight :=
  { isl := if x.xfer = 0 then h.isl x.isl else h.xisl x.isl, cmd := h.cmd x.cmd, xfer := h.id x.xfer, a := h.net x.a, b := h.net x.b, c := h.net x.c }
def Shift.hemOp (h : Shift) (x : HemOp) : HemOp := { x with f := h.firing x.f, left := x.left.map h.isl, last := h.isl x.last }
def Shift.xfer (h : Shift) (x : Xfer) : Xfer :=
  { x with f := h.firing x.f, xisl := h.xisl x.xisl, colour := h.key x.colour, serial := h.serial x.serial, slot := h.id x.slot, order := h.id x.order
           edges := x.edges.map h.id }
def Shift.coll (h : Shift) (x : Coll) : Coll :=
  let f := h.firing x.f
  { x with f := f, colour := h.key x.colour, serial := h.serial x.serial, isl := 2 * (f.en / 1024) + x.isl % 2, slot := 512 * h.part + x.slot % 512
           edges := x.edges.map h.id }
def Shift.handle (h : Shift) (x : Handle) : Handle := { x with sleeve := h.id x.sleeve }

/-- A table with its keys and entries renamed. -/
def renameMap {α : Type} (key : Nat → Nat) (f : α → α) (m : Map α) : Map α := m.map fun x => (key x.1, f x.2)
/-- Tables with distinct keys together. -/
def mergeMap {α : Type} (m : Map α) (n : Map α) : Map α := n.foldl (fun m x => insertAt m x.1 x.2) m

/-! ## What is read from the image in memory -/

/-- Read `n` words of an image; a poisoned sector makes it invalid. -/
def readWords (s : State) (p : Nat) (va : Word) (n : Nat) : Loaded (List Word) :=
  match loaderRead s p .read va (64 * n) with
  | .ok (v, false) s => .ok ((List.range n).map fun i => BitVec.ofNat 64 (v / 2 ^ (64 * i))) s
  | .ok (_, true) s => .bad .badConfig 0 s
  | .wait s => .wait s
  | .bad c w s => .bad c w s

/-- A directory entry: type, sleeve index, words, and word offset of its section. -/
def dirEntry (l : List Word) (i : Nat) : Nat × Nat × Nat × Nat :=
  let a := (l.getD (2 * i) 0).toNat
  (bits a 56 8, bits a 40 16, bits a 0 40 / 8, (l.getD (2 * i + 1) 0).toNat / 8)

/-- Read the sections of an image in the order of its directory. -/
def readSections (p : Nat) (va : Word) : List (Nat × Nat × Nat × Nat) → State → Loaded (List Section)
  | [], s => .ok [] s
  | (type, slv, len, o) :: es, s =>
    match readWords s p (va + BitVec.ofNat 64 (64 * o)) len with
    | .wait s => .wait s
    | .bad c w s => .bad c w s
    | .ok l s =>
      match readSections p va es s with
      | .ok r s => .ok ({ type := type, slv := slv, words := l } :: r) s
      | x => x

/-- Step 1 of R288: the header, the directory, and the sections. -/
def readImage (s : State) (p : Nat) (va : Word) : Loaded (List Section) :=
  match readWords s p va 8 with
  | .wait s => .wait s
  | .bad c w s => .bad c w s
  | .ok h s =>
    let w0 := (h.getD 0 0).toNat
    let n := bits (h.getD 1 0).toNat 32 32
    if bits w0 48 16 ≠ 1 ∨ bits w0 0 32 ≠ Config.imgId.toNat ∨ bits w0 32 16 ≠ (partGrids s p).length then .bad .badConfig 0 s
    else match readWords s p (va + 512) (2 * n) with
      | .wait s => .wait s
      | .bad c w s => .bad c w s
      | .ok dir s =>
        let es := (List.range n).map (dirEntry dir)
        if es.any fun e => e.1 = 0 ∨ 10 < e.1 then .bad .badConfig 0 s else readSections p va es s

/-- The words of the sections of a type, and of the one of a type and sleeve index. -/
def sectionsOf (r : List Section) (type : Nat) : List (List Word) := (r.filter fun x => x.type == type).map (·.words)
@[inherit_doc sectionsOf] def sectionOf (r : List Section) (type : Nat) : List Word := (sectionsOf r type).headD []
@[inherit_doc sectionsOf] def sleeveSection (r : List Section) (type slv : Nat) : Option (List Word) :=
  (r.find? fun x => x.type == type && x.slv == slv).map (·.words)
/-- The number of the model's copy of an image (log 19). -/
def copyNumber (r : List Section) : Nat := ((sectionOf r 5).getD 0 0).toNat

/-- A colour entry is invalid at resume (Table 2.13). -/
def colourEntryBad (l : List Word) : Bool :=
  let w (i : Nat) : Nat := (l.getD (192 + i) 0).toNat
  let grant := bits (w 0) 40 6
  bits (w 0) 46 2 == 3 || grant == 0 || decide (32 < grant) || bits (w 0) 32 8 != 0 || bits (w 2) 0 16 != 0 || bits (w 3) 16 2 != 0
/-- The 2,048-byte entry of a COLOUR section. -/
def colourEntryAt (l : List Word) (i : Nat) : List Word := (l.drop (256 * i)).take 256

/-- A colour takes the fields of its entry. -/
def takeEntry (c : Colour) (l : List Word) : Colour :=
  let w (i : Nat) : Nat := (l.getD (192 + i) 0).toNat
  { c with f := (List.range 64).map (fun k => (k, l.getD k 0))
           w := (List.range 8).map (fun k => (k, BitVec.ofNat 1024 (natOfElems 64 (((l.drop (64 + 16 * k)).take 16).map (·.toNat)))))
           grant := bits (w 0) 40 6, key := BitVec.ofNat 32 (w 0), rtag := if c.called then l.getD 193 0 else c.rtag
           cblk := if c.called ∧ w 2 / 2 ^ 18 ≠ 0 then fieldBlock (w 2) else c.cblk
           retry := bits (w 2) 16 1 == 1, holding := bits (l.getD 196 0).toNat 0 16 }

/-- A register of REGS is restored; HVCAP is the target partition's own, FSTAT and FIMG are reports (log 20). -/
def restoreReg (x : Partition) (n : Nat) (v : Word) : Partition :=
  let b (lo k : Nat) : Nat := bits v.toNat lo k
  match (if n < 0x700 then n else 0x700 + n % 16) with
  | 0x440 => { x with on := b 8 7, off := b 0 7 }
  | 0x441 => { x with tksb := v &&& baseMask }
  | 0x442 => { x with tksn := b 0 5 }
  | 0x443 => { x with clsb := v &&& baseMask }
  | 0x444 => { x with clsn := b 0 5 }
  | 0x448 => { x with tksc := v }
  | 0x449 => { x with tkrc := v }
  | 0x44A => { x with thrc := v }
  | 0x44B => { x with clsc := v }
  | 0x44C => { x with deadc := v }
  | 0x44D => { x with mshw := b 0 12 }
  | 0x450 => { x with seed := v }
  | 0x451 => if nverLegal (b 0 4) then { x with nver := b 0 4 } else x
  | 0x700 => { x with ptbr := v &&& 0x800000FFFFFFE000#64 }
  | 0x701 => { x with sup := v.getLsbD 0 }
  | 0x702 => { x with fqb := v &&& baseMask }
  | 0x703 => { x with fqn := b 0 5 }
  | 0x704 => { x with fseq := v.extractLsb' 32 32, fack := v.setWidth 32 }
  | _ => x
/-- Restore the registers of a list of (number, value) pairs. -/
def restoreRegs : List Word → Partition → Partition
  | n :: v :: l, x => restoreRegs l (restoreReg x (n.toNat % 65536) v)
  | _, x => x

/-! ## What the model's copy takes from the image -/

/-- The token images of TOKEN and STREAM: 24 words to an entry, 19 to a message. -/
def tokenImages (r : List Section) : List (List Word) :=
  groupsOf 24 (sectionOf r 6) ++ (sectionsOf r 10).flatMap (groupsOf 19)

/-- An image holds the sections of its copy, and no token image of it is invalid. -/
def imageFits (n : Snapshot) (r : List Section) : Bool :=
  let (cfgs, cuffs) := uncount (sectionOf r 2)
  cfgs.length == 3 * n.cfgs.length && cuffs.length == 68 * (4 * n.grids.length)
    && (List.range n.sleeves.length).all (fun i => (sleeveSection r 3 i).isSome) && decide (1536 ≤ (sectionOf r 8).length)
    && (tokenImages r).all fun t => !tokenImageBad t

/-- A copy with what the image's words hold: configurations and cuffs, sleeves and ports, tokens, islands and the handle table. -/
def takeImage (s : State) (n : Snapshot) (r : List Section) : Snapshot :=
  let (cw, qw) := uncount (sectionOf r 2)
  let ids := n.cfgs.map (·.1)
  let cuffs := n.grids.flatMap fun g => [4 * g, 4 * g + 1, 4 * g + 2, 4 * g + 3]
  let sleeves := n.sleeves.zipIdx.map fun x =>
    let v := takeSleeve n.grids x.1.2 ((sleeveSection r 3 x.2).getD [])
    (x.1.1, takePorts v (groupsOf 19 ((sleeveSection r 10 x.2).getD [])))
  let isls := n.sleeves.flatMap fun x => match x.2.seg with | some (lo, k) => (List.range k).map (lo + ·) | none => []
  let m := takeTokens { s with acts := n.acts } n (groupsOf 24 (sectionOf r 6))
  { m with
    cfgs := takeConfigs n.cfgs cw
    queues := cuffs.zipIdx.map fun c => (c.1, takeCuff (lookupD n.queues c.1 {}) ids ((qw.drop (68 * c.2)).take 68))
    sleeves := sleeves
    islands := (isls.zip (sectionsOf r 7)).foldl (fun m x => insertAt m x.1 (takeIsland (lookupD m x.1 {}) x.2)) n.islands
    part := { n.part with handles := takeHandles n.part.handles (sectionOf r 8) } }

/-- What the sections of an image hold whose layouts are not architected: the copy that this device kept when it wrote them, or, of an image that
another device wrote, a free value (log 19). -/
def imageWork (s : State) (r : List Section) : Option Snapshot :=
  (lookup s.snaps (copyNumber r)).or (Config.foreignWork (r.map fun x => (x.type, x.slv, x.words)))
/-- The work of an image that a resume goes on with; none makes the image invalid. -/
def imageCopy (s : State) (r : List Section) : Option Snapshot :=
  (imageWork s r).bind fun n => if imageFits n r then some (takeImage s n r) else none

/-! ## Steps 2 and 3: configurations and sleeves -/

/-- Re-read the records of the configurations, and verify their images again (R288). -/
def recheck (p : Nat) : List (Nat × Configuration) → State → Loaded Unit
  | [], s => .ok () s
  | (_, c) :: cs, s =>
    match readHead s p c.addr with
    | .wait s => .wait s
    | .bad e w s => .bad e w s
    | .ok r s =>
      if r.gen ≠ c.gen then .bad .badConfig 0 s
      else match readImages p (c.images.map (·.1)) s with
        | .wait s => .wait s
        | .bad e w s => .bad e w s
        | .ok _ s => recheck p cs s

/-- A good transfer island of a grid in the place of one: itself where it is good (R23, R223). -/
def goodXisl (s : State) (i : Nat) : Option Nat := if xislBad s i then (rotate (xislandsOf s (i / 4)) (i % 4)).head? else some i
/-- The bad transfer islands that sleeves take in the target, each with a good one. -/
def movedXisls (s : State) (h : Shift) (l : List Sleeve) : List (Nat × Nat) :=
  (l.filterMap fun v => v.xisl).filterMap fun i => (goodXisl s (h.four i)).map fun j => (h.four i, j)

/-- A sleeve at its place in the target: its descriptor, and what it must leave, or none (NO_PLACEMENT). The origin and the ring segment are those of
the image; the transfer island is any good one of the grid (R288). -/
def moveSleeve (s : State) (p : Nat) (h : Shift) (v : Sleeve) : Option Sleeve :=
  let d := h.coord v.desc
  let good := goodEns s d
  let seg := v.seg.map fun x => (h.isl x.1, x.2)
  let segBad : Bool := match seg with | some (lo, n) => (List.range n).any fun i => islBad s (lo + i) | none => false
  let xisl := v.xisl.map h.xisl
  let nodes := (v.maps.flatMap fun m => m.place).length
  let most := ((cfgOf s v.cfg).images.map fun x => imgNcnt x.2).foldl max 0
  if segBad || (match xisl with | some i => xislBad s i | none => false) || decide (16 * good.length < max nodes most) then none
  else some { v with part := p, cfg := h.id v.cfg, desc := d, good := good, liner := h.id v.liner, seg := seg, xisl := xisl
                     maps := v.maps.map (fun m => { m with place := m.place.map h.slot })
                     g := insertAt (insertAt (insertAt v.g 3 (BitVec.ofNat 64 (32 * (partGrids s p).length))) 5 (d.setWidth 64)) 6 (s.regs.devn.setWidth 64) }

/-- The node slots of a sleeve that lie on bad ENs of the target, with good ones that nothing holds. -/
def movedSlots (s : State) (h : Shift) (v : Sleeve) : List (Nat × Nat) :=
  let used := (v.maps.flatMap (·.place)).map (h.of 2048)
  let bad := used.filter fun k => enBad s (k / 16)
  let free := ((goodEns s (h.coord v.desc)).flatMap fun e => (List.range 16).map (16 * e + ·)).filter fun k => !used.contains k
  bad.zip free

/-! ## Step 5: the rest -/

/-- Put a snapshot's work into the machine under its new names. -/
def restoreWork (s : State) (p : Nat) (h : Shift) (n : Snapshot) (sleeves : List (Nat × Sleeve)) : State :=
  let reown (f : Firing) : Firing := if f.part = n.num ∧ (lookup s.acts f.act).isNone ∧ (lookup n.acts f.act).isSome then h.firing f else f
  { s with
    ids := s.ids + n.ids
    cfgs := mergeMap s.cfgs (n.cfgs.map fun c => (h.id c.1, { c.2 with part := p, queue := h.four c.2.queue, sleeves := c.2.sleeves.map h.id,
                                                                        liners := c.2.liners.map h.id }))
    sleeves := mergeMap s.sleeves sleeves
    acts := mergeMap s.acts (renameMap h.id h.act n.acts)
    threads := s.threads ++ n.threads.map h.thread
    loops := mergeMap s.loops (renameMap h.id h.loop n.loops)
    net := s.net ++ n.net.map h.net
    far := s.far ++ n.far.map fun x => { t := h.net x.t, quad := h.quad x.quad }
    unsorted := s.unsorted ++ n.unsorted.map h.net
    entries := s.entries ++ n.entries.map fun e => { h.entry e with stamp := e.stamp.map fun _ => s.cycle }
    spilled := s.spilled ++ n.spilled.map h.spilled
    ops := mergeMap s.ops (renameMap h.id h.op n.ops)
    stores := mergeMap s.stores (renameMap h.id h.store n.stores)
    parked := s.parked ++ n.parked.map h.parked
    records := s.records ++ n.records.map h.record
    islands := mergeMap s.islands (renameMap h.isl h.island n.islands)
    flights := s.flights ++ n.flights.map h.flight
    hemOps := mergeMap s.hemOps (renameMap h.id h.hemOp n.hemOps)
    xfers := mergeMap s.xfers (renameMap h.id h.xfer n.xfers)
    colls := mergeMap s.colls (renameMap h.id h.coll n.colls)
    dfr := s.dfr.map fun x => (x.1, reown x.2) }

/-- The colours of a snapshot with the fields of their entries, and the re-issues that follow them, with their arguments. -/
def restoredColours (h : Shift) (n : Snapshot) (words : List Word) : Map Colour :=
  n.colours.zipIdx.map fun x => (h.key x.1.1, takeEntry (h.colour x.1.2) (colourEntryAt words x.2))
@[inherit_doc restoredColours] def restoredRetries (h : Shift) (n : Snapshot) (words : List Word) : List Colour :=
  n.retries.zipIdx.map fun x =>
    let c := h.colour x.1
    let e := takeEntry { c with called := false } (colourEntryAt words (n.colours.length + x.2))
    { c with args := e.f, grant := e.grant, key := e.key }

/-- The cuffs' selections, pending frames and pending CONFIGs. -/
def restoreCuffs (s : State) (h : Shift) (n : Snapshot) : State :=
  n.queues.foldl (fun s q => updQueue s (h.four q.1) fun x => { x with cfg := h.id q.2.cfg, frame := q.2.frame, pend := q.2.pend.map fun a => { a with after := h.after a.after } }) s

/-- How serving a RESUME goes. -/
inductive ResumeEnd where
  | served (s : State) (st : Status)
  | waits (s : State)

/-- Answers of deferrals that came to a frozen partition's token-spill area after its image was written (R166). -/
def lateAnswers (l : List Spilled) (n : Snapshot) : List Spilled :=
  l.filter fun x => x.t.part == n.num && !(n.spilled.any fun y => y.slot == x.slot) && match x.t.dest with
    | .node a | .slot a _ => (lookup n.acts a).isSome
    | .far => n.colours.any fun c => c.2.num == tagColour x.t.tok.tag

/-- A resume waits for what it reads of its image and of the records: the state in which it waits. -/
def resumeWaits (s : State) (p : Nat) (va : Word) : Option State :=
  match readImage s p va with
  | .wait s => some s
  | .bad _ _ _ => none
  | .ok r s =>
    match imageCopy s r with
    | none => none
    | some n => match recheck p n.cfgs s with | .wait s => some s | .bad _ _ _ | .ok _ _ => none

/-- Steps 1 to 5 of R288 in an Empty partition; `late` are the spilled tokens of the device before it was emptied. -/
def relocate (s : State) (p : Nat) (va : Word) (late : List Spilled) : ResumeEnd :=
  match readImage s p va with
  | .wait s => .waits s
  | .bad c _ s => .served s c
  | .ok r s =>
    match imageCopy s r with
    | none => .served s .badConfig
    | some n =>
      match recheck p n.cfgs s with
      | .wait s => .waits s
      | .bad c _ s => .served s c
      | .ok _ s =>
        let h0 : Shift := { base := s.ids, part := p, grids := n.grids.zip (partGrids s p), acts := n.acts }
        let h := { h0 with slots := n.sleeves.flatMap fun v => movedSlots s h0 v.2, xisls := movedXisls s h0 (n.sleeves.map (·.2)) }
        let moved := n.sleeves.map fun v => (h.id v.1, moveSleeve { s with cfgs := n.cfgs } p h v.2)
        let words := sectionOf r 4
        let cs := restoredColours h n words
        let entries := groupsOf 256 words
        if moved.any fun v => v.2.isNone then .served s .noPlacement
        else if (partOf s p).hvcap < (cs.map fun c => c.2.holding).foldl (· + ·) 0 then .served s .noBudget
        else if entries.any colourEntryBad || entries.length != n.colours.length + n.retries.length then .served s .badConfig
        else
          let s := restoreWork { s with spilled := s.spilled.filter fun x => !(lateAnswers late n).contains x } p h
            { n with spilled := n.spilled ++ lateAnswers late n } (moved.filterMap fun v => v.2.map fun x => (v.1, x))
          let s := restoreCuffs { s with colours := mergeMap s.colours cs, retries := s.retries ++ restoredRetries h n words } h n
          .served (updPart s p fun x =>
            { restoreRegs (sectionOf r 1) x with
              handles := n.part.handles.map (fun y => (y.1, h.handle y.2)), regulator := n.part.regulator.map h.id
              replays := n.part.replays.map fun y => (h.id y.1, y.2.map h.kind) }) .ok

/-- Start issue (step 7); the throttle states are computed from the occupancy as from Open. -/
def startIssue (s : State) (p : Nat) : State :=
  resumeWaiters (updPart { s with throttled := s.throttled.filter fun q => !ownsQuad s p q } p fun x =>
    { x with pstate := .running, freeze := none, frozen := none, imgLeft := none, ldab := false }) p

/-- Serve a RESUME: in place with payload 0, else from an image into the partition emptied. -/
def resume (s : State) (p q : Nat) (t : Ingress) : ResumeEnd :=
  let finish (s : State) (st : Status) : State := egress s q 0x0C st.code t.seq [t.payload, gridMask s p]
  if t.payload = 0 then
    .served (finish (startIssue s p) .ok) .ok
  else
    let e := updPart (discardWork s p) p fun x => { x with pstate := .empty, rply := (partOf s p).rply }
    let e := (partCuffs e p).foldl (fun s c => updQueue s c fun x => { x with cfg := 0, frame := [], pend := none }) e
    match resumeWaits s p t.payload with
    | some s => .waits s
    | none =>
      match relocate e p t.payload s.spilled with
      | .waits s => .waits s
      | .served s .ok => .served (finish (startIssue s p) .ok) .ok
      | .served s c => .served (finish s c) c

end Sys2Proof.Machine
end

