-- ==== Sys2Proof/Machine/Launch.lean ====
section
/-! DEFINITION. Serving ingress tokens: which queue a die's loader serves (R257, R258, R285), and CONFIG, ARG, START, UNLOAD, FREEZE, RESUME
and RESET (R26, R250, R253, R254, R256, R266). -/

namespace Sys2Proof.Machine

open Sys2Proof

/-! ## Head tokens -/

/-- A partition is freezing or frozen. -/
def frozenState (x : PartState) : Bool := x == .freezing || x == .frozen

/-- The head token of a cuff: a pending CONFIG goes before what the FIFO holds, but not while the partition is freezing or frozen. -/
def headToken (s : State) (c : Nat) : Option Accepted :=
  let q := queueOf s c
  let ice : Bool := match partOfCuff s c with | some p => frozenState (partOf s p).pstate | none => false
  if ice then q.fifo.head? else q.pend.or q.fifo.head?
def headIngress (s : State) (c : Nat) : Option Ingress := (headToken s c).map fun t => Ingress.ofWords t.hi t.lo
/-- Remove the head token. -/
def popToken (s : State) (c : Nat) : State :=
  let q := queueOf s c
  if headToken s c = q.pend then updQueue s c fun q => { q with pend := none } else updQueue s c fun q => { q with fifo := q.fifo.drop 1 }

/-! ## START (R26, R253) -/

/-- A sleeve whose place has become bad since it was mapped (R26). -/
def sleeveHurt (s : State) (v : Sleeve) : Bool :=
  v.good.any (enBad s) || (match v.seg with | some (lo, n) => (List.range n).any fun i => islBad s (lo + i) | none => false)
    || (match v.xisl with | some i => xislBad s i | none => false)
/-- Map a sleeve around the bad units: at its own origin, or at another one; it keeps its place when there is none. -/
def remapSleeve (s : State) (c v : Nat) : State :=
  let x := sleeveOf s v
  let g := cfgOf s c
  if !sleeveHurt s x then s
  else
    let p := x.part
    let others := s.sleeves.filter fun y => y.1 != v && y.2.part == p
    let n : Needs := { shape := g.shape, nodes := (g.images.map fun i => imgNcnt i.2).foldl max 0, seg := if x.lining then 0 else g.seg,
                       xfr := !x.lining && g.xfr }
    let (i, s) := choose s 4096
    let cand := x.desc :: if g.pin then [] else rotate (originsOf s p g.shape) i
    match cand.findSome? (placeAt s n (quadsHeld others) (islandsHeld others) i) with
    | none => s
    | some y =>
      let s := if y.seg = x.seg then s else clearSegment s y.seg
      updSleeve s v fun z => { z with desc := y.desc, good := goodEns s y.desc, seg := y.seg, xisl := y.xisl, maps := [], scratch := [], scratchBad := []
                                      g := insertAt z.g 5 (y.desc.setWidth 64) }
/-- Before its first root colour starts, a configuration's sleeves are looked over again. -/
def remapConfig (s : State) (c : Nat) : State :=
  let g := cfgOf s c
  if g.started ≠ 0 then s else (g.sleeves ++ g.liners).foldl (fun s v => remapSleeve s c v) s

/-- Start a root colour of a configuration; none while it waits for a number or a place. -/
def startRoot (s : State) (q c : Nat) (t : Ingress) (after : List HeldBy := []) : Option State :=
  let g := cfgOf s c
  let v := g.sleeves.headD 0
  if !mayCreate s v then none
  else
    let s := remapConfig s c
    match takeNumber s g.part with
    | (none, _) => none
    | (some n, s) =>
      let s := createColour s g.part n { f := (queueOf s q).frame, grant := g.lanes, key := g.draw, sleeve := v, sblk := g.entry
                                         root := some { queue := q, iseq := t.seq, cookie := t.payload, after := after } }
      (placeColour s (colourKey g.part n) .spilled).map fun s =>
        updQueue (updCfg (startThread s g.part (rootTag n) g.entry 0 0 0) c fun g => { g with started := s.cycle }) q fun x => { x with frame := [] }

/-! ## Serving (R254, R285) -/

/-- What serving the head token of a cuff would do: it is served; a load begins, in a state in which it waits; one that has begun goes on, outside
the turns of the queues; or the token waits, in a state. -/
inductive Serve where
  | served (s : State)
  | begins (s : State)
  | goesOn (s : State)
  | waits (s : State)

/-- A partition that has been given grids runs from its first CONFIG on (Table 9.9). -/
def wakePart (s : State) (p : Nat) : State := updPart s p fun x => if x.pstate = .empty then { x with pstate := .running } else x

/-- Another cuff of the partition holds a CONFIG that needs a load, wherever in its FIFO, accepted before a token (R29, R244, R257). -/
def earlierLoad (s : State) (c p : Nat) (t : Accepted) : Bool :=
  (partCuffs s p).any fun d => d != c && ((queueOf s d).pend.toList ++ (queueOf s d).fifo).any fun u =>
    let i := Ingress.ofWords u.hi u.lo
    i.kind == 1 && !i.malformed && decide (u.order < t.order) && needsLoad s p i

/-- The load in progress at a cuff. -/
def loadingAt (s : State) (c : Nat) : Option Loading := s.loading.find? fun x => x.cuff == c

/-- Serve a CONFIG; one that must wait is listed as a load in progress, and goes on from then on as what it waits for comes (R250, R257). -/
def serveConfig (s : State) (c p : Nat) (a : Accepted) (t : Ingress) : Serve :=
  let s0 := s
  let note (s : State) : State := { s with loading := s.loading.filter fun x => x.cuff != c }
  if needsLoad s p t && earlierLoad s c p a then .waits s
  else
    let begun := loadingAt s c
    let s := if begun.isSome then s else { s with loading := s.loading ++ [{ cuff := c, part := p }] }
    match load (wakePart (popToken s c) p) p c t ((begun.map (·.seeded)).getD false) with
    | .served s => if begun.isSome then .goesOn (note s) else .served (note s)
    | .waits u =>
      let u := { u with queues := s0.queues }
      if begun.isSome then .waits u else .begins u

/-- The configurations of a partition at a record's address. -/
def namedCfgs (s : State) (p : Nat) (addr : Word) : List Nat := ((partCfgs s p).filter fun x => x.2.addr == addr).map (·.1)

/-- Serve the token at a cuff's head. -/
def serveToken (s : State) (c p : Nat) (a : Accepted) : Serve :=
  let t := Ingress.ofWords a.hi a.lo
  let st := (partOf s p).pstate
  let q := queueOf s c
  let bad : Serve := .served (badToken (popToken s c) c t)
  if frozenState st && t.kind != 7 && t.kind != 8 then .waits s
  else if t.malformed then bad
  else match t.kind.toNat with
    | 1 => serveConfig s c p a t
    | 2 => if q.cfg = 0 then bad else .served (updQueue (popToken s c) c fun x => { x with frame := insertAt x.frame (t.param.toNat % 64) t.payload })
    | 3 =>
      if q.cfg = 0 then bad
      else match startRoot s c q.cfg t a.after with
        | some s => .served (popToken s c)
        | none => .waits s
    | 4 =>
      let l := namedCfgs s p t.payload
      if l.isEmpty then .served (egress (popToken s c) c 3 Status.notLoaded.code t.seq [t.payload])
      else if l.any (cfgBusy s) then .waits s
      else .served (egress (l.foldl dissolve (popToken s c)) c 3 Status.ok.code t.seq [t.payload])
    | 6 =>
      if st = .running then .served (freezeJoined (popToken s c) p (.token c t.seq) (if t.payload = 0 then none else some t.payload)) else .waits s
    | 7 =>
      if st = .frozen ∨ st = .empty then
        match resume (popToken s c) p c t with
        | .served s _ => .served s
        | .waits u => .waits { u with queues := s.queues }
      else .waits s
    | 8 => .served (hostReset (popToken s c) p c t.seq)
    | _ => bad

/-- A WATCHDOG or RESET record of a partition's queues waits outside its buffer (R259). DESIGN CHOICE (log 53): the rule's 'until the record is
written' is taken to end when the record has a place in the buffer, whence it goes to the egress area in its turn. -/
def resetWaits (s : State) (p : Nat) : Bool :=
  (partCuffs s p).any fun d => (queueOf s d).extra.any fun ws => let t := (ws.getD 0 0).toNat / 2 ^ 56; t == 9 || t == 10

/-- Serve the token at a cuff's head, where the cuff has one and its queue may be served (R257, R259). -/
def serveCuff (s : State) (c : Nat) : Option Serve :=
  match partOfCuff s c, headToken s c with
  | some p, some a =>
    if egressFull s c || resetWaits s p then none else some (serveToken s c p a)
  | _, _ => none

/-- A queue is eligible: its head token can be served now, or its load can begin. -/
def eligible (s : State) (c : Nat) : Bool :=
  match serveCuff s c with | some (.served _) | some (.begins _) => true | some (.goesOn _) | some (.waits _) | none => false

/-! ## Arbitration (R258) -/

/-- The eligible cuffs of a die. -/
def eligibleOn (s : State) (die : Nat) : List Nat := ((List.range 32).map (32 * die + ·)).filter (eligible s)
/-- The cuff that a die's loader serves next. -/
def nextCuff (s : State) (die : Nat) : Option Nat :=
  let l := eligibleOn s die
  let best := (l.map fun c => (queueOf s c).eff).foldl max 0
  let m := l.filter fun c => (queueOf s c).eff == best
  match lookup s.lastServed (8 * die + best) with
  | some last => (m.find? fun c => decide (last < c)).or m.head?
  | none => m.head?

/-- A queue that was passed over ages; the one served returns to its priority. -/
def ageQueue (s : State) (served c : Nat) : State :=
  updQueue s c fun q =>
    if c = served then { q with eff := q.pri, aged := 0 }
    else if q.age ≠ 0 ∧ q.age ≤ q.aged + 1 then { q with eff := min 7 (q.eff + 1), aged := 0 } else { q with aged := q.aged + 1 }

/-- A loader event on a cuff: its die's loader serves it when its turn has come; a token that waits may first ask for what it reads. -/
def loaderEvent (s : State) (c : Nat) (kind : Nat) : State :=
  let mine : Bool := match headIngress s c with | some t => t.malformed || t.kind.toNat == kind | none => false
  if 64 ≤ c ∨ !mine then s
  else match serveCuff s c with
    | none => s
    | some (.waits t) | some (.goesOn t) => t
    | some (.served t) | some (.begins t) =>
      if nextCuff s (c / 32) ≠ some c then s
      else
        let die := c / 32
        let t := { t with lastServed := insertAt t.lastServed (8 * die + (queueOf s c).eff) c }
        (eligibleOn s die).foldl (fun t d => ageQueue t c d) t

def execConfig (cuff : Nat) (s : State) : Host.Outcome State Fault Refusal := .next (loaderEvent s cuff 1)
def execArg (cuff : Nat) (s : State) : Host.Outcome State Fault Refusal := .next (loaderEvent s cuff 2)
def execStart (cuff : Nat) (s : State) : Host.Outcome State Fault Refusal := .next (loaderEvent s cuff 3)
def execUnload (cuff : Nat) (s : State) : Host.Outcome State Fault Refusal := .next (loaderEvent s cuff 4)
def execFreeze (cuff : Nat) (s : State) : Host.Outcome State Fault Refusal := .next (loaderEvent s cuff 6)
def execResume (cuff : Nat) (s : State) : Host.Outcome State Fault Refusal := .next (loaderEvent s cuff 7)
def execReset (cuff : Nat) (s : State) : Host.Outcome State Fault Refusal := .next (loaderEvent s cuff 8)

end Sys2Proof.Machine
end

