-- ==== Sys2Proof/Machine/Link.lean ====
section
/-! DEFINITION. Helup at the requester and at the link: replies, errors and time-outs (R328, R330), flits, retry and ports that leave
service (R325 to R327), and the training of a CXL port (R320). -/

namespace Sys2Proof.Machine

open Sys2Proof

/-! ## Replies (R330) -/

/-- Forget a request. -/
def forget (s : State) (rid : BitVec 32) : State := { s with remotes := eraseAt s.remotes rid.toNat }

/-- A piece of a load has come; with the last one the load's value is fixed and its tokens are sent. -/
def loadPiece (s : State) (op i : Nat) (poi : Bool) (v : Nat) : State :=
  match lookup s.ops op with
  | some { f := f, w := .remote ps ty zero vector, order := n } =>
    let ps := ps.zipIdx.map fun x => if x.2 = i then (x.1.1, x.1.2.1, x.1.2.2.1, some (poi, v)) else x.1
    if ps.all fun x => x.2.2.2.isSome then finishOp s op (loadResult ty zero vector f.grant ps)
    else { s with ops := insertAt s.ops op { f := f, w := .remote ps ty zero vector, order := n } }
  | _ => s

/-- A piece of a read copy has come; what waits for the copy goes on when it is whole. -/
def copyPiece (s : State) (dst line i : Nat) (poi : Bool) (v : Nat) : State :=
  let one (c : Copy) : Copy :=
    if c.dev = dst ∧ c.line = line then
      { c with data := c.data + v * 2 ^ (192 * i), got := Nat.lor c.got (2 ^ i), poi := c.poi || poi }
    else c
  let s := { s with copies := s.copies.map one }
  match copyOf s dst line with
  | some c => if c.got = 7 then wake s else s
  | none => s

/-- READ_DATA. A reply that matches no request is discarded. -/
def takeReadData (s : State) (src : Nat) (m : DataMsg) : State :=
  match lookup s.remotes m.rid.toNat with
  | none => s
  | some r =>
    let v := m.data.toNat % 2 ^ r.len
    if r.dst ≠ src then s
    else match r.what with
      | .load op i => loadPiece (forget s m.rid) op i m.poi (Nat.lor (v - Nat.land v r.mask) r.given)
      | .copy line i => copyPiece (forget s m.rid) r.dst line i m.poi v
      | .atomic _ | .store _ | .xfer _ | .image _ => s

/-- WRITE_ACK: a part of a store is performed, a transfer may end, a part of a freeze image is written. -/
def takeWriteAck (s : State) (src : Nat) (rid : BitVec 32) : State :=
  match lookup s.remotes rid.toNat with
  | none => s
  | some r =>
    if r.dst ≠ src then s
    else match r.what with
      | .store sid => ackPart (forget s rid) sid
      | .xfer tid => progress (forget s rid) tid
      | .image _ => forget s rid
      | .load _ _ | .atomic _ | .copy _ _ => s

/-- ATOMIC_DATA: the old value goes to the targets; a read copy of its line that was asked for meanwhile is dropped. -/
def takeAtomicData (s : State) (src : Nat) (m : DataMsg) : State :=
  match lookup s.remotes m.rid.toNat with
  | none => s
  | some r =>
    match r.what with
    | .atomic op =>
      if r.dst ≠ src then s
      else match lookup s.ops op with
        | some { f := _, w := .remoteAtomic _ ty u, order := _ } => finishOp (forget (dropCopy s r.dst (r.addr / 512)) m.rid) op (atomicResult ty u m.poi m.data.toNat)
        | _ => forget s m.rid
    | .load _ _ | .store _ | .xfer _ | .copy _ _ | .image _ => s

def execReadData (src : Nat) (m : DataMsg) (s : State) : Host.Outcome State Fault Refusal := .next (takeReadData s src m)
def execWriteAck (src : Nat) (rid : BitVec 32) (s : State) : Host.Outcome State Fault Refusal := .next (takeWriteAck s src rid)
def execAtomicData (src : Nat) (m : DataMsg) (s : State) : Host.Outcome State Fault Refusal := .next (takeAtomicData s src m)

/-! ## Errors (R330) -/

/-- The address of a piece of a load, or of an atomic. -/
def pieceAddr (s : State) (o : Op) (i : Nat) : Word :=
  let t := match Ty.ofCode ((imgRec (actOf s o.f.act).image o.f.node).extractLsb' 80 4) with | some t => t.width | none => 64
  let ofs := match o.w with
    | .remote ps _ _ _ => match ps[i]? with | some x => t * x.1 + x.2.1 | none => 0
    | _ => 0
  (opRange s o).1 + BitVec.ofNat 64 ofs
/-- Element width of a waiting memory form. -/
def opWidth (s : State) (o : Op) : Nat :=
  match Ty.ofCode ((imgRec (actOf s o.f.act).image o.f.node).extractLsb' 80 4) with | some t => t.width | none => 64

/-- A waiting access was answered with an error: PROTECTION with cause REMOTE. -/
def failAccess (s : State) (op i : Nat) (wr : Bool) : State :=
  match lookup s.ops op with
  | none => s
  | some o =>
    let va := pieceAddr s o i
    let s := { s with remotes := s.remotes.filter fun r => match r.2.what with | .load k _ | .atomic k => k != op | _ => true }
    protect (dropOp s op) o.f { va := va, width := opWidth s o, wr := wr, cause := 10 }

/-- A write of a transfer, a collective or a migration was answered with an error. -/
def failWrite (s : State) (tid : Nat) (r : Remote) : State :=
  let i : FaultInfo := { cls := .protection, cause := 10, wr := true, va := r.va }
  let t := { s with remotes := s.remotes.filter fun q => q.2.what != .xfer tid }
  match lookup s.xfers tid, lookup s.colls tid with
  | some x, _ => if x.st = .stopped then progress s tid else stopXfer s tid x { i with unit := BitVec.ofNat 64 r.unit }
  | none, some x => endColl (recordOnly t x.f.part x.colour x.serial x.f.act (collFault s x { i with unit := BitVec.ofNat 64 r.unit })) tid 1
  | none, none => failPmig t tid i

/-- A request is answered with an error of any status: PROTECTION with cause REMOTE at what made it. -/
def failRequest (s : State) (rid : BitVec 32) : State :=
  match lookup s.remotes rid.toNat with
  | none => s
  | some r =>
    let s := forget s rid
    match r.what with
    | .load op i => failAccess s op i false
    | .atomic op => failAccess s op 0 true
    | .store sid =>
      match lookup s.stores sid with
      | some x => storeRefused s sid x (storeFault s x (x.elems.headD {}) .protection 10 0)
      | none => s
    | .xfer tid => failWrite s tid r
    | .copy line _ =>
      wake { s with copies := s.copies.map fun c => if c.dev = r.dst ∧ c.line = line then { c with err := true, since := s.cycle } else c }
    | .image p =>
      let s := { s with remotes := s.remotes.filter fun q => q.2.what != .image p }
      updPart s p fun x => { x with frozen := x.frozen.map fun _ => (Status.protection.code, false) }

/-- ERROR, from the home or from a device on the way (R327); the status makes no difference here. -/
def execError (_src : Nat) (_status : BitVec 8) (rid : BitVec 32) (s : State) : Host.Outcome State Fault Refusal := .next (failRequest s rid)

/-- REMOTE_TIMEOUT: a request unanswered for HXCFG.TO is answered here. -/
def execRemoteTimeout (rid : BitVec 32) (s : State) : Host.Outcome State Fault Refusal :=
  .next (match lookup s.remotes rid.toNat with
    | some r => if r.sent + cyclesOf s s.regs.hxto ≤ s.cycle then failRequest s rid else s
    | none => s)

/-- Read copies that ended in an error are forgotten, so that a later access asks again. -/
def dropFailedCopies (s : State) : State :=
  { s with copies := s.copies.filter fun c => !(c.err && decide (c.since + 4096 ≤ s.cycle)) }

/-! ## Messages of a flit (R327, R328) -/

/-- Carry out the message of a slot. -/
def takeMessageSlot (s : State) (i : Instr) : State :=
  match i with
  | .read _ _ | .write _ _ | .atomic _ _ => arriveRequest s i
  | .readData src m => takeReadData s src m
  | .writeAck src rid => takeWriteAck s src rid
  | .atomicData src m => takeAtomicData s src m
  | .delta src m => takeDelta s src m false
  | .pdelta src m => takeDelta s src m true
  | .dack src n => takeDack s src n
  | .error _ _ rid => failRequest s rid
  | _ => s

/-- Slot `i` of a flit. -/
def flitSlot (f : Flit) (i : Nat) : BitVec 320 := f.slots.extractLsb' (320 * i) 320

/-- Take a slot that has reached its destination. -/
def takeSlot (s : State) (src : Nat) (w : BitVec 320) : State :=
  match decodeSlot src w with
  | .empty => s
  | .msg i => takeMessageSlot s i
  | .discard req rid => let s := discardMsg s; if req then replyError s src 0 2 rid else s

/-- The line that a slot is about, for its route, and the RID of a request. -/
def slotLine (w : BitVec 320) : Nat :=
  match (w.extractLsb' 60 4).toNat with
  | 1 | 3 | 5 => (w.extractLsb' 0 42).toNat / 512
  | _ => 0
/-- A slot holds a request. -/
def slotRequest (w : BitVec 320) : Bool := match (w.extractLsb' 60 4).toNat with | 1 | 3 | 5 => true | _ => false
/-- RID of a slot. -/
def slotRid (w : BitVec 320) : BitVec 32 := w.extractLsb' 288 32

/-- Send a slot that is not empty on to its destination. -/
def forwardSlot (src dst : Nat) (s : State) (w : BitVec 320) : State :=
  if w.extractLsb' 60 4 = 0 then s else (sendFrom s src dst (slotLine w) w).2
/-- A slot of a flit without a route: a request gets ERROR NOROUTE, here when it is this device's own. -/
def refuseSlot (src : Nat) (s : State) (w : BitVec 320) : State :=
  if !slotRequest w then s
  else if src = s.regs.devn.toNat then failRequest s (slotRid w)
  else replyError s src (slotLine w) 1 (slotRid w)

/-- The six slots of a flit. -/
def flitSlots (f : Flit) : List (BitVec 320) := (List.range 6).map (flitSlot f)
/-- Send a flit on, slot by slot; one without a port in service is discarded, and counted once (R327). -/
def forwardFlit (s : State) (f : Flit) : State :=
  if (routePorts s f.dst.toNat).isEmpty then (flitSlots f).foldl (refuseSlot f.src.toNat) (discardMsg s)
  else (flitSlots f).foldl (forwardSlot f.src.toNat f.dst.toNat) s
/-- Take a data flit that was accepted: for this device, or for another. -/
def takeFlit (s : State) (f : Flit) : State :=
  if f.dst = s.regs.devn then (flitSlots f).foldl (fun s w => takeSlot s f.src.toNat w) s else forwardFlit s f

/-! ## Ports (R326) -/

/-- A flit of the link itself: 1 acknowledgement, 2 retry request. It takes no sequence number. -/
def linkFlit (s : State) (p fk : Nat) : State :=
  let x := portOf s p
  emit s (.flit p (sealFlit { dst := 0, src := s.regs.devn, lseq := x.sent, lack := x.rx, fk := BitVec.ofNat 4 fk, rsv := 0, slots := 0, crc := 0 }))

/-- Send every unacknowledged flit of a port again, in order. -/
def resendPort (s : State) (p : Nat) : State :=
  let x := portOf s p
  let n := min x.buf.length retryFlits
  let s := (x.buf.take n).foldl (fun s f => emit s (.flit p (sealFlit { f.1 with lack := x.rx }))) s
  let s := updPort s p fun x => { x with buf := (x.buf.take n).map (fun f => (f.1, f.2 + 1)) ++ x.buf.drop n }
  updRegs s fun r => { r with hlrt := r.hlrt + BitVec.ofNat 64 n }

/-- A retry request: what LACK covers has been received, and the rest is sent again. -/
def retryPort (s : State) (p : Nat) (lack : BitVec 12) : State :=
  if p < 24 && (portOf s p).up then resendPort (portAck s p lack) p else s

/-- HELUP_FLIT: a flit arrives at a port. One with a wrong CRC, and a data flit that is not the next in order, is answered with a retry
request; a flit of another kind, or with a reserved bit set, is discarded: it neither brings the port up nor acknowledges anything. The first
other flit brings a port up. DESIGN CHOICE (log 53): R325 and R326 do not say whether a discarded data flit has taken its sequence number; it has, so
that the port goes on behind it. -/
def takeAtPort (s : State) (p : Nat) (f : Flit) : State :=
  if 24 ≤ p ∨ (portOf s p).out then s
  else if !flitGood f then linkFlit s p 2
  else
    let next := f.lseq == (portOf s p).rx + 1
    let taken (s : State) : State := linkFlit (updPort s p fun x => { x with rx := f.lseq }) p 1
    if 3 ≤ f.fk.toNat ∨ f.rsv ≠ 0 then discardMsg (if f.fk = 0 ∧ next then taken s else s)
    else
      let s := portAck (updPort s p fun x => { x with up := true }) p f.lack
      if f.fk = 2 then resendPort s p
      else if f.fk = 1 then s
      else if next then takeFlit (taken s) f
      else linkFlit s p 2

def execHelupFlit (port : Nat) (f : Flit) (s : State) : Host.Outcome State Fault Refusal := .next (takeAtPort s port f)
def execLinkRetryRequest (port : Nat) (lack : BitVec 12) (s : State) : Host.Outcome State Fault Refusal := .next (retryPort s port lack)

/-- HELUP_PORT_OUT: a port one of whose flits was resent 8 times leaves service; its flits are sent over the other ports of their route. -/
def execHelupPortOut (port : Nat) (s : State) : Host.Outcome State Fault Refusal :=
  .next (
    let x := portOf s port
    if x.up && x.buf.any fun f => decide (8 ≤ f.2) then
      let s := updPort s port fun x => { x with up := false, out := true, buf := [] }
      x.buf.foldl (fun s f => forwardFlit s f.1) s
    else s)

/-! ## CXL training (R320) -/

/-- A partner of a kind that Table 11.1 supports: a host that takes a device of type 2, or a switch, through which pools and other devices are
reached; no restricted host or device. -/
def partnerOk (o : CxlOffer) : Bool :=
  !o.restricted && match o.partner with
    | .host => o.type2
    | .switch => true
    | .pool | .device => false
/-- An offer of a supported part in every row of Table 11.1: a protocol, 256-byte flits at 64 or 32 GT/s, a width of at most 16, HDM-DB, and
port-based routing or, towards a host, hierarchy-based. -/
def offerOk (o : CxlOffer) : Bool :=
  partnerOk o && (o.io || o.cache || o.mem) && o.flit256 && (o.gts64 || o.gts32) && o.hdmDb && decide (1 ≤ o.width.toNat)
    && decide (o.width.toNat ≤ 16) && (o.pbr || (o.hbr && o.partner == .host))

/-- CXL_LINK_TRAIN: the port comes up, or stays down and the offer is logged. -/
def execCxlLinkTrain (port : Nat) (offer : CxlOffer) (s : State) : Host.Outcome State Fault Refusal :=
  .next (if 6 ≤ port then s
    else if offerOk offer then
      { s with cxl := insertAt s.cxl port { up := true, width := offer.width.toNat, gts := if offer.gts64 then 64 else 32 } }
    else updMc { s with cxl := insertAt s.cxl port {} } fun m => { m with log := m.log ++ [(port, offer)] })

end Sys2Proof.Machine
end

