-- ==== Sys2Proof/Machine/Digest.lean ====
section
/-! DEFINITION. SHA-512 (FIPS 180-4), which R338 and R339 name. -/

namespace Sys2Proof.Machine

open Sys2Proof

/-- The first 80 primes. -/
def primes80 : List Nat := ((List.range 410).filter fun n => decide (2 ≤ n) && (List.range 21).all fun d => d < 2 || n ≤ d || n % d != 0).take 80

/-- The largest number below 2^k whose power `e` is at most `x`. -/
def rootBelow (e x : Nat) : Nat → Nat → Nat
  | 0, r => r
  | k + 1, r => if (r + 2 ^ k) ^ e ≤ x then rootBelow e x k (r + 2 ^ k) else rootBelow e x k r

/-- The first 64 bits of the fraction of a prime's root of order `e`. -/
def rootFraction (e p : Nat) : Word := BitVec.ofNat 64 (rootBelow e (p * 2 ^ (64 * e)) 70 0)
/-- The round constants and the first hash value. -/
def shaK : List Word := primes80.map (rootFraction 3)
@[inherit_doc shaK] def shaH0 : List Word := (primes80.take 8).map (rootFraction 2)

/-- Big-endian words of 8 bytes. -/
def shaWords : Nat → List Byte → List Word
  | 0, _ => []
  | n + 1, l => BitVec.ofNat 64 (natOfBytes (l.take 8).reverse) :: shaWords n (l.drop 8)

/-- Padding to blocks of 128 bytes. -/
def shaPad (m : List Byte) : List Byte :=
  let n := m.length
  m ++ [0x80] ++ List.replicate ((111 + 128 - n % 128) % 128) 0 ++ (bytesOfNat 16 (8 * n)).reverse

/-- The message schedule: from the last 16 words, newest first, the words that follow. -/
def shaSchedule : Nat → List Word → List Word
  | 0, l => l
  | n + 1, l =>
    let g (i : Nat) : Word := l.getD (i - 1) 0
    let s0 := (g 15).rotateRight 1 ^^^ (g 15).rotateRight 8 ^^^ (g 15) >>> 7
    let s1 := (g 2).rotateRight 19 ^^^ (g 2).rotateRight 61 ^^^ (g 2) >>> 6
    shaSchedule n ((s1 + g 7 + s0 + g 16) :: l)

/-- One round on the eight working words. -/
def shaRound (v : List Word) (kw : Word × Word) : List Word :=
  let g (i : Nat) : Word := v.getD i 0
  let s1 := (g 4).rotateRight 14 ^^^ (g 4).rotateRight 18 ^^^ (g 4).rotateRight 41
  let ch := (g 4 &&& g 5) ^^^ (~~~ g 4 &&& g 6)
  let t1 := g 7 + s1 + ch + kw.1 + kw.2
  let s0 := (g 0).rotateRight 28 ^^^ (g 0).rotateRight 34 ^^^ (g 0).rotateRight 39
  let maj := (g 0 &&& g 1) ^^^ (g 0 &&& g 2) ^^^ (g 1 &&& g 2)
  [t1 + (s0 + maj), g 0, g 1, g 2, g 3 + t1, g 4, g 5, g 6]

/-- One block. -/
def shaBlock (h : List Word) (block : List Byte) : List Word :=
  let w := (shaSchedule 64 (shaWords 16 block).reverse).reverse
  List.zipWith (· + ·) h ((shaK.zip w).foldl shaRound h)

/-- Blocks of a padded message. -/
def shaBlocks : Nat → List Word → List Byte → List Word
  | 0, h, _ => h
  | n + 1, h, l => shaBlocks n (shaBlock h (l.take 128)) (l.drop 128)

/-- SHA-512 of bytes, its first byte the most significant. -/
def sha512 (m : List Byte) : BitVec 512 :=
  let p := shaPad m
  BitVec.ofNat 512 ((shaBlocks (p.length / 128) shaH0 p).foldl (fun x w => x * 2 ^ 64 + w.toNat) 0)

end Sys2Proof.Machine
end

