-- ==== Sys2Proof/Machine/Signature.lean ====
section
/-! DEFINITION. ECDSA on the curve P-521 (FIPS 186-4), which R338 names: y² = x³ − 3 x + b over the field of 2^521 − 1. -/

namespace Sys2Proof.Machine

open Sys2Proof

/-! ## The curve -/

/-- The field, the constant of the curve, the order of its base point, and the base point. -/
def curveP : Nat := 2 ^ 521 - 1
@[inherit_doc curveP] def curveB : Nat :=
  0x51953eb9618e1c9a1f929a21a0b68540eea2da725b99b315f3b8b489918ef109e156193951ec7e937b1652c0bd3bb1bf073573df883d2c34f1ef451fd46b503f00
@[inherit_doc curveP] def curveN : Nat :=
  0x1fffffffffffffffffffffffffffffffffffffffffffffffffffffffffffffffffa51868783bf2f966b7fcc0148f709a5d03bb5c9b8899c47aebb6fb71e91386409
@[inherit_doc curveP] def curveG : Nat × Nat :=
  (0xc6858e06b70404e9cd9e3ecb662395b4429c648139053fb521f828af606b4d3dbaa14b5e77efe75928fe1dc127a2ffa8de3348b3c1856a429bf97e7e31c2e5bd66,
   0x11839296a789a3bc0045c8a5fb42c7d1bd998f54449579b446817afbd17273e662c97ee72995ef42640c550b9013fad0761353c7086a272c24088be94769fd16650)

/-- A difference in the field. -/
def subP (a b : Nat) : Nat := (a + curveP - b % curveP) % curveP
/-- A power modulo `m`, for exponents of at most `n` bits. -/
def powMod (m : Nat) : Nat → Nat → Nat → Nat
  | 0, _, _ => 1
  | n + 1, a, e =>
    let r := powMod m n (a * a % m) (e / 2)
    if e % 2 = 1 then r * a % m else r
/-- The inverse modulo a prime of at most 521 bits. -/
def invMod (m a : Nat) : Nat := powMod m 521 (a % m) (m - 2)

/-- A point (x / z², y / z³); z is 0 for the point at infinity. -/
structure Point where
  x : Nat := 1
  y : Nat := 1
  z : Nat := 0
  deriving DecidableEq, Repr

/-- Twice a point. -/
def doublePoint (q : Point) : Point :=
  let d := q.z * q.z % curveP
  let g := q.y * q.y % curveP
  let b := q.x * g % curveP
  let a := 3 * subP q.x d * ((q.x + d) % curveP) % curveP
  let x := subP (a * a) (8 * b)
  { x := x, y := subP (a * subP (4 * b) x) (8 * g * g), z := 2 * q.y * q.z % curveP }

/-- The sum of two points. -/
def addPoint (q r : Point) : Point :=
  if q.z = 0 then r
  else if r.z = 0 then q
  else
    let u := q.z * q.z % curveP
    let v := r.z * r.z % curveP
    let x1 := q.x * v % curveP
    let y1 := q.y * v * r.z % curveP
    let h := subP (r.x * u) x1
    let k := subP (r.y * u * q.z) y1
    if h = 0 then (if k = 0 then doublePoint q else {})
    else
      let h2 := h * h % curveP
      let h3 := h2 * h % curveP
      let x := subP (subP (k * k) h3) (2 * x1 * h2)
      { x := x, y := subP (k * subP (x1 * h2) x) (y1 * h3), z := q.z * r.z * h % curveP }

/-- A multiple of a point by a number of at most `n` bits. -/
def mulPoint : Nat → Nat → Point → Point
  | 0, _, _ => {}
  | n + 1, k, q =>
    let r := mulPoint n (k / 2) (doublePoint q)
    if k % 2 = 1 then addPoint q r else r

/-! ## Verification -/

/-- A public key: the coordinates of a point of the curve. -/
def keyOk (x y : Nat) : Bool :=
  decide (x < curveP) && decide (y < curveP) && y * y % curveP == (subP (x * x * x) (3 * x) + curveB) % curveP

/-- ECDSA verification of a signature (r, s) of a digest under a key, x above y in 66 bytes each. -/
def ecdsaVerify (key : BitVec 1056) (digest : BitVec 512) (r s : BitVec 528) : Bool :=
  let x := key.toNat / 2 ^ 528
  let y := key.toNat % 2 ^ 528
  let r := r.toNat
  let s := s.toNat
  let w := invMod curveN s
  let q := addPoint (mulPoint 521 (digest.toNat * w % curveN) { x := curveG.1, y := curveG.2, z := 1 })
    (mulPoint 521 (r * w % curveN) { x := x, y := y, z := 1 })
  keyOk x y && decide (1 ≤ r) && decide (r < curveN) && decide (1 ≤ s) && decide (s < curveN) && q.z != 0
    && q.x * invMod curveP (q.z * q.z) % curveP % curveN == r

end Sys2Proof.Machine
end

