-- ==== Sys2Proof/Machine/Management.lean ====
section
/-! DEFINITION. The management controller and the stacks: scrub and error counts (R174), heat decay (R173), bad bits (R25), firmware
(R338), attestation (R339), power and cooling (R340), and device reset (R332). -/

namespace Sys2Proof.Machine

open Sys2Proof

/-! ## Stacks (R174) -/

/-- The bank of a canonical address, as ECSEL numbers it. -/
def bankNumber (cda : Nat) : Nat := bits cda 26 14

/-- Count an error of a bank. -/
def countError (s : State) (b : Nat) (unc : Bool) : State :=
  updMc s fun m =>
    let (c, u) := lookupD m.counts b (0, 0)
    { m with counts := insertAt m.counts b (if unc then (c, u + 1) else (c + 1, u)) }

/-- The L2 or a victim cache holds a sector, by canonical address / 32: its presence and whether it is dirty. -/
def sectorHeld (s : State) (sector : Nat) : Bool × Bool :=
  let x := lineState s (sector / 2)
  if sector % 2 = 1 then (x.s1, x.d1) else (x.s0, x.d0)
/-- A sector leaves the L2 and the victim caches. -/
def dropSector (s : State) (sector : Nat) : State :=
  let cut (m : Map L2Line) : Map L2Line := match lookup m (sector / 2) with
    | some x => insertAt m (sector / 2) (if sector % 2 = 1 then { x with s1 := false } else { x with s0 := false })
    | none => m
  { s with l2 := cut s.l2, victim := cut s.victim }

/-- Uncorrectable data: the sector fills poisoned. What the L2 holds dirty is written back over it; a clean copy goes. -/
def loseSector (s : State) (sector : Nat) : State :=
  match sectorHeld s sector with
  | (true, true) => s
  | (true, false) => setPoison (dropSector s sector) sector true
  | (false, _) => setPoison s sector true

/-- HBM_SCRUB: scrub finds an error in a sector, corrected or not. -/
def execHbmScrub (sector : Nat) (uncorrectable : Bool) (s : State) : Host.Outcome State Fault Refusal :=
  .next (if !cdaExists (32 * sector) then s
    else
      let s := countError s (bankNumber (32 * sector)) uncorrectable
      if uncorrectable then loseSector s sector else s)

def execErrorCountMirror (s : State) : Host.Outcome State Fault Refusal := .next (updMc s fun m => { m with mirror := m.counts })
def execErrorCountClear (s : State) : Host.Outcome State Fault Refusal := .next (updMc s fun m => { m with counts := [], mirror := [] })

/-! ## Heat decay (R173) -/

/-- Byte offset of the heat table in the linear aperture, or in host physical memory (log 10). -/
def heatBase (s : State) : Nat := bits s.regs.heatb.toNat 30 30 * 2 ^ 27
/-- The entries of the heat table that are not zero: those with a listed byte. -/
def heatEntries (s : State) : List Nat :=
  let b := heatBase s
  let l := if b < deviceBytes then (s.mem.filter fun c => decide (c.1 < 2 ^ 40)).map (fun c => cdaToLinear c.1) else s.podMem.map (·.1)
  (l.filter fun a => decide (b ≤ a) && decide (a < b + 2 ^ 27)).foldl (fun m a => insertNat m ((a - b) / 2)) []

/-- HEAT_DECAY_DONE: every entry has been halved. -/
def execHeatDecayDone (s : State) : Host.Outcome State Fault Refusal :=
  .next (if s.regs.heatRun then
      let s := (heatEntries s).foldl (fun s i => let a := 8 * heatBase s + 16 * i; writeArea s a 16 (readArea s a 16 / 2)) s
      updRegs s fun r => { r with heatRun := false }
    else s)

/-! ## Bad bits (R25) -/

/-- The grid of the unit that a bit of a bad-unit register names (Table 1.6). -/
def bitGrid (num bit : Nat) : Nat :=
  if num ≤ 0x41F then (64 * (num - 0x400) + bit) / 128
  else if num ≤ 0x427 then (64 * (num - 0x420) + bit) / 32
  else bit / 4

/-- Clear a bit of a bad-unit register. -/
def clearBadBit (s : State) (num bit : Nat) : State :=
  let cut (w : Word) : Word := w &&& ~~~ (1#64 <<< bit)
  updRegs s fun r =>
    if num ≤ 0x41F then { r with badn := insertAt r.badn (num - 0x400) (cut (lookupD r.badn (num - 0x400) 0)) }
    else if num ≤ 0x427 then { r with badi := insertAt r.badi (num - 0x420) (cut (lookupD r.badi (num - 0x420) 0)) }
    else if num = 0x428 then { r with badx := cut r.badx } else { r with badc := cut r.badc }

def execBadBitSet (num bit : Nat) (s : State) : Host.Outcome State Fault Refusal :=
  .next (if 0x400 ≤ num ∧ num ≤ 0x429 ∧ bit < 64 then orBadUnits s num (1#64 <<< bit) else s)
def execBadBitClear (num bit : Nat) (s : State) : Host.Outcome State Fault Refusal :=
  .next (if 0x400 ≤ num ∧ num ≤ 0x429 ∧ bit < 64 ∧ !gridLoaded s (bitGrid num bit) then clearBadBit s num bit else s)

/-! ## Firmware and attestation (R338, R339) -/

/-- Bytes of a number, most significant first. -/
def bytesBig (n x : Nat) : List Byte := (bytesOfNat n x).reverse

/-- A bundle is accepted: the key's digest is the fused one, the signature over the digest of the whole bundle verifies, and the version is not below
the fused minimum. The bytes that are signed are the version, 4 bytes little-endian, and the image, an order that R338 leaves open (log 9). -/
def bundleOk (b : Bundle) : Bool :=
  sha512 (bytesBig 132 b.key.toNat) == Config.rootKeyDigest && ecdsaVerify b.key (sha512 (bytesOfNat 4 b.svn.toNat ++ b.image)) b.sigR b.sigS
    && decide (Config.minSvn.toNat ≤ b.svn.toNat)

def execFirmwareUpdate (b : Bundle) (s : State) : Host.Outcome State Fault Refusal :=
  .next (if bundleOk b then { updMc s (fun m => { m with running := some (sha512 b.image), svn := b.svn }) with out := s.out ++ [.firmware true] }
    else { s with out := s.out ++ [.firmware false] })

/-- The registers that a report digests, in register-number order: bad units, GCFG and GMEM0 to GMEM7, DMASK, DBOOT. -/
def reportRegs : List Nat := (List.range 42).map (0x400 + ·) ++ (List.range 9).map (0x800 + ·) ++ [0x902, 0x903]

/-- Bytes 0 to 207 of an attestation report (Table 11.7). -/
def reportBody (s : State) (nonce : BitVec 512) : List Byte :=
  bytesOfNat 4 1 ++ bytesOfNat 4 s.regs.devn.toNat ++ bytesOfNat 8 (readReg s none 0x900).toNat
    ++ bytesBig 64 (s.mc.running.getD Config.firmwareDigest).toNat ++ bytesOfNat 64 nonce.toNat
    ++ bytesBig 64 (sha512 (reportRegs.flatMap fun n => bytesOfNat 8 (readReg s none n).toNat)).toNat

/-- ATTESTATION_REQUEST: the signed report. -/
def execAttestationRequest (nonce : BitVec 512) (s : State) : Host.Outcome State Fault Refusal :=
  .next (
    let b := reportBody s nonce
    let (r, g) := Config.attestSign b
    { s with out := s.out ++ [.report (b ++ bytesBig 66 r.toNat ++ bytesBig 66 g.toNat)] })

/-! ## Power and reset (R332, R340) -/

/-- THERMAL_THROTTLE: the arithmetic clock steps down. -/
def execThermalThrottle (s : State) : Host.Outcome State Fault Refusal :=
  .next (updMc s fun m => { m with clock := if 1200 < m.clock then 1200 else 800 })
/-- THERMAL_SHUTDOWN: power is removed. -/
def execThermalShutdown (s : State) : Host.Outcome State Fault Refusal := .next (updMc s fun m => { m with powered := false })

/-- Device reset: every register has its reset value but those that the management controller keeps; memory keeps its contents, those of
the stacks only while there was power; the model's agenda and counters go on (log 21). -/
def resetDevice (s : State) : State :=
  { State.reset with
    agenda := s.agenda, free := s.free, ids := s.ids, snaps := s.snaps, out := s.out
    mem := if s.mc.powered then s.mem else [], poison := if s.mc.powered then s.poison else []
    podMem := s.podMem, podPoison := s.podPoison
    regs := { badn := s.regs.badn, badi := s.regs.badi, badx := s.regs.badx, badc := s.regs.badc, devn := s.regs.devn, dfeat := s.regs.dfeat,
              dboot := s.regs.dboot + 1 }
    mc := { log := s.mc.log, svn := s.mc.svn, running := s.mc.running } }

def execDeviceReset (s : State) : Host.Outcome State Fault Refusal := .next (resetDevice s)

end Sys2Proof.Machine
end

