-- ==== Sys2Proof/Machine/Dispatch.lean ====
section
/-! DEFINITION. One arm per constructor of Instr: each calls its meaning. -/

namespace Sys2Proof.Machine

open Sys2Proof

def exec (i : Instr) (s : State) : Host.Outcome State Fault Refusal :=
  match i with
  | .mov r => Sys2Proof.Machine.execMov r s
  | .movi r => Sys2Proof.Machine.execMovi r s
  | .null r => Sys2Proof.Machine.execNull r s
  | .gate r => Sys2Proof.Machine.execGate r s
  | .join r => Sys2Proof.Machine.execJoin r s
  | .tagr r => Sys2Proof.Machine.execTagr r s
  | .tags r => Sys2Proof.Machine.execTags r s
  | .exitB r => Sys2Proof.Machine.execExitB r s
  | .exitEoi r => Sys2Proof.Machine.execExitEoi r s
  | .exitLeave r => Sys2Proof.Machine.execExitLeave r s
  | .exitEoc r => Sys2Proof.Machine.execExitEoc r s
  | .exitx r => Sys2Proof.Machine.execExitx r s
  | .wave r => Sys2Proof.Machine.execWave r s
  | .lent r => Sys2Proof.Machine.execLent r s
  | .leav r => Sys2Proof.Machine.execLeav r s
  | .lbnd r => Sys2Proof.Machine.execLbnd r s
  | .lcnt r => Sys2Proof.Machine.execLcnt r s
  | .ctxa r => Sys2Proof.Machine.execCtxa r s
  | .ctxf r => Sys2Proof.Machine.execCtxf r s
  | .ctxj r => Sys2Proof.Machine.execCtxj r s
  | .ctxs r => Sys2Proof.Machine.execCtxs r s
  | .call r => Sys2Proof.Machine.execCall r s
  | .ret r => Sys2Proof.Machine.execRet r s
  | .spawn r => Sys2Proof.Machine.execSpawn r s
  | .add r => Sys2Proof.Machine.execAdd r s
  | .sub r => Sys2Proof.Machine.execSub r s
  | .mul r => Sys2Proof.Machine.execMul r s
  | .mulh r => Sys2Proof.Machine.execMulh r s
  | .div r => Sys2Proof.Machine.execDiv r s
  | .rem r => Sys2Proof.Machine.execRem r s
  | .neg r => Sys2Proof.Machine.execNeg r s
  | .abs r => Sys2Proof.Machine.execAbs r s
  | .min r => Sys2Proof.Machine.execMin r s
  | .max r => Sys2Proof.Machine.execMax r s
  | .and r => Sys2Proof.Machine.execAnd r s
  | .or r => Sys2Proof.Machine.execOr r s
  | .xor r => Sys2Proof.Machine.execXor r s
  | .andn r => Sys2Proof.Machine.execAndn r s
  | .shl r => Sys2Proof.Machine.execShl r s
  | .shr r => Sys2Proof.Machine.execShr r s
  | .shra r => Sys2Proof.Machine.execShra r s
  | .rot r => Sys2Proof.Machine.execRot r s
  | .clz r => Sys2Proof.Machine.execClz r s
  | .ctz r => Sys2Proof.Machine.execCtz r s
  | .popc r => Sys2Proof.Machine.execPopc r s
  | .bfx r => Sys2Proof.Machine.execBfx r s
  | .bfi r => Sys2Proof.Machine.execBfi r s
  | .cmp r => Sys2Proof.Machine.execCmp r s
  | .sel r => Sys2Proof.Machine.execSel r s
  | .padd r => Sys2Proof.Machine.execPadd r s
  | .pdif r => Sys2Proof.Machine.execPdif r s
  | .paln r => Sys2Proof.Machine.execPaln r s
  | .pcls r => Sys2Proof.Machine.execPcls r s
  | .pbyt r => Sys2Proof.Machine.execPbyt r s
  | .pbit r => Sys2Proof.Machine.execPbit r s
  | .fadd r => Sys2Proof.Machine.execFadd r s
  | .fsub r => Sys2Proof.Machine.execFsub r s
  | .fmul r => Sys2Proof.Machine.execFmul r s
  | .ffma r => Sys2Proof.Machine.execFfma r s
  | .fmin r => Sys2Proof.Machine.execFmin r s
  | .fmax r => Sys2Proof.Machine.execFmax r s
  | .fdiv r => Sys2Proof.Machine.execFdiv r s
  | .fsqrt r => Sys2Proof.Machine.execFsqrt r s
  | .frcp r => Sys2Proof.Machine.execFrcp r s
  | .frsq r => Sys2Proof.Machine.execFrsq r s
  | .fex2 r => Sys2Proof.Machine.execFex2 r s
  | .flg2 r => Sys2Proof.Machine.execFlg2 r s
  | .ftnh r => Sys2Proof.Machine.execFtnh r s
  | .fcmp r => Sys2Proof.Machine.execFcmp r s
  | .fcls r => Sys2Proof.Machine.execFcls r s
  | .fscl r => Sys2Proof.Machine.execFscl r s
  | .cvt r => Sys2Proof.Machine.execCvt r s
  | .cvts r => Sys2Proof.Machine.execCvts r s
  | .qblk r => Sys2Proof.Machine.execQblk r s
  | .dqbk r => Sys2Proof.Machine.execDqbk r s
  | .pack r => Sys2Proof.Machine.execPack r s
  | .unpk r => Sys2Proof.Machine.execUnpk r s
  | .bcst r => Sys2Proof.Machine.execBcst r s
  | .lane r => Sys2Proof.Machine.execLane r s
  | .shuf r => Sys2Proof.Machine.execShuf r s
  | .redl r => Sys2Proof.Machine.execRedl r s
  | .scnl r => Sys2Proof.Machine.execScnl r s
  | .cmpx r => Sys2Proof.Machine.execCmpx r s
  | .vlen r => Sys2Proof.Machine.execVlen r s
  | .ld r => Sys2Proof.Machine.execLd r s
  | .st r => Sys2Proof.Machine.execSt r s
  | .ldv r => Sys2Proof.Machine.execLdv r s
  | .stv r => Sys2Proof.Machine.execStv r s
  | .lds r => Sys2Proof.Machine.execLds r s
  | .ldsE r => Sys2Proof.Machine.execLdsE r s
  | .stf r => Sys2Proof.Machine.execStf r s
  | .ste r => Sys2Proof.Machine.execSte r s
  | .ldi r => Sys2Proof.Machine.execLdi r s
  | .sti r => Sys2Proof.Machine.execSti r s
  | .spld r => Sys2Proof.Machine.execSpld r s
  | .spst r => Sys2Proof.Machine.execSpst r s
  | .pref r => Sys2Proof.Machine.execPref r s
  | .flsh r => Sys2Proof.Machine.execFlsh r s
  | .invl r => Sys2Proof.Machine.execInvl r s
  | .fence r => Sys2Proof.Machine.execFence r s
  | .aadd r => Sys2Proof.Machine.execAadd r s
  | .afad r => Sys2Proof.Machine.execAfad r s
  | .amin r => Sys2Proof.Machine.execAmin r s
  | .amax r => Sys2Proof.Machine.execAmax r s
  | .aand r => Sys2Proof.Machine.execAand r s
  | .aor r => Sys2Proof.Machine.execAor r s
  | .axor r => Sys2Proof.Machine.execAxor r s
  | .axch r => Sys2Proof.Machine.execAxch r s
  | .acas r => Sys2Proof.Machine.execAcas r s
  | .comb r => Sys2Proof.Machine.execComb r s
  | .cbin r => Sys2Proof.Machine.execCbin r s
  | .cbpt r => Sys2Proof.Machine.execCbpt r s
  | .cbaq r => Sys2Proof.Machine.execCbaq r s
  | .cbrl r => Sys2Proof.Machine.execCbrl r s
  | .xcpy r => Sys2Proof.Machine.execXcpy r s
  | .xtil r => Sys2Proof.Machine.execXtil r s
  | .xgat r => Sys2Proof.Machine.execXgat r s
  | .xsct r => Sys2Proof.Machine.execXsct r s
  | .xfil r => Sys2Proof.Machine.execXfil r s
  | .xbat r => Sys2Proof.Machine.execXbat r s
  | .xwait r => Sys2Proof.Machine.execXwait r s
  | .xhnd r => Sys2Proof.Machine.execXhnd r s
  | .xrel r => Sys2Proof.Machine.execXrel r s
  | .xsta r => Sys2Proof.Machine.execXsta r s
  | .tlda r => Sys2Proof.Machine.execTlda r s
  | .tldb r => Sys2Proof.Machine.execTldb r s
  | .tscl r => Sys2Proof.Machine.execTscl r s
  | .tmma r => Sys2Proof.Machine.execTmma r s
  | .trot r => Sys2Proof.Machine.execTrot r s
  | .tzro r => Sys2Proof.Machine.execTzro r s
  | .tacsRead r => Sys2Proof.Machine.execTacsRead r s
  | .tacsWrite r => Sys2Proof.Machine.execTacsWrite r s
  | .tacsStore r => Sys2Proof.Machine.execTacsStore r s
  | .tcvq r => Sys2Proof.Machine.execTcvq r s
  | .twait r => Sys2Proof.Machine.execTwait r s
  | .krsc r => Sys2Proof.Machine.execKrsc r s
  | .kagt r => Sys2Proof.Machine.execKagt r s
  | .kard r => Sys2Proof.Machine.execKard r s
  | .kxpr r => Sys2Proof.Machine.execKxpr r s
  | .kwait r => Sys2Proof.Machine.execKwait r s
  | .send r => Sys2Proof.Machine.execSend r s
  | .recv r => Sys2Proof.Machine.execRecv r s
  | .hvya r => Sys2Proof.Machine.execHvya r s
  | .hvyr r => Sys2Proof.Machine.execHvyr r s
  | .trap r => Sys2Proof.Machine.execTrap r s
  | .eret r => Sys2Proof.Machine.execEret r s
  | .srd r => Sys2Proof.Machine.execSrd r s
  | .swr r => Sys2Proof.Machine.execSwr r s
  | .bkpt r => Sys2Proof.Machine.execBkpt r s
  | .frz r => Sys2Proof.Machine.execFrz r s
  | .tlbiPage r => Sys2Proof.Machine.execTlbiPage r s
  | .tlbiPart r => Sys2Proof.Machine.execTlbiPart r s
  | .pmig r => Sys2Proof.Machine.execPmig r s
  | .drcl r => Sys2Proof.Machine.execDrcl r s
  | .lcmp r => Sys2Proof.Machine.execLcmp r s
  | .tokenDelivery k => Sys2Proof.Machine.execTokenDelivery k s
  | .tokenRefill k => Sys2Proof.Machine.execTokenRefill k s
  | .activationStart act => Sys2Proof.Machine.execActivationStart act s
  | .blockFetchVerify act => Sys2Proof.Machine.execBlockFetchVerify act s
  | .predictSuccessor act blk => Sys2Proof.Machine.execPredictSuccessor act blk s
  | .imagePrefetch sleeve blk => Sys2Proof.Machine.execImagePrefetch sleeve blk s
  | .iterationStart loop => Sys2Proof.Machine.execIterationStart loop s
  | .lcntIterationToken loop => Sys2Proof.Machine.execLcntIterationToken loop s
  | .activationCommit act => Sys2Proof.Machine.execActivationCommit act s
  | .colourFree part col => Sys2Proof.Machine.execColourFree part col s
  | .colourResident part col => Sys2Proof.Machine.execColourResident part col s
  | .spawnRetryReissue k => Sys2Proof.Machine.execSpawnRetryReissue k s
  | .storePerform sid => Sys2Proof.Machine.execStorePerform sid s
  | .loadDataReturn op => Sys2Proof.Machine.execLoadDataReturn op s
  | .forwardingTableDrain sleeve => Sys2Proof.Machine.execForwardingTableDrain sleeve s
  | .writeBack line => Sys2Proof.Machine.execWriteBack line s
  | .hbmScrub sector uncorrectable => Sys2Proof.Machine.execHbmScrub sector uncorrectable s
  | .fenceComplete op => Sys2Proof.Machine.execFenceComplete op s
  | .tlbiComplete op => Sys2Proof.Machine.execTlbiComplete op s
  | .pmigSwitch op => Sys2Proof.Machine.execPmigSwitch op s
  | .eretComplete op => Sys2Proof.Machine.execEretComplete op s
  | .heavyGrant part => Sys2Proof.Machine.execHeavyGrant part s
  | .hemCommandArrival k => Sys2Proof.Machine.execHemCommandArrival k s
  | .tmmaStart isl => Sys2Proof.Machine.execTmmaStart isl s
  | .trotStart sleeve => Sys2Proof.Machine.execTrotStart sleeve s
  | .hemCommandComplete cmd => Sys2Proof.Machine.execHemCommandComplete cmd s
  | .transferAccept xisl => Sys2Proof.Machine.execTransferAccept xisl s
  | .transferUnitWrite tid => Sys2Proof.Machine.execTransferUnitWrite tid s
  | .collectiveStart cisl => Sys2Proof.Machine.execCollectiveStart cisl s
  | .collectiveComplete cid => Sys2Proof.Machine.execCollectiveComplete cid s
  | .tokloWrite cuff v => Sys2Proof.Machine.execTokloWrite cuff v s
  | .tokhiWrite cuff v => Sys2Proof.Machine.execTokhiWrite cuff v s
  | .sync cuff seq => Sys2Proof.Machine.execSync cuff seq s
  | .config cuff => Sys2Proof.Machine.execConfig cuff s
  | .arg cuff => Sys2Proof.Machine.execArg cuff s
  | .start cuff => Sys2Proof.Machine.execStart cuff s
  | .unload cuff => Sys2Proof.Machine.execUnload cuff s
  | .freeze cuff => Sys2Proof.Machine.execFreeze cuff s
  | .freezeEnd part => Sys2Proof.Machine.execFreezeEnd part s
  | .resume cuff => Sys2Proof.Machine.execResume cuff s
  | .reset cuff => Sys2Proof.Machine.execReset cuff s
  | .watchdogExpiry queue => Sys2Proof.Machine.execWatchdogExpiry queue s
  | .egackWrite cuff v => Sys2Proof.Machine.execEgackWrite cuff v s
  | .qcfgWrite cuff v => Sys2Proof.Machine.execQcfgWrite cuff v s
  | .replay part fseq => Sys2Proof.Machine.execReplay part fseq s
  | .replayAll part => Sys2Proof.Machine.execReplayAll part s
  | .abandon part fseq => Sys2Proof.Machine.execAbandon part fseq s
  | .replayEnd part fseq => Sys2Proof.Machine.execReplayEnd part fseq s
  | .thaw part fseq => Sys2Proof.Machine.execThaw part fseq s
  | .fqseqWrite part v => Sys2Proof.Machine.execFqseqWrite part v s
  | .olseqWrite v => Sys2Proof.Machine.execOlseqWrite v s
  | .gcfgWrite v => Sys2Proof.Machine.execGcfgWrite v s
  | .gmemWrite k v => Sys2Proof.Machine.execGmemWrite k v s
  | .memberLostTimeout rank => Sys2Proof.Machine.execMemberLostTimeout rank s
  | .ownerLostTimeout line => Sys2Proof.Machine.execOwnerLostTimeout line s
  | .remoteTimeout rid => Sys2Proof.Machine.execRemoteTimeout rid s
  | .heatkWrite v => Sys2Proof.Machine.execHeatkWrite v s
  | .heatdWrite v => Sys2Proof.Machine.execHeatdWrite v s
  | .cmbasWrite v => Sys2Proof.Machine.execCmbasWrite v s
  | .badUnitWrite num v => Sys2Proof.Machine.execBadUnitWrite num v s
  | .registerWrite num v via => Sys2Proof.Machine.execRegisterWrite num v via s
  | .read src m => Sys2Proof.Machine.execRead src m s
  | .readData src m => Sys2Proof.Machine.execReadData src m s
  | .write src m => Sys2Proof.Machine.execWrite src m s
  | .writeAck src rid => Sys2Proof.Machine.execWriteAck src rid s
  | .atomic src m => Sys2Proof.Machine.execAtomic src m s
  | .atomicData src m => Sys2Proof.Machine.execAtomicData src m s
  | .delta src m => Sys2Proof.Machine.execDelta src m s
  | .pdelta src m => Sys2Proof.Machine.execPdelta src m s
  | .dack src dseq => Sys2Proof.Machine.execDack src dseq s
  | .error src status rid => Sys2Proof.Machine.execError src status rid s
  | .coll src m => Sys2Proof.Machine.execColl src m s
  | .linkRetryRequest port lack => Sys2Proof.Machine.execLinkRetryRequest port lack s
  | .helupPortOut port => Sys2Proof.Machine.execHelupPortOut port s
  | .cxlLinkTrain port offer => Sys2Proof.Machine.execCxlLinkTrain port offer s
  | .firmwareUpdate b => Sys2Proof.Machine.execFirmwareUpdate b s
  | .attestationRequest nonce => Sys2Proof.Machine.execAttestationRequest nonce s
  | .badBitClear num bit => Sys2Proof.Machine.execBadBitClear num bit s
  | .helupFlit port f => Sys2Proof.Machine.execHelupFlit port f s
  | .podLineRequest r => Sys2Proof.Machine.execPodLineRequest r s
  | .snoop line kind => Sys2Proof.Machine.execSnoop line kind s
  | .snoopReply line m => Sys2Proof.Machine.execSnoopReply line m s
  | .pageWalkDone walk => Sys2Proof.Machine.execPageWalkDone walk s
  | .badBitSet num bit => Sys2Proof.Machine.execBadBitSet num bit s
  | .heatDecayDone => Sys2Proof.Machine.execHeatDecayDone s
  | .hold => Sys2Proof.Machine.execHold s
  | .release => Sys2Proof.Machine.execRelease s
  | .rebuild => Sys2Proof.Machine.execRebuild s
  | .rebuildDone => Sys2Proof.Machine.execRebuildDone s
  | .deviceReset => Sys2Proof.Machine.execDeviceReset s
  | .thermalThrottle => Sys2Proof.Machine.execThermalThrottle s
  | .thermalShutdown => Sys2Proof.Machine.execThermalShutdown s
  | .errorCountMirror => Sys2Proof.Machine.execErrorCountMirror s
  | .errorCountClear => Sys2Proof.Machine.execErrorCountClear s

end Sys2Proof.Machine
end

