-- ==== Sys2Proof/Machine/Schedule.lean ====
section
/-! DEFINITION. What happens at the end of every step, which agent moves when the agenda names none (log 2), what a device without
power does, and the placement of one node record as the next thing to issue (log 11). -/

namespace Sys2Proof.Machine

open Sys2Proof

/-! ## The end of a step -/

/-- The sleeves with waiting forms. -/
def waitingSleeves (s : State) : List Nat := s.ops.foldl (fun l o => insertNat l o.2.f.sleeve) []
/-- Waiting circular-buffer forms that may be served are served (R170). -/
def settleBuffers (s : State) : State := (waitingSleeves s).foldl (fun s v => serveBuffers (s.ops.length + 1) s v) s
/-- Held writes to RPLY that may be performed now are performed. -/
def settleRply (s : State) : State := (s.parts.map (·.1)).foldl (fun s p => drainRply (partOf s p).rply.length s p) s

/-- JOIN and COMB entries that a purge has cut are combined anew (R70). -/
def settleCounts (s : State) : State :=
  if s.entries.any fun e => !e.parts.isEmpty && e.a.isNone then { s with entries := s.entries.map (recount combineVals s) } else s

/-- An access that is held at step 1 is still to be made; a freeze takes the stores of its partition out (R303). -/
def heldLive (s : State) (h : Held) : Bool :=
  match h.who with
  | .store sid => match lookup s.stores sid with | some x => x.committed && !x.parked && (partOf s x.part).pstate != .frozen | none => false
  | .form a n =>
    let mine (e : Entry) : Bool := e.act == a && e.node == n
    s.stalled.any mine || s.entries.any mine || s.walks.any fun w => w.2.waiting.any fun x => mine x.e
  | .xfer t => (lookup s.xfers t).isSome || (lookup s.colls t).isSome
  | .inbound n => s.inbound.any fun x => x.n == n
/-- Accesses that have been squashed, killed or parked leave the list of held ones. -/
def settleHeld (s : State) : State :=
  let l := s.waits.filter (heldLive s)
  if l.length = s.waits.length then s else wake { s with waits := l }
/-- Stores whose translation waited for the owner of a table line are translated again. -/
def settleStale (s : State) : State := ((s.stores.filter fun x => x.2.stale).map (·.1)).foldl retranslate s

/-- The end of a step that began in state `old`. -/
def endStep (old s : State) : State :=
  let s := settleRply (settleBuffers (settle (settleCounts s)))
  let s := dropFailedCopies (serveInbound (checkLinings (checkDrained s)))
  endCycle old (settleColours old (trimCaches (settleStale (settleHeld s))))

/-! ## Order of moves -/

/-- The ENs with a record that may issue. -/
def issuable (s : State) : List Nat :=
  (s.entries.foldl (fun l e => insertNat l e.en) []).filter fun e => (headEligible s e).isSome

/-- The event that ends a wait. -/
def waitEvent (k : Nat) : Wait → Option Instr
  | .data _ | .window _ => some (.loadDataReturn k)
  | .fence _ _ _ _ _ => some (.fenceComplete k)
  | .tlbi _ _ => some (.tlbiComplete k)
  | .pmig _ _ _ _ _ => some (.pmigSwitch k)
  | .eret _ => some (.eretComplete k)
  | _ => none

/-- Events that an activation may be due for. -/
def actEvents (x : Nat × Act) : List Instr :=
  if !actLive x.2 then []
  else if x.2.started then [.activationCommit x.1] else [.blockFetchVerify x.1, .activationStart x.1]
/-- Events that a colour may be due for. -/
def colourEvents (x : Nat × Colour) : List Instr :=
  match x.2.st with
  | .ending => [.colourFree x.2.part x.2.num]
  | .spilled | .queued => [.colourResident x.2.part x.2.num]
  | .free | .resident => []
/-- Events that an island may be due for. -/
def islandEvents (x : Nat × Island) : List Instr := if x.2.queue.isEmpty then [] else [.tmmaStart x.1]
/-- The service of the token at a cuff's head. -/
def cuffEvents (s : State) (c : Nat) : List Instr :=
  match (headToken s c).bind fun a => if (Ingress.ofWords a.hi a.lo).malformed then some (.arg c) else serviceOf c (Ingress.ofWords a.hi a.lo) with
  | some i => [i]
  | none => []
/-- Events of a partition. -/
def partEvents (x : Nat × Partition) : List Instr :=
  (if x.2.pstate = .freezing then [.freezeEnd x.1] else []) ++ (if x.2.regulator.isEmpty then [] else [.heavyGrant x.1])

/-- Events of threads: what activations, loops, colours and waits may be due for. -/
def threadEvents (s : State) : List Instr :=
  s.acts.flatMap actEvents
    ++ (s.loops.filter fun x => !x.2.done).flatMap (fun x => [.iterationStart x.1] ++ if x.2.counted.isSome then [.lcntIterationToken x.1] else [])
    ++ s.colours.flatMap colourEvents ++ (List.range s.retries.length).map .spawnRetryReissue
    ++ (s.stores.filter fun x => x.2.committed).map (fun x => .storePerform x.1) ++ s.ops.filterMap (fun o => waitEvent o.1 o.2.w)
    ++ (s.sleeves.filter fun v => !v.2.fwd.isEmpty).map (fun v => .forwardingTableDrain v.1) ++ s.walks.map fun w => .pageWalkDone w.1
/-- Events of the islands. -/
def unitEvents (s : State) : List Instr :=
  (List.range s.flights.length).map .hemCommandArrival ++ s.islands.flatMap islandEvents
    ++ (if s.islands.all fun x => x.2.queue.isEmpty then [] else s.sleeves.map fun v => .trotStart v.1)
    ++ s.hemOps.map (fun x => .hemCommandComplete x.1)
    ++ ((s.xfers.filter fun x => x.2.st == .queued).foldl (fun l x => insertNat l x.2.xisl) []).map .transferAccept
    ++ (s.xfers.filter fun x => x.2.st != .flying && x.2.st != .queued).map (fun x => .transferUnitWrite x.1)
    ++ ((s.colls.filter fun x => !x.2.begun).foldl (fun l x => insertNat l x.2.isl) []).map .collectiveStart
    ++ (s.colls.filter fun x => x.2.begun || x.2.status != 0).map fun x => .collectiveComplete x.1
/-- Events of partitions, queues and the device. -/
def deviceEvents (s : State) : List Instr :=
  s.parts.flatMap partEvents ++ s.queues.flatMap (fun q => cuffEvents s q.1)
    ++ (s.queues.filter fun q => match partOfCuff s q.1 with | some p => !(expired s p).isEmpty | none => false).map (fun q => .watchdogExpiry q.1)
    ++ (if s.regs.heatRun then [.heatDecayDone] else []) ++ (if s.regs.gstate = 3 then [.rebuildDone] else [])
    ++ (if s.deltas.isEmpty then [] else (List.range 8).map .memberLostTimeout)
    ++ (s.dir.filter fun d => d.2.asked.isSome).map (fun d => .ownerLostTimeout d.1)
    ++ s.remotes.map (fun r => .remoteTimeout (BitVec.ofNat 32 r.1))
    ++ (s.helup.filter fun p => p.2.up).map fun p => .helupPortOut p.1

/-- The moves that some agent may be due for; one that is not enabled changes nothing. -/
def candidates (s : State) : List Move :=
  (issuable s).map Move.issue
    ++ ((List.range s.net.length).map Instr.tokenDelivery ++ (List.range s.spilled.length).map Instr.tokenRefill ++ threadEvents s
      ++ unitEvents s ++ deviceEvents s).map Move.event

/-- The candidates in the order of their turns: those that have waited longest first, new ones last. -/
def turnsOf (s : State) : List Move :=
  let c := candidates s
  (s.turns.filter c.contains) ++ c.filter fun m => !s.turns.contains m

/-- The default order of moves: one at a time, first come, first served, so that every candidate that stays one has its turn (R79, log 2). -/
def autoMove (s : State) : Option Move := (turnsOf s).head?

/-- A device without power does nothing until a device reset (R332, R340). -/
def powerStop (s : State) (m : Option Move) : Bool := !s.mc.powered && m != some (.event .deviceReset)

/-- The next move and the state that has taken it off the agenda. -/
def nextMove (s : State) : Option (Move × State) :=
  match s.agenda with
  | m :: rest => some (m, { s with agenda := rest })
  | [] => (autoMove s).map fun m => (m, { s with turns := (turnsOf s).tail })

/-! ## Placing one record -/

/-- The image of a block of one node: header fields VER 1, NCNT 1, XCNT 1, and the record as node 0 (Tables 3.1, 3.2). -/
def oneNode (w : Nat) : Image := BitVec.ofNat 16384 (2 ^ 56 + 2 ^ 48 + 2 ^ 32 + w % 2 ^ 96 * 2 ^ 1792)

/-- The block address of the placed record. -/
def placedBlock : Word := 0x4000

/-- The placed record's matched set: a scalar 0 at every operand port that it requires, and a predicate that selects it. -/
def placedEntry (a : Nat) (w : RecordWord) : Entry :=
  let port (p : Port) : Option TokVal := if requires w p then some (scalarOf 0) else none
  { quad := 0, en := 0, act := a, node := 0, a := port .a, b := port .b, c := port .c,
    p := if requires w .p then some (scalarOf (if recPm w = 1 then 1 else 0)) else none, stamp := some 0 }

/-- Place a record so that the next step issues it: a running partition 0 with grid 0, a configuration of one sleeve, a colour
and a Running activation of a block whose node 0 is the record, with its operands matched. -/
def placeRecord (s : State) (w : Nat) : State :=
  let img := oneNode w
  let i := s.ids
  let rec96 : RecordWord := BitVec.ofNat 96 w
  { s with
    ids := i + 3
    cycle := max s.cycle 1
    agenda := [.issue 0]
    parts := insertAt s.parts 0 { partOf s 0 with grids := (partOf s 0).grids ||| 1, pstate := .running }
    cfgs := insertAt s.cfgs i { part := 0, images := [(placedBlock, img)], sleeves := [i + 1] }
    sleeves := insertAt s.sleeves (i + 1)
      { part := 0, cfg := i, desc := 0, good := [0], maps := [{ blk := placedBlock, place := [0], img := img }] }
    colours := insertAt s.colours 1 { part := 0, num := 1, serial := i, st := .resident, sleeve := i + 1 }
    threads := [{ part := 0, tag := 0x0001000000000000, acts := [i + 2], next := 2 }] ++ s.threads
    acts := insertAt s.acts (i + 2)
      { part := 0, sleeve := i + 1, colour := 1, serial := i, tag := 0x0001000000000000, blk := placedBlock, st := .running, seq := 1,
        started := true, place := [0], image := img, grant := 1, resolved := 0xFFFFFFFF }
    entries := [placedEntry (i + 2) rec96] }

end Sys2Proof.Machine
end

