-- ==== Sys2Proof/Machine/Step.lean ====
section
/-! DEFINITION. One step: the next move of the agenda, or an idle cycle, and then the end of the cycle. -/

namespace Sys2Proof.Machine

open Sys2Proof

/-- The end of the step after a meaning. -/
def finish (old : State) : Host.Outcome State Fault Refusal → Host.Outcome State Fault Refusal
  | .next s => .next (endStep old s)
  | .fault f => .fault f
  | .refused r => .refused r

/-- A move: an event, or what an EN issues. -/
def perform (s t : State) : Move → Host.Outcome State Fault Refusal
  | .event i => finish s (exec i t)
  | .issue en =>
    match fetch t en with
    | .idle => .next (endStep s t)
    | .consumed u => .next (endStep s u)
    | .run i u => finish s (exec i u)
    | .undecoded => .refused .undecoded

/-- One step of the machine. -/
def step (s : State) : Host.Outcome State Fault Refusal :=
  match nextMove s with
  | none => if powerStop s none then .fault .noPower else .next (endStep s s)
  | some (m, t) => if powerStop s (some m) then .fault .noPower else perform s t m

/-- The state in which the next step issues a node record whose bits are `w`. -/
def State.withFetchWord (s : State) (nbits w : Nat) : State := placeRecord s (w % 2 ^ nbits)

end Sys2Proof.Machine
end

