-- ==== Sys2Proof/Safety.lean ====
section
/-! DEFINITION. What a safe state is: device memory and pod memory keep their canonical form. -/

namespace Sys2Proof.Machine

/-- Both memories are in canonical form (Memory.lean). -/
abbrev State.Safe (s : State) : Prop := memWf s.mem ∧ memWf s.podMem

/-- A step is safe when it keeps that. -/
def safeStep (s : State) : Prop := ∀ t, step s = .next t → t.Safe

end Sys2Proof.Machine
end

