-- ==== Sys2Proof/Certificates/Slice0/Obligations.lean ====
section
/-! DEFINITION. The statements for the provers. First the words that they use; then, in `Sys2Proof.Claims`, each statement on its own, with the
rules that it follows; last the obligations, each a statement or the conjunction of a few that belong together. -/

set_option maxRecDepth 10000

namespace Sys2Proof.Claims

open Sys2Proof Sys2Proof.Machine

/-! ## Words of the statements -/

/-- No operand of the firing is poisoned or null (R32, R33), and the record's tag operation is no TAG_DEPTH fault (R36, R78). -/
def Clean (s : State) (c : Common) (ofs : BitVec 32) : Prop :=
  anyPoisoned s.cur = false ∧ anyNull s.cur = false ∧ tagFaults (begin s c ofs).cur = false

/-- The state once a value has been sent to both targets of the record (R341). -/
def sent (s : State) (c : Common) (ofs : BitVec 32) (v : TokVal) : State := sendBoth (begin s c ofs) (begin s c ofs).cur v

/-- A w-bit result extended to the 64 bits of a scalar: by zeros when the form is unsigned, by its sign otherwise (R114). -/
def extended {w : Nat} (u : Bool) (x : BitVec w) : Word := if u then x.setWidth 64 else x.signExtend 64

/-- The w-bit element of a scalar operand, and its value (R113, R114). -/
def elem (r : GRec) (v : TokVal) : BitVec r.c.ty.width := v.word.setWidth r.c.ty.width
@[inherit_doc elem] def elemInt (r : GRec) (v : TokVal) : Int :=
  if unsignedFn r then ((elem r v).toNat : Int) else (elem r v).toInt

/-- The operands of the record are these, and none is a vector: the form has one element. -/
def Scalars (r : GRec) (s : State) (l : List TokVal) : Prop :=
  operandsOf r l.length s.cur = l ∧ (∀ v ∈ l, v.kind ≠ .vector) ∧ Clean s r.c r.lit

/-- The least and the greatest value of a w-bit element (R113). -/
def loOf (u : Bool) (w : Nat) : Int := if u then 0 else -((2 ^ (w - 1) : Nat) : Int)
@[inherit_doc loOf] def hiOf (u : Bool) (w : Nat) : Int :=
  if u then ((2 ^ w : Nat) : Int) - 1 else ((2 ^ (w - 1) : Nat) : Int) - 1

/-- An exact result clamped to the range of a w-bit element (R342). -/
def clamped (u : Bool) (w : Nat) (z : Int) : Word := BitVec.ofInt 64 (max (loOf u w) (min (hiOf u w) z))


/-- The one element of a float form's operands as numbers: operand A under NA, subnormals flushed under FTZ (R377). -/
def floatArgs (r : GRec) (l : List TokVal) : Nat → Machine.Num := floatArg r (l.map fun v => (elem r v).toNat)

/-- The scalar that carries the pattern of a rounded result (R118, R120, R377). -/
def rounded (r : GRec) (x : Machine.Num) : TokVal :=
  scalarOf (BitVec.ofNat 64 (writeFloat (fmtOf r.c.ty) r.rnd r.sat (ftzOf r) 0 x % 2 ^ r.c.ty.width))

/-- The patterns of Table 4.1 and R111, without their sign bit: the canonical NaN, the infinity, and the largest finite number; 0 where a format has none. -/
def canonicalNan : Ty → Nat
  | .e4m3 => 0x7F | .e5m2 => 0x7E | .f16 => 0x7E00 | .bf16 => 0x7FC0 | .f32 => 0x7FC00000
  | .e3m2 | .e2m3 | .e2m1 | .i64 | .i32 | .i16 | .i8 | .i6 | .i4 | .i3 => 0
@[inherit_doc canonicalNan] def infinityOf : Ty → Nat
  | .e5m2 => 0x7C | .f16 => 0x7C00 | .bf16 => 0x7F80 | .f32 => 0x7F800000
  | .e4m3 | .e3m2 | .e2m3 | .e2m1 | .i64 | .i32 | .i16 | .i8 | .i6 | .i4 | .i3 => 0
@[inherit_doc canonicalNan] def maxPattern : Ty → Nat
  | .e4m3 => 0x7E | .e5m2 => 0x7B | .e3m2 => 0x1F | .e2m3 => 0x1F | .e2m1 => 7 | .f16 => 0x7BFF | .bf16 => 0x7F7F | .f32 => 0x7F7FFFFF
  | .i64 | .i32 | .i16 | .i8 | .i6 | .i4 | .i3 => 0

/-- R133's tree over 2^k positions, of which the first hold the elements of a list: the trees of its two halves joined by the operation, or the one
that is there. -/
def treeOver (op : Nat → Nat → Nat) : Nat → List Nat → Option Nat
  | 0, l => l.head?
  | k + 1, l =>
    match treeOver op k (l.take (2 ^ k)), treeOver op k (l.drop (2 ^ k)) with
    | some x, some y => some (op x y)
    | some x, none => some x
    | none, y => y

/-- One step of a reduction by its FN code (R120, R359, R379, R417): ADD, MIN, MAX, AND, OR and XOR of two element patterns. -/
def reductionStep (r : GRec) (x y : Nat) : Nat :=
  let w := r.c.ty.width
  let f := fmtOf r.c.ty
  let a := readFloat f x
  let b := readFloat f y
  let picked (z : Nat) : Nat := if r.sat = .none then z else writeFloat f .rne r.sat false 0 (readFloat f z)
  let ofInt (z : Int) : Nat := (BitVec.ofInt w z).toNat
  let sx := (BitVec.ofNat w x).toInt
  let sy := (BitVec.ofNat w y).toInt
  match r.c.fn.toNat with
  | 0 =>
    if r.c.ty.isFloat then writeFloat f r.rnd r.sat false 0 (addNum r.rnd a b)
    else ofInt (if r.sat = .none then sx + sy else max (loOf false w) (min (hiOf false w) (sx + sy)))
  | 1 => if r.c.ty.isFloat then picked (minMaxNum f false x y a b) else ofInt (min sx sy)
  | 2 => if r.c.ty.isFloat then picked (minMaxNum f true x y a b) else ofInt (max sx sy)
  | 3 => (BitVec.ofNat w x &&& BitVec.ofNat w y).toNat
  | 4 => (BitVec.ofNat w x ||| BitVec.ofNat w y).toNat
  | _ => (BitVec.ofNat w x ^^^ BitVec.ofNat w y).toNat

/-- No mode token has changed the rounding or the saturation of the firing node (R122, R123). -/
def NoMode (s : State) : Prop :=
  (∀ m ∈ (sleeveOf s s.cur.sleeve).modes, ¬(m.1 = s.cur.blk ∧ m.2.1 = s.cur.node)) ∧
  (s.cur.blk, s.cur.node) ∉ (sleeveOf s s.cur.sleeve).badModes

/-- The rational number that a finite number stands for. -/
def value : Machine.Num → Option ℚ
  | .fin s n d e => if d = 0 then none else some ((if s then -1 else 1) * (n : ℚ) / d * (2 : ℚ) ^ e)
  | .nan _ | .inf _ => none

/-- The mode that a converting form uses when no mode token has changed it is its record's; a scalar operand A. -/
def OneScalar (r : GRec) (s : State) (x : TokVal) : Prop := s.cur.a = some x ∧ x.kind = .scalar ∧ Clean s r.c r.lit ∧ NoMode s

/-- The source element of a converting form, as the number it stands for (R113, R121). -/
def sourceNum (r : GRec) (x : TokVal) : Machine.Num := readElem (srcTy r) (r.aux.getLsbD 4) x.word.toNat

/-- The 32 random bits of the first element of a converting form's result (R125). -/
def drawOf (s : State) (r : GRec) : Nat := tokenDraw s (begin s r.c r.lit).cur (r.lit.toNat % 65536) 0 0

/-- A float result, or an integer one with its U bit, of a scalar converting form (R118, R121, R366). -/
def converted (s : State) (r : GRec) (z : Machine.Num) : TokVal :=
  if r.c.ty.isFloat then scalarOf (BitVec.ofNat 64 (writeFloat (fmtOf r.c.ty) r.rnd r.sat false (drawOf s r) z % 2 ^ r.c.ty.width))
  else scalarOf (extended (r.aux.getLsbD 5) (BitVec.ofNat r.c.ty.width (writeInt r.c.ty.width (r.aux.getLsbD 5) r.rnd (drawOf s r) z)))

/-- The forms that only compute a value from their operands and send it to both targets, with LIT as the offset of far targets. -/
def pureForms : List (GRec → Instr) :=
  [.null, .tagr, .add, .sub, .mul, .mulh, .div, .rem, .neg, .abs, .min, .max, .and, .or, .xor, .andn, .shl, .shr, .shra, .rot, .clz, .ctz,
   .popc, .bfx, .bfi, .cmp, .sel, .fadd, .fsub, .fmul, .ffma, .fdiv, .fsqrt, .frcp, .frsq, .fex2, .flg2, .ftnh, .fmin, .fmax, .fcmp,
   .fcls, .fscl, .unpk, .bcst, .lane, .shuf, .cmpx, .vlen, .scnl, .wave, .lent, .leav]

/-- Two states between which only tokens were sent: every other field is the same, partitions differ at most in DEADC, activations in the
mode tokens that they hold and in having sent a popped token, sleeves in their current modes. -/
structure OnlySent (s t : State) : Prop where
  rest    : t = { s with cur := t.cur, net := t.net, acts := t.acts, parts := t.parts, sleeves := t.sleeves }
  parts   : ∀ p, partOf t p = { partOf s p with deadc := (partOf t p).deadc }
  acts    : ∀ a, actOf t a = { actOf s a with modes := (actOf t a).modes, popped := (actOf t a).popped }
  sleeves : ∀ v, sleeveOf t v = { sleeveOf s v with modes := (sleeveOf t v).modes, badModes := (sleeveOf t v).badModes }

/-- Every byte of device memory, of pod memory and of the scratchpads reads as before. -/
structure SameMemory (s t : State) : Prop where
  device  : ∀ apr o, devByte t apr o = devByte s apr o
  pod     : ∀ b, cellRead t.podMem b = cellRead s.podMem b
  scratch : ∀ v b, cellRead (sleeveOf t v).scratch b = cellRead (sleeveOf s v).scratch b

/-- The activation of a firing after it has produced an exit (R64). -/
def exited (s : State) (r : CRec) (dst : ExitTo) : State :=
  updAct (begin s r.c r.bofs) s.cur.act fun x => { x with exits := [(r.exn.toNat, s.cur.node, dst)] }

/-- What CTXA, CALL and SPAWN create between `s` and `u` (R37, R38, R40, R44): colour number n, free before, with a frame and the grant of
the creating activation, Resident on sleeve v, and its root thread with one Predicted activation at a block; nothing else changes. -/
structure Created (s u : State) (f : Firing) (n v : Nat) (blk : Word) (frame : Map Word) : Prop where
  range   : 1 ≤ n ∧ n ≤ 65535
  unused  : ∀ x ∈ s.colours, x.2.part = f.part → x.2.num ≠ n
  colour  : let c := colourOf u (colourKey f.part n)
            c.part = f.part ∧ c.num = n ∧ c.st = .resident ∧ c.f = frame ∧ c.w = [] ∧ c.grant = f.grant ∧ c.sleeve = v ∧ c.creator = f.act ∧
            c.args = frame ∧ c.sblk = blk ∧ c.held = false ∧ c.root = none ∧
            c.key = drawKeyOf (colourOf s (actOf s f.act).colour).key f.tag f.node (BitVec.ofNat 32 (threadOf s f.part f.tag).committed)
  thread  : ∃ a, (threadOf u f.part (rootTag n)).acts = [a] ∧ (threadOf u f.part (rootTag n)).loop = 0 ∧
            (actOf u a).st = .predicted ∧ (actOf u a).blk = blk ∧ (actOf u a).tag = rootTag n ∧ (actOf u a).colour = colourKey f.part n ∧
            (actOf u a).sleeve = v ∧ (actOf u a).creator = f.act ∧ ∀ b, b ≠ a → actOf u b = actOf s b
  colours : ∀ k, k ≠ colourKey f.part n → colourOf u k = colourOf s k
  rest    : u = { s with cur := u.cur, free := u.free, ids := u.ids, colours := u.colours, threads := u.threads, acts := u.acts }

/-- No page heat is sampled, no compression region is set, and HBM holds no compressed block (R157, R158, R171): a fill changes no memory. -/
def Quiet (s : State) : Prop := s.regs.heatb.getLsbD 0 = false ∧ s.regs.cmbas.getLsbD 0 = false ∧ s.packed = []

/-- An access that was not held before goes past step 1 of Table 5.2 (R142): no lock and no hold of its page, and nothing waits for its sectors. -/
def Passes (s : State) (who : HeldBy) (l : List Spot) : Prop := waitsAt s who = none ∧ mayPass s who l = true

/-- No block of an activation holds a FENCE record, so that none orders stores (R191). -/
def NoFences (s : State) : Prop := ∀ b k, recOpc (imgRec (actOf s b).image k) ≠ 0x6E

/-- Every part lies on device or pod memory, on no owner-lost line and on none that a pod agent holds. -/
def Local (s : State) (l : List Part) : Prop :=
  ∀ p ∈ l, ((∃ a, partLoc s p = .pod a) ∨ ∃ apr a, partLoc s p = .dev apr a) ∧ lostLoc s (partLoc s p) = false ∧ ownedLoc s (partLoc s p) = none

/-- The LSID of a memory record has been resolved by its issue, in the record's activation (R183). -/
def Resolves (s t : State) (r : MRec) : Prop :=
  (lookup s.acts s.cur.act).isSome = true →
    (actOf t s.cur.act).issued = (actOf s s.cur.act).issued ||| 1#32 <<< r.own.toNat ∧ (actOf t s.cur.act).resolved.getLsbD r.own.toNat = true

/-- A byte of device memory that a write of w bits at bit a of an aperture does not touch. -/
def Outside (apr a w apr' o : Nat) : Prop := ∀ i, a / 8 ≤ i → i ≤ (a + w - 1) / 8 → cdaOf apr' o ≠ cdaOf apr i

/-- Every byte of an aperture from the one with bit a to the one with bit a + w - 1 names memory. -/
def Exists (apr a w : Nat) : Prop := ∀ o, a / 8 ≤ o → o ≤ (a + w - 1) / 8 → apertureExists apr o = true

/-- No other form waits at a circular buffer or a stream port of the sleeve. -/
def NoneWaits (s : State) (v : Nat) : Prop :=
  (∀ x ∈ s.ops, x.2.f.sleeve ≠ v ∧ ∀ k m, x.2.w ≠ .send v k m) ∧ lookup s.ops s.ids = none ∧ (lookup s.sleeves v).isSome = true

/-- What a token delivers to a port of a node: its value cut to the grant of the activation, and lane 0 of a vector to a predicate port. -/
def arrival (s : State) (a : Nat) (n : NetToken) : TokVal :=
  let v := n.tok.v.cut (actOf s a).grant
  if n.tok.port = .p ∧ v.kind = .vector then { v with ln := 1, val := valueOfNat (v.lane 0) } else v

/-- A token can be matched at its node (R47, R48): the record consumes its port, has not fired, and no value waits there; no JOIN or COMB
count and no mode port. -/
structure Matchable (s : State) (a : Nat) (n : NetToken) : Prop where
  node   : n.tok.node < imgNcnt (actOf s a).image ∧ (actOf s a).fired.getLsbD n.tok.node = false
  port   : consumes (imgRec (actOf s a).image n.tok.node) n.tok.port = true
  plain  : recOpc (imgRec (actOf s a).image n.tok.node) ≠ 0x05 ∧ recOpc (imgRec (actOf s a).image n.tok.node) ≠ 0x79
  noMode : n.tok.port = .c → modeForm (recOpc (imgRec (actOf s a).image n.tok.node)) = false
  free   : ∀ e, findEntry s a n.tok.node = some e → e.stamp = none ∧ e.port n.tok.port = none

/-- A token is about to be delivered by TOKEN_DELIVERY to a node of an activation that is alive: with right parity, of a live colour, none of a RET that
waits for stores, to no twin, and with no partner in the spill area. -/
structure ReachesNode (s : State) (i a : Nat) (n : NetToken) : Prop where
  flight : s.net[i]? = some n ∧ retHeld s n = false ∧ parityOf n.tok = n.par ∧ n.dest = .node a
  alive  : live s (colourKey n.part (tagColour n.tok.tag)) = true ∧ actLive (actOf s a) = true ∧ (actOf s a).twin = 0
  alone  : spilledFor s a n.tok.node = []

/-- A token has been matched: its node's entry holds it beside what was there, and is complete in this cycle exactly when every port that
the record requires holds a value; every other entry is as it was. -/
structure Matched (s t : State) (a : Nat) (n : NetToken) : Prop where
  entry  : ∃ e ∈ t.entries, e.act = a ∧ e.node = n.tok.node ∧ e.port n.tok.port = some (arrival s a n) ∧
           (∀ q, q ≠ n.tok.port → e.port q = (findEntry s a n.tok.node).bind (·.port q)) ∧
           e.stamp = if entryFull (imgRec (actOf s a).image n.tok.node) e then some s.cycle else none
  others : ∀ y ∈ s.entries, ¬(y.act = a ∧ y.node = n.tok.node) → y ∈ t.entries

/-- The commit of an activation outside loops that has nothing but frame writes, stores and an exit to let take effect: no twin, no loop
entered, and none of SWR, FRZ, CTXF, CTXS and mode tokens (R66). -/
structure PlainCommit (s : State) (a : Nat) : Prop where
  may    : mayCommit s a = true
  fits   : completionFault s (actOf s a) = none
  flat   : (actOf s a).loop = 0 ∧ (threadOf s (actOf s a).part (actOf s a).tag).loop = 0
  plain  : (actOf s a).twin = 0 ∧ (actOf s a).pushed = none ∧ (actOf s a).modes = [] ∧ (actOf s a).swrs = [] ∧ (actOf s a).frz = none ∧
           (actOf s a).ends = [] ∧ (actOf s a).grants = []
  colour : (lookup s.colours (actOf s a).colour).isSome = true ∧ (actOf s a).colour = colourKey (actOf s a).part (tagColour (actOf s a).tag)

/-- What R57 and R66 let take effect with a commit: the last value of the activation's writes to each F and W register stands in the
colour's frame, the others are as before. -/
def FrameWritten (s t : State) (a : Nat) : Prop :=
  let x := actOf s a
  (∀ r, r < 64 → lookupD (colourOf t x.colour).f r 0 =
    match ((frameWrites x).filter fun y => y.1 == r).getLast? with
    | some y => y.2.extractLsb' 0 64
    | none => lookupD (colourOf s x.colour).f r 0) ∧
  (∀ r, r < 64 → lookupD (colourOf t x.colour).w r 0 =
    match ((frameWrites x).filter fun y => y.1 == 64 + r).getLast? with
    | some y => y.2
    | none => lookupD (colourOf s x.colour).w r 0)

/-- The SPSTs of an activation are relaxed, of one part, for its own sleeve's scratchpads and alone in the store buffer, and nothing of their
thread holds them back (R148, R189). -/
def PlainSpsts (s : State) (a : Nat) : Prop :=
  NoFences s ∧ ∀ y ∈ s.stores, y.2.kind = .scratch → y.2.act = a ∧ y.2.release = false ∧ y.2.rids = [] ∧ y.2.elems.length = 1 ∧ y.2.lsid < 32 ∧
    y.2.sleeve = (actOf s a).sleeve ∧ y.2.part = (actOf s a).part

/-- Stores are released by the commit of their activation, and SPSTs that nothing holds back moved to the forwarding table of its sleeve in
LSID order (R66, R148). -/
def StoresReleased (s t : State) (a : Nat) : Prop :=
  (s.stores.map (·.1)).Nodup →
    (∀ y ∈ t.stores, y.2.act = a → y.2.committed = true) ∧
    (∀ y, y.2.act ≠ a → (y ∈ t.stores ↔ y ∈ s.stores)) ∧
    (∀ y ∈ s.stores, y.2.act = a → y.2.kind ≠ .scratch → (y.1, { y.2 with committed := true }) ∈ t.stores) ∧
    (PlainSpsts s a →
      (∀ y ∈ t.stores, y.2.kind ≠ .scratch) ∧
      (sleeveOf t (actOf s a).sleeve).fwd = (sleeveOf s (actOf s a).sleeve).fwd ++
        (byLsid (ownSpsts s a)).flatMap fun y => y.2.elems.map fun e => (e.va.toNat, e.width, e.pat))

/-- A hem form has sent its command (R437): it waits, and to each island named a command is on its way with both operands, of right parity. -/
def Dispatched (s t : State) (r : TRec) (i : Instr) (isls : List Nat) : Prop :=
  let f := (begin s r.c 0).cur
  lookup t.ops s.ids = some { f := f, w := .hem s.ids, order := s.ids } ∧
  lookup t.hemOps s.ids = some { f := f, left := isls, result := scalarOf 0 } ∧
  (∀ k, k ≠ s.ids → lookup t.ops k = lookup s.ops k ∧ lookup t.hemOps k = lookup s.hemOps k) ∧
  (∃ l : List HemFlight, t.flights = s.flights ++ l ∧ l.map (·.isl) = isls ∧
    ∀ x ∈ l, x.cmd.id = s.ids ∧ x.cmd.instr = i ∧ x.cmd.nver = (partOf s f.part).nver ∧ x.cmd.seed = (partOf s f.part).seed ∧
      x.a.tok.v = s.cur.a.getD nullTok ∧ x.b.tok.v = s.cur.b.getD nullTok ∧ parityOf x.a.tok = x.a.par ∧ parityOf x.b.tok = x.b.par) ∧
  t = { s with cur := f, ids := s.ids + 1, ops := t.ops, hemOps := t.hemOps, flights := t.flights, acts := t.acts }

/-- The island after a command has run on it from an empty queue, and the part of the result that it gave: nothing else has changed. -/
def Ran (s t : State) (i isl : Nat) (c : HemCmd) (res : TokVal → TokVal) (x : Island) : Prop :=
  islandOf t isl = x ∧ (∀ k, k ≠ isl → islandOf t k = islandOf s k) ∧
  (∀ o, lookup s.hemOps c.id = some o → lookup t.hemOps c.id = some { o with left := o.left.erase isl, result := res o.result, last := isl }) ∧
  t = { s with flights := s.flights.eraseIdx i, islands := t.islands, hemOps := t.hemOps }

/-- A command with operands of right parity, the first of its channel that is not held, arrives at an island that waits for nothing, of a partition
that is not frozen. -/
structure Arrives (s : State) (i isl : Nat) (c : HemCmd) (a b : TokVal) : Prop where
  flight : ∃ fl, s.flights[i]? = some fl ∧ fl.isl = isl ∧ fl.cmd = c ∧ fl.xfer = 0 ∧ fl.a.tok.v = a ∧ fl.b.tok.v = b ∧
           parityOf fl.a.tok = fl.a.par ∧ parityOf fl.b.tok = fl.b.par ∧ parityOf fl.c.tok = fl.c.par ∧ fl.c.tok.v.poi = false ∧
           (partOf s fl.a.part).pstate ≠ .frozen ∧ flightBehind s i fl = false
  clean  : a.poi = false ∧ b.poi = false
  idle   : (islandOf s isl).queue = [] ∧ islandParked s isl = false

/-- No form of a colour waits for a close of a batch or for its count. -/
def NoBatchWaits (s : State) (k : Nat) : Prop :=
  lookup s.ops s.ids = none ∧ (lookup s.colours k).isSome = true ∧
  ∀ o ∈ s.ops, o.2.w ≠ .xbat ∧ o.2.w ≠ .xferJoin ∧ (∀ n c, o.2.w ≠ .xwait n c) ∧ o.1 < s.ids

/-- No handle operand of a transfer that is accepted names a slot. -/
def SlotUnused (s : State) (slot : Nat) : Prop := ∀ y ∈ s.xfers, ∀ v ∈ xferHandles y.2, hvSlot v ≠ slot

/-- A transfer island may take up its next transfer, which is this one, and its form waits for the answer (R223, R449). -/
structure NextQueued (s : State) (xisl tid : Nat) (x : Xfer) (o : Nat) (p : Op) : Prop where
  first  : firstQueued s xisl = some (tid, x) ∧ lookup s.xfers tid = some x ∧ x.st = .queued ∧ x.next = 0 ∧ x.redo = [] ∧ x.slot = 0
  room   : (partOf s x.f.part).pstate = .running ∧ placesTaken s xisl < 8 ∧ nextRedo s xisl = none ∧ unitCredits s (xislCoord xisl) x.f = true
  answer : (s.ops.find? fun o => o.2.w == .xferAccept tid) = some (o, p) ∧ lookup s.ops o = some p

/-- The head token of a cuff can be served, and no other cuff has a token (R257 to R259). -/
structure Turn (s : State) (c p : Nat) (a : Accepted) : Prop where
  cuff  : c < 64 ∧ partOfCuff s c = some p ∧ egressFull s c = false ∧ ∀ d ∈ partCuffs s p, (queueOf s d).extra = []
  head  : (queueOf s c).pend = none ∧ ∃ l, (queueOf s c).fifo = a :: l
  alone : ∀ d, d ≠ c → headToken s d = none

/-- The head token of a cuff is gone. -/
def popped (s : State) (c : Nat) : State := updQueue s c fun q => { q with fifo := q.fifo.drop 1 }

/-- A cuff has been served: its die's loader remembers it, and its queue returns to its priority (R258). -/
def tokenDone (s t : State) (c : Nat) : State :=
  updQueue { t with lastServed := insertAt t.lastServed (8 * (c / 32) + (queueOf s c).eff) c } c fun q => { q with eff := q.pri, aged := 0 }

/-- A request of another device to bits of the export window that this home serves at once (R329): no agent holds its line or has lost it, and one that
writes has nothing before it and goes past step 1 of Table 5.2. -/
structure Exported (s : State) (i : Instr) (a n : Nat) (wr : Bool) : Prop where
  free  : wr = true → ∀ j ∈ s.inbound, ∀ l ∈ requestLines j.i, l ∉ requestLines i
  range : 0 < n ∧ n ≤ 192 ∧ exported s a n = true ∧ a < 2 ^ 42
  lines : ∀ p ∈ linearParts a n, lostLoc s (linearLoc p) = false ∧ ownedLoc s (linearLoc p) = none
  step1 : wr = true → Passes s (.inbound s.ids) ((linearParts a n).map fun p => { va := p.va, leaf := exportLeaf s p.va.toNat })

/-- The two sectors of a line lie on device memory. -/
def LineExists (line : Nat) : Prop := 64 * line + 64 ≤ deviceBytes

/-- A G-format record without predicate, tag operation, rounding, saturation, modifiers and AUX. -/
def plainG (ty : Ty) (ar : Arity) (t0 t1 : Target) (lm : LaneMode) (lit : BitVec 32) : GRec :=
  { c := { fn := 0, ty := ty, pm := .always, ar := ar, tg := .keep, t0 := t0, t1 := t1 }, rnd := .rne, sat := .none, na := .keep, lm := lm,
    aux := 0, lit := lit }

/-- The state in which the meaning of a head eligible record runs: its entry is freed, its node has fired, its matched set is the current one (R50). -/
def issued (s : State) (e : Entry) : State :=
  { updAct s e.act (fun x => { x with fired := x.fired ||| 1#128 <<< e.node }) with
    entries := s.entries.filter fun y => !(y.act == e.act && y.node == e.node), cur := firingOf s e }

/-- Table 2.10 has been applied: no quad of a partition is Throttled below OFF, or Open at ON or above. -/
def ThrottleSettled (s : State) : Prop :=
  ∀ q p, partOfQuad s q = some p → 1 ≤ (partOf s p).on → (partOf s p).off < (partOf s p).on →
    (q ∈ s.throttled → (partOf s p).off ≤ occupancy s q) ∧ (q ∉ s.throttled → occupancy s q < (partOf s p).on)

/-- The OPC values that Table 3.13 assigns. -/
def assigned (o : Nat) : Bool :=
  [(0x01, 0x09), (0x10, 0x1B), (0x20, 0x3E), (0x40, 0x55), (0x58, 0x5E), (0x60, 0x6E), (0x70, 0x79), (0x7C, 0x89), (0x90, 0x98), (0xA0, 0xA4),
   (0xA8, 0xAB), (0xB0, 0xB9)].any fun r => decide (r.1 ≤ o) && decide (o ≤ r.2)

/-! ## Statements -/

/-- R342, R347, R402: ADD, SUB and MUL of scalars without saturation wrap modulo 2^w, and the result is extended to 64 bits, by zeros
when FN[3] makes the form unsigned and by its sign otherwise. -/
def IntegerWrap : Prop :=
  ∀ (r : GRec) (s : State) (x y : TokVal), Scalars r s [x, y] → r.c.fn.getLsbD 0 = false →
    exec (.add r) s = .next (sent s r.c r.lit (scalarOf (extended (unsignedFn r) (elem r x + elem r y)))) ∧
    exec (.sub r) s = .next (sent s r.c r.lit (scalarOf (extended (unsignedFn r) (elem r x - elem r y)))) ∧
    exec (.mul r) s = .next (sent s r.c r.lit (scalarOf (extended (unsignedFn r) (elem r x * elem r y))))

/-- R342: with FN[0] set, ADD, SUB and MUL of scalars clamp the exact result to the range of the element. -/
def IntegerSaturate : Prop :=
  ∀ (r : GRec) (s : State) (x y : TokVal), Scalars r s [x, y] → r.c.fn.getLsbD 0 = true →
    exec (.add r) s = .next (sent s r.c r.lit (scalarOf (clamped (unsignedFn r) r.c.ty.width (elemInt r x + elemInt r y)))) ∧
    exec (.sub r) s = .next (sent s r.c r.lit (scalarOf (clamped (unsignedFn r) r.c.ty.width (elemInt r x - elemInt r y)))) ∧
    exec (.mul r) s = .next (sent s r.c r.lit (scalarOf (clamped (unsignedFn r) r.c.ty.width (elemInt r x * elemInt r y))))

/-- R347, R402: NEG and ABS of a scalar read it as signed; without FN[0] the result wraps, so that -2^(w-1) gives itself, and with FN[0]
it is clamped. -/
def NegAbs : Prop :=
  ∀ (r : GRec) (s : State) (x : TokVal), Scalars r s [x] →
    (r.c.fn.getLsbD 0 = false →
      exec (.neg r) s = .next (sent s r.c r.lit (scalarOf ((-elem r x).signExtend 64))) ∧
      exec (.abs r) s = .next (sent s r.c r.lit (scalarOf ((elem r x).abs.signExtend 64)))) ∧
    (r.c.fn.getLsbD 0 = true →
      exec (.neg r) s = .next (sent s r.c r.lit (scalarOf (clamped false r.c.ty.width (-(elem r x).toInt)))) ∧
      exec (.abs r) s = .next (sent s r.c r.lit (scalarOf (clamped false r.c.ty.width (elem r x).toInt.natAbs))))

/-- R370, R402: DIV and REM truncate towards zero; DIV by zero gives all ones and REM by zero gives a; MULH gives the upper half of the
exact product; MIN and MAX give the smaller and the larger operand. -/
def DivideAndOrder : Prop :=
  ∀ (r : GRec) (s : State) (x y : TokVal), Scalars r s [x, y] →
    let u := unsignedFn r
    let w := r.c.ty.width
    let a := elemInt r x
    let b := elemInt r y
    exec (.div r) s = .next (sent s r.c r.lit (scalarOf (extended u (if b = 0 then BitVec.allOnes w else BitVec.ofInt w (a.tdiv b))))) ∧
    exec (.rem r) s = .next (sent s r.c r.lit (scalarOf (extended u (if b = 0 then elem r x else BitVec.ofInt w (a.tmod b))))) ∧
    exec (.mulh r) s = .next (sent s r.c r.lit (scalarOf (extended u (BitVec.ofInt w (a * b / 2 ^ w))))) ∧
    exec (.min r) s = .next (sent s r.c r.lit (scalarOf (BitVec.ofInt 64 (min a b)))) ∧
    exec (.max r) s = .next (sent s r.c r.lit (scalarOf (BitVec.ofInt 64 (max a b))))

/-- R347, R402, R453: the bitwise forms, the shifts and ROT work on the w-bit patterns; a shift by w or more gives 0, or copies of the
sign for SHRA; ROT turns towards the high bit by the count modulo w. -/
def BitwiseAndShift : Prop :=
  ∀ (r : GRec) (s : State) (x y : TokVal), Scalars r s [x, y] →
    let a := elem r x
    let b := elem r y
    exec (.and r) s = .next (sent s r.c r.lit (scalarOf ((a &&& b).signExtend 64))) ∧
    exec (.or r) s = .next (sent s r.c r.lit (scalarOf ((a ||| b).signExtend 64))) ∧
    exec (.xor r) s = .next (sent s r.c r.lit (scalarOf ((a ^^^ b).signExtend 64))) ∧
    exec (.andn r) s = .next (sent s r.c r.lit (scalarOf ((a &&& ~~~b).signExtend 64))) ∧
    exec (.shl r) s = .next (sent s r.c r.lit (scalarOf ((a <<< b.toNat).signExtend 64))) ∧
    exec (.shr r) s = .next (sent s r.c r.lit (scalarOf ((a >>> b.toNat).signExtend 64))) ∧
    exec (.shra r) s = .next (sent s r.c r.lit (scalarOf ((a.sshiftRight b.toNat).signExtend 64))) ∧
    exec (.rot r) s = .next (sent s r.c r.lit (scalarOf ((a.rotateLeft b.toNat).signExtend 64)))

/-- R355, R402: CLZ and CTZ count the zero bits above the highest and below the lowest one bit of the w-bit pattern, w for a zero
element; POPC counts its one bits. -/
def BitCounts : Prop :=
  ∀ (r : GRec) (s : State) (x : TokVal), Scalars r s [x] →
    let w := r.c.ty.width
    let a := elem r x
    exec (.clz r) s = .next (sent s r.c r.lit (scalarOf
      (BitVec.ofNat 64 ((List.range w).takeWhile fun i => !a.getLsbD (w - 1 - i)).length))) ∧
    exec (.ctz r) s = .next (sent s r.c r.lit (scalarOf
      (BitVec.ofNat 64 ((List.range w).takeWhile fun i => !a.getLsbD i).length))) ∧
    exec (.popc r) s = .next (sent s r.c r.lit (scalarOf
      (BitVec.signExtend 64 (BitVec.ofNat w ((List.range w).filter fun i => a.getLsbD i).length))))

/-- R349, R350, R356, R402: the scalar results of CMP, SEL, BFX and BFI. The position and the length of a field are 8-bit numbers of the
control operands. -/
def CompareSelectField : Prop :=
  ∀ (r : GRec) (s : State),
    let w := r.c.ty.width
    (∀ x y, Scalars r s [x, y] →
      exec (.cmp r) s = .next (sent s r.c r.lit (scalarOf
        (if intCond (r.c.fn.toNat % 8) (elemInt r x) (elemInt r y) then 1 else 0)))) ∧
    (∀ x y z, Scalars r s [x, y, z] →
      exec (.sel r) s = .next (sent s r.c r.lit (scalarOf ((if elem r x = 0 then elem r z else elem r y).signExtend 64))) ∧
      (let p := y.word.toNat % 256
       let n := z.word.toNat % 256
       let f := elemInt r x / 2 ^ p % 2 ^ n
       exec (.bfx r) s = .next (sent s r.c r.lit (scalarOf (extended (unsignedFn r) (BitVec.ofInt w
         (if n = 0 then 0 else if unsignedFn r = false ∧ 2 ^ (n - 1) ≤ f then f - 2 ^ n else f)))))) ∧
      (let p := z.word.toNat % 256
       let n := z.word.toNat / 256 % 256
       let m := (2 ^ n - 1) * 2 ^ p
       exec (.bfi r) s = .next (sent s r.c r.lit (scalarOf ((BitVec.ofNat w
         (((elem r x).toNat &&& (2 ^ 1024 - 1 - m)) ||| ((elem r y).toNat * 2 ^ p &&& m))).signExtend 64)))))

/-- R33: a poisoned operand of a pure form kills the activation: POISON is raised for its node, and no token is sent. -/
def PoisonKills : Prop :=
  ∀ mk ∈ pureForms, ∀ (r : GRec) (s : State), anyPoisoned s.cur = true →
    exec (mk r) s = .next (raise (begin s r.c r.lit) s.cur.act s.cur.node { cls := .poison })

/-- R32: without poison, a null operand of a pure form sends null to both targets in place of the result. -/
def NullPropagates : Prop :=
  ∀ mk ∈ pureForms, ∀ (r : GRec) (s : State), anyPoisoned s.cur = false → anyNull s.cur = true →
    exec (mk r) s = .next (sent s r.c r.lit nullTok)

/-- R36, R78: a tag operation that leaves the range of depths raises TAG_DEPTH, and the form has no other effect. -/
def TagDepthRaised : Prop :=
  ∀ mk ∈ pureForms, ∀ (r : GRec) (s : State), anyPoisoned s.cur = false → anyNull s.cur = false →
    tagFaults (begin s r.c r.lit).cur = true →
    exec (mk r) s = .next (raise (begin s r.c r.lit) s.cur.act s.cur.node { cls := .tagDepth })

/-- R36, Table 2.3: what the tag operations do to a tag of a legal depth. -/
def TagOperations : Prop :=
  ∀ (t a c : Word), tagDepth t ≤ 5 →
    applyTag .keep t a c = some t ∧
    (applyTag .wave t a c = if tagDepth t = 0 then none else some (setTagField t (tagDepth t) (tagField t (tagDepth t) + 1))) ∧
    (∀ u, applyTag .push t a c = some u → tagDepth u = tagDepth t + 1 ∧ tagColour u = tagColour t ∧
      tagField u (tagDepth u) = 0 ∧ (∀ d, 1 ≤ d → d ≤ tagDepth t → tagField u d = tagField t d) ∧ applyTag .pop u a c =
        some (setTagField t (tagDepth t + 1) 0)) ∧
    (applyTag .push t a c = none ↔ tagDepth t = 5) ∧ (applyTag .pop t a c = none ↔ tagDepth t = 0) ∧
    (∀ u, applyTag .colour t a c = some u → tagColour u = c.toNat % 65536 ∧ tagDepth u = tagDepth t) ∧
    (applyTag .retag t a c = if 6 ≤ tagDepth a then none else some (cleanTag a))

/-- R30, R31, R36, R91: a value sent under the producer's own tag to a port that is no mode port, by a live activation, enters the network
as one token with even parity, addressed to that node of the activation itself, to a write slot of it, or to a far block; nothing else
changes. A target of kind none takes nothing. -/
def TokenSent : Prop :=
  ∀ (s : State) (f : Firing) (v : TokVal) (k : BitVec 7) (p : Port) (i : BitVec 7),
    actLive (actOf s f.act) = true → (lookup s.acts f.act).isSome = true → p ≠ .c → f.com.tg = .keep →
    sendTarget s f .none v = s ∧
    (∀ g, ∃ n : NetToken, sendTarget s f (.node k p g) v = { s with net := s.net ++ [n] } ∧ n.dest = .node f.act ∧
      n.tok = { tag := f.tag, blk := f.blk, node := k.toNat, port := p, v := v } ∧ n.par = parityOf n.tok ∧ n.prod = f.act) ∧
    (∀ g, ∃ n : NetToken, sendTarget s f (.far k p g) v = { s with net := s.net ++ [n] } ∧ n.dest = .far ∧
      n.tok = { tag := f.tag, blk := farBlock f.blk f.ofs, node := k.toNat, port := p, v := v } ∧ n.par = parityOf n.tok ∧ n.prod = f.act) ∧
    (∀ g, ∃ n : NetToken, sendTarget s f (.slot i g) v = { s with net := s.net ++ [n] } ∧ n.dest = .slot f.act i.toNat ∧
      n.tok.v = v ∧ n.par = parityOf n.tok ∧ n.prod = f.act)

/-- R32, R36, R341, and for each form the rule of its table: a pure form whose operands are neither poisoned nor null, and whose tag
operation makes no iteration, completes: it sends its tokens and leaves everything else as it was, memory with it. -/
def PureFrame : Prop :=
  ∀ mk ∈ pureForms, ∀ (r : GRec) (s : State), Clean s r.c r.lit → r.c.tg ≠ .wave → r.c.tg ≠ .push →
    ∃ t, exec (mk r) s = .next t ∧ OnlySent s t ∧ SameMemory s t

/-- R33, R385, R387, R403 to R405, R442, R443, R359: MOV and GATE copy operand A, its markers and its poison, to both targets; MOVI sends
its sign-extended literal, NULL a null token, TAGR the tag of the firing, JOIN its literal's count, COMB the combined value without
markers; TAGS sends A under the tag in B. -/
def DataflowForms : Prop :=
  ∀ (r : GRec) (s : State) (x : TokVal),
    (s.cur.a = some x → isPoisoned s.cur.p = false → isNull s.cur.p = false → (x.poi = true ∨ x.kind ≠ .null) →
      tagFaults (begin s r.c r.lit).cur = false →
      exec (.mov r) s = .next (sent s r.c r.lit x) ∧
      (isPoisoned s.cur.b = false → isNull s.cur.b = false → exec (.gate r) s = .next (sent s r.c r.lit x))) ∧
    (Clean s r.c r.lit →
      exec (.null r) s = .next (sent s r.c r.lit nullTok) ∧
      exec (.tagr r) s = .next (sent s r.c r.lit (scalarOf s.cur.tag)) ∧
      (∀ y, s.cur.a = some x → s.cur.b = some y → tagDepth y.word < 6 →
        exec (.tags r) s = .next (sendTagged (sendTagged (begin s r.c r.lit) (begin s r.c r.lit).cur r.c.t0 (cleanTag y.word) x)
          (begin s r.c r.lit).cur r.c.t1 (cleanTag y.word) x)) ∧
      (∀ y, s.cur.a = some x → s.cur.b = some y → 6 ≤ tagDepth y.word →
        exec (.tags r) s = .next (raise (begin s r.c r.lit) s.cur.act s.cur.node { cls := .tagDepth }))) ∧
    (Clean s r.c 0 →
      exec (.movi r) s = .next (sent s r.c 0 (scalarOf (r.lit.signExtend 64))) ∧
      exec (.join r) s = .next (sent s r.c 0 (scalarOf ((r.lit.setWidth 16).setWidth 64))) ∧
      (s.cur.a = some x → exec (.comb r) s = .next (sent s r.c 0 x.unmarked)))

/-- R342, R377: an element form whose operands include a vector makes a vector under LM 01: its lane count is the smallest among the
vector operands, and for a type of at most 32 bits lane e is the result of the elements at place e, extended to 32 bits. -/
def VectorLanes : Prop :=
  ∀ (w wr n : Nat) (sg : Bool) (ops : List TokVal) (f : List Nat → Nat), w < 64 → 0 < wr → wr ≤ 32 → 0 < n → n ≤ 32 → minLn ops = some n →
    let v := elementForm .vector w wr sg ops f
    v.kind = .vector ∧ v.ln = n ∧
    ∀ e < n, v.lane e = extendTo 32 wr sg (f (ops.map fun x => elemOf .vector w x e))

/-- R377: FADD, FSUB, FMUL, FDIV and FFMA of scalars round the exact result once; the unary forms round the exact function value. -/
def FloatForms : Prop :=
  ∀ (r : GRec) (s : State),
    (∀ x y, Scalars r s [x, y] →
      let a := floatArgs r [x, y]
      exec (.fadd r) s = .next (sent s r.c r.lit (rounded r (addNum r.rnd (a 0) (a 1)))) ∧
      exec (.fsub r) s = .next (sent s r.c r.lit (rounded r (subNum r.rnd (a 0) (a 1)))) ∧
      exec (.fmul r) s = .next (sent s r.c r.lit (rounded r (mulNum (a 0) (a 1)))) ∧
      exec (.fdiv r) s = .next (sent s r.c r.lit (rounded r (divNum (a 0) (a 1))))) ∧
    (∀ x y z, Scalars r s [x, y, z] →
      let a := floatArgs r [x, y, z]
      exec (.ffma r) s = .next (sent s r.c r.lit (rounded r (fmaNum r.rnd (a 0) (a 1) (a 2))))) ∧
    (∀ x, Scalars r s [x] →
      let a := floatArgs r [x] 0
      exec (.fsqrt r) s = .next (sent s r.c r.lit (rounded r (sqrtNum a))) ∧
      exec (.frcp r) s = .next (sent s r.c r.lit (rounded r (rcpNum a))) ∧
      exec (.frsq r) s = .next (sent s r.c r.lit (rounded r (rsqNum a))) ∧
      exec (.fex2 r) s = .next (sent s r.c r.lit (rounded r (exp2Num a))) ∧
      exec (.flg2 r) s = .next (sent s r.c r.lit (rounded r (log2Num a))) ∧
      exec (.ftnh r) s = .next (sent s r.c r.lit (rounded r (tanhNum a))))

/-- R377, R379 to R381: of scalars, FCMP gives 1 or 0 by its condition, FCLS one class bit, FSCL operand A times a power of two, and FMIN
and FMAX the pattern of the smaller and of the larger operand, when both are numbers other than zero that NA and FTZ leave alone. -/
def FloatOrder : Prop :=
  ∀ (r : GRec) (s : State),
    (∀ x y, Scalars r s [x, y] →
      let a := floatArgs r [x, y] 0
      let b := floatArgs r [x, y] 1
      exec (.fcmp r) s = .next (sent s r.c r.lit (scalarOf (if floatCond r.c.fn.toNat (a.compare b) then 1 else 0))) ∧
      exec (.fscl r) s = .next (sent s r.c r.lit (rounded r (scaleNum a
        (if r.lm = .packed ∧ r.c.ar ≠ .a then signedOf 16 y.word.toNat else signedOf 32 y.word.toNat)))) ∧
      (r.na = .keep → ftzOf r = false → a.isZero = false → b.isZero = false → r.c.ty.isFloat = true →
        (a.compare b = some (-1) →
          exec (.fmin r) s = .next (sent s r.c r.lit (scalarOf ((elem r x).setWidth 64))) ∧
          exec (.fmax r) s = .next (sent s r.c r.lit (scalarOf ((elem r y).setWidth 64)))) ∧
        (a.compare b = some 1 →
          exec (.fmin r) s = .next (sent s r.c r.lit (scalarOf ((elem r y).setWidth 64))) ∧
          exec (.fmax r) s = .next (sent s r.c r.lit (scalarOf ((elem r x).setWidth 64)))))) ∧
    (∀ x, Scalars r s [x] →
      exec (.fcls r) s = .next (sent s r.c r.lit
        (scalarOf (BitVec.ofNat 64 (2 ^ classBit (fmtOf r.c.ty) (floatArgs r [x] 0) % 2 ^ r.c.ty.width)))))

/-- R111, R377, R378, Table 13.3: the unary functions behind the float forms. Of a finite number FRCP is its exact reciprocal; FSQRT and FRSQ are
within one part in 2^90 before rounding, and FSQRT is exact on squares; FEX2 is exact on integers and FLG2 on powers of two; FTNH has its operand's sign
and lies below 1. NaN, infinite, zero and negative operands give the results of Table 13.3. -/
def UnaryFunctions : Prop :=
  (∀ (x : Machine.Num) (p : ℚ), value x = some p →
    (0 < p → ∃ q, value (sqrtNum x) = some q ∧ 0 < q ∧ |q * q - p| * 2 ^ 90 ≤ p) ∧
    (∀ (u : Nat) (j : Int), 0 < u → u < 2 ^ 64 → p = ((u : ℚ) * (2 : ℚ) ^ j) ^ 2 → value (sqrtNum x) = some (u * (2 : ℚ) ^ j)) ∧
    (p ≠ 0 → value (rcpNum x) = some (1 / p)) ∧
    (0 < p → ∃ q, value (rsqNum x) = some q ∧ 0 < q ∧ |q * q * p - 1| * 2 ^ 90 ≤ 1) ∧
    (∀ i : Int, p = i → |i| < 4096 → value (exp2Num x) = some ((2 : ℚ) ^ i)) ∧
    (∀ i : Int, p = (2 : ℚ) ^ i → value (log2Num x) = some i) ∧
    (p ≠ 0 → ∃ q, value (tanhNum x) = some q ∧ 0 < q * p ∧ |q| < 1) ∧
    (p < 0 → sqrtNum x = .nan false ∧ rsqNum x = .nan false ∧ log2Num x = .nan false)) ∧
  (∀ s, sqrtNum (.nan s) = .nan s ∧ rcpNum (.nan s) = .nan s ∧ rsqNum (.nan s) = .nan s ∧ exp2Num (.nan s) = .nan s ∧ log2Num (.nan s) = .nan s ∧
    tanhNum (.nan s) = .nan s) ∧
  (sqrtNum (.inf true) = .nan false ∧ rcpNum (.inf true) = .zero true ∧ rsqNum (.inf true) = .nan false ∧ exp2Num (.inf true) = .zero false ∧
    log2Num (.inf true) = .nan false ∧ value (tanhNum (.inf true)) = some (-1)) ∧
  (sqrtNum (.inf false) = .inf false ∧ rcpNum (.inf false) = .zero false ∧ rsqNum (.inf false) = .zero false ∧ exp2Num (.inf false) = .inf false ∧
    log2Num (.inf false) = .inf false ∧ value (tanhNum (.inf false)) = some 1) ∧
  ∀ s d e, sqrtNum (.fin s 0 d e) = .zero s ∧ rcpNum (.fin s 0 d e) = .inf s ∧ rsqNum (.fin s 0 d e) = .inf s ∧
    value (exp2Num (.fin s 0 d e)) = some 1 ∧ log2Num (.fin s 0 d e) = .inf true ∧ tanhNum (.fin s 0 d e) = .zero s

/-- R111, R120, R378, R379, Table 4.4: the special operands of the other float forms. The first NaN operand gives a NaN of its sign; an invalid operation
gives a NaN of sign 0; a finite number other than zero divided by zero gives an infinity. A NaN, an infinite and an overflowing result become the
patterns of Table 4.4 by the type and SAT. FMIN and FMAX put -0 below +0 and return the operand that is no NaN, of two NaNs the canonical NaN. -/
def SpecialOperands : Prop :=
  (∀ (m : Rnd) (s : Bool) (a b : Machine.Num), a.isNan = false →
    addNum m (.nan s) b = .nan s ∧ subNum m (.nan s) b = .nan s ∧ mulNum (.nan s) b = .nan s ∧ divNum (.nan s) b = .nan s ∧ fmaNum m (.nan s) a b = .nan s ∧
    addNum m a (.nan s) = .nan s ∧ mulNum a (.nan s) = .nan s ∧ divNum a (.nan s) = .nan s ∧ fmaNum m a (.nan s) b = .nan s ∧
    (b.isNan = false → fmaNum m a b (.nan s) = .nan s)) ∧
  (∀ (m : Rnd) (s t : Bool) (d d' : Nat) (e e' : Int),
    addNum m (.inf s) (.inf s) = .inf s ∧ addNum m (.inf s) (.inf !s) = .nan false ∧ mulNum (.inf s) (.inf t) = .inf (s != t) ∧
    mulNum (.inf s) (.fin t 0 d e) = .nan false ∧ mulNum (.fin t 0 d e) (.inf s) = .nan false ∧ divNum (.inf s) (.inf t) = .nan false ∧
    divNum (.fin s 0 d e) (.fin t 0 d' e') = .nan false) ∧
  (∀ (m : Rnd) (s t : Bool) (n d d' : Nat) (e e' : Int), 0 < n →
    addNum m (.inf s) (.fin t n d e) = .inf s ∧ addNum m (.fin t n d e) (.inf s) = .inf s ∧ mulNum (.inf s) (.fin t n d e) = .inf (s != t) ∧
    divNum (.inf s) (.fin t n d e) = .inf (s != t) ∧ divNum (.fin t n d e) (.inf s) = .zero (t != s) ∧
    divNum (.fin s n d e) (.fin t 0 d' e') = .inf (s != t)) ∧
  (∀ (t : Ty) (m : Rnd) (sat : Sat) (ftz s : Bool) (draw : Nat), t.isFloat = true →
    let sign := if s then 2 ^ (t.width - 1) else 0
    writeFloat (fmtOf t) m sat ftz draw (.nan s) = (if sat = .sat ∨ canonicalNan t = 0 then 0 else sign + canonicalNan t) ∧
    writeFloat (fmtOf t) m sat ftz draw (.inf s) = (if sat ≠ .none ∨ canonicalNan t = 0 then sign + maxPattern t
      else if t = .e4m3 then sign + canonicalNan t else sign + infinityOf t) ∧
    ∀ (n d : Nat) (e : Int), 0 < d → (2 : ℚ) ^ (128 : Int) ≤ (n : ℚ) / d * (2 : ℚ) ^ e →
      writeFloat (fmtOf t) m sat ftz draw (.fin s n d e) =
        (if sat ≠ .none ∨ canonicalNan t = 0 ∨ m = .rtz ∨ (m = .rup ∧ s = true) ∨ (m = .rdn ∧ s = false) then sign + maxPattern t
         else if t = .e4m3 then sign + canonicalNan t else sign + infinityOf t)) ∧
  ∀ (r : GRec) (s : State) (x y : TokVal), Scalars r s [x, y] → r.na = .keep → ftzOf r = false → r.c.ty.isFloat = true →
    let a := floatArgs r [x, y] 0
    let b := floatArgs r [x, y] 1
    let out (z : Nat) : Host.Outcome State Fault Refusal := .next (sent s r.c r.lit (scalarOf (BitVec.ofNat 64 z)))
    (a.isNan = true → b.isNan = false → exec (.fmin r) s = out (elem r y).toNat ∧ exec (.fmax r) s = out (elem r y).toNat) ∧
    (a.isNan = false → b.isNan = true → exec (.fmin r) s = out (elem r x).toNat ∧ exec (.fmax r) s = out (elem r x).toNat) ∧
    (a.isNan = true → b.isNan = true →
      let z := canonicalNan r.c.ty + if a.neg then 2 ^ (r.c.ty.width - 1) else 0
      exec (.fmin r) s = out z ∧ exec (.fmax r) s = out z) ∧
    (a.isZero = true → b.isZero = true → a.neg ≠ b.neg →
      exec (.fmin r) s = out (2 ^ (r.c.ty.width - 1)) ∧ exec (.fmax r) s = out 0)

/-- R117, R377: the exact operations behind the float forms compute the sum, the difference, the product, the quotient, the fused result
and the scaled value of finite numbers as rational numbers, and compare them by their order. -/
def ExactArithmetic : Prop :=
  ∀ (m : Rnd) (a b c : Machine.Num) (p q k : ℚ), value a = some p → value b = some q → value c = some k →
    value (addNum m a b) = some (p + q) ∧ value (subNum m a b) = some (p - q) ∧ value (mulNum a b) = some (p * q) ∧
    (q ≠ 0 → value (divNum a b) = some (p / q)) ∧ value (fmaNum m a b c) = some (p * q + k) ∧
    (∀ n : Int, -1000 ≤ n → n ≤ 1000 → value (scaleNum a n) = some (p * (2 : ℚ) ^ n)) ∧
    a.compare b = some (if p < q then -1 else if p = q then 0 else 1)

/-- R110, R117, R118: rounding what a finite pattern of a format stands for gives back that pattern, in every rounding mode and under every
saturation code; a negative zero keeps its sign. -/
def FloatRoundTrip : Prop :=
  ∀ (t : Ty) (m : Rnd) (sat : Sat) (draw x : Nat), t.isFloat = true → x < 2 ^ t.width → draw < 2 ^ 32 →
    (readFloat (fmtOf t) x).isNan = false → (readFloat (fmtOf t) x).isInf = false →
    writeFloat (fmtOf t) m sat false draw (readFloat (fmtOf t) x) = x

/-- R117, R126, Table 4.3: a magnitude n/d rounds to an integer by the mode: to a nearest one for RNE and RNA, ties to the even one and to
the larger one; to the integer below for RTZ, and for RUP and RDN by the sign; RSR rounds up or down by its draw, and an integer stays. -/
def RoundsToUnit : Prop :=
  ∀ (neg : Bool) (draw n d : Nat), 0 < d →
    (let q := roundQuot .rne neg draw n d
     2 * n ≤ 2 * q * d + d ∧ 2 * q * d ≤ 2 * n + d ∧ (2 * n = 2 * q * d + d ∨ 2 * q * d = 2 * n + d → q % 2 = 0)) ∧
    (let q := roundQuot .rna neg draw n d
     2 * n < 2 * q * d + d ∧ 2 * q * d ≤ 2 * n + d) ∧
    (let q := roundQuot .rtz neg draw n d
     q * d ≤ n ∧ n < q * d + d) ∧
    (let q := roundQuot (if neg then .rdn else .rup) neg draw n d
     n ≤ q * d ∧ q * d < n + d) ∧
    roundQuot (if neg then .rup else .rdn) neg draw n d = n / d ∧
    (roundQuot .rsr neg draw n d = n / d ∨ roundQuot .rsr neg draw n d = n / d + 1) ∧
    (n % d = 0 → draw < 2 ^ 32 → ∀ m, roundQuot m neg draw n d = n / d)

/-- R121, R366, Table 4.4: CVT of a scalar between integers keeps the low bits, or clamps under SAT 01 and 10; to or from a float it
rounds the exact value once; CVTS does so with the product of its element and the binary32 number in B. -/
def ConvertForms : Prop :=
  ∀ (r : GRec) (s : State) (x : TokVal), OneScalar r s x →
    let su := r.aux.getLsbD 4
    let du := r.aux.getLsbD 5
    let a : BitVec (srcTy r).width := x.word.setWidth (srcTy r).width
    let z : Int := if su then (a.toNat : Int) else a.toInt
    ((srcTy r).isFloat = false → r.c.ty.isFloat = false → r.sat = .none →
      exec (.cvt r) s = .next (sent s r.c r.lit (scalarOf (extended du (BitVec.ofInt r.c.ty.width z))))) ∧
    ((srcTy r).isFloat = false → r.c.ty.isFloat = false → r.sat ≠ .none →
      exec (.cvt r) s = .next (sent s r.c r.lit (scalarOf (clamped du r.c.ty.width z)))) ∧
    ((srcTy r).isFloat = true ∨ r.c.ty.isFloat = true → exec (.cvt r) s = .next (sent s r.c r.lit (converted s r (sourceNum r x)))) ∧
    (∀ y, s.cur.b = some y →
      exec (.cvts r) s = .next (sent s r.c r.lit (converted s r (mulNum (sourceNum r x) (readFloat (fmtOf .f32) (y.lane 0))))))

/-- R129, R407, R411: of a scalar, QBLK sends the quantised element to T0 and the binary32 scale to T1: the element's magnitude over the
type's largest, rounded up, or 1.0 for a zero; DQBK multiplies its element by the binary32 scale in B; PACK puts the narrowed low halves of A
and of B side by side. -/
def QuantiseForms : Prop :=
  ∀ (r : GRec) (s : State) (x : TokVal), OneScalar r s x →
    let w := r.c.ty.width
    let a := readFloat (fmtOf .f32) (x.lane 0)
    let k := if a.isZero then 0x3F800000 else writeFloat (fmtOf .f32) .rup .none false 0 (divNum (a.withSign false) (largestOf r.c.ty))
    (a.isNan = false → a.isInf = false →
      exec (.qblk r) s = .next (sendTarget (sendTarget (begin s r.c r.lit) (begin s r.c r.lit).cur r.c.t0
          (vectorOf [toElem r.c.ty false r.rnd r.sat (drawOf s r) (divNum a (readFloat (fmtOf .f32) k)) % 2 ^ w]))
        (begin s r.c r.lit).cur r.c.t1 (scalarOf (BitVec.ofNat 64 (k % 2 ^ 32))))) ∧
    (∀ y, s.cur.b = some y → r.lm = .scalar →
      exec (.dqbk r) s = .next (sent s r.c r.lit (scalarOf (BitVec.ofNat 64 (writeFloat (fmtOf .f32) r.rnd r.sat false 0
        (mulNum (readElem r.c.ty false x.word.toNat) (readFloat (fmtOf .f32) (y.lane 0))) % 2 ^ 32))))) ∧
    (∀ y, s.cur.b = some y → y.kind = .scalar → w ≤ 16 → r.c.ty.isFloat = false → r.sat = .none →
      exec (.pack r) s = .next (sent s r.c r.lit
        (vectorOf [(x.word.setWidth w).toNat + 2 ^ w * (y.word.setWidth w).toNat])))

/-- R348, R357, R391, R420, R445, R446: the lane forms on a vector A. BCST of a scalar fills its lanes with the one element; LANE takes the
element that the index names, 0 beyond the last; SHUF takes whole lanes of A by the lanes of B, 0 beyond the last, and with AR 01 turns A
by its literal; CMPX keeps the lanes whose bit of the mask is set, in order; VLEN counts elements; UNPK widens packed elements from its
offset on, at most 32. -/
def LaneForms : Prop :=
  ∀ (r : GRec) (s : State), Clean s r.c r.lit →
    let w := r.c.ty.width
    (∀ x, s.cur.a = some x → x.kind = .scalar → r.lm = .vector → w < 64 → r.lit.toNat % 64 ≠ 0 → r.lit.toNat % 64 ≤ 32 →
      exec (.bcst r) s = .next (sent s r.c r.lit (vectorOf (List.replicate (r.lit.toNat % 64)
        (extendTo 32 w (!r.c.ty.isFloat) (x.word.toNat % 2 ^ w)))))) ∧
    (∀ x, s.cur.a = some x → x.kind = .vector →
      (∀ y, operandsOf r 2 s.cur = [x, y] → exec (.lane r) s = .next (sent s r.c r.lit (scalarElem w (!r.c.ty.isFloat)
        (if y.lane 0 % 512 < placesOf r.lm w x.ln then elemOf r.lm w x (y.lane 0 % 512) else 0)))) ∧
      (∀ y, s.cur.b = some y → y.kind = .vector → 0 < y.ln → y.ln ≤ 32 → r.c.ar ≠ .a →
        exec (.shuf r) s = .next (sent s r.c r.lit (vectorOf ((List.range y.ln).map fun e =>
          if y.lane e % 32 < x.ln then x.lane (y.lane e % 32) else 0)))) ∧
      (0 < x.ln → x.ln ≤ 32 → r.c.ar = .a →
        exec (.shuf r) s = .next (sent s r.c r.lit (vectorOf ((List.range x.ln).map fun e => x.lane ((e + r.lit.toNat % 32) % x.ln))))) ∧
      (∀ y, operandsOf r 2 s.cur = [x, y] → x.ln ≤ 32 →
        exec (.cmpx r) s = .next (sent s r.c r.lit
          (match (List.range x.ln).filter fun e => (y.lane 0).testBit e with
           | [] => nullTok
           | l => vectorOf (l.map x.lane)))) ∧
      exec (.vlen r) s = .next (sent s r.c r.lit (scalarOf (BitVec.ofNat 64 (placesOf r.lm w x.ln)))) ∧
      (let n := 32 / w * x.ln
       let o := r.lit.toNat % 512
       ∃ v, exec (.unpk r) s = .next (sent s r.c r.lit v) ∧ (n ≤ o → v = nullTok) ∧
         (o < n → v.kind = .vector ∧ v.ln = min 32 (n - o) ∧ ∀ e < min 32 (n - o), v.lane e =
           if r.c.ty.isFloat then writeFloat (fmtOf .f32) .rne .none false 0 (readElem r.c.ty false (elemOf .packed w x (o + e))) % 2 ^ 32
           else patternOf 32 (signedOf w (elemOf .packed w x (o + e))))))

/-- R133, R417: REDL ADD without saturation of integers is the sum of the elements modulo 2^w, in whatever order the tree adds them; REDL MIN
gives the least element and AND, OR and XOR combine all patterns; SCNL gives at each element the reduction up to it. -/
def Reductions : Prop :=
  ∀ (r : GRec) (s : State) (x : TokVal), Clean s r.c r.lit → s.cur.a = some x → r.c.ty.isFloat = false →
    let w := r.c.ty.width
    let xs := elemsOf r.lm w x
    xs ≠ [] → xs.length ≤ 512 →
    (r.c.fn = 0 → r.sat = .none →
      exec (.redl r) s = .next (sent s r.c r.lit (scalarOf ((BitVec.ofNat w xs.sum).signExtend 64)))) ∧
    (r.c.fn = 1 → ∃ z ∈ xs.map (signedOf w), (∀ y ∈ xs, z ≤ signedOf w y) ∧
      exec (.redl r) s = .next (sent s r.c r.lit (scalarOf (BitVec.ofInt 64 z)))) ∧
    (r.c.fn = 2 → ∃ z ∈ xs.map (signedOf w), (∀ y ∈ xs, signedOf w y ≤ z) ∧
      exec (.redl r) s = .next (sent s r.c r.lit (scalarOf (BitVec.ofInt 64 z)))) ∧
    (r.c.fn = 3 → exec (.redl r) s = .next (sent s r.c r.lit (scalarOf
      ((xs.foldl (fun b y => b &&& BitVec.ofNat w y) (BitVec.allOnes w)).signExtend 64)))) ∧
    (r.c.fn = 4 → exec (.redl r) s = .next (sent s r.c r.lit (scalarOf
      ((xs.foldl (fun b y => b ||| BitVec.ofNat w y) 0).signExtend 64)))) ∧
    (r.c.fn = 5 → exec (.redl r) s = .next (sent s r.c r.lit (scalarOf
      ((xs.foldl (fun b y => b ^^^ BitVec.ofNat w y) 0).signExtend 64)))) ∧
    (r.c.fn = 0 → r.sat = .none → x.kind = .vector → r.lm = .vector → w < 64 → x.ln ≤ 32 → ∃ v,
      exec (.scnl r) s = .next (sent s r.c r.lit v) ∧ v.kind = .vector ∧ v.ln = x.ln ∧
      ∀ e < x.ln, v.lane e = ((BitVec.ofNat w (xs.take (e + 1)).sum).signExtend 32).toNat)

/-- R133, R134, R417: REDL of any element type gives the fixed tree's result over the elements present, under NVER 7 a float ADD's in sequence, as a
scalar; SCNL of a vector gives a vector with A's LN and lane mode whose element e is the reduction of elements 0 to e. -/
def TreeReductions : Prop :=
  ∀ (r : GRec) (s : State) (x : TokVal), Clean s r.c r.lit → s.cur.a = some x → r.lm ≠ .scalar →
    r.c.fn.toNat ≤ (if r.c.ty.isFloat then 2 else 5) →
    let w := r.c.ty.width
    let xs := elemsOf r.lm w x
    let red (l : List Nat) : Nat :=
      if (partOf s s.cur.part).nver = 7 ∧ r.c.ty.isFloat = true ∧ r.c.fn = 0 then (l.drop 1).foldl (reductionStep r) (l.headD 0)
      else (treeOver (reductionStep r) 9 l).getD 0
    xs ≠ [] → xs.length ≤ 512 →
    exec (.redl r) s = .next (sent s r.c r.lit (scalarOf
      (if r.c.ty.isFloat then BitVec.ofNat 64 (red xs) else (BitVec.ofNat w (red xs)).signExtend 64))) ∧
    (x.kind = .vector → x.ln ≤ 32 → ∃ v,
      exec (.scnl r) s = .next (sent s r.c r.lit v) ∧ v.kind = .vector ∧ v.ln = x.ln ∧
      ∀ e < xs.length, elemOf r.lm w v e = red (xs.take (e + 1)))

/-- R359: two scalars that reach a COMB entry combine by its record's FN; of a vector and another operand, every element does, and the smaller
LN stays. -/
def CombSteps : Prop :=
  ∀ (w96 : RecordWord) (r : GRec) (x y : TokVal), GRec.ofWord w96 = some r → r.c.fn.toNat ≤ 2 →
    let w := r.c.ty.width
    (x.kind = .scalar → y.kind = .scalar → combineVals w96 x y = scalarOf
      (let z := BitVec.ofNat w (reductionStep r (elem r x).toNat (elem r y).toNat)
       if r.c.ty.isFloat then z.setWidth 64 else z.signExtend 64)) ∧
    (x.kind = .vector → r.lm ≠ .scalar → 0 < placesOf r.lm w x.ln → x.ln ≤ 32 → y.kind = .scalar ∨ y.kind = .vector ∧ x.ln ≤ y.ln →
      (combineVals w96 x y).kind = .vector ∧ ((w = 64 → x.ln % 2 = 0) → (combineVals w96 x y).ln = x.ln) ∧
      ∀ e < placesOf r.lm w x.ln, elemOf r.lm w (combineVals w96 x y) e = reductionStep r (elemOf r.lm w x e) (elemOf r.lm w y e))

/-- R64, R373, R375: an exit form without a poisoned or null operand, of an activation that has produced no exit and whose thread has no
later activation, produces the exit of its number: to the block at its offset, to the end of the iteration, of the loop or of the colour, or
to the aligned block in A. Nothing else changes. -/
def ExitForms : Prop :=
  ∀ (r : CRec) (s : State), anyPoisoned s.cur = false → anyNull s.cur = false →
    let x := actOf s s.cur.act
    x.exits = [] → r.exn.toNat < imgXcnt x.image → laterInThread s x = [] →
      exec (.exitB r) s = .next (exited s r (.block (farBlock s.cur.blk r.bofs))) ∧
      exec (.exitEoi r) s = .next (exited s r .endIteration) ∧
      exec (.exitLeave r) s = .next (exited s r .leave) ∧
      exec (.exitEoc r) s = .next (exited s r .endColour) ∧
      ((opWord s.cur.a).toNat % 16384 = 0 → exec (.exitx r) s = .next (exited s r (.block (opWord s.cur.a))))

/-- R32, R33, R64, R373, R375: where an exit form produces no exit: nothing happens for a null operand; a poisoned one kills the activation;
a second exit, a number at or above the header's count and an EXITX to an address that is no multiple of 16,384 are BLOCK_SHAPE faults. -/
def ExitFaults : Prop :=
  ∀ mk ∈ [Instr.exitB, .exitEoi, .exitLeave, .exitEoc, .exitx], ∀ (r : CRec) (s : State),
    let b := begin s r.c r.bofs
    (anyPoisoned s.cur = true → exec (mk r) s = .next (raise b s.cur.act s.cur.node { cls := .poison })) ∧
    (anyPoisoned s.cur = false → anyNull s.cur = true → exec (mk r) s = .next b) ∧
    (anyPoisoned s.cur = false → anyNull s.cur = false →
      (actOf s s.cur.act).exits ≠ [] ∨ imgXcnt (actOf s s.cur.act).image ≤ r.exn.toNat →
      exec (mk r) s = .next (raise b s.cur.act s.cur.node { cls := .blockShape })) ∧
    (anyPoisoned s.cur = false → anyNull s.cur = false → (opWord s.cur.a).toNat % 16384 ≠ 0 →
      exec (.exitx r) s = .next (raise b s.cur.act s.cur.node { cls := .blockShape }))

/-- R70: when the thread already has a later activation, an exit to the block of that successor, from an activation that has entered no loop,
keeps it, and any other exit squashes it and all later ones. -/
def Mispredict : Prop :=
  ∀ (r : CRec) (s : State) (b : Nat) (l : List Nat), anyPoisoned s.cur = false → anyNull s.cur = false →
    let x := actOf s s.cur.act
    let dst := farBlock s.cur.blk r.bofs
    x.exits = [] → r.exn.toNat < imgXcnt x.image → x.isTwin = false → b ≠ s.cur.act → laterInThread s x = b :: l →
    ((actOf s b).blk = dst → x.pushed = none → exec (.exitB r) s = .next (exited s r (.block dst))) ∧
    ((actOf s b).blk ≠ dst → exec (.exitB r) s = .next (squash (exited s r (.block dst)) (b :: l) x.part)) ∧
    exec (.exitEoc r) s = .next (squash (exited s r .endColour) (b :: l) x.part)

/-- R392, R399, R447: WAVE, LENT and LEAV send operand A with its markers under their tag operation; LBND sends A + 1 to T0 while it is below
the bound and to T1 otherwise, and never to both. -/
def LoopForms : Prop :=
  ∀ (r : GRec) (s : State) (x : TokVal), Clean s r.c r.lit → s.cur.a = some x →
    exec (.wave r) s = .next (sent s r.c r.lit x) ∧ exec (.lent r) s = .next (sent s r.c r.lit x) ∧
    exec (.leav r) s = .next (sent s r.c r.lit x) ∧
    (let b := begin s r.c r.lit
     let bound := if r.c.ar = .a then r.lit.toNat else (opWord s.cur.b).toNat
     exec (.lbnd r) s = .next (sendTarget b b.cur (if (x.word + 1).toNat < bound then r.c.t0 else r.c.t1) (scalarOf (x.word + 1))))

/-- R53, R393, R394: LCNT with a trip count that is not 0, in an activation that has pushed towards no head, enters the counted loop at the
head block: one instance with that count, entered by this activation, of which no index has been sent; no token is sent yet. With a trip
count of 0 the leaving token 0 goes to T1 at once, and a null operand sends null there. -/
def CountedLoop : Prop :=
  ∀ (r : GRec) (s : State) (x : TokVal), anyPoisoned s.cur = false → s.cur.a = some x →
    let b := begin s r.c r.lit
    (anyNull s.cur = true → exec (.lcnt r) s = .next (sendLeaving b b.cur nullTok)) ∧
    (anyNull s.cur = false → tagFaults b.cur = false → actLive (actOf s s.cur.act) = true → (actOf s s.cur.act).pushed = none →
      (∀ i, imageFor s s.cur.sleeve (lcntHead b.cur) = some i → imgRole i = 1) →
      (x.lane 0 ≠ 0 → ∃ t, exec (.lcnt r) s = .next t ∧ t.net = s.net ∧ SameMemory s t ∧
        t = { s with cur := b.cur, ids := t.ids, loops := t.loops, acts := t.acts } ∧
        (actOf t s.cur.act).pushed = some (lcntHead b.cur, true) ∧
        (let l := loopOf t s.ids
         l.counted = some (x.lane 0) ∧ l.head = lcntHead b.cur ∧ l.entry = s.cur.act ∧ l.gen = b.cur ∧ l.genNext = 0 ∧ l.next = 0 ∧
         l.done = false ∧ l.parent = s.cur.tag ∧ l.part = (actOf s s.cur.act).part) ∧
        (∀ k, k ≠ s.ids → loopOf t k = loopOf s k) ∧ ∀ a, a ≠ s.cur.act → actOf t a = actOf s a) ∧
      (x.lane 0 = 0 → ∃ u, exec (.lcnt r) s = .next (sendLeaving u b.cur (scalarOf 0)) ∧ u.net = s.net ∧
        (loopOf u s.ids).counted = some 0))

/-- R37, R38, R40, R353, R361, R422: CTXA, CALL and SPAWN create a colour of a free number, with operands A, B and C (of SPAWN, B and C) as F0
upward, start its root thread at the block of the form, and send the number to both targets. CALL's colour keeps the caller's tag and
activation for the return; SPAWN's lies on the sleeve that A names and keeps A's retry bit. -/
def ColourCreation : Prop :=
  ∀ (r : CRec) (s : State), Clean s r.c r.bofs → s.cur.act ≠ 0 → (s.colours.filter fun x => x.2.part == s.cur.part).length < 65535 →
    let f := (begin s r.c r.bofs).cur
    let blk := farBlock s.cur.blk r.bofs
    let room (v : Nat) : Prop := ∀ q, (residents s v q).length < 64 ∧ waitingColours s v q = []
    (room s.cur.sleeve →
      (∃ n u, exec (.ctxa r) s = .next (sendBoth u f (scalarOf (BitVec.ofNat 64 n))) ∧
        Created s u f n s.cur.sleeve blk (argFrame [s.cur.a, s.cur.b, s.cur.c]) ∧ (colourOf u (colourKey f.part n)).called = false) ∧
      (∃ n u, exec (.call r) s = .next (sendBoth u f (scalarOf (BitVec.ofNat 64 n))) ∧
        Created s u f n s.cur.sleeve blk (argFrame [s.cur.a, s.cur.b, s.cur.c]) ∧
        (let c := colourOf u (colourKey f.part n)
         c.called = true ∧ c.rtag = s.cur.tag ∧ c.caller = s.cur.act ∧ c.callerKey = (actOf s s.cur.act).colour))) ∧
    (∀ v, spawnSleeve s s.cur.sleeve (opWord s.cur.a) = some v → room v →
      ∃ n u, exec (.spawn r) s = .next (sendBoth u f (scalarOf (BitVec.ofNat 64 n))) ∧
        Created s u f n v blk (argFrame [s.cur.b, s.cur.c]) ∧
        (let c := colourOf u (colourKey f.part n)
         c.called = false ∧ c.retry = (opWord s.cur.a).getLsbD 63))

/-- R361 to R364: CTXF and CTXS of a live colour note the end and the new grant, which take effect when the activation commits, and send 1;
of a colour that is not live they send 0, and so does CTXS of a grant outside 1 to 32; CTXJ waits for a live colour and else sends its
number; a CTXJ of its own colour is a BLOCK_SHAPE fault. -/
def ColourForms : Prop :=
  ∀ (r : GRec) (s : State), Clean s r.c r.lit →
    let b := begin s r.c r.lit
    let own := (actOf s s.cur.act).colour
    let named := colourKey s.cur.part ((opWord s.cur.a).toNat % 65536)
    let k := if r.c.ar = .start then own else named
    let g := (opWord s.cur.b).toNat % 64
    (live s k = true → exec (.ctxf r) s = .next (sendBoth (updAct b s.cur.act fun x => { x with ends := x.ends ++ [(k, (colourOf s k).serial)] })
      b.cur (scalarOf 1))) ∧
    (live s k = false → exec (.ctxf r) s = .next (sent s r.c r.lit (scalarOf 0))) ∧
    (named = own → exec (.ctxj r) s = .next (raise b s.cur.act s.cur.node { cls := .blockShape })) ∧
    (named ≠ own → live s named = true → exec (.ctxj r) s = .next
      { b with ids := s.ids + 1, ops := insertAt s.ops s.ids { f := b.cur, w := .ctxj named (colourOf s named).serial, order := s.ids } }) ∧
    (named ≠ own → live s named = false →
      exec (.ctxj r) s = .next (sent s r.c r.lit (scalarOf (BitVec.ofNat 64 ((opWord s.cur.a).toNat % 65536))))) ∧
    (live s named = true → 1 ≤ g → g ≤ 32 → exec (.ctxs r) s = .next
      (sendBoth (updAct b s.cur.act fun x => { x with grants := x.grants ++ [(named, (colourOf s named).serial, g)] }) b.cur (scalarOf 1))) ∧
    (live s named = false ∨ g = 0 ∨ 32 < g → exec (.ctxs r) s = .next (sent s r.c r.lit (scalarOf 0)))

/-- R419: a RET of a called colour, with no exit produced before, produces the return exit and holds its operands, without markers, for the
named nodes of the continuation block, although an operand is null; in a colour that was not called it is a BLOCK_SHAPE fault. -/
def ReturnForm : Prop :=
  ∀ (r : CRec) (s : State), anyPoisoned s.cur = false → isNull s.cur.p = false →
    let x := actOf s s.cur.act
    let b := begin s r.c r.bofs
    ((colourOf s x.colour).called = false → exec (.ret r) s = .next (raise b s.cur.act s.cur.node { cls := .blockShape })) ∧
    ((colourOf s x.colour).called = true → actLive x = true → x.exits = [] → r.exn.toNat < imgXcnt x.image → laterInThread s x = [] →
      ∃ t, exec (.ret r) s = .next t ∧ t = { s with cur := b.cur, acts := t.acts } ∧
        actOf t s.cur.act = { x with exits := [(r.exn.toNat, s.cur.node, .ret)], rets := retTokens r b.cur } ∧
        ∀ a, a ≠ s.cur.act → actOf t a = actOf s a)

/-- R153, R154: the linear and the tiled aperture each name every canonical address of device memory exactly once, and the inverse that the
machine computes for the linear one undoes it. -/
def ApertureBijection : Prop :=
  (∀ o, o < deviceBytes → cdaExists (linearToCda o) = true ∧ cdaToLinear (linearToCda o) = o ∧ cdaExists (tiledToCda o) = true) ∧
  (∀ c, cdaExists c = true → cdaToLinear c < deviceBytes ∧ linearToCda (cdaToLinear c) = c) ∧
  (∀ o o', o < deviceBytes → o' < deviceBytes → tiledToCda o = tiledToCda o' → o = o')

/-- R141, R154: bits written to device memory through an aperture read back through it, and all bits outside them read as before. -/
def ReadAfterWrite : Prop :=
  ∀ (s : State) (apr a w v : Nat), apr ≤ 2 → 0 < w → Exists apr a w →
    readDev (writeDev s apr a w v) apr a w = v % 2 ^ w ∧
    (∀ b n, 0 < n → Exists apr b n → (a + w ≤ b ∨ b + n ≤ a) → readDev (writeDev s apr a w v) apr b n = readDev s apr b n) ∧
    (∀ apr' o, Outside apr a w apr' o → devByte (writeDev s apr a w v) apr' o = devByte s apr' o)

/-- R141, R147: the same of pod memory and of a sleeve's scratchpads. -/
def ReadAfterWriteElsewhere : Prop :=
  (∀ (s : State) (a w v : Nat), 0 < w → readPod (writePod s a w v) a w = v % 2 ^ w ∧
    ∀ b n, 0 < n → (a + w ≤ b ∨ b + n ≤ a) → readPod (writePod s a w v) b n = readPod s b n) ∧
  (∀ (x : Sleeve) (a w v : Nat), 0 < w → readScratch (writeScratch x a w v) a w = v % 2 ^ w ∧
    ∀ b n, 0 < n → (a + w ≤ b ∨ b + n ≤ a) → readScratch (writeScratch x a w v) b n = readScratch x b n)

/-- R272, Table 13.7: how one element's address resolves when its translation is cached: the first failing check gives the fault, and an
access that passes all of them has its part, with the leaf. -/
def AddressChecks : Prop :=
  ∀ (s : State) (f : Firing) (n : Need) (a : Word) (e : TlbEntry), 0 < n.width → a.toNat % 256 + n.width ≤ 256 → n.unnamed = false →
    (partOf s f.part).ptbr.getLsbD 63 = true → tlbLookup s (.quad (f.en / 4)) f.part a = some e → waitsAt s (formAt f) = none →
    let i : FaultInfo := { cls := .protection, va := a, width := n.width, wr := n.use.writes }
    let p : Part := { va := a, width := n.width, leaf := e.leaf, big := e.big }
    (canonical a = false → resolve s f n [a] = .done (raise s f.act f.node { i with cause := 1 })) ∧
    (canonical a = true →
      (∀ c, permission (supervisor s f.part) n.use e.leaf = some c → resolve s f n [a] = .done (raise s f.act f.node { i with cause := c })) ∧
      (permission (supervisor s f.part) n.use e.leaf = none →
        (apertureBad s n.use e.leaf e.big a n.width = true ∨ (n.use.writes = true ∧ leafProt e.leaf = true ∧ n.psto = false) →
          resolve s f n [a] = .done (raise s f.act f.node { i with cause := 6 })) ∧
        (apertureBad s n.use e.leaf e.big a n.width = false → (n.use.writes && leafProt e.leaf && !n.psto) = false →
          (windowBad s a n p = true ∨ classBad s n a p = true →
            resolve s f n [a] = .done (raise s f.act f.node { i with cls := .alignClass })) ∧
          (windowBad s a n p = false → classBad s n a p = false → resolve s f n [a] = .ok [p]))))

/-- R272: supervisor pages refuse user accesses first, then R, W and X are checked by the use, with the causes of Table 9.7. -/
def PermissionCauses : Prop :=
  ∀ (sup : Bool) (use : Use) (e : Word),
    (leafSup e = true → sup = false → permission sup use e = some 5) ∧
    (leafSup e = false ∨ sup = true →
      (use.reads = true → leafR e = false → permission sup use e = some 2) ∧
      (use.writes = true → leafW e = false → (use.reads = true → leafR e = true) → permission sup use e = some 3) ∧
      (use = .fetch → leafX e = false ∨ leafDr e = true → permission sup use e = some 4) ∧
      ((use.reads = true → leafR e = true) → (use.writes = true → leafW e = true) → (use = .fetch → leafX e = true ∧ leafDr e = false) →
        permission sup use e = none))

/-- R136, R143, R180, R184, R395, R398: LD and LDV whose addresses resolve to device and pod memory read there, in their thread's view of
memory, and wait with the value for their data to return: the element or the elements, extended as the record asks, poisoned when a sector
read is. They send nothing yet, resolve their LSID and change no memory. -/
def LoadForms : Prop :=
  ∀ (r : MRec) (s : State) (l : List Part), Clean s r.c 0 → Local s l → Quiet s →
    let b := begin s r.c 0
    let f := b.cur
    let w := r.c.ty.width
    let n : Need := { use := .read, width := w, sync := ordered r }
    let pieces : List Piece := l.map fun p =>
      (p.elem, p.ofs, p.width, some (poisonLoc s (partLoc s p), readLoc (viewOf s s.cur.act r.own.toNat) (partLoc s p) p.width))
    let done (t : State) (v : TokVal) : Prop :=
      lookup t.ops s.ids = some { f := f, w := .data v, order := s.ids } ∧ (∀ k, k ≠ s.ids → lookup t.ops k = lookup s.ops k) ∧
      t.net = s.net ∧ SameMemory s t ∧ Resolves s t r ∧
      t = { s with cur := t.cur, ids := t.ids, ops := t.ops, acts := t.acts, l2 := t.l2, victim := t.victim, misses := t.misses }
    (resolve b f n [elemAddr r f] = .ok l →
      ∃ t, exec (.ld r) s = .next t ∧ done t (loadResult r.c.ty (r.c.fn.getLsbD 3) false f.grant pieces)) ∧
    (resolve b f n ((List.range (vectorCount w f.grant)).map fun e => elemAddr r f + BitVec.ofNat 64 (w * e)) = .ok l →
      ∃ t, exec (.ldv r) s = .next t ∧ done t (loadResult r.c.ty (r.c.fn.getLsbD 3) true f.grant pieces))

/-- R114, R143, R395: the scalar that a load gives of one element: its bits, in one part or in two, low part first, extended by the sign
unless the record asks for zeros or the type is a float; poisoned when a part is. -/
def LoadValue : Prop :=
  ∀ (t : Ty) (zero : Bool) (g o x y : Nat) (p q : Bool), o < t.width → x < 2 ^ o → y < 2 ^ (t.width - o) →
    (o = 0 → loadResult t zero false g [(0, 0, t.width, some (q, y))] =
      { scalarOf (extended (zero || t.isFloat) (BitVec.ofNat t.width y)) with poi := q }) ∧
    loadResult t zero false g [(0, 0, o, some (p, x)), (0, o, t.width - o, some (q, y))] =
      { scalarOf (extended (zero || t.isFloat) (BitVec.ofNat t.width (x + 2 ^ o * y))) with poi := p || q }

/-- R180: LOAD_DATA_RETURN sends a load's value to both targets of its record and ends the wait; of anything else it does nothing. -/
def LoadReturn : Prop :=
  ∀ (s : State) (op : Nat),
    (∀ o v, lookup s.ops op = some o → o.w = .data v →
      exec (.loadDataReturn op) s = .next (sendBoth { s with ops := eraseAt s.ops op } o.f v)) ∧
    (lookup s.ops op = none → exec (.loadDataReturn op) s = .next s)

/-- R163, R181, R183, R430 to R432: ST, STV, STF, STE and STI whose addresses resolve enter the store buffer, once per part of each element,
with the bits of B, resolve their LSID and send 0 to both targets; no memory changes before the store is performed. -/
def StoreForms : Prop :=
  ∀ x ∈ [(Instr.st, StoreKind.plain, Use.write), (.stv, .plain, .write), (.stf, .fill, .sync), (.sti, .single, .sync), (.ste, .empty, .empty)],
  ∀ (r : MRec) (s : State) (l : List Part), Clean s r.c 0 →
    let b := begin s r.c 0
    let f := b.cur
    let w := r.c.ty.width
    let n : Need := { use := x.2.2, width := w, sync := ordered r || x.2.2.words, psto := imgPsto (actOf s f.act).image }
    let vals : List Nat :=
      if x.1 r = .stv r then elemsOf (if w ≤ 16 then .packed else .vector) w (f.b.getD nullTok)
      else if x.1 r = .ste r then [0] else [(opWord f.b).toNat % 2 ^ w]
    resolve b f n ((List.range vals.length).map fun e => elemAddr r f + BitVec.ofNat 64 (w * e)) = .ok l →
    (∀ y : Store, conflicting s y = []) →
      ∃ u y, exec (x.1 r) s = .next (sendBoth u f (scalarOf 0)) ∧ lookup u.stores s.ids = some y ∧
        y.act = f.act ∧ y.lsid = r.own.toNat ∧ y.kind = x.2.1 ∧ y.committed = false ∧ y.tag = f.tag ∧ y.part = f.part ∧
        y.elems = l.map (fun p => { va := p.va, leaf := p.leaf, big := p.big, width := p.width,
                                    pat := BitVec.ofNat 64 (vals.getD p.elem 0 / 2 ^ p.ofs % 2 ^ p.width) }) ∧
        (∀ k, k ≠ s.ids → lookup u.stores k = lookup s.stores k) ∧ Resolves s u r ∧ SameMemory s u ∧
        u = { s with cur := b.cur, ids := s.ids + 1, stores := u.stores, acts := u.acts }

/-- R147, R148, R424: SPLD reads the scratchpads as its thread sees them and sends the element at once; SPST enters the store buffer and
writes no scratchpad yet. An address outside the sleeve's scratchpads is a PROTECTION fault of cause 8 for both. -/
def ScratchForms : Prop :=
  ∀ (r : MRec) (s : State), Clean s r.c 0 →
    let b := begin s r.c 0
    let f := b.cur
    let a := elemAddr r f
    let w := r.c.ty.width
    (scratchBad (sleeveOf s f.sleeve) a w = true →
      exec (.spld r) s = .next (raise b f.act f.node { cls := .protection, cause := 8, va := a, width := w }) ∧
      exec (.spst r) s = .next (raise b f.act f.node { cls := .protection, cause := 8, va := a, width := w, wr := true })) ∧
    (scratchBad (sleeveOf s f.sleeve) a w = false → ordered r = false ∨ alignClass a.toNat w ≠ .x →
      (∃ u v, exec (.spld r) s = .next (sendBoth u f v) ∧ Resolves s u r ∧ SameMemory s u ∧
        { v with poi := false } = scalarElem w (!r.c.fn.getLsbD 3 && !r.c.ty.isFloat) (readScratch (scratchView s f r.own.toNat) a.toNat w) ∧
        (v.poi = true ↔ ∃ k ∈ (sleeveOf s f.sleeve).scratchBad, a.toNat / 256 ≤ k ∧ k ≤ (a.toNat + w - 1) / 256) ∧
        u = { s with cur := b.cur, acts := u.acts }) ∧
      ((∀ y : Store, conflicting s y = []) →
        ∃ u y, exec (.spst r) s = .next (sendBoth u f (scalarOf 0)) ∧ lookup u.stores s.ids = some y ∧ y.kind = .scratch ∧ y.act = f.act ∧
          y.elems = [{ va := a, width := w, pat := BitVec.ofNat 64 ((opWord f.b).toNat % 2 ^ w) }] ∧ Resolves s u r ∧ SameMemory s u ∧
          u = { s with cur := b.cur, ids := s.ids + 1, stores := u.stores, acts := u.acts }))

/-- R148: STORE_PERFORM of an SPST that may be performed puts it at the end of its sleeve's forwarding table. FORWARDING_TABLE_DRAIN moves
the oldest SPST of that table into the scratchpads: its bits read there after, all others as before, and nothing else changes. -/
def ScratchDrain : Prop :=
  (∀ (s : State) (sid : Nat) (x : Store) (e : StoreElem), lookup s.stores sid = some x → x.kind = .scratch → x.elems = [e] →
    mayPerform s sid x = true → (lookup s.sleeves x.sleeve).isSome = true →
    ∃ t, exec (.storePerform sid) s = .next t ∧ t.stores = eraseAt s.stores sid ∧
      (sleeveOf t x.sleeve).fwd = (sleeveOf s x.sleeve).fwd ++ [(e.va.toNat, e.width, e.pat)] ∧ (∀ k, k ≠ x.sleeve → sleeveOf t k = sleeveOf s k) ∧
      t = { s with stores := t.stores, sleeves := t.sleeves, entries := t.entries, stalled := t.stalled } ∧ SameMemory s t) ∧
  ∀ (s : State) (v a w : Nat) (x : Word) (rest : List (Nat × Nat × Word)), 0 < w → (sleeveOf s v).fwd = (a, w, x) :: rest →
    ∃ t, exec (.forwardingTableDrain v) s = .next t ∧ t = { s with sleeves := t.sleeves } ∧ (sleeveOf t v).fwd = rest ∧
      readScratch (sleeveOf t v) a w = x.toNat % 2 ^ w ∧
      (∀ b n, 0 < n → a + w ≤ b ∨ b + n ≤ a → readScratch (sleeveOf t v) b n = readScratch (sleeveOf s v) b n) ∧
      ∀ k, k ≠ v → sleeveOf t k = sleeveOf s k

/-- R162, R163, R166, R397: LDS, LDS.E and LDI of a Full word take its element at the bank and wait for the data to return, and LDS.E leaves
the word Empty. Of a word that is not Full, LDS and LDS.E wait at the bank, and LDI takes a free deferral entry, whose words it writes, and
leaves the word Deferred; without a free entry it parks with TAG_EXHAUST. -/
def FullEmptyLoads : Prop :=
  ∀ (r : MRec) (s : State) (p : Part) (l : List Part) (apr a : Nat), Clean s r.c 0 → Quiet s →
    let b := begin s r.c 0
    let f := b.cur
    let n : Need := { use := .sync, width := r.c.ty.width, sync := true }
    resolve b f n [elemAddr r f] = .ok (p :: l) → blockedLine b f n (p :: l) = none → aliasHeld b f r.own.toNat (p :: l) = false →
    Passes b (formAt f) (spotsOf (p :: l)) → partLoc s p = .dev apr a →
    let k := wordKey s p
    let x := wordElem s k (p.va.toNat % 64) r.c.ty (r.c.fn.getLsbD 3)
    let waits (t : State) (w : Wait) : Prop :=
      lookup t.ops s.ids = some { f := f, w := w, order := s.ids } ∧ (∀ j, j ≠ s.ids → lookup t.ops j = lookup s.ops j) ∧ t.net = s.net ∧
      SameMemory s t ∧ Resolves s t r
    (wordState s k = none →
      (∃ t, exec (.lds r) s = .next t ∧ waits t (.data x) ∧ t.fe = s.fe) ∧
      (∃ t, exec (.ldi r) s = .next t ∧ waits t (.data x) ∧ t.fe = s.fe) ∧
      (∃ t, exec (.ldsE r) s = .next t ∧ waits t (.data x) ∧ wordState t k = some .empty ∧ ∀ j, j ≠ k → wordState t j = wordState s j)) ∧
    (wordState s k ≠ none →
      (∃ t, exec (.lds r) s = .next t ∧ waits t (.lds k (p.va.toNat % 64) r.c.ty (r.c.fn.getLsbD 3) false) ∧ t.fe = s.fe) ∧
      (∃ t, exec (.ldsE r) s = .next t ∧ waits t (.lds k (p.va.toNat % 64) r.c.ty (r.c.fn.getLsbD 3) true) ∧ t.fe = s.fe) ∧
      ((∃ i, i < deferralSize s ∧ lookup s.dfr i = none) →
        ∃ t i, exec (.ldi r) s = .next t ∧ i < deferralSize s ∧ lookup s.dfr i = none ∧ lookup t.dfr i = some f ∧
          wordState t k = some .deferred ∧ t.net = s.net ∧ t.ops = s.ops ∧ Resolves s t r) ∧
      ((∀ i, i < deferralSize s → lookup s.dfr i ≠ none) →
        ∃ u, exec (.ldi r) s = .next (park u f.act f.node { cls := .tagExhaust, info := 2 } (.form (entryOf u f))) ∧ u.mem = s.mem ∧
          u.fe = s.fe ∧ u.dfr = s.dfr))

/-- The value that an atomic leaves in an element, by its operation (Table 12.1): old value o, operands b and c. -/
def atomicValue (t : Ty) (u : Bool) (op : Nat) (o b c : BitVec t.width) : BitVec t.width :=
  match op with
  | 0 => o + b
  | 1 => BitVec.ofNat t.width (writeFloat (fmtOf t) .rne .none false 0 (addNum .rne (readFloat (fmtOf t) o.toNat) (readFloat (fmtOf t) b.toNat)))
  | 2 => if (if u then b.ult o else b.slt o) then b else o
  | 3 => if (if u then o.ult b else o.slt b) then b else o
  | 4 => o &&& b
  | 5 => o ||| b
  | 6 => o ^^^ b
  | 7 => b
  | _ => if o = b then c else o

/-- R195, R343 to R346: an atomic whose address resolves to an unprotected, unpoisoned element of device memory reads it, leaves there what its
operation gives, all in one step, and sends the old value to both targets. Every bit of memory outside the element stays as it was. -/
def AtomicForms : Prop :=
  ∀ x ∈ [(Instr.aadd, 0), (.afad, 1), (.amin, 2), (.amax, 3), (.aand, 4), (.aor, 5), (.axor, 6), (.axch, 7), (.acas, 8)],
  ∀ (r : MRec) (s : State) (p : Part) (apr a : Nat), Clean s r.c 0 → Quiet s →
    let b := begin s r.c 0
    let f := b.cur
    let w := r.c.ty.width
    let n : Need := { use := .atomic, width := w, sync := true, psto := imgPsto (actOf s f.act).image }
    resolve b f n [elemAddr r f] = .ok [p] → aliasHeld b f r.own.toNat [p] = false → Passes b (formAt f) (spotsOf [p]) →
    overflowed b p.leaf p.big p.va = false → Local s [p] → partLoc s p = .dev apr a → apr ≤ 2 → p.width = w → Exists apr a w →
    poisonLoc s (.dev apr a) = false →
    let u := r.c.fn.getLsbD 3
    let old : BitVec w := BitVec.ofNat w (readDev s apr a w)
    ∃ t, exec (x.1 r) s = .next (sendBoth t f (scalarOf (extended (u || r.c.ty.isFloat) old))) ∧
      readDev t apr a w = (atomicValue r.c.ty u x.2 old ((opWord f.b).setWidth w) ((opWord f.c).setWidth w)).toNat ∧
      (∀ b' m, 0 < m → Exists apr b' m → a + w ≤ b' ∨ b' + m ≤ a → readDev t apr b' m = readDev s apr b' m) ∧
      (∀ apr' o, Outside apr a w apr' o → devByte t apr' o = devByte s apr' o) ∧ t.podMem = s.podMem ∧ Resolves s t r ∧
      (leafProt p.leaf = false →
        t = { s with cur := b.cur, mem := t.mem, acts := t.acts, l2 := t.l2, victim := t.victim, misses := t.misses, dir := t.dir, out := t.out })

/-- R141, R142, R165, R430: STORE_PERFORM of a plain store that may be performed writes its first part into the device memory that its leaf
names: those bits read as the store's pattern after, every other bit reads as before, and the part, or with the last the whole store, leaves
the store buffer. -/
def StorePerform : Prop :=
  ∀ (s : State) (sid apr a : Nat) (x : Store) (e : StoreElem) (es : List StoreElem), Quiet s →
    lookup s.stores sid = some x → mayPerform s sid x = true → x.kind = .plain → x.elems = e :: es → Passes s (.store sid) [e.spot] →
    overflowed s e.leaf e.big e.va = false → lostLoc s (.dev apr a) = false →
    ownedLoc s (.dev apr a) = none → locOf s e.leaf e.big e.va = .dev apr a → apr ≤ 2 → 0 < e.width → Exists apr a e.width →
    ∃ t, exec (.storePerform sid) s = .next t ∧ readDev t apr a e.width = e.pat.toNat % 2 ^ e.width ∧
      (∀ b n, 0 < n → Exists apr b n → a + e.width ≤ b ∨ b + n ≤ a → readDev t apr b n = readDev s apr b n) ∧
      (∀ apr' o, Outside apr a e.width apr' o → devByte t apr' o = devByte s apr' o) ∧ t.podMem = s.podMem ∧
      (es = [] → t.stores = eraseAt s.stores sid) ∧
      (es ≠ [] → lookup t.stores sid = some { x with elems := es, past := x.past ++ [e], rids := [] }) ∧
      (∀ k, k ≠ sid → lookup t.stores k = lookup s.stores k) ∧ t.acts = s.acts ∧ t.net = s.net ∧ t.fe = s.fe

/-- R148, R189, R286, R430: a store is not performed while it is uncommitted, parked, waits for the replies of another device or is of a
frozen partition, nor an SPST while its sleeve's forwarding table is full, nor one that an earlier store of its thread keeps back;
STORE_PERFORM then changes nothing. -/
def StoreWaits : Prop :=
  ∀ (s : State) (sid : Nat) (x : Store), lookup s.stores sid = some x →
    (x.committed = false ∨ x.parked = true ∨ x.rids ≠ [] ∨ (partOf s x.part).pstate = .frozen ∨
      x.kind = .scratch ∧ 32 ≤ (sleeveOf s x.sleeve).fwd.length → exec (.storePerform sid) s = .next s) ∧
    (∀ (k : Nat) (y : Store), lookup s.stores k = some y → k ≠ sid → keepsBack s y x = true → exec (.storePerform sid) s = .next s)

/-- R163, R165, R166: STORE_PERFORM of an STE, an STF and an STI on device memory. STE leaves a Full word Empty and keeps its
bits; STF writes its bits and leaves the word Full, and so does STI of a word that is not Full, here of one that no form waits for; of a Full
word STI writes nothing: the store goes, and its colour is held under a DOUBLE_WRITE record. -/
def FullEmptyStores : Prop :=
  ∀ (s : State) (sid apr a : Nat) (x : Store) (e : StoreElem), Quiet s →
    lookup s.stores sid = some x → mayPerform s sid x = true → x.elems = [e] → Passes s (.store sid) [e.spot] →
    overflowed s e.leaf e.big e.va = false → lostLoc s (.dev apr a) = false →
    ownedLoc s (.dev apr a) = none → locOf s e.leaf e.big e.va = .dev apr a → apr ≤ 2 → 0 < e.width → Exists apr a e.width →
    let k := cdaOf apr (a / 8) / 8
    (x.kind = .empty → ∃ t, exec (.storePerform sid) s = .next t ∧ SameMemory s t ∧ t.acts = s.acts ∧ t.net = s.net ∧
      wordState t k = some ((wordState s k).getD .empty) ∧ ∀ j, j ≠ k → wordState t j = wordState s j) ∧
    (x.kind = .fill ∨ x.kind = .single ∧ wordState s k ≠ none → wordState s k ≠ some .deferred →
      (∀ o ∈ s.ops, ∀ ofs ty z em, o.2.w ≠ .lds k ofs ty z em) →
      ∃ t, exec (.storePerform sid) s = .next t ∧ readDev t apr a e.width = e.pat.toNat % 2 ^ e.width ∧
        (∀ apr' o, Outside apr a e.width apr' o → devByte t apr' o = devByte s apr' o) ∧ (∀ j, j ≠ k → wordState t j = wordState s j) ∧
        wordState t k = none ∧ t.net = s.net ∧ t.ops = s.ops) ∧
    (x.kind = .single → wordState s k = none → ∃ u, exec (.storePerform sid) s = .next (partDone (holdAfterCommit u x
        (storeFault u x e .doubleWrite 0 (BitVec.ofNat 64 (wordBits s k))) sid) sid) ∧ SameMemory s u ∧ u.fe = s.fe ∧ u.stores = s.stores)

/-- An STF of a word that is not Full, or an STI of one, is about to be performed on device memory: alone at its bank, in a store buffer entry of one
part. -/
structure Fills (s : State) (sid : Nat) (x : Store) (e : StoreElem) (apr a : Nat) : Prop where
  store : lookup s.stores sid = some x ∧ mayPerform s sid x = true ∧ x.elems = [e] ∧ (x.kind = .fill ∨ x.kind = .single)
  place : locOf s e.leaf e.big e.va = .dev apr a ∧ apr ≤ 2 ∧ 0 < e.width ∧ Exists apr a e.width
  free  : Passes s (.store sid) [e.spot] ∧ overflowed s e.leaf e.big e.va = false ∧ lostLoc s (.dev apr a) = false ∧ ownedLoc s (.dev apr a) = none
  quiet : Quiet s

/-- Between `s` and `u` the store of `Fills` has written its bits and made its word Full, and no token has been sent. -/
def Filled (s u : State) (e : StoreElem) (apr a : Nat) : Prop :=
  readDev u apr a e.width = e.pat.toNat % 2 ^ e.width ∧ (∀ apr' o, Outside apr a e.width apr' o → devByte u apr' o = devByte s apr' o) ∧
  wordState u (cdaOf apr (a / 8) / 8) = none ∧ u.net = s.net ∧ u.acts = s.acts

/-- The forms that wait at a word, in arrival order, with the place, the type, the extension and the E of each. -/
def waitersOf (s : State) (k : Nat) : List (Nat × Op × Nat × Ty × Bool × Bool) :=
  s.ops.filterMap fun o => match o.2.w with
    | .lds w ofs ty z em => if w = k then some (o.1, o.2, ofs, ty, z, em) else none
    | _ => none

/-- R163 to R166: when an STF, or an STI of a word that is not Full, makes its word Full, the forms that wait at it get its element in arrival order, until
an LDS.E among them leaves it Empty. An LDI that had deferred on the word gets the element from its deferral entry, which is freed. -/
def FullEmptyAnswers : Prop :=
  ∀ (s : State) (sid apr a : Nat) (x : Store) (e : StoreElem), Fills s sid x e apr a →
    let k := cdaOf apr (a / 8) / 8
    (∀ n o ofs ty z em, wordState s k = some .empty → waitersOf s k = [(n, o, ofs, ty, z, em)] → (s.ops.map (·.1)).Nodup →
      (partOf s o.f.part).pstate = .running →
      ∃ u, Filled s u e apr a ∧ u.ops = s.ops ∧
        let t := sendBoth (dropOp u n) o.f (wordElem u k ofs ty z)
        exec (.storePerform sid) s = .next (partDone (if em then setWordState t k (some .empty) else t) sid)) ∧
    (∀ n o ofs ty z m p ofs' ty' z' em', wordState s k = some .empty →
      waitersOf s k = [(n, o, ofs, ty, z, true), (m, p, ofs', ty', z', em')] → (s.ops.map (·.1)).Nodup → (partOf s o.f.part).pstate = .running →
      ∃ u, Filled s u e apr a ∧ u.ops = s.ops ∧
        exec (.storePerform sid) s = .next (partDone (setWordState (sendBoth (dropOp u n) o.f (wordElem u k ofs ty z)) k (some .empty)) sid)) ∧
    (∀ n o ofs ty z m p ofs' ty' z' em', wordState s k = some .empty →
      waitersOf s k = [(n, o, ofs, ty, z, false), (m, p, ofs', ty', z', em')] → (s.ops.map (·.1)).Nodup → (partOf s o.f.part).pstate = .running →
      ∃ u, Filled s u e apr a ∧ u.ops = s.ops ∧
        let v := sendBoth (dropOp u n) o.f (wordElem u k ofs ty z)
        (lookup v.ops m = some p → (partOf v p.f.part).pstate = .running →
          let t := sendBoth (dropOp v m) p.f (wordElem v k ofs' ty' z')
          exec (.storePerform sid) s = .next (partDone (if em' then setWordState t k (some .empty) else t) sid))) ∧
    (∀ (i ofs : Nat) (ty : Ty) (z : Bool) (w : Word) (f : Firing), wordState s k = some .deferred → wordBits s k / 2 ^ 32 = i → i < deferralSize s →
      deferralSize s ≤ noDeferral → waitersOf s k = [] → (partOf s f.part).pstate = .running → lookup s.dfr i = some f → ofs < 64 →
      f.blk = (f.blk.extractLsb' 14 46 ++ 0#14).signExtend 64 → f.node < 128 →
      deferralAt s i + 256 ≤ 8 * deviceBytes →
      (∀ j, j < 32 → Outside apr a e.width 0 (deferralAt s i / 8 + j)) →
      (∀ j, j < 3 → readArea s (deferralAt s i + 64 * j) 64 = ((deferralWords f ofs ty z w).getD j 0).toNat) →
      ∃ u g, Filled s u e apr a ∧ u.ops = s.ops ∧ u.dfr = eraseAt s.dfr i ∧
        g.part = f.part ∧ g.tag = f.tag ∧ g.blk = f.blk ∧ g.node = f.node ∧ g.act = f.act ∧
        let t := sendBoth u g (wordElem u k ofs ty z)
        (waitersOf t k = [] → exec (.storePerform sid) s = .next (partDone t sid)))

/-- R191, R192: FENCE resolves its LSID and waits; FENCE_COMPLETE answers it with 0 as soon as what it waits for has come, and not before. -/
def FenceForm : Prop :=
  (∀ (r : MRec) (s : State), Clean s r.c 0 →
    let b := begin s r.c 0
    let srv := r.c.fn.getLsbD 3 && s.regs.gen
    ∃ t, exec (.fence r) s = .next t ∧ lookup t.ops s.ids = some
        { f := b.cur, order := s.ids, w := .fence srv true (r.ordr != .acquire) (if srv then awaitedStores s b.cur else []) false } ∧
      t.net = s.net ∧ SameMemory s t ∧ Resolves s t r ∧ t = { s with cur := b.cur, ids := s.ids + 1, ops := t.ops, acts := t.acts }) ∧
  (∀ (s : State) (op : Nat) (o : Op) (srv loads stores again : Bool) (await : List Nat), lookup s.ops op = some o →
    o.w = .fence srv loads stores await again → (∀ q ∈ s.parked, q.what ≠ .fence op) →
    (fenceReady s o.f srv loads stores await = true →
      exec (.fenceComplete op) s = .next (sendBoth { s with ops := eraseAt s.ops op } o.f (scalarOf 0))) ∧
    (fenceReady s o.f srv loads stores await = false → (∀ d ∈ s.deltas, d.lost = false) → exec (.fenceComplete op) s = .next s))

/-- R203, R383, R409: PREF of a canonical address, FLSH of an address that resolves, and INVL send 0, resolve their LSID and change no
byte of memory. -/
def CacheForms : Prop :=
  ∀ (r : MRec) (s : State), Clean s r.c 0 → Quiet s →
    let b := begin s r.c 0
    let f := b.cur
    let completes (i : Instr) : Prop := ∃ u, exec i s = .next (sendBoth u f (scalarOf 0)) ∧ SameMemory s u ∧ Resolves s u r ∧ u.net = s.net ∧
      u.ops = s.ops ∧ u.stores = s.stores ∧ u.fe = s.fe ∧ u.poison = s.poison
    (canonical (elemAddr r f) = true → completes (.pref r)) ∧
    (∀ l, resolve b f { use := .read } [elemAddr r f] = .ok l → completes (.flsh r)) ∧ completes (.invl r)

/-- R168 to R170, R354, Tables 5.9 and 5.10: a circular-buffer form of an activation that performs, with no other form waiting in its sleeve,
acts at once and sends its result. CBIN sets the descriptor and makes every slot free; CBPT fills the next slot, CBAQ takes the oldest filled
one and CBRL gives one back, each moving one slot between the counts. CBPT without a free slot and CBAQ without a filled one wait. -/
def CircularBuffers : Prop :=
  ∀ (r : GRec) (s : State), Clean s r.c r.lit → performs s s.cur.act = true → NoneWaits s s.cur.sleeve →
    let f := (begin s r.c r.lit).cur
    let v := sleeveOf s f.sleeve
    let d := opWord f.a
    let j := (opWord f.a).toNat % 16
    let c := cbCounts v j
    let n := cbdSlots (lookupD v.cbd j 0)
    let acts (i : Instr) (res : Nat) (P : Sleeve → Prop) : Prop :=
      ∃ u, exec i s = .next (sendBoth u f (scalarOf (BitVec.ofNat 64 res))) ∧ P (sleeveOf u f.sleeve) ∧
        u = { s with cur := f, ids := s.ids + 1, sleeves := u.sleeves } ∧ ∀ k, k ≠ f.sleeve → sleeveOf u k = sleeveOf s k
    let waits (i : Instr) (w : Wait) : Prop :=
      exec i s = .next { s with cur := f, ids := s.ids + 1, ops := insertAt s.ops s.ids { f := f, w := w, order := s.ids } }
    (cbinBad v d = false → acts (.cbin r) (bits d.toNat 60 4) fun x =>
      lookupD x.cbd (bits d.toNat 60 4) 0 = d ∧ cbCounts x (bits d.toNat 60 4) = { free := cbdSlots d } ∧ x.scratch = v.scratch) ∧
    (cbinBad v d = true → exec (.cbin r) s = .next (raise (begin s r.c r.lit) f.act f.node { cls := .protection, cause := 8 })) ∧
    (c.free + c.fill + c.held ≤ 4096 → 0 < c.free → c.pidx < n → v.fwd = [] → acts (.cbpt r) c.pidx fun x =>
      cbCounts x j = { free := c.free - 1, fill := c.fill + 1, held := c.held, pidx := (c.pidx + 1) % n } ∧
      readScratch x (slotAt v j c.pidx) (cbdWidth (lookupD v.cbd j 0)) = (f.b.getD nullTok).val.toNat % 2 ^ cbdWidth (lookupD v.cbd j 0) ∧
      ∀ b m, 0 < m → slotAt v j c.pidx + cbdWidth (lookupD v.cbd j 0) ≤ b ∨ b + m ≤ slotAt v j c.pidx →
        readScratch x b m = readScratch v b m) ∧
    (c.free = 0 → waits (.cbpt r) (.cbpt j (f.b.getD nullTok))) ∧
    (c.free + c.fill + c.held ≤ 4096 → 0 < c.fill → acts (.cbaq r) (slotAt v j ((c.pidx + n - c.fill % n) % n)) fun x =>
      cbCounts x j = { free := c.free, fill := c.fill - 1, held := c.held + 1, pidx := c.pidx } ∧ x.scratch = v.scratch) ∧
    (c.fill = 0 → waits (.cbaq r) (.cbaq j)) ∧
    (c.free + c.fill + c.held ≤ 4096 → 0 < c.held → acts (.cbrl r) (c.free + 1) fun x =>
      cbCounts x j = { free := c.free + 1, fill := c.fill, held := c.held - 1, pidx := c.pidx } ∧ x.scratch = v.scratch)

/-- R412 to R415: with no other form waiting at the port, SEND puts its message, markers and all, at the end of the port's queue and sends 0,
unless the queue holds 64, when it waits; RECV sends the oldest message and takes it from the queue, or waits at an empty one. A port of a
quad that the named sleeve does not have is a BLOCK_SHAPE fault. -/
def StreamPorts : Prop :=
  ∀ (r : GRec) (s : State), Clean s r.c 0 →
    let b := begin s r.c 0
    let f := b.cur
    let waits (i : Instr) (w : Wait) : Prop :=
      exec i s = .next { s with cur := f, ids := s.ids + 1, ops := insertAt s.ops s.ids { f := f, w := w, order := s.ids } }
    (sendDest b f r.lit = none → exec (.send r) s = .next (raise b f.act f.node { cls := .blockShape })) ∧
    (∀ v k m, sendDest b f r.lit = some (v, k) → NoneWaits s v → f.a = some m →
      let q := lookupD (sleeveOf s v).ports k []
      (q.length < 64 → ∃ u, exec (.send r) s = .next (sendBoth u f (scalarOf 0)) ∧ lookupD (sleeveOf u v).ports k [] = q ++ [m] ∧
        (∀ i, i ≠ k → lookupD (sleeveOf u v).ports i [] = lookupD (sleeveOf s v).ports i []) ∧
        u = { s with cur := f, ids := s.ids + 1, sleeves := u.sleeves } ∧ ∀ i, i ≠ v → sleeveOf u i = sleeveOf s i) ∧
      (64 ≤ q.length → waits (.send r) (.send v k m))) ∧
    (let v := f.sleeve
     let k := r.lit.toNat
     let q := lookupD (sleeveOf s v).ports k []
     (quadCount (sleeveOf s v) ≤ k → exec (.recv r) s = .next (raise b f.act f.node { cls := .blockShape })) ∧
     (k < quadCount (sleeveOf s v) → NoneWaits s v →
       (∀ m l, q = m :: l → ∃ u, exec (.recv r) s = .next (sendBoth u f m) ∧ lookupD (sleeveOf u v).ports k [] = l ∧
         (∀ i, i ≠ k → lookupD (sleeveOf u v).ports i [] = lookupD (sleeveOf s v).ports i []) ∧
         u = { s with cur := f, ids := s.ids + 1, sleeves := u.sleeves } ∧ ∀ i, i ≠ v → sleeveOf u i = sleeveOf s i) ∧
       (q = [] → waits (.recv r) (.recv k))))

/-- R31, R41, R46 to R49, R63: TOKEN_DELIVERY of a token with right parity takes it from the network: to its node's entry in a live activation's
quad that has room, to a write slot, or, for a far token that no activation takes yet, to the matching store of its colour's home quad. -/
def TokenDelivery : Prop :=
  ∀ (s : State) (i : Nat) (n : NetToken), s.net[i]? = some n → n.ret = false → parityOf n.tok = n.par →
    (∀ a, n.dest = .node a → live s (colourKey n.part (tagColour n.tok.tag)) = true → actLive (actOf s a) = true → (actOf s a).twin = 0 →
      Matchable s a n → spilledFor s a n.tok.node = [] →
      quadEntries s (enOf (actOf s a) n.tok.node / 4) + 1 ≤ 2048 → quadBytes s (enOf (actOf s a) n.tok.node / 4) + 512 ≤ 262144 →
      ∃ t, exec (.tokenDelivery i) s = .next t ∧ Matched s t a n ∧
        t = { s with net := s.net.eraseIdx i, entries := t.entries, acts := t.acts }) ∧
    (∀ a j, n.dest = .slot a j → live s (colourKey n.part (tagColour n.tok.tag)) = true → actLive (actOf s a) = true → n.tok.v.poi = false → j < imgWcnt (actOf s a).image →
      (∀ y ∈ (actOf s a).slots, y.1 ≠ j) → n.both = false ∨ (actOf s a).twin = 0 →
      exec (.tokenDelivery i) s = .next (updAct { s with net := s.net.eraseIdx i } a fun x => { x with slots := x.slots ++ [(j, n.tok.v)] })) ∧
    (n.dest = .far → n.made = .keep → live s (colourKey n.part (tagColour n.tok.tag)) = true → farReceiver s n = none → toModePort s n = false →
      mayBeMode s n = false →
      let q := homeQuad (sleeveOf s n.sleeve) (tagColour n.tok.tag)
      quadEntries s q + 1 ≤ 2048 → quadBytes s q + 128 ≤ 262144 →
      exec (.tokenDelivery i) s = .next { s with net := s.net.eraseIdx i, far := s.far ++ [{ t := n, quad := q }] })

/-- R308: a token whose parity is wrong is sent again from the copy that its producer kept; TPTC counts the retry. When the copy's parity is
wrong too, the value is delivered poisoned, TPLC counts it, and the producing unit's bad bit is set. -/
def ParityRetry : Prop :=
  ∀ (s : State) (n : NetToken), parityOf n.tok ≠ n.par →
    (parityOf n.kept = n.keptPar →
      (parityCheck s n (some n.unit)).1.tok = n.kept ∧ (parityCheck s n (some n.unit)).2.regs.tptc = s.regs.tptc + 1 ∧
      (parityCheck s n (some n.unit)).2.regs.plog = 1#1 ++ 0#1 ++ n.unit) ∧
    (parityOf n.kept ≠ n.keptPar →
      (parityCheck s n (some n.unit)).1.tok = { n.kept with v := { n.kept.v with poi := true } } ∧
      (parityCheck s n (some n.unit)).2.regs.tplc = s.regs.tplc + 1 ∧ (parityCheck s n (some n.unit)).2.regs.plog = 1#1 ++ 1#1 ++ n.unit ∧
      (∀ e, e < 2048 → n.unit = enCoord e → enBad (parityCheck s n (some n.unit)).2 e = true))

/-- R62, R359, R387: a token that TOKEN_DELIVERY brings to port A of a JOIN or COMB counts in its node's one entry. The entry is complete in this cycle when the
count reaches N, or for a COMB of N 0 with a token marked EOS, and P is there where the record requires it. A COMB's value is the first that is not null,
combined with each later one that is not; the entry is poisoned once any token was. -/
def TokenCounting : Prop :=
  ∀ (s : State) (i a : Nat) (n : NetToken) (e0 : Entry), ReachesNode s i a n → n.tok.port = .a →
    let k := n.tok.node
    let w := imgRec (actOf s a).image k
    let count := (w.extractLsb' 0 16).toNat
    k < imgNcnt (actOf s a).image → (actOf s a).fired.getLsbD k = false → recOpc w = 0x05 ∨ recOpc w = 0x79 → consumes w .a = true →
    (findEntry s a k = some e0 ∨ findEntry s a k = none ∧ e0 = { quad := enOf (actOf s a) k / 4, en := enOf (actOf s a) k, act := a, node := k }) →
    e0.stamp = none → (e0.a = none → e0.count = 0) → (count ≠ 0 → e0.count < count) → (∀ y ∈ e0.parts, y.2.eos = false) →
    quadEntries s (enOf (actOf s a) k / 4) + 1 ≤ 2048 → quadBytes s (enOf (actOf s a) k / 4) + 512 ≤ 262144 →
    (recOpc w = 0x05 → count ≠ 0) →
    ∃ t e, exec (.tokenDelivery i) s = .next t ∧ t = { s with net := s.net.eraseIdx i, entries := t.entries } ∧
      e ∈ t.entries ∧ e.act = a ∧ e.node = k ∧ e.count = e0.count + 1 ∧ e.p = e0.p ∧
      (∀ y ∈ s.entries, ¬(y.act = a ∧ y.node = k) → y ∈ t.entries) ∧
      (let full := (if count = 0 then (arrival s a n).eos else decide (e0.count + 1 = count)) && (!requires w .p || e0.p.isSome)
       e.stamp = if full then some s.cycle else none) ∧
      ∃ v, e.a = some v ∧ v.poi = ((e0.a.getD nullTok).poi || (arrival s a n).poi) ∧
        v.kind = (let old := e0.a.getD nullTok
          if old.kind = .null then (arrival s a n).kind else if (arrival s a n).kind = .null ∨ recOpc w = 0x05 then old.kind
          else (combineVals w old (arrival s a n)).kind) ∧
        (recOpc w = 0x79 → v.ln = (let old := e0.a.getD nullTok
          if old.kind = .null then (arrival s a n).ln else if (arrival s a n).kind = .null then old.ln else (combineVals w old (arrival s a n)).ln) ∧
          v.val = (let old := e0.a.getD nullTok
          if old.kind = .null then (arrival s a n).val else if (arrival s a n).kind = .null then old.val else (combineVals w old (arrival s a n)).val))

/-- R122, Table 4.5: a token that TOKEN_DELIVERY brings to a mode port takes no entry; it is held with its producing activation, and takes effect at once when
that has committed. When it takes effect, a null one changes nothing, a poisoned one marks the node for its next firing, REC returns to the record's mode,
SAT 11 and a reserved RND are discarded and counted in DEADC, and any other value is the node's mode on that sleeve and on its lining (R304). -/
def ModeTokens : Prop :=
  (∀ (s : State) (i a : Nat) (n : NetToken), ReachesNode s i a n → n.tok.port = .c →
    let k := n.tok.node
    let w := imgRec (actOf s a).image k
    let v := (actOf s a).sleeve
    let b := (actOf s a).blk
    k < imgNcnt (actOf s a).image → modeForm (recOpc w) = true → consumes w .c = true →
    ((actOf s n.prod).st ≠ .committed → exec (.tokenDelivery i) s = .next (updAct { s with net := s.net.eraseIdx i } n.prod fun x =>
      { x with modes := x.modes ++ [(v, b, k, modeValue s v b k n.tok.v)] })) ∧
    ((actOf s n.prod).st = .committed →
      exec (.tokenDelivery i) s = .next (modeEffect { s with net := s.net.eraseIdx i } v b k (modeValue s v b k n.tok.v)))) ∧
  ∀ (s : State) (v u : Nat) (b : Word) (k : Nat) (x : TokVal), (lookup s.sleeves v).isSome = true → u = v ∨ u = (sleeveOf s v).liner →
    (lookup s.sleeves u).isSome = true →
    let y := sleeveOf (modeEffect s v b k x) u
    let val := x.word.toNat
    let others := (sleeveOf s u).modes.filter fun m => !(m.1 == b && m.2.1 == k)
    (x.kind = .null → modeEffect s v b k x = s) ∧
    (x.kind ≠ .null → x.poi = true → (b, k) ∈ y.badModes ∧ y.modes = (sleeveOf s u).modes) ∧
    (x.kind ≠ .null → x.poi = false → val / 128 % 2 = 1 → y.modes = others ∧ y.badModes = (sleeveOf s u).badModes) ∧
    (x.kind ≠ .null → x.poi = false → val / 128 % 2 = 0 → (val / 8 % 4 = 3 ∨ 6 ≤ val % 8) →
      modeEffect s v b k x = updPart s (sleeveOf s v).part fun p => { p with deadc := (partOf s (sleeveOf s v).part).deadc + 1 }) ∧
    (x.kind ≠ .null → x.poi = false → val / 128 % 2 = 0 → val / 8 % 4 ≠ 3 → val % 8 < 6 →
      y.modes = others ++ [(b, k, val % 8, val / 8 % 4)] ∧ y.badModes = (sleeveOf s u).badModes)

/-- R75, R77: a token that does not complete its set and reaches a quad without room is spilled: an unused entry of its partition's area holds its image, and
TKSC counts it. With no free entry, the activation that produced it parks with TAG_EXHAUST, and the token waits with it. -/
def TokenSpill : Prop :=
  ∀ (s : State) (i a : Nat) (n : NetToken), ReachesNode s i a n → Matchable s a n → Quiet s →
    let k := n.tok.node
    let w := imgRec (actOf s a).image k
    let q := enOf (actOf s a) k / 4
    let x := partOf s n.part
    (∃ p, p ≠ n.tok.port ∧ requires w p = true ∧ (findEntry s a k).bind (·.port p) = none) →
    quadRoom s q (partnerNeed s a k [n]) = false →
    (x.tksn ≠ 0 → (s.spilled.filter fun y => y.t.part == n.part).length < 2 ^ x.tksn → x.tksb.toNat + 1536 * 2 ^ x.tksn ≤ 8 * deviceBytes →
      ∃ t slot free, exec (.tokenDelivery i) s = .next t ∧ slot < 2 ^ x.tksn ∧ (∀ y ∈ s.spilled, y.t.part = n.part → y.slot ≠ slot) ∧
        t.spilled = s.spilled ++ [{ t := n, quad := q, slot := slot }] ∧ (partOf t n.part).tksc = x.tksc + 1 ∧
        t.net = s.net.eraseIdx i ∧ t.entries = s.entries ∧ t.acts = s.acts ∧ t.far = s.far ∧
        (∀ j, j < 24 → readArea t (x.tksb.toNat + 1536 * slot + 64 * j) 64 = ((spillWords n free).getD j 0).toNat)) ∧
    (x.tksn = 0 ∨ 2 ^ x.tksn ≤ (s.spilled.filter fun y => y.t.part == n.part).length → n.prod ≠ 0 → actLive (actOf s n.prod) = true →
      exec (.tokenDelivery i) s =
        .next (park { s with net := s.net.eraseIdx i } n.prod n.prodNode { cls := .tagExhaust } (.token n q)))

/-- R75: TOKEN_REFILL returns the first spilled token of its quad once the quad's occupancy is below OFF: its node's entry holds it, and TKRC
counts it. -/
def TokenRefill : Prop :=
  ∀ (s : State) (i a : Nat) (x : Spilled), Quiet s → s.spilled[i]? = some x → mayRefill s i x = true → parityOf x.t.tok = x.t.par → x.t.dest = .node a →
    Matchable s a x.t →
    ∃ t, exec (.tokenRefill i) s = .next t ∧ Matched s t a x.t ∧ t.spilled = s.spilled.eraseIdx i ∧
      (partOf t x.t.part).tkrc = (partOf s x.t.part).tkrc + 1 ∧
      t = { s with spilled := t.spilled, parts := t.parts, entries := t.entries, acts := t.acts, l2 := t.l2, victim := t.victim, misses := t.misses }

/-- R21, R43, R45, R79, R85: ACTIVATION_START maps a Predicted or Running activation that may start, whose image is verified and needs no lining, when
it is its colour's turn, on as many good node slots as its block has nodes, no two the same, and puts the matched set of every start trigger
into its EN's queue. Each entry of the block's read table sends a token with the register's value to each of its node targets: a G register as
the activation starts, and an F or W register, a W register cut to the lane grant, of an activation that is Running. -/
def ActivationStart : Prop :=
  ∀ (s : State) (a : Nat) (img : Image), let x := actOf s a
    mayStart s x = true → turnOver s x = false → x.st = .predicted ∨ x.st = .running → imageFor s x.sleeve x.blk = some img → imgLine img = false →
    x.loop = 0 → imgNcnt img ≤ ((freeSlots (sleeveOf s x.sleeve)).filter fun k => cacheTakes s x.sleeve (k / 64) (x.blk, img)).length →
    (freeSlots (sleeveOf s x.sleeve)).Nodup → lookup s.acts 0 = none →
    (∀ m ∈ (sleeveOf s x.sleeve).maps, m.blk ≠ x.blk) → (∀ w ∈ s.far, w.t.tok.tag ≠ x.tag ∨ w.t.tok.blk ≠ x.blk) →
    (lookup s.sleeves x.sleeve).isSome = true →
    ∃ t, exec (.activationStart a) s = .next t ∧ (actOf t a).started = true ∧ (actOf t a).image = img ∧ (actOf t a).st = x.st ∧
      (actOf t a).grant = (colourOf s x.colour).grant ∧ (actOf t a).place.length = imgNcnt img ∧ (actOf t a).place.Nodup ∧
      (∀ k ∈ (actOf t a).place, k ∈ freeSlots (sleeveOf s x.sleeve)) ∧
      (∀ k, k < imgNcnt img → recAr (imgRec img k) = 0 → recPm (imgRec img k) = 0 →
        ∃ e ∈ t.entries, e.act = a ∧ e.node = k ∧ e.en = (actOf t a).place.getD k 0 / 16 ∧ e.stamp = some s.cycle) ∧
      (∀ i, i < imgRcnt img → let e := imgRead img i
        let r := bits e 24 6
        ∀ v : TokVal, (bits e 30 2 = 2 ∧ v = scalarOf (lookupD (sleeveOf s x.sleeve).g r 0)) ∨
          (x.st = .running ∧ x.reads = false ∧ (threadOf s x.part x.tag).inner = [] ∧
            (bits e 30 2 = 0 ∧ v = scalarOf (lookupD (colourOf s x.colour).f r 0) ∨
             bits e 30 2 = 1 ∧ v = (wideToken (lookupD (colourOf s x.colour).w r 0)).cut (colourOf s x.colour).grant)) →
        ∀ c ∈ [bits e 12 12, bits e 0 12], ∀ k p g, Target.ofCode (BitVec.ofNat 12 c) = some (.node k p g) →
          ∃ n ∈ t.net, n.dest = .node a ∧ n.tok = { tag := x.tag, blk := x.blk, node := k.toNat, port := p, v := v } ∧ n.par = parityOf n.tok) ∧
      (∃ m ∈ (sleeveOf t x.sleeve).maps, m.blk = x.blk ∧ m.place = (actOf t a).place ∧ m.img = img) ∧ SameMemory s t ∧
      ∀ b, b ≠ a → actOf t b = actOf s b

/-- R11, R102, R103: BLOCK_FETCH_VERIFY of a block whose 64 sectors read well keeps the image in the cache of a quad of the sleeve that has room when it passes the checks of
verification, and otherwise takes the BAD_ENCODING fault with the location that fails first. -/
def BlockFetch : Prop :=
  ∀ (s t : State) (a v : Nat) (poi : List Bool), let x := actOf s a
    actLive x = true → x.started = false → x.isTwin = false → x.st ≠ .held → x.st ≠ .parked → x.deferred = [] →
    imageFor s x.sleeve x.blk = none → (partOf s x.part).pstate = .running → x.blk.toNat % 16384 = 0 → prefetchedOf s x.sleeve x.blk = none →
    agentSectors s (sleeveTlb s x.sleeve) x.part (supervisor s x.part) .fetch x.blk true 64 = .ok v poi t → (∀ b ∈ poi, b = false) →
    prefetchedOf t x.sleeve x.blk = none → t.acts = s.acts →
    (∀ y ∈ t.loops, y.2.head ≠ x.blk) → (∀ w ∈ t.far, w.t.tok.blk ≠ x.blk) → (∀ n ∈ t.unsorted, n.tok.blk ≠ x.blk) →
    (lookup t.sleeves x.sleeve).isSome = true → imageFor t x.sleeve x.blk = none →
    (verify (BitVec.ofNat 16384 v) x.blk (usable t 0) = none → ∀ q, fetchQuad t x.sleeve (x.blk, BitVec.ofNat 16384 v) = some q →
      (lookupD (sleeveOf t x.sleeve).images q []).length + (aheadOn t x.sleeve q).length < 32 →
      exec (.blockFetchVerify a) s = .next (updSleeve t x.sleeve fun y =>
        { y with images := insertAt y.images q (lookupD y.images q [] ++ [(x.blk, BitVec.ofNat 16384 v)]) })) ∧
    (∀ loc, verify (BitVec.ofNat 16384 v) x.blk (usable t 0) = some loc → ∃ u, exec (.blockFetchVerify a) s = .next
      (raise u a 0 { cls := .badEncoding, src := 4, fetch := true, info := BitVec.ofNat 64 loc, coord := sleeveCoord t x.sleeve }) ∧
      u.acts = t.acts ∧ u.mem = t.mem)

/-- R53, R68, R104: PREDICT_SUCCESSOR adds one Predicted activation of the block at the end of a thread that holds at most three, when no record of
its last block can still enter a loop, and
IMAGE_PREFETCH keeps an image that passes verification for a later fetch; neither sends a token or changes any other activation. -/
def Prediction : Prop :=
  (∀ (s : State) (a : Nat) (blk : Word), let x := actOf s a
    let h := threadOf s x.part x.tag
    actLive x = true → x.isTwin = false → h.acts.getLast? = some a → h.acts.length ≤ 3 → x.exits = [] → x.pushed = none → entersNoLoop s x = true →
    x.st ≠ .held → (partOf s x.part).pstate = .running → (colourOf s x.colour).held = false →
    ∃ t, exec (.predictSuccessor a blk) s = .next t ∧ (threadOf t x.part x.tag).acts = h.acts ++ [s.ids] ∧ (actOf t s.ids).st = .predicted ∧
      (actOf t s.ids).blk = blk ∧ (actOf t s.ids).tag = x.tag ∧ (actOf t s.ids).pred = a ∧ (actOf t s.ids).seq = h.next ∧
      (∀ b, b ≠ s.ids → actOf t b = actOf s b) ∧ t = { s with ids := s.ids + 1, acts := t.acts, threads := t.threads }) ∧
  (∀ (s t : State) (v n : Nat) (blk : Word) (poi : List Bool), let p := (sleeveOf s v).part
    prefetchable s v blk = true → (partOf s p).pstate = .running →
    agentSectors s (sleeveTlb s v) p (supervisor s p) .fetch blk false 64 = .ok n poi t → (∀ b ∈ poi, b = false) →
    verify (BitVec.ofNat 16384 n) blk (usable s 0) = none →
    exec (.imagePrefetch v blk) s = .next { t with prefetched := t.prefetched ++ [(v, blk, BitVec.ofNat 16384 n)] })

/-- R54, R58, R394: ITERATION_START starts the next iteration of a loop that its window admits, with a Predicted activation at the head under
the tag one level deeper; LCNT_ITERATION_TOKEN sends the next index of a counted loop to the head under that index's tag. -/
def LoopEvents : Prop :=
  ∀ (s : State) (l : Nat) (x : Loop), lookup s.loops l = some x → (partOf s x.part).pstate = .running →
    (∀ j n, x.next = j → x.counted = none → n.prod ≠ 0 → x.waiting = [(j, n)] → admits x j = true → headQuad s x n.tok.node = none →
      (colourOf s (colourKey x.part (tagColour x.parent))).held = false →
      (∀ a ∈ (threadOf s x.part (iterTag x j)).acts, (actOf s a).st ≠ .held) → n.tok.port ≠ .c → n.tok.tag = iterTag x j → n.part = x.part →
      (∀ y ∈ s.acts, y.2.tag ≠ iterTag x j ∨ y.2.part ≠ x.part) →
      let q := homeQuad (sleeveOf s n.sleeve) (tagColour n.tok.tag)
      quadEntries s q + 1 ≤ 2048 → quadBytes s q + 128 ≤ 262144 →
      ∃ t, exec (.iterationStart l) s = .next t ∧ (loopOf t l).next = j + 1 ∧ (loopOf t l).waiting = [] ∧
        (∃ w ∈ t.far, w.t.tok = n.tok ∧ w.quad = q) ∧
        (∃ b, (threadOf t x.part (iterTag x j)).acts = [b] ∧ (threadOf t x.part (iterTag x j)).iter = j ∧
          (threadOf t x.part (iterTag x j)).loop = l ∧ (threadOf t x.part (iterTag x j)).entryNode = n.tok.node ∧ (actOf t b).st = .predicted ∧ (actOf t b).blk = x.head ∧ (actOf t b).creator = n.prod)) ∧
    (∀ n k p g, x.counted = some n → x.genNext < n → admits x x.genNext = true → x.quad ∉ s.throttled → x.gen.com.t0 = .far k p g →
      actLive (actOf s x.gen.act) = true → p ≠ .c →
      ∃ t m, exec (.lcntIterationToken l) s = .next t ∧ (loopOf t l).genNext = x.genNext + 1 ∧ t.net = s.net ++ [m] ∧ m.dest = .far ∧
        m.tok = { tag := iterTag x x.genNext, blk := x.head, node := k.toNat, port := p, v := scalarOf (BitVec.ofNat 64 x.genNext) } ∧
        t = { s with loops := t.loops, net := t.net })

/-- R43, R57, R66, R68: ACTIVATION_COMMIT of an activation that may commit makes it committed: its frame writes stand in the colour's frame, its
stores are released, and its thread goes on with one Predicted activation at the block of its exit. No byte of memory changes. -/
def CommitToBlock : Prop :=
  ∀ (s : State) (a node e : Nat) (blk : Word), let x := actOf s a
    PlainCommit s a → x.exits = [(e, node, .block blk)] → (threadOf s x.part x.tag).acts = [a] →
    s.ids ≠ a → (lookup s.sleeves x.sleeve).isSome = true →
    ∃ t b, exec (.activationCommit a) s = .next t ∧ (actOf t a).st = .committed ∧ (threadOf t x.part x.tag).acts = [b] ∧
      (threadOf t x.part x.tag).committed = (threadOf s x.part x.tag).committed + 1 ∧
      (actOf t b).st = .predicted ∧ (actOf t b).blk = blk ∧ (actOf t b).tag = x.tag ∧ (actOf t b).pred = a ∧
      FrameWritten s t a ∧ StoresReleased s t a ∧ (∀ apr o, devByte t apr o = devByte s apr o) ∧ t.podMem = s.podMem ∧
      (∀ k, k ≠ a → k ≠ b → actOf t k = actOf s k)

/-- R42, R66, R255: the commit of an exit from the colour sends the colour to Ending; COLOUR_FREE then returns its number once everything of it has
ended: the colour, its activations, threads and waiting tokens are gone, and with a root colour's DONE record its cookie and F0 to F3. -/
def ColourEnds : Prop :=
  (∀ (s : State) (a node e : Nat), let x := actOf s a
    PlainCommit s a → x.exits = [(e, node, .endColour)] → (colourOf s x.colour).st = .resident →
    (lookup s.sleeves x.sleeve).isSome = true → (∀ y ∈ s.acts, y.2.colour = x.colour → y.1 = a) →
    (∀ q ∈ s.parked, (parkedColour s q).1 ≠ x.colour) →
    ∃ t, exec (.activationCommit a) s = .next t ∧ (actOf t a).st = .committed ∧ (colourOf t x.colour).st = .ending ∧
      FrameWritten s t a ∧ StoresReleased s t a ∧ (∀ apr o, devByte t apr o = devByte s apr o) ∧ t.podMem = s.podMem) ∧
  (∀ (s : State) (p n : Nat) (c : Colour), let k := colourKey p n
    lookup s.colours k = some c → c.part = p → c.num = n → colourOver s k c = true → (partOf s p).pstate ≠ .frozen →
    (∀ o ∈ s.ops, o.2.w ≠ .ctxj k c.serial) →
    (c.root = none → ∃ t, exec (.colourFree p n) s = .next t ∧ t.colours = eraseAt s.colours k ∧
      (∀ y ∈ t.acts, y.2.colour = k → y.2.serial = c.serial → y.2.st ≠ .committed ∧ ∃ o ∈ s.hemOps, o.2.f.act = y.1) ∧ (∀ w ∈ t.far, ¬(w.t.part = p ∧ tagColour w.t.tok.tag = n)) ∧
      (∀ h ∈ t.threads, ¬(h.part = p ∧ tagColour h.tag = n)) ∧ SameMemory s t ∧ t.net = s.net) ∧
    (∀ r, c.root = some r → egressFull s r.queue = false → ∃ u, u.colours = eraseAt s.colours k ∧ u.queues = s.queues ∧ u.regs = s.regs ∧
      exec (.colourFree p n) s = .next (egress u r.queue 2 0 r.iseq
        [r.cookie, BitVec.ofNat 64 n, lookupD c.f 0 0, lookupD c.f 1 0, lookupD c.f 2 0, lookupD c.f 3 0])))

/-- R39, R312: COLOUR_RESIDENT places the first colour of the spill area of a home quad that has a free entry; SPAWN_RETRY_REISSUE creates a killed
child again under a free number with its draw key and its arguments. -/
def ColourPlacement : Prop :=
  (∀ (s : State) (p n : Nat) (c : Colour), let k := colourKey p n
    lookup s.colours k = some c → c.part = p → (c.st = .spilled ∨ c.st = .queued) → (partOf s p).pstate = .running →
    ((waitingColours s c.sleeve (homeQuad (sleeveOf s c.sleeve) c.num)).head?.map (·.1)) = some k →
    (residents s c.sleeve (homeQuad (sleeveOf s c.sleeve) c.num)).length < 64 →
    let u := if c.inArea then touchArea s (areaAddr s c) 16384 else s
    exec (.colourResident p n) s =
      .next { u with colours := insertAt u.colours k { c with st := .resident, active := s.cycle, slot := 0, inArea := false } }) ∧
  (∀ (s : State) (i : Nat) (c : Colour), s.retries[i]? = some c → mayCreate s c.sleeve = true → (partOf s c.part).pstate = .running →
    (s.colours.filter fun x => x.2.part == c.part).length < 65535 →
    (∀ q, (residents s c.sleeve q).length < 64 ∧ waitingColours s c.sleeve q = []) →
    ∃ t n, exec (.spawnRetryReissue i) s = .next t ∧ 1 ≤ n ∧ n ≤ 65535 ∧ (∀ x ∈ s.colours, x.2.part = c.part → x.2.num ≠ n) ∧
      t.retries = s.retries.eraseIdx i ∧
      (let d := colourOf t (colourKey c.part n)
       d.num = n ∧ d.st = .resident ∧ d.key = c.key ∧ d.f = c.args ∧ d.args = c.args ∧ d.sblk = c.sblk ∧ d.reissued = true ∧ d.retry = true) ∧
      ∃ a, (threadOf t c.part (rootTag n)).acts = [a] ∧ (actOf t a).st = .running ∧ (actOf t a).blk = c.sblk)

/-- R278, R279, R280: a fault of a live activation that is Running, Parked or Complete, of a class that neither parks nor kills, writes one record:
FSEQ goes up by one, the activation is Faulted and its colour held, the record is outstanding under the old FSEQ and names activation, colour
and node; PROTECTION and HEAVY_WITHOUT_LEAVE of an EN freeze the issuing sleeve under the record, and no other class does. -/
def FaultTaken : Prop :=
  ∀ (s : State) (a node : Nat) (i : FaultInfo), let x := actOf s a
    actLive x = true → x.isTwin = false → x.st ≠ .predicted → x.st ≠ .held → i.cls ≠ .poison →
    (lookup s.colours x.colour).isSome = true → (lookup s.sleeves x.sleeve).isSome = true →
    (∀ c ∈ s.colours, c.1 = x.colour → c.2.creator = 0 ∨ (actOf s c.2.creator).st = .committed) →
    (let n := (s.acts.map fun y => y.2.inbox.length).sum
     ∀ q, quadEntries s q + n ≤ 2048 ∧ quadBytes s q + 128 * n ≤ 262144) →
    let t := raise s a node i
    (partOf t x.part).fseq = (partOf s x.part).fseq + 1 ∧ (actOf t a).st = .faulted ∧ (colourOf t x.colour).held = true ∧
    (∃ r ∈ t.records, r.part = x.part ∧ r.fseq = (partOf s x.part).fseq.toNat ∧ r.act = a ∧ r.colour = x.colour ∧ r.serial = x.serial ∧
      r.info = faultAt s a node i ∧ r.frozen = (i.cls.freezes && i.src == 0) ∧ r.gone = decide ((partOf s x.part).fqn = 0)) ∧
    (∀ r ∈ s.records, r ∈ t.records) ∧
    (sleeveOf t x.sleeve).frozen =
      if i.cls.freezes && i.src == 0 then (sleeveOf s x.sleeve).frozen ++ [(partOf s x.part).fseq.toNat] else (sleeveOf s x.sleeve).frozen

/-- R67, R69, R278: a fault that an activation meets while it is Predicted or Held writes no record: the activation keeps it until it is Running.
A parking fault of a Running activation parks it under a record of its class and page, with the access, and nothing of the colour is held. -/
def FaultDeferredOrParked : Prop :=
  (∀ (s : State) (a node : Nat) (i : FaultInfo), let x := actOf s a
    x.isTwin = false → x.st = .predicted ∨ x.st = .held →
    raise s a node i = updAct s a fun y => { y with deferred := y.deferred ++ [{ info := raisedNow s (faultAt s a node i) }] }) ∧
  (∀ (s : State) (a node : Nat) (i : FaultInfo) (w : ParkedKind), let x := actOf s a
    x.st = .running → sharedRecord s x.part (faultAt s a node i) = none →
    let t := park s a node i w
    (actOf t a).st = .parked ∧ (partOf t x.part).fseq = (partOf s x.part).fseq + 1 ∧
    t.parked = s.parked ++ [{ part := x.part, fseq := (partOf s x.part).fseq.toNat, act := a, what := w }] ∧
    (∃ r ∈ t.records, r.part = x.part ∧ r.fseq = (partOf s x.part).fseq.toNat ∧ r.info = faultAt s a node i ∧ r.colour = x.colour ∧ r.frozen = false ∧
      r.parks = true) ∧
    t.colours = s.colours ∧ (∀ b, b ≠ a → actOf t b = actOf s b))

/-- R280, Table 9.6: with a fault queue and a free place, a record's eight words stand in it at its place, of which the first says class, cause,
source, the PARK, PREC, MFRZ, WR and FETCH bits, the level and the FSEQ. -/
def FaultRecordWritten : Prop :=
  ∀ (s : State) (p : Nat) (i : FaultInfo) (park prec mfrz : Bool), Quiet s → let x := partOf s p
    x.fqn ≠ 0 → x.fqn ≤ 16 → x.frecs = [] → (x.fseq.toNat + 2 ^ 32 - x.fack.toNat - 1 + 2 ^ 32) % 2 ^ 32 < 2 ^ x.fqn →
    x.fqb.toNat + 512 * 2 ^ x.fqn ≤ 8 * deviceBytes →
    let t := (faultRecord s p i park prec mfrz).2
    let ws := faultWords i park prec mfrz x.fseq.toNat (i.time.getD s.cycle)
    (∀ j, j < 8 → readArea t (x.fqb.toNat + 512 * (x.fseq.toNat % 2 ^ x.fqn) + 64 * j) 64 = (ws.getD j 0).toNat) ∧
    (∀ b n, 0 < n → b + n ≤ 8 * deviceBytes → (b + n ≤ x.fqb.toNat + 512 * (x.fseq.toNat % 2 ^ x.fqn) ∨
      x.fqb.toNat + 512 * (x.fseq.toNat % 2 ^ x.fqn) + 512 ≤ b) → readDev t 0 b n = readDev s 0 b n) ∧
    (i.cause < 256 → i.src < 256 → i.lvl < 8 → let w := (ws.getD 0 0).toNat
      bits w 56 8 = i.cls.code ∧ bits w 48 8 = i.cause ∧ bits w 40 8 = i.src ∧ bits w 39 1 = park.toNat ∧ bits w 38 1 = prec.toNat ∧
      bits w 37 1 = mfrz.toNat ∧ bits w 36 1 = i.wr.toNat ∧ bits w 35 1 = i.fetch.toNat ∧ bits w 32 3 = i.lvl ∧ bits w 0 32 = x.fseq.toNat)

/-- R351, R444, R273, R372, R384: TRAP and BKPT take the SOFTWARE_TRAP and BREAKPOINT faults. ERET and FRZ at supervisor privilege wait for the
replays before them and arm a freeze; at user privilege both are PROTECTION faults of cause 7. -/
def TrapForms : Prop :=
  ∀ (r : GRec) (s : State), Clean s r.c 0 →
    let b := begin s r.c 0
    let f := b.cur
    exec (.trap r) s = .next (raise b f.act f.node { cls := .softwareTrap }) ∧
    exec (.bkpt r) s = .next (raise b f.act f.node { cls := .breakpoint }) ∧
    (supervisor s f.part = false → ∀ mk ∈ [Instr.eret, .frz, .tlbiPage, .tlbiPart, .pmig, .drcl],
      exec (mk r) s = .next (raise b f.act f.node { cls := .protection, cause := 7 })) ∧
    (supervisor s f.part = true →
      exec (.eret r) s = .next { b with ids := s.ids + 2,
                                        ops := insertAt s.ops (s.ids + 1) { f := f, w := .eret s.ids, order := s.ids + 1 } } ∧
      exec (.frz r) s = .next (updAct b f.act fun x => { x with frz := some (if r.c.ar = .start then none else some (opWord f.a)) }))

/-- R372: ERET_COMPLETE answers an ERET with 0 once every replay that an earlier SWR of its partition committed has been carried out and none
waits, and changes nothing before. -/
def EretReturn : Prop :=
  ∀ (s : State) (op : Nat) (o : Op) (n : Nat), lookup s.ops op = some o → o.w = .eret n →
    let p := o.f.part
    ((∀ x ∈ (partOf s p).replays, x.1 < n → ∀ k ∈ x.2, carriedOut s p k = true) →
      (∀ x ∈ (partOf s p).rply, x.2 ≠ 0 → n ≤ x.2) →
      ∃ u, exec (.eretComplete op) s = .next (sendBoth { u with ops := eraseAt s.ops op } o.f (scalarOf 0)) ∧
        u = { s with parts := u.parts } ∧ ∀ q, partOf u q = { partOf s q with replays := (partOf u q).replays }) ∧
    (∀ x ∈ (partOf s p).replays, x.1 < n → ∀ k ∈ x.2, carriedOut s p k = false → exec (.eretComplete op) s = .next s)

/-- R261, R262, R386: HVYA of 0 units sends the holding; a request beyond the configuration's budget, the partition's cap or 65,535 is
HEAVY_WITHOUT_LEAVE; any other waits at the regulator, whose head HEAVY_GRANT grants when both limits allow. HVYR gives units back, and all of
them for 0. Holdings are sent. -/
def BudgetForms : Prop :=
  (∀ (r : GRec) (s : State), Clean s r.c 0 →
    let b := begin s r.c 0
    let f := b.cur
    let k := (actOf s f.act).colour
    let h := (colourOf s k).holding
    let n := if r.c.ar = .start then r.lit.toNat else (opWord f.a).toNat % 65536
    let limit := (cfgOf s (sleeveOf s f.sleeve).cfg).budget
    (n = 0 → exec (.hvya r) s = .next (sent s r.c 0 (scalarOf (BitVec.ofNat 64 h)))) ∧
    (n ≠ 0 → limit < n ∨ (partOf s f.part).hvcap < n ∨ 65535 < h + n →
      exec (.hvya r) s = .next (raise b f.act f.node { cls := .heavyWithoutLeave })) ∧
    (n ≠ 0 → n ≤ limit → n ≤ (partOf s f.part).hvcap → h + n ≤ 65535 →
      exec (.hvya r) s = .next (updPart { b with ids := s.ids + 1, ops := insertAt s.ops s.ids { f := f, w := .hvya n, order := s.ids } } f.part
        fun x => { x with regulator := x.regulator ++ [s.ids] })) ∧
    (let left := if n = 0 then 0 else h - n
     exec (.hvyr r) s = .next (sendBoth (updColour b k fun c => { c with holding := left }) f (scalarOf (BitVec.ofNat 64 left))))) ∧
  (∀ (s : State) (p k n order : Nat) (f : Firing) (rest : List Nat), (partOf s p).regulator = k :: rest →
    lookup s.ops k = some { f := f, w := .hvya n, order := order } →
    let c := (sleeveOf s f.sleeve).cfg
    let h := (colourOf s (actOf s f.act).colour).holding + n
    ((partOf s p).pstate = .running → configUnits s c + n ≤ (cfgOf s c).budget → unitsHeld s p + n ≤ (partOf s p).hvcap →
      ∃ u, exec (.heavyGrant p) s = .next (sendBoth u f (scalarOf (BitVec.ofNat 64 h))) ∧ (partOf u p).regulator = rest ∧
        u.ops = eraseAt s.ops k ∧ u = { s with parts := u.parts, colours := u.colours, ops := u.ops } ∧
        ((lookup s.colours (actOf s f.act).colour).isSome = true → (colourOf u (actOf s f.act).colour).holding = h) ∧
        ∀ j, j ≠ (actOf s f.act).colour → colourOf u j = colourOf s j) ∧
    ((cfgOf s c).budget < configUnits s c + n ∨ (partOf s p).hvcap < unitsHeld s p + n → exec (.heavyGrant p) s = .next s))

/-- R276: TLBI at supervisor privilege removes the translations of its page, or all of its partition, from every cache at once, and waits;
TLBI_COMPLETE answers 0 when no access that used them is left, and not before. -/
def TlbiForms : Prop :=
  (∀ (r : GRec) (s : State) (c : TlbAt) (va : Word), Clean s r.c 0 → supervisor s s.cur.part = true → (∀ x ∈ s.stores, x.2.committed = true) →
    let f := (begin s r.c 0).cur
    ∀ x ∈ [(Instr.tlbiPage r, some (opWord f.a)), (.tlbiPart r, none)],
      ∃ t, exec x.1 s = .next t ∧ lookup t.ops s.ids = some { f := f, w := .tlbi x.2 (awaitedBy s f.part x.2), order := s.ids } ∧
        (∀ p, p ≠ f.part → tlbLookup t c p va = tlbLookup s c p va) ∧
        (∀ e, tlbLookup t c f.part va = some e → ∀ a, x.2 = some a → e.va ≠ pageBase a e.big) ∧
        (x.2 = none → tlbLookup t c f.part va = none) ∧
        t = { s with cur := f, ids := s.ids + 1, ops := t.ops, walks := t.walks, tlbQuad := t.tlbQuad, tlbGrid := t.tlbGrid, tlbColl := t.tlbColl }) ∧
  (∀ (s : State) (op order : Nat) (f : Firing) (page : Option Word) (await : List Nat),
    lookup s.ops op = some { f := f, w := .tlbi page await, order := order } →
    (tlbiHeld s op f.part page await = false →
      exec (.tlbiComplete op) s = .next (sendBoth { s with ops := eraseAt s.ops op } f (scalarOf 0))) ∧
    (tlbiHeld s op f.part page await = true → exec (.tlbiComplete op) s = .next s))

/-- R273, R425, R427, R428, Table 14.5: SRD sends the register as it stands, when its table lets its privilege read it, and SWR notes the write,
which takes effect with the commit; each is a PROTECTION fault of cause 7 where the table asks for supervisor privilege. A REGISTER_WRITE acts
at once. -/
def RegisterForms : Prop :=
  ∀ (r : GRec) (s : State), Clean s r.c 0 →
    let b := begin s r.c 0
    let f := b.cur
    let num := if r.c.ar = .start then r.lit.toNat % 65536 else (opWord f.a).toNat % 65536
    let bad := raise b f.act f.node { cls := .protection, cause := 7 }
    (supervisor s f.part = true ∨ userReads num = true →
      exec (.srd r) s = .next (sent s r.c 0 (scalarOf (readReg s (some (f.part, f.sleeve)) num)))) ∧
    (supervisor s f.part = false → userReads num = false → exec (.srd r) s = .next bad) ∧
    (supervisor s f.part = true ∨ swrWrites f.part (r.lit.toNat % 65536) = false →
      exec (.swr r) s = .next (sendBoth (updAct b f.act fun x => { x with swrs := x.swrs ++ [(f.node, r.lit.toNat % 65536, opWord f.a)] })
        f (scalarOf 0))) ∧
    (supervisor s f.part = false → swrWrites f.part (r.lit.toNat % 65536) = true → exec (.swr r) s = .next bad) ∧
    ∀ num v p q, ∀ via ∈ [Via.mgmt, .swr p q], exec (.registerWrite num v via) s = .next (writeReg s num v via)

/-- R144, R145, Table 6.6: pointer arithmetic on 64-bit bit addresses wraps modulo 2^64; PALN clears the low bits that its operand counts; PBYT and
PBIT turn a bit address into a signed byte address and back; PCLS gives the alignment class of an element, 3 for a width that is none. -/
def PointerForms : Prop :=
  ∀ (r : GRec) (s : State) (x y : TokVal), operandsOf r 2 s.cur = [x, y] → Clean s r.c r.lit →
    let a := x.word
    let b := y.word
    let gives (i : Instr) (v : Word) : Prop := exec i s = .next (sent s r.c r.lit (scalarOf v))
    gives (.padd r) (a + b) ∧ gives (.pdif r) (a - b) ∧
    gives (.paln r) (BitVec.ofNat 64 (a.toNat / 2 ^ (b.toNat % 64) * 2 ^ (b.toNat % 64))) ∧
    gives (.pbyt r) (BitVec.ofInt 64 (a.toInt / 8)) ∧ gives (.pbit r) (BitVec.ofNat 64 (a.toNat * 8)) ∧
    (let w := b.toNat % 128
     let last := a.toNat + w - 1
     gives (.pcls r) (if w = 0 ∨ 64 < w then 3 else if a.toNat / 64 = last / 64 then 0 else if a.toNat / 256 = last / 256 then 1 else 2))

/-- R32, R304, R306: LCMP of an activation without a lining passes A to T0 and B to T1, and null to both when one of them is null; with a lining
it notes its operands, and the original's waits for its twin's. Under a null P the original sends null to both, and
a twin sends nothing. -/
def LiningCompare : Prop :=
  ∀ (r : GRec) (s : State) (u v : TokVal), anyPoisoned s.cur = false →
    let b := begin s r.c 0
    let f := b.cur
    let x := actOf s f.act
    let noted := updAct b f.act fun y => { y with lcmps := y.lcmps ++ [(f.node, f.en, u, v)] }
    (isNull s.cur.p = true → exec (.lcmp r) s = .next (if x.isTwin then b else sent s r.c 0 nullTok)) ∧
    (isNull s.cur.p = false → s.cur.a = some u → s.cur.b = some v → x.isTwin = false →
      (x.twin = 0 → anyNull s.cur = true → exec (.lcmp r) s = .next (sendBoth noted f nullTok)) ∧
      (x.twin = 0 → anyNull s.cur = false → r.c.tg = .keep → actLive x = true → (sendTarget noted f r.c.t0 u).acts = noted.acts →
        exec (.lcmp r) s = .next (sendTarget (sendTarget noted f r.c.t0 u) f r.c.t1 v)) ∧
      (x.twin ≠ 0 → (actOf s x.twin).lcmps = [] → x.twin ≠ f.act →
        exec (.lcmp r) s = .next { noted with ids := s.ids + 1, ops := insertAt s.ops s.ids { f := f, w := .lcmp, order := s.ids } }))

/-- R277, R408: PMIG at supervisor privilege reads its descriptor and locks the page: a present page of 64 KiB that is not locked and may be
migrated gets a lock with its old and its new entry, and the form waits; of a locked page the form sends 0. -/
def PageLock : Prop :=
  ∀ (r : GRec) (s : State) (p q : Part), Clean s r.c 0 → Quiet s → supervisor s s.cur.part = true → (opWord s.cur.a).toNat % 64 = 0 →
    let b := begin s r.c 0
    let f := b.cur
    resolve b f { use := .read, width := 64, unnamed := true } [opWord f.a, opWord f.a + 64] = .ok [p, q] → Local s [p, q] →
    poisonLoc s (partLoc s p) = false → poisonLoc s (partLoc s q) = false →
    let va := pageBase (BitVec.ofNat 64 (readLoc s (partLoc s p) 64)) false
    let new : Word := BitVec.ofNat 64 (readLoc s (partLoc s q) 64)
    ∀ l old loc, canonical va = true → walkTables s f.part va = (l, .leaf old false loc) → migrateBad s old new false = false →
    (lockedLoc s old false va = false → ∃ t, exec (.pmig r) s = .next t ∧
      t.locks = s.locks ++ [{ part := f.part, va := va, old := old, new := new }] ∧
      lookup t.ops s.ids = some { f := f, w := .pmig va (BitVec.ofNat 64 loc) new old 0, order := s.ids } ∧
      (∀ k, k ≠ s.ids → lookup t.ops k = lookup s.ops k) ∧ SameMemory s t ∧
      t = { s with cur := f, ids := s.ids + 1, ops := t.ops, locks := t.locks, l2 := t.l2, victim := t.victim, misses := t.misses }) ∧
    (lockedLoc s old false va = true → ∃ u, exec (.pmig r) s = .next (sendBoth u f (scalarOf 0)) ∧ SameMemory s u ∧
      u = { s with cur := f, l2 := u.l2, victim := u.victim, misses := u.misses })

/-- R200, R277: PMIG_SWITCH of a page whose lines no agent holds and whose new place is device memory that nothing holds copies every sector,
writes the new entry, removes the page's translations, releases the lock and answers 1, all in one step; memory outside the new place and
the entry is unchanged. -/
def PageSwitch : Prop :=
  ∀ (s : State) (op order p q : Nat) (f : Firing) (va loc new old : Word) (src dst : Nat → Nat), Quiet s →
    lookup s.ops op = some { f := f, w := .pmig va loc new old 0, order := order } → (partOf s f.part).pstate ≠ .frozen →
    pageLost s old va = none → pageLost s new va = none → pageOwned s old va = none → pageOwned s new va = none → leafProt new = false →
    p ≤ 2 → q ≤ 2 → (∀ x ∈ s.stores, x.2.committed = true) →
    (∀ k < 2048, sectorLoc s old va k = .dev p (src k) ∧ sectorLoc s new va k = .dev q (dst k) ∧
      src k % 256 = 0 ∧ dst k % 256 = 0 ∧ Exists p (src k) 256 ∧ Exists q (dst k) 256) →
    (∀ j < 2048, ∀ k < 2048, ∀ m < 32, ∀ n < 32, cdaOf p (src j / 8 + m) ≠ cdaOf q (dst k / 8 + n) ∧
      (cdaOf q (dst j / 8 + m) = cdaOf q (dst k / 8 + n) → j = k ∧ m = n)) →
    (∀ k < 2048, ∀ n < 32, ∀ i < 8, cdaOf q (dst k / 8 + n) ≠ cdaOf 0 (loc.toNat + i) ∧ cdaOf p (src k / 8 + n) ≠ cdaOf 0 (loc.toNat + i)) →
    Exists 0 (8 * loc.toNat) 64 →
    (∀ k < 2048, heldWrite { s with locks := s.locks.filter fun l => !(l.part == f.part && l.va == va) } new false
      (va + BitVec.ofNat 64 (256 * k)) = false) →
    ∃ u, exec (.pmigSwitch op) s = .next (sendBoth u f (scalarOf 1)) ∧
      (∀ k < 2048, ∀ n < 32, devByte u q (dst k / 8 + n) = devByte s p (src k / 8 + n)) ∧
      readDev u 0 (8 * loc.toNat) 64 = new.toNat ∧
      (∀ apr o, (∀ k < 2048, ∀ n < 32, cdaOf apr o ≠ cdaOf q (dst k / 8 + n)) → (∀ i < 8, cdaOf apr o ≠ cdaOf 0 (loc.toNat + i)) →
        devByte u apr o = devByte s apr o) ∧
      u.podMem = s.podMem ∧ u.locks = s.locks.filter (fun l => !(l.part == f.part && l.va == va)) ∧ lookup u.ops op = none ∧
      u.acts = s.acts ∧ u.colours = s.colours

/-- R316: DRCL at supervisor privilege of a line that no lost agent held sends 0; of one that is owner-lost, with B 0, the line is owned by no
agent and lost no more, every byte of memory reads as before, and 1 is sent. -/
def LineReclaim : Prop :=
  ∀ (r : GRec) (s : State) (p : Part) (l : List Part) (a : Nat), Clean s r.c 0 → Quiet s → supervisor s s.cur.part = true →
    let b := begin s r.c 0
    let f := b.cur
    (opWord f.b).toNat % 512 = 0 → resolve b f { use := .atomic, unnamed := true } [opWord f.a] = .ok (p :: l) → partLoc s p = .dev 0 a →
    (s.ownerLost.contains (a / 512) = false → exec (.drcl r) s = .next (sendBoth b f (scalarOf 0))) ∧
    (s.ownerLost.contains (a / 512) = true → opWord f.b = 0 → Passes b (formAt f) (spotsOf (p :: l)) → Exists 0 (512 * (a / 512)) 512 →
      ∃ u, exec (.drcl r) s = .next (sendBoth u f (scalarOf 1)) ∧ u.ownerLost = s.ownerLost.filter (· != a / 512) ∧
        u.dir = eraseAt s.dir (a / 512) ∧ (∀ apr o, apertureExists apr o = true → apr ≤ 2 → devByte u apr o = devByte s apr o) ∧
        u.podMem = s.podMem ∧ u.ops = s.ops ∧ u.acts = s.acts ∧ u.colours = s.colours)

/-- R208, R210 to R218, R437: a hem form on a sleeve with a ring segment, of an island below its size, within the ranges of its row and, for TMMA,
with 4 units held per island, sends its command to every island that it names and waits; TMMA's activation waits for its checks. Without
segment or island, or out of range, it is a BLOCK_SHAPE fault. -/
def HemIssue : Prop :=
  ∀ (r : TRec) (s : State), Clean s r.c 0 →
    let b := begin s r.c 0
    let f := b.cur
    let a := (opWord f.a).toNat
    let w := (islFmt r).ty.width
    let row := r.row.toNat
    let n := r.nrow.toNat
    let count := if r.aux.getLsbD 1 then n else (tsclLanes (f.b.getD nullTok)).length
    ∀ x ∈ ([(.tlda r, 0, 1024 * row + 8 * r.col.toNat + w * (tldaElems r (opA f)).length ≤ 2 ^ 22),
            (.tldb r, 0, row + 16 * w ≤ 4096),
            (.tscl r, 0, (r.aux.getLsbD 0 = false → row + count ≤ 64) ∧ (r.aux.getLsbD 1 = true → (opWord f.b).toNat % 32 = 0)),
            (.tmma r, 4, row + (w * n + 7) / 8 ≤ 4096),
            (.trot r, 0, True),
            (.tzro r, 0, row + rowsOf r ≤ 512),
            (.tacsRead r, 0, r.col.toNat ∈ [0, 32, 64, 96] ∧ n = 1 ∧ row < 512),
            (.tacsWrite r, 0, r.col.toNat + (tsclLanes (f.b.getD nullTok)).length ≤ 128 ∧ row < 512),
            (.tacsStore r, 0, r.col = 0 ∧ row + rowsOf r ≤ 512 ∧ a % 4096 + 4 * rowsOf r ≤ 4096),
            (.tcvq r, 0, row + n ≤ 64 ∧ a % 4096 + (r.c.ty.width * n + 7) / 8 ≤ 4096),
            (.twait r, 0, True)] : List (Instr × Nat × Prop)),
      let shape := raise b f.act f.node { cls := .blockShape }
      ((sleeveOf s f.sleeve).seg = none → exec x.1 s = .next shape) ∧
      ∀ seg, (sleeveOf s f.sleeve).seg = some seg →
        let isls := islandsNamed seg r
        (r.all = false → seg.2 ≤ r.isl.toNat → exec x.1 s = .next shape) ∧
        (r.all = true ∨ r.isl.toNat < seg.2 →
          ((colourOf s (actOf s f.act).colour).holding < x.2.1 * isls.length →
            exec x.1 s = .next (raise b f.act f.node { cls := .heavyWithoutLeave })) ∧
          (x.2.1 * isls.length ≤ (colourOf s (actOf s f.act).colour).holding →
            (¬x.2.2 → exec x.1 s = .next shape) ∧
            (x.2.2 → ∃ t, exec x.1 s = .next t ∧ Dispatched s t r x.1 isls ∧ (∀ k, k ≠ f.act → actOf t k = actOf s k) ∧
              ((lookup s.acts f.act).isSome = true →
                (actOf t f.act).checks = (actOf s f.act).checks ++ (if x.2.1 = 0 then [] else List.replicate isls.length s.ids)))))

/-- The state in which a hem form has been carried out at its EN (R208, R437): its command, with the NVER and SEED of its partition, is on its way to every
island that it names with both operands, and the form waits for the command's result. -/
def hemSent (s : State) (r : TRec) (i : Instr) (isls : List Nat) : State :=
  let b := begin s r.c 0
  let f := b.cur
  let p := partOf s f.part
  { b with
    ids := s.ids + 1
    ops := insertAt s.ops s.ids { f := f, w := .hem s.ids, order := s.ids }
    hemOps := insertAt s.hemOps s.ids { f := f, left := isls, result := scalarOf 0 }
    flights := s.flights ++ isls.map fun k =>
      { isl := k, cmd := { id := s.ids, instr := i, nver := p.nver, seed := p.seed }, a := operandToken f f.a, b := operandToken f f.b } }

/-- R208, R210 to R218, R437: each of the eleven hem forms (TLDA, TLDB, TSCL, TMMA, TROT, TZRO, TACS READ, TACS WRITE, TACS STORE, TCVQ and TWAIT), with operands that are neither poisoned nor null, on a sleeve with a ring segment, naming
all of its islands or one of them, within the ranges of its own row, completes at its EN in the state in which its command is on its way. -/
def HemFormsComplete : Prop :=
  ∀ (r : TRec) (s : State) (seg : Nat × Nat), Clean s r.c 0 → (sleeveOf s s.cur.sleeve).seg = some seg → r.all = true ∨ r.isl.toNat < seg.2 →
    let w := (islFmt r).ty.width
    let row := r.row.toNat
    let n := r.nrow.toNat
    let count := if r.aux.getLsbD 1 then n else (tsclLanes (s.cur.b.getD nullTok)).length
    let isls := islandsNamed seg r
    let goes (i : Instr) : Prop := exec i s = .next (hemSent s r i isls)
    (1024 * row + 8 * r.col.toNat + w * (tldaElems r (opA s.cur)).length ≤ 2 ^ 22 → goes (.tlda r)) ∧
    (row + 16 * w ≤ 4096 → goes (.tldb r)) ∧
    ((r.aux.getLsbD 0 = false → row + count ≤ 64) → (r.aux.getLsbD 1 = true → (opWord s.cur.b).toNat % 32 = 0) → goes (.tscl r)) ∧
    (row + (w * n + 7) / 8 ≤ 4096 → 4 * isls.length ≤ (colourOf s (actOf s s.cur.act).colour).holding →
      exec (.tmma r) s = .next (updAct (hemSent s r (.tmma r) isls) s.cur.act fun x => { x with checks := x.checks ++ isls.map fun _ => s.ids })) ∧
    goes (.trot r) ∧
    (row + rowsOf r ≤ 512 → goes (.tzro r)) ∧
    (r.col.toNat % 32 = 0 → r.col.toNat ≤ 96 → n = 1 → row < 512 → goes (.tacsRead r)) ∧
    (r.col.toNat + (tsclLanes (s.cur.b.getD nullTok)).length ≤ 128 → row < 512 → goes (.tacsWrite r)) ∧
    (r.col = 0 → row + rowsOf r ≤ 512 → (opWord s.cur.a).toNat % 4096 + 4 * rowsOf r ≤ 4096 → goes (.tacsStore r)) ∧
    (row + n ≤ 64 → (opWord s.cur.a).toNat % 4096 + (r.c.ty.width * n + 7) / 8 ≤ 4096 → goes (.tcvq r)) ∧
    goes (.twait r)

/-- R211, R212, R215, R216, R218, R437: HEM_COMMAND_ARRIVAL at an island that waits for nothing carries the command out: TLDA writes its elements as
one packed run of the tile store and no other bit, TLDB fills a latch, TZRO clears rows, TACS reads, writes or stores them, TWAIT only
completes. -/
def HemCommands : Prop :=
  ∀ (s : State) (i isl : Nat) (c : HemCmd) (r : TRec) (a b : TokVal), Arrives s i isl c a b →
    let x := islandOf s isl
    let does (res : TokVal → TokVal) (P : Island → Prop) : Prop :=
      ∃ t y, exec (.hemCommandArrival i) s = .next t ∧ Ran s t i isl c res y ∧ P y
    let row := r.row.toNat
    let n := rowsOf r
    let w := (islFmt r).ty.width
    (c.instr = .tlda r → does id fun y => (let xs := tldaElems r a
      (∀ j, j < xs.length → tileBits y (1024 * row + 8 * r.col.toNat + w * j) w = xs.getD j 0 % 2 ^ w) ∧
      (∀ p m, 0 < m → m ≤ 1024 → p + m ≤ 1024 * row + 8 * r.col.toNat ∨ 1024 * row + 8 * r.col.toNat + w * xs.length ≤ p →
        tileBits y p m = tileBits x p m)) ∧ y = { x with tile := y.tile, bad := y.bad }) ∧
    (c.instr = .tldb r → (scaleEntry x (blockTag a)).bind (·.sb) = none → r.slot.toNat ≤ 1 → does id fun y =>
      (latchOf y r.slot.toNat).present = true ∧ (latchOf y r.slot.toNat).fmt = islFmt r ∧ (latchOf y r.slot.toNat).tag = blockTag a ∧
      (latchOf y r.slot.toNat).scale = none ∧ (latchOf y r.slot.toNat).rows = (List.range (16 * w)).map (fun k => lookupD x.tile (row + k) 0) ∧
      latchOf y (1 - r.slot.toNat) = latchOf x (1 - r.slot.toNat) ∧ y = { x with l0 := y.l0, l1 := y.l1 }) ∧
    (c.instr = .tzro r → does id fun y => (∀ k j, j < 128 → accAt y k j = if row ≤ k ∧ k < row + n then 0 else accAt x k j) ∧
      (∀ k, accPoi y k = (accPoi x k && !(decide (row ≤ k) && decide (k < row + n)))) ∧ y = { x with acc := y.acc, poi := y.poi }) ∧
    (c.instr = .tacsRead r → ∃ v : TokVal, v.kind = .vector ∧ v.ln = 32 ∧ v.poi = accPoi x row ∧
      (∀ e < 32, v.lane e = accAt x row (r.col.toNat + e)) ∧ does (fun o => { v with poi := v.poi || o.poi }) fun y => y = x) ∧
    (c.instr = .tacsWrite r → r.col.toNat + (tsclLanes b).length ≤ 128 → does id fun y =>
      (∀ k j, j < 128 → accAt y k j = if k = row ∧ r.col.toNat ≤ j ∧ j < r.col.toNat + (tsclLanes b).length
        then (tsclLanes b).getD (j - r.col.toNat) 0 % 2 ^ 32 else accAt x k j) ∧
      (∀ k, accPoi y k = (accPoi x k && k != row)) ∧ y = { x with acc := y.acc, poi := y.poi }) ∧
    (c.instr = .tacsStore r → let d := a.word.toNat % 4096
      d + 4 * n ≤ 4096 → ∃ q : Bool, (q = true ↔ ∃ k, row ≤ k ∧ k < row + n ∧ accPoi x k = true) ∧
      does (fun o => { scalarOf 0 with poi := q || o.poi }) fun y =>
        (∀ k < n, ∀ j < 128, tileBits y (1024 * (d + 4 * k) + 32 * j) 32 = accAt x (row + k) j) ∧
        (∀ p m, 0 < m → m ≤ 1024 → p + m ≤ 1024 * d ∨ 1024 * (d + 4 * n) ≤ p → tileBits y p m = tileBits x p m) ∧
        y = { x with tile := y.tile, bad := y.bad }) ∧
    (c.instr = .twait r → does id fun y => y = x)

/-- R213: what a TSCL does as it arrives. A scales, or with IND their addresses, stand in the entry of the block tag from vector ROW on; a B scale, or
with IND the value at its address, goes into every latch that holds the tag, and when none does it waits in the tag's entry. A TSCL that needs an
entry when all four are in use is held. -/
def HemScales : Prop :=
  ∀ (s : State) (i isl : Nat) (c : HemCmd) (r : TRec) (a b : TokVal), Arrives s i isl c a b → c.instr = .tscl r →
    let x := islandOf s isl
    let tag := blockTag a
    let row := r.row.toNat
    let old := (scaleEntry x tag).getD { tag := tag }
    let held : Prop := holdsTag x.l0 tag = true ∨ holdsTag x.l1 tag = true
    let room : Prop := (scaleEntry x tag).isSome = true ∨ x.scales.length < 4
    let does (P : Island → Prop) : Prop := ∃ t y, exec (.hemCommandArrival i) s = .next t ∧ Ran s t i isl c id y ∧ P y
    let gives (v : Lane) (y : Island) : Prop :=
      y = { x with l0 := if holdsTag x.l0 tag then { x.l0 with scale := some v } else x.l0
                   l1 := if holdsTag x.l1 tag then { x.l1 with scale := some v } else x.l1 }
    (r.aux.getLsbD 0 = false → r.aux.getLsbD 1 = false → room → does fun y => y = { x with scales := y.scales } ∧
      ∃ e, scaleEntry y tag = some e ∧ e.sb = old.sb ∧
        (∀ k, lookup e.sa k = if row ≤ k ∧ k < row + (tsclLanes b).length then some (BitVec.ofNat 32 ((tsclLanes b).getD (k - row) 0))
          else lookup old.sa k) ∧
        (∀ z, z ∈ e.ind ↔ z ∈ old.ind ∧ ¬(row ≤ z.1 ∧ z.1 < row + (tsclLanes b).length))) ∧
    (r.aux.getLsbD 0 = false → r.aux.getLsbD 1 = true → room → does fun y => y = { x with scales := y.scales } ∧
      ∃ e, scaleEntry y tag = some e ∧ e.sb = old.sb ∧
        (∀ k, lookup e.sa k = if row ≤ k ∧ k < row + r.nrow.toNat then none else lookup old.sa k) ∧
        (∀ z, z ∈ e.ind ↔ if row ≤ z.1 ∧ z.1 < row + r.nrow.toNat then z.2 = b.word + BitVec.ofNat 64 (32 * (z.1 - row)) else z ∈ old.ind)) ∧
    (r.aux.getLsbD 0 = true → r.aux.getLsbD 1 = false →
      (held → does (gives (BitVec.ofNat 32 (b.lane 0)))) ∧
      (¬held → room → does fun y => y = { x with scales := y.scales } ∧
        scaleEntry y tag = some { old with tag := tag, sb := some (BitVec.ofNat 32 (b.lane 0)) })) ∧
    (∀ (v : Lane) (q : Bool) (u : State), r.aux.getLsbD 0 = true → r.aux.getLsbD 1 = true →
      readScale { s with flights := s.flights.eraseIdx i } isl (cmdFiring s c.id).part b.word = .ok v q u → held →
      ∃ t y, exec (.hemCommandArrival i) s = .next t ∧ islandOf t isl = y ∧ gives v y ∧ (∀ k, k ≠ isl → islandOf t k = islandOf u k) ∧
        t = { u with islands := t.islands, hemOps := t.hemOps }) ∧
    (scaleEntry x tag = none → 4 ≤ x.scales.length → r.aux.getLsbD 0 = false ∨ ¬held → exec (.hemCommandArrival i) s = .next s)

/-- R125, R129, R206, R217: TCVQ quantises NROW accumulator rows from ROW of its SLOT on. It answers one scale per row, with poison when a row is
poisoned, and writes the elements as packed runs of 128 from row A[11:0] of the tile store on, and no other bit. -/
def HemQuantise : Prop :=
  ∀ (s : State) (i isl : Nat) (c : HemCmd) (r : TRec) (a b : TokVal), Arrives s i isl c a b → c.instr = .tcvq r → 0 < r.nrow.toNat →
    r.nrow.toNat ≤ 64 →
    let x := islandOf s isl
    let w := r.c.ty.width
    let n := r.nrow.toNat
    let d := 1024 * (a.word.toNat % 4096)
    let src (k : Nat) : Nat := 64 * r.slot.toNat + r.row.toNat + k
    let draw (k e : Nat) : Nat :=
      let p := d + 128 * w * k + w * e
      drawBits c.seed (BitVec.ofNat 64 (2 ^ 63 + segIndex s (cmdFiring s c.id) isl * 2 ^ 48 + r.slot.toNat * 2 ^ 40 + p / 1024 * 2 ^ 16 + p % 1024))
        (1#64 <<< 62) (r.aux.setWidth 64)
    let quant (k : Nat) : Nat × List Nat :=
      blockQuantise r.c.ty ((Rnd.ofCode (r.col.extractLsb' 0 3)).getD .rne) ((Sat.ofCode (r.col.extractLsb' 3 2)).getD .none) (draw k)
        ((List.range 128).map fun j => ofF32 (accAt x (src k) j))
    ∃ (t : State) (y : Island) (v : TokVal), exec (.hemCommandArrival i) s = .next t ∧
      Ran s t i isl c (fun o => { v with poi := v.poi || o.poi }) y ∧ v.kind = .vector ∧ v.ln = n ∧
      (v.poi = true ↔ ∃ k, k < n ∧ accPoi x (src k) = true) ∧ (∀ k, k < n → k < 32 → v.lane k = (quant k).1 % 2 ^ 32) ∧
      (∀ k < n, ∀ e < 128, tileBits y (d + 128 * w * k + w * e) w = (quant k).2.getD e 0 % 2 ^ w) ∧
      (∀ p m, 0 < m → m ≤ 1024 → p + m ≤ d ∨ d + 128 * w * n ≤ p → tileBits y p m = tileBits x p m) ∧
      y = { x with tile := y.tile, bad := y.bad }

/-- R214: TMMA_START of an island whose first command is a TMMA waits while its latch or its scales are missing; with both present, of one class,
each of its rows takes the promoted sums of its A vector against the latch's tile, no other row changes, the entry is freed, and the command
has completed. -/
def MatrixMultiply : Prop :=
  ∀ (s : State) (isl : Nat) (c : HemCmd) (r : TRec), (islandOf s isl).queue = [c] → c.instr = .tmma r → commandHeld s isl c = false →
    (partOf s (cmdFiring s c.id).part).pstate = .running →
    let x := islandOf s isl
    let tag := blockTag c.a
    let fa := (islFmt r).ty
    (tmmaLatch x tag = none ∨ tmmaEntry x tag r.nrow.toNat = none → exec (.tmmaStart isl) s = .next s) ∧
    (∀ l e o, tmmaLatch x tag = some l → tmmaEntry x tag r.nrow.toNat = some e → e.ind = [] → (islFmt r).cls = l.fmt.cls → e.tag = tag →
      lookup s.hemOps c.id = some o → ∃ t, exec (.tmmaStart isl) s = .next t ∧
      (let y := islandOf t isl
       y.queue = [] ∧ scaleEntry y tag = none ∧ y.tile = x.tile ∧ y.l0 = x.l0 ∧ y.l1 = x.l1 ∧
       (∀ i < r.nrow.toNat, ∀ j < 128, accAt y (64 * r.slot.toNat + i) j =
         promote c.nver ((List.range 128).map fun k => readElem fa false (tileBits x (1024 * r.row.toNat + 128 * fa.width * i + fa.width * k) fa.width))
           ((List.range 128).map fun k => readElem l.fmt.ty false (tileElem l k j)) (lookupD e.sa i 0).toNat (l.scale.getD 0).toNat
           (accAt x (64 * r.slot.toNat + i) j) % 2 ^ 32) ∧
       (∀ k j, j < 128 → (k < 64 * r.slot.toNat ∨ 64 * r.slot.toNat + r.nrow.toNat ≤ k) → accAt y k j = accAt x k j)) ∧
      (∀ k, k ≠ isl → islandOf t k = islandOf s k) ∧ lookup t.hemOps c.id = some { o with left := o.left.erase isl, last := isl } ∧
      t = { s with islands := t.islands, hemOps := t.hemOps, acts := t.acts })

/-- R219, R437: TROT_START, once every island of the segment has reached the rotation, moves each island's latch to the next one, and the last's to the
first; HEM_COMMAND_COMPLETE sends a result once no island is left, and not before; an activation whose colour has been freed goes then, if its
last command has completed. -/
def RotateAndComplete : Prop :=
  (∀ (s : State) (v : Nat) (seg : Nat × Nat) (c : HemCmd) (r : TRec), (sleeveOf s v).seg = some seg → 0 < seg.2 → r.slot.toNat ≤ 1 →
    (partOf s (sleeveOf s v).part).pstate = .running → c.instr = .trot r →
    (∀ k < seg.2, (islandOf s (seg.1 + k)).queue = [c] ∧ commandHeld s (seg.1 + k) c = false ∧ (islandOf s (seg.1 + k)).scales = []) →
    ∃ t, exec (.trotStart v) s = .next t ∧
      (∀ k < seg.2, latchOf (islandOf t (seg.1 + (k + 1) % seg.2)) r.slot.toNat = latchOf (islandOf s (seg.1 + k)) r.slot.toNat ∧
        (islandOf t (seg.1 + k)).queue = [] ∧ (islandOf t (seg.1 + k)).tile = (islandOf s (seg.1 + k)).tile ∧
        (islandOf t (seg.1 + k)).acc = (islandOf s (seg.1 + k)).acc) ∧
      (∀ k, k < seg.1 ∨ seg.1 + seg.2 ≤ k → islandOf t k = islandOf s k) ∧ t = { s with islands := t.islands, hemOps := t.hemOps }) ∧
  (∀ (s : State) (k : Nat) (o : HemOp) (p : Op), lookup s.hemOps k = some o → lookup s.ops k = some p →
    (partOf s o.f.part).pstate ≠ .frozen → unitCredits s (islCoord o.last) o.f = true →
    (o.left = [] →
      let t := sendBoth { s with hemOps := eraseAt s.hemOps k, ops := eraseAt s.ops k } { p.f with unit := some (islCoord o.last) } o.result
      exec (.hemCommandComplete k) s = .next (dropGhost t o.f.act) ∧
      (((lookup t.colours (actOf t o.f.act).colour).map (·.serial)) = some (actOf t o.f.act).serial → dropGhost t o.f.act = t) ∧
      dropGhost t o.f.act = { t with acts := (dropGhost t o.f.act).acts } ∧ ∀ b, b ≠ o.f.act → actOf (dropGhost t o.f.act) b = actOf t b) ∧
    (o.left ≠ [] → exec (.hemCommandComplete k) s = .next s))

/-- R17, R223, R230, R449: a data transfer on a sleeve with a transfer island, and for XTIL with a segment, joins the open batch of its colour, goes
out to the island over the hem channel and waits for its acceptance; without them it is a BLOCK_SHAPE fault. A 65th transfer first closes
the batch, and waits when 15 closed ones are not complete. HEM_COMMAND_ARRIVAL of a transfer whose operands have right parity and no poison
puts it in the island's queue. -/
def TransferForms : Prop :=
  (∀ (s : State) (i : Nat) (fl : HemFlight) (x : Xfer), s.flights[i]? = some fl → fl.xfer ≠ 0 → lookup s.xfers fl.xfer = some x →
    (partOf s fl.a.part).pstate ≠ .frozen → flightBehind s i fl = false → (∀ n ∈ [fl.a, fl.b, fl.c], parityOf n.tok = n.par ∧ n.tok.v.poi = false) →
    (∀ v, x.f.a = some v → fl.a.tok.v = v) → (∀ v, x.f.b = some v → fl.b.tok.v = v) → (∀ v, x.f.c = some v → fl.c.tok.v = v) →
    (∀ o ∈ s.ops, o.2.w ≠ .xferJoin) →
    exec (.hemCommandArrival i) s = .next { s with flights := s.flights.eraseIdx i, ids := s.ids + 1,
                                                   xfers := insertAt s.xfers fl.xfer { x with st := .queued, order := s.ids } }) ∧
  ∀ x ∈ [(Instr.xcpy, false), (.xtil, true), (.xgat, false), (.xsct, false), (.xfil, false)],
  ∀ (r : XRec) (s : State), Clean s r.c r.lit →
    let b := begin s r.c r.lit
    let f := b.cur
    let a := actOf s f.act
    let c := colourOf s a.colour
    let v := sleeveOf s f.sleeve
    (v.xisl = none ∨ x.2 = true ∧ v.seg = none → exec (x.1 r) s = .next (raise b f.act f.node { cls := .blockShape })) ∧
    (∀ k, v.xisl = some k → (x.2 = true → v.seg ≠ none) → NoBatchWaits s a.colour →
      ((openBatch c).nxfr < 64 ∨ closeHeld c = false → ∃ t n y, exec (x.1 r) s = .next t ∧ lookup t.xfers s.ids = some y ∧ y.f = f ∧
        y.instr = x.1 r ∧ y.xisl = k ∧ y.colour = a.colour ∧ y.st = .flying ∧ y.batch = n ∧
        (∃ fl, t.flights = s.flights ++ [fl] ∧ fl.xfer = s.ids ∧ fl.isl = k ∧ fl.a.tok.v = f.a.getD nullTok ∧ fl.b.tok.v = f.b.getD nullTok ∧
          fl.c.tok.v = f.c.getD nullTok ∧ ∀ m ∈ [fl.a, fl.b, fl.c], parityOf m.tok = m.par) ∧
        n = (if (openBatch c).nxfr < 64 then (openBatch c).num else ((openBatch c).num + 1) % 2 ^ 32) ∧
        (openBatch (colourOf t a.colour)).num = n ∧
        (openBatch (colourOf t a.colour)).nxfr = (if (openBatch c).nxfr < 64 then (openBatch c).nxfr + 1 else 1) ∧
        lookup t.ops (s.ids + 1) = some { f := f, w := .xferAccept s.ids, order := s.ids + 1 } ∧
        t = { s with cur := f, ids := s.ids + 2, ops := t.ops, xfers := t.xfers, colours := t.colours, flights := t.flights }) ∧
      (64 ≤ (openBatch c).nxfr → closeHeld c = true → exec (x.1 r) s = .next
        { b with ids := s.ids + 1, ops := insertAt s.ops s.ids { f := f, w := .xferJoin, order := s.ids } }))

/-- R223, R229, R449: TRANSFER_ACCEPT takes up an island's next transfer when fewer than eight run: the form sends the batch number and the transfer
runs; a transfer that fails its checks is over at once, and bit 32 of the number is set. -/
def TransferAcceptance : Prop :=
  ∀ (s : State) (xisl tid o : Nat) (x : Xfer) (p : Op), NextQueued s xisl tid x o p → x.batch < 2 ^ 32 →
    (∀ o ∈ s.ops, o.2.w ≠ .xferJoin) →
    let f := { p.f with unit := some (xislCoord xisl) }
    (rejects s x = none → fullWaits s x = none → 0 < unitCount s x → ∃ u, exec (.transferAccept xisl) s = .next (sendBoth u f (scalarOf (BitVec.ofNat 64 x.batch))) ∧
      lookup u.xfers tid = some { x with st := .running, fast := decide (2 ≤ (colourOf s x.colour).holding) } ∧
      u = { s with xfers := u.xfers, ops := eraseAt s.ops o }) ∧
    (∀ i, rejects s x = some i → rejectsFirst s x ≠ none ∨ fullWaits s x = none → NoBatchWaits s x.colour → awaitsRemote s tid = false →
      ∃ u, exec (.transferAccept xisl) s = .next (sendBoth u f (scalarOf (BitVec.ofNat 64 (2 ^ 32 + x.batch)))) ∧
        u.xfers = eraseAt s.xfers tid ∧ u.acts = s.acts)

/-- R227, R228, R450: the stream of XFIL repeats its 64-bit pattern. TRANSFER_UNIT_WRITE of a running transfer whose next unit lies in device memory
that its partition may write puts the unit's bits of the stream there and no others, and goes on to the next unit. -/
def TransferUnits : Prop :=
  (∀ (s : State) (x : Xfer) (r : XRec) (lo n : Nat), x.instr = .xfil r → n ≤ 256 → ∃ v, readStream s x lo n = .ok v false s ∧ v < 2 ^ n ∧
    ∀ i < n, v.testBit i = (opWord x.f.b).getLsbD ((lo + i) % 64)) ∧
  (∀ (s u : State) (tid apr a v lo n : Nat) (x : Xfer) (va : Word) (e : TlbEntry), Quiet s → lookup s.xfers tid = some x →
    (partOf s x.f.part).pstate = .running → xferReady s x = true → x.st = .running → x.slot = 0 → x.redo = [] → x.next + 1 < unitCount s x →
    (∀ r, x.instr ≠ .xsct r) → (∀ r, dataRec x.instr = some r → r.full = false) → unitSpan s x x.next = (lo, n) → 0 < n →
    readStream s x lo n = .ok v false u → u = { s with l2 := u.l2, victim := u.victim, misses := u.misses } → (dstSpace s x).at (pitch? x) lo = .mem va →
    va.toNat % 256 + n ≤ 256 → canonical va = true → tlbLookup s (xferTlb x) x.f.part va = some e →
    permission (supervisor s x.f.part) .write e.leaf = none → apertureBad s .write e.leaf e.big va n = false → leafProt e.leaf = false →
    Passes s (.xfer tid) [{ va := va, leaf := e.leaf, big := e.big }] → overflowed s e.leaf e.big va = false →
    locOf s e.leaf e.big va = .dev apr a → lostLoc s (.dev apr a) = false → ownedLoc s (.dev apr a) = none → apr ≤ 2 → Exists apr a n →
    ∃ t, exec (.transferUnitWrite tid) s = .next t ∧ readDev t apr a n = v % 2 ^ n ∧
      (∀ apr' o, Outside apr a n apr' o → devByte t apr' o = devByte s apr' o) ∧
      (∀ b m, 0 < m → Exists apr b m → a + n ≤ b ∨ b + m ≤ a → readDev t apr b m = readDev s apr b m) ∧ t.podMem = s.podMem ∧
      lookup t.xfers tid = some { x with next := x.next + 1 } ∧ t.acts = s.acts ∧ t.net = s.net)

/-- R230, R451, Table 7.9: XBAT closes the open batch of its colour and sends its number; XWAIT closes it and sends how many closed batches are not
complete once at most n are; XSTA sends the state, the flags, the transfers and the bits of a batch. -/
def BatchForms : Prop :=
  ∀ (r : XRec) (s : State), Clean s r.c r.lit →
    let b := begin s r.c r.lit
    let f := b.cur
    let k := (actOf s f.act).colour
    let c := colourOf s k
    let d := closeBatch c
    let m := (uncounted d).length
    (NoBatchWaits s k → closeHeld c = false →
      (openBatch d).num = ((openBatch c).num + 1) % 2 ^ 32 ∧ (openBatch d).nxfr = 0 ∧
      exec (.xbat r) s = .next (sendBoth { updColour b k closeBatch with ids := s.ids + 1 } f (scalarOf (BitVec.ofNat 64 (openBatch c).num))) ∧
      (m ≤ r.lit.toNat % 16 →
        exec (.xwait r) s = .next (sendBoth { updColour b k closeBatch with ids := s.ids + 1 } f (scalarOf (BitVec.ofNat 64 m)))) ∧
      (r.lit.toNat % 16 < m → exec (.xwait r) s = .next { updColour b k closeBatch with
        ids := s.ids + 1, ops := insertAt s.ops s.ids { f := f, w := .xwait (r.lit.toNat % 16) true, order := s.ids } })) ∧
    (NoBatchWaits s k → closeHeld c = true →
      exec (.xbat r) s = .next { b with ids := s.ids + 1, ops := insertAt s.ops s.ids { f := f, w := .xbat, order := s.ids } }) ∧
    (∃ w : Word, exec (.xsta r) s = .next (sent s r.c r.lit (scalarOf w)) ∧
      ((opA f).lane 0 = (openBatch c).num → (openBatch c).nxfr < 128 →
        bits w.toNat 62 2 = 0 ∧ bits w.toNat 52 7 = (openBatch c).nxfr ∧ bits w.toNat 0 52 = min (openBatch c).bits (2 ^ 52 - 1)) ∧
      (∀ y, (opA f).lane 0 ≠ (openBatch c).num → ((closedBatches c).find? fun z => z.num == (opA f).lane 0) = some y → y.nxfr < 128 →
        bits w.toNat 62 2 = (if (uncounted c).any fun z => z.num == y.num then 1 else 2) ∧ bits w.toNat 61 1 = y.stale.toNat ∧
        bits w.toNat 60 1 = y.fault.toNat ∧ bits w.toNat 52 7 = y.nxfr ∧ bits w.toNat 0 52 = min y.bits (2 ^ 52 - 1)) ∧
      ((opA f).lane 0 ≠ (openBatch c).num → (∀ y ∈ closedBatches c, y.num ≠ (opA f).lane 0) → w = BitVec.ofNat 64 (3 * 2 ^ 62)))

/-- R226: XHND adds one to the slot's generation, writes the entry valid from its operands and sends the handle value; reserved bits or a scratchpad
range outside the sleeve are a PROTECTION fault. XREL of a valid handle of that generation clears it and sends 1, of any other sends 0. -/
def HandleForms : Prop :=
  ∀ (r : XRec) (s : State), Clean s r.c r.lit →
    let b := begin s r.c r.lit
    let f := b.cur
    let n := (opWord f.b).toNat
    let bad : Prop := bits n 40 22 ≠ 0 ∨ bits n 62 2 = 1 ∧ quadCount (sleeveOf s f.sleeve) * 2 ^ 21 < (opWord f.a).toNat + bits n 0 40
    let g := ((handleOf s f.part r.hslot.toNat).gen + 1) % 2 ^ 24
    let v := opWord f.a
    let h := handleOf s f.part (hvSlot v)
    (bad → exec (.xhnd r) s = .next (raise b f.act f.node { cls := .protection, cause := 8 })) ∧
    (¬bad → SlotUnused s r.hslot.toNat → ∃ u, exec (.xhnd r) s = .next (sendBoth u f (scalarOf (BitVec.ofNat 64 (g * 2 ^ 40 + r.hslot.toNat * 2 ^ 31)))) ∧
      handleOf u f.part r.hslot.toNat = { valid := true, kind := bits n 62 2, r := r.lit.getLsbD 0, w := r.lit.getLsbD 1, base := opWord f.a,
                                          len := bits n 0 40, gen := g, sleeve := f.sleeve } ∧
      (∀ p k, p ≠ f.part ∨ k ≠ r.hslot.toNat → handleOf u p k = handleOf s p k) ∧ u = { s with cur := f, parts := u.parts }) ∧
    (h.valid = true → h.gen = hvGen v → SlotUnused s (hvSlot v) → ∃ u, exec (.xrel r) s = .next (sendBoth u f (scalarOf 1)) ∧
      handleOf u f.part (hvSlot v) = { h with valid := false, gen := (h.gen + 1) % 2 ^ 24 } ∧
      (∀ p k, p ≠ f.part ∨ k ≠ hvSlot v → handleOf u p k = handleOf s p k) ∧ u = { s with cur := f, parts := u.parts }) ∧
    (h.valid = false ∨ h.gen ≠ hvGen v → exec (.xrel r) s = .next (sent s r.c r.lit (scalarOf 0)))

/-- R234 to R236, R240, R388, R389: a collective form of a colour that holds 8 units, over a group that its slot lists, waits at a collective island of its
die under the group's next number and sends 1, and with a count of 0 only sends 1; a KXPR of a group that is Held or Rebuilding is a mismatch from
its issue; a group that is rejected sends 0; with fewer units it is
HEAVY_WITHOUT_LEAVE. COLLECTIVE_START tells every other member what the collective runs. -/
def CollectiveForms : Prop :=
  (∀ x ∈ [Instr.krsc, .kagt, .kard, .kxpr], ∀ (r : XRec) (s : State), Clean s r.c r.lit → r.ha = false → r.hb = false →
    let b := { begin s r.c r.lit with free := s.free + 1 }
    let f := b.cur
    let k := (actOf s f.act).colour
    ((colourOf s k).holding < 8 → exec (x r) s = .next (raise b f.act f.node { cls := .heavyWithoutLeave })) ∧
    (8 ≤ (colourOf s k).holding → groupOf b f.part r.hslot.toNat = .bad → ∃ u, exec (x r) s = .next (sendBoth u f (scalarOf 0)) ∧
      u.colls = s.colls ∧ u.colours = s.colours ∧ u.acts = s.acts) ∧
    (∀ g, 8 ≤ (colourOf s k).holding → groupOf b f.part r.hslot.toNat = .ok g →
      (collCount r = 0 → exec (x r) s = .next (sendBoth b f (scalarOf 1))) ∧
      (collCount r ≠ 0 → ∃ u y j, exec (x r) s = .next (sendBoth u f (scalarOf 1)) ∧ lookup u.colls s.ids = some y ∧ y.f = f ∧ y.instr = x r ∧
        y.group = g ∧ y.num = collNext s g ∧ y.src = opWord f.a ∧ y.dst = opWord f.b ∧ y.begun = false ∧
        y.status = (if x r = .kxpr r ∧ 2 ≤ s.regs.gstate then 2 else 0) ∧ (y.status = 2 → y.tell = true) ∧
        y.slot = 512 * f.part + r.hslot.toNat ∧ y.place = lookupD s.slotSeq y.slot 0 ∧ lookupD u.slotSeq y.slot 0 = y.place + 1 ∧
        j < 2 ∧ y.isl = 2 * (f.en / 1024) + j ∧ (∀ q, q ≠ s.ids → lookup u.colls q = lookup s.colls q) ∧ collNext u g = collNext s g + 1 ∧
        ((lookup s.colours k).isSome = true → (colourOf u k).colls = (colourOf s k).colls ++ [s.ids]) ∧
        u = { s with cur := f, free := s.free + 1, ids := s.ids + 1, colls := u.colls, collSeq := u.collSeq, slotSeq := u.slotSeq,
                     colours := u.colours }))) ∧
  (∀ (s : State) (isl cid form : Nat) (x : Coll) (r : XRec), (s.colls.find? fun y => y.2.isl == isl && !y.2.begun && y.2.status == 0) = some (cid, x) →
    lookup s.colls cid = some x → collRec x.instr = some (r, form) → form < 3 → (partOf s x.f.part).pstate = .running → issueEdge s x.edges = true →
    (∀ d ∈ x.group, lostMember s d = false) → x.agreed = [] → x.rank < x.group.length → 2 ≤ x.group.length →
    (∀ y ∈ s.collBox, concerns x y.1 y.2 = false) →
    let others := x.group.filter fun d => d != s.regs.devn.toNat
    (∀ d ∈ others, routePorts s d ≠ []) →
    ∃ (t : State) (ports : List Nat), exec (.collectiveStart isl) s = .next t ∧ lookup t.colls cid = some { x with begun := true } ∧ ports.length = others.length ∧
      t.out = s.out ++ (ports.zip others).map (fun y => .coll y.1 y.2
        (.agree x.group x.num form r.c.ty.code.toNat (collOp r) (collCount r) x.group.length x.slot x.place)) ∧
      (∀ y ∈ ports.zip others, y.1 ∈ routePorts s y.2 ∧ (y.1 ∈ collPorts x.isl ∨ ∀ q ∈ routePorts s y.2, q ∉ collPorts x.isl)) ∧
      t = { s with colls := t.colls, out := t.out })

/-- R236: what a collective reduces: 64-bit integers add modulo 2^64, MIN and MAX compare them as signed, and one member's value stays. -/
def CollectiveReduction : Prop :=
  ∀ (x : Nat) (xs : List Nat), (∀ y ∈ x :: xs, y < 2 ^ 64) → xs.length < 256 →
    collReduce .i64 0 (x :: xs) % 2 ^ 64 = (x :: xs).sum % 2 ^ 64 ∧ collReduce .i64 0 [x] = x ∧
    (∃ y ∈ x :: xs, collReduce .i64 1 (x :: xs) = y ∧ ∀ z ∈ x :: xs, signedOf 64 y ≤ signedOf 64 z) ∧
    (∃ y ∈ x :: xs, collReduce .i64 2 (x :: xs) = y ∧ ∀ z ∈ x :: xs, signedOf 64 z ≤ signedOf 64 y)

/-- R239, R390: COLLECTIVE_COMPLETE takes a collective that has ended, or whose destination is written, out of its colour's count and keeps how it ended;
KWAIT sends the count, with the flags in bits 8 and 9, once at most n are incomplete, and clears them. -/
def CollectiveEnds : Prop :=
  (∀ (s : State) (cid : Nat) (x : Coll), lookup s.colls cid = some x → (∀ o ∈ s.ops, ∀ n, o.2.w ≠ .kwait n) →
    (lookup s.colours x.colour).isSome = true → (colourOf s x.colour).serial = x.serial →
    x.status ≠ 0 ∨ collWritten x = true ∧ awaitsRemote s cid = false ∧ (∀ r form, collRec x.instr = some (r, form) → collSources x r form ≤ x.sent) →
    ∃ t, exec (.collectiveComplete cid) s = .next t ∧ t.colls = eraseAt s.colls cid ∧
      colourOf t x.colour = { colourOf s x.colour with
        colls := (colourOf s x.colour).colls.erase cid
        lost := (colourOf s x.colour).lost || x.status == 1
        mismatch := (colourOf s x.colour).mismatch || x.status == 2 } ∧
      t = { s with colls := t.colls, remotes := t.remotes, colours := t.colours, out := t.out, regs := t.regs } ∧
      (x.tell = false → t.out = s.out ∧ t.regs = s.regs)) ∧
  (∀ (r : XRec) (s : State), Clean s r.c r.lit →
    let b := begin s r.c r.lit
    let f := b.cur
    let k := (actOf s f.act).colour
    let c := colourOf s k
    let n := r.lit.toNat % 16
    (∀ o ∈ s.ops, o.1 < s.ids ∧ ∀ n, o.2.w ≠ .kwait n) → (actOf s f.act).serial = c.serial →
    (c.colls.length ≤ n → exec (.kwait r) s = .next (sendBoth
      { updColour b k (fun c => { c with lost := false, mismatch := false }) with ids := s.ids + 1 } f
      (scalarOf (BitVec.ofNat 64 (c.colls.length + (if c.lost then 256 else 0) + (if c.mismatch then 512 else 0)))))) ∧
    (n < c.colls.length → exec (.kwait r) s = .next
      { b with ids := s.ids + 1, ops := insertAt s.ops s.ids { f := f, w := .kwait n, order := s.ids } }))

/-- R242, R244, R246, R259, R268: TOKLO holds the low word; a TOKHI write whose SEQ is NEXT enqueues the token when the cuff is enabled, good, and has
room, and drops and counts any other; SYNC is answered by its record at once; EGACK frees places; QCFG with XOFF above XON sets the queue's
configuration and, without EN, empties it. No write changes another queue. -/
def CuffWrites : Prop :=
  ∀ (s : State) (c : Nat) (v : Word), c < 64 →
    let q := queueOf s c
    exec (.tokloWrite c v) s = .next (updQueue s c fun q => { q with toklo := v }) ∧
    (let t := Ingress.ofWords v q.toklo
     t.kind ≠ 5 →
     (q.en = true → cuffBad s c = false → q.fifo.length < 256 → t.seq = q.next → egressFull s c = false →
       exec (.tokhiWrite c v) s = .next (updQueue { s with ids := s.ids + 1 } c fun q =>
         { q with next := q.next + 1, dropping := false
                  fifo := q.fifo ++ [{ hi := v, lo := q.toklo, order := s.ids, after := s.inbound.map fun x => .inbound x.n }] })) ∧
     (q.en = false ∨ 256 ≤ q.fifo.length ∨ t.seq ≠ q.next → ∃ u, exec (.tokhiWrite c v) s = .next u ∧ (queueOf u c).fifo = q.fifo ∧
       (queueOf u c).next = q.next ∧ (queueOf u c).cdrop = q.cdrop + 1 ∧ (queueOf u c).dropping = true ∧ u.ids = s.ids)) ∧
    (∀ n, egressFull s c = false → exec (.sync c n) s = .next (egress s c 6 0 n
      [q.next.setWidth 64, (q.eseq - 1).setWidth 64, BitVec.ofNat 64 ((if q.on then 2 ^ 14 else 0) + q.fifo.length)])) ∧
    (q.hold = [] → exec (.egackWrite c v) s = .next (updQueue s c fun q => { q with ack := v.setWidth 32 })) ∧
    (let xoff := bits v.toNat 16 9
     let xon := bits v.toNat 0 9
     (xoff ≤ xon ∨ 256 < xoff → exec (.qcfgWrite c v) s = .next s) ∧
     (xon < xoff → xoff ≤ 256 → ∃ u, exec (.qcfgWrite c v) s = .next u ∧ (∀ d, d ≠ c → queueOf u d = queueOf s d) ∧ u = { s with queues := u.queues } ∧
       (queueOf u c).en = v.getLsbD 63 ∧ (queueOf u c).pri = bits v.toNat 48 3 ∧ (queueOf u c).age = bits v.toNat 40 8 ∧
       (queueOf u c).xoff = xoff ∧ (queueOf u c).xon = xon ∧ (queueOf u c).fifo = (if v.getLsbD 63 then q.fifo else []) ∧
       (queueOf u c).next = q.next ∧ (queueOf u c).cfg = q.cfg))

/-- R259, R260, Tables 8.6 and 8.7: with a ring, a free place and no record waiting, an egress record stands in the ring at its place: type, status, queue
and ESEQ in word 0, partition and ISEQ in word 1, and six more words. ESEQ goes up by one. -/
def EgressRecord : Prop :=
  ∀ (s : State) (q type st : Nat) (n : BitVec 32) (ws : List Word), Quiet s → let x := queueOf s q
    x.qegn ≠ 0 → x.qegn ≤ 16 → x.hold = [] → x.extra = [] → (x.eseq.toNat + 2 ^ 32 - x.ack.toNat - 1 + 2 ^ 32) % 2 ^ 32 < 2 ^ x.qegn →
    x.qegb.toNat + 512 * 2 ^ x.qegn ≤ 8 * deviceBytes → type < 256 → st < 256 → q < 64 →
    let t := egress s q type st n ws
    let a := x.qegb.toNat + 512 * (x.eseq.toNat % 2 ^ x.qegn)
    (queueOf t q).eseq = x.eseq + 1 ∧ bits (readArea t a 64) 56 8 = type ∧ bits (readArea t a 64) 48 8 = st ∧ bits (readArea t a 64) 32 16 = q ∧
    bits (readArea t a 64) 0 32 = x.eseq.toNat ∧ bits (readArea t (a + 64) 64) 0 32 = n.toNat ∧
    (∀ p, partOfCuff s q = some p → p < 16 → bits (readArea t (a + 64) 64) 32 4 = p) ∧
    (∀ j, j < 6 → readArea t (a + 128 + 64 * j) 64 = (ws.getD j 0).toNat) ∧
    (∀ b m, 0 < m → b + m ≤ 8 * deviceBytes → b + m ≤ a ∨ a + 512 ≤ b → readDev t 0 b m = readDev s 0 b m)

/-- R253, R254: with its turn come, ARG sets an F register of the pending frame, and START creates a root colour of the cuff's configuration with that
frame and starts its root thread at the entry block; both need a selected configuration, and without one answer BAD_TOKEN. -/
def ArgAndStart : Prop :=
  ∀ (s : State) (c p : Nat) (a : Accepted), Turn s c p a →
    let t := Ingress.ofWords a.hi a.lo
    let q := queueOf s c
    t.malformed = false → (partOf s p).pstate = .running →
    (t.kind = 2 → q.cfg ≠ 0 → exec (.arg c) s =
      .next (tokenDone s (updQueue (popped s c) c fun x => { x with frame := insertAt x.frame (t.param.toNat % 64) t.payload }) c)) ∧
    (t.kind = 2 → q.cfg = 0 → exec (.arg c) s = .next (tokenDone s (badToken (popped s c) c t) c)) ∧
    (t.kind = 3 → q.cfg = 0 → exec (.start c) s = .next (tokenDone s (badToken (popped s c) c t) c)) ∧
    (let g := cfgOf s q.cfg
     let v := g.sleeves.headD 0
     t.kind = 3 → q.cfg ≠ 0 → g.started ≠ 0 → mayCreate s v = true → (s.colours.filter fun x => x.2.part == g.part).length < 65535 →
     (∀ k, (residents s v k).length < 64 ∧ waitingColours s v k = []) → ∃ u n, exec (.start c) s = .next u ∧ 1 ≤ n ∧ n ≤ 65535 ∧
       (∀ x ∈ s.colours, x.2.part = g.part → x.2.num ≠ n) ∧
       (let d := colourOf u (colourKey g.part n)
        d.part = g.part ∧ d.num = n ∧ d.st = .resident ∧ d.f = q.frame ∧ d.grant = g.lanes ∧ d.key = g.draw ∧ d.sleeve = v ∧
        d.root = some { queue := c, iseq := t.seq, cookie := t.payload, after := a.after }) ∧
       (∃ b, (threadOf u g.part (rootTag n)).acts = [b] ∧ (actOf u b).st = .running ∧ (actOf u b).blk = g.entry ∧
         ∀ e, e ≠ b → actOf u e = actOf s e) ∧
       (∀ k, k ≠ colourKey g.part n → colourOf u k = colourOf s k) ∧ (queueOf u c).frame = [] ∧ (queueOf u c).fifo = q.fifo.drop 1 ∧ SameMemory s u)

/-- R250 to R252, R254, R256: with its turn come, CONFIG writes SEED and NVER of its record and answers with a LOADED record. Of a record whose
configuration is resident it selects that; one that finds a place without evicting forms a configuration from the record with its sleeves, whose
registers G0, G1, G5, G7 and G8 to G31 hold what Table 8.5 gives; a record that cannot be read leaves none selected, with the error in the LOADED
record. UNLOAD dissolves the idle configurations at an address with an UNLOADED record of status OK, waits for busy ones, and answers NOT_LOADED
when there are none. -/
def ConfigAndUnload : Prop :=
  ∀ (s : State) (c p : Nat) (a : Accepted), Turn s c p a →
    let t := Ingress.ofWords a.hi a.lo
    t.malformed = false → (partOf s p).pstate = .running →
    (t.kind = 1 → loadingAt s c = none → let e := wakePart (popped { s with loading := s.loading ++ [{ cuff := c, part := p }] } c) p
      let ends (w : State) : Prop :=
        exec (.config c) s = .next (tokenDone s { w with loading := w.loading.filter fun x => x.cuff != c } c)
      let seeded (r : CfgRecord) (u : State) : State := noteSeeded (writeSeed u p r) c
      let select (w : State) (k : Nat) : State := updQueue w c fun x => { x with cfg := k }
      needsLoad s p t = false ∨ earlierLoad s c p a = false →
      (∀ r u, readHead e p t.payload = .ok r u →
        (partOf (seeded r u) p).seed = r.seed ∧ (r.nver = 7 ∨ r.nver = 9 → (partOf (seeded r u) p).nver = r.nver)) ∧
      (∀ r u k, readHead e p t.payload = .ok r u → residentCfg (seeded r u) p t.payload r.gen = some k →
        ends (loadedRecord (select (seeded r u) k) c t .ok 0 (2 ^ 63 + firstDesc (select (seeded r u) k) k))) ∧
      (∀ st n u, readHead e p t.payload = .bad st n u → ends (loadedRecord (select u 0) c t st n 0)) ∧
      (∀ r u r' u' imgs u'' i u3 l m, readHead e p t.payload = .ok r u → residentCfg (seeded r u) p t.payload r.gen = none →
        readRecord (seeded r u) p t.payload r = .ok r' u' → readImages p r'.imgs u' = .ok imgs u'' → r'.floor = false →
        (∀ d ∈ r'.pins, descShape d = r'.shape) → choose u'' 4096 = (i, u3) → findPlace u'' p r' imgs i 9 (partCfgs u'' p) [] = some ([], l, m) →
        egressFull u3 c = false →
        let k := u3.ids
        let w := loadEntry (formConfig u3 p c t.payload r' imgs l m).2 k
        ends (loadedRecord (select w k) c t .ok 0 (firstDesc w k)) ∧
          (cfgOf w k).part = p ∧ (cfgOf w k).addr = t.payload ∧ (cfgOf w k).gen = r'.gen ∧ (cfgOf w k).images = imgs ∧
          (cfgOf w k).nslv = r'.nslv ∧ (cfgOf w k).budget = r'.budget ∧ (cfgOf w k).lanes = r'.lanes ∧
          (cfgOf w k).sleeves.length = l.length ∧
          (∀ n x, l[n]? = some x → ∃ v, (cfgOf w k).sleeves[n]? = some v ∧ (let y := sleeveOf w v
            y.part = p ∧ y.cfg = k ∧ y.index = n ∧ y.desc = x.desc ∧ y.lining = false ∧
            lookupD y.g 0 0 = BitVec.ofNat 64 r'.nslv ∧ lookupD y.g 1 0 = BitVec.ofNat 64 n ∧ lookupD y.g 5 0 = x.desc.setWidth 64 ∧
            lookupD y.g 7 0 = 0 ∧ ∀ j < 24, lookupD y.g (8 + j) 0 = BitVec.ofNat 64 (r'.word (8 + j)))))) ∧
    (t.kind = 4 → let l := namedCfgs s p t.payload
      (l = [] → exec (.unload c) s = .next (tokenDone s (egress (popped s c) c 3 Status.notLoaded.code t.seq [t.payload]) c)) ∧
      (l ≠ [] → (∃ k ∈ l, cfgBusy s k = true) → exec (.unload c) s = .next s) ∧
      (l ≠ [] → (∀ k ∈ l, cfgBusy s k = false) → ∃ w, exec (.unload c) s = .next w ∧
        w = tokenDone s (egress (l.foldl dissolve (popped s c)) c 3 Status.ok.code t.seq [t.payload]) c ∧
        (∀ k ∈ l, lookup w.cfgs k = none) ∧ (∀ k, k ∉ l → lookup w.cfgs k = lookup s.cfgs k)))

/-- R266, R286, R288, Table 9.9: with its turn come, FREEZE of a running partition begins its freeze; RESUME with payload 0 of a frozen one lets it run
again; RESET discards all of its work and leaves it empty, with SEED 0 and NVER 9. FREEZE and RESUME in any other state wait. -/
def FreezeResumeReset : Prop :=
  ∀ (s : State) (c p : Nat) (a : Accepted), Turn s c p a →
    let t := Ingress.ofWords a.hi a.lo
    t.malformed = false →
    (t.kind = 6 → (partOf s p).pstate = .running → (∀ x ∈ s.acts, x.2.part = p → x.2.frz = none) → ∃ w, exec (.freeze c) s = .next w ∧ (partOf w p).pstate = .freezing ∧
      (partOf w p).freeze = some (.token c t.seq, if t.payload = 0 then none else some t.payload) ∧ w.acts = s.acts ∧ w.colours = s.colours) ∧
    (t.kind = 6 → (partOf s p).pstate ≠ .running → exec (.freeze c) s = .next s) ∧
    (t.kind = 7 → t.payload = 0 → (partOf s p).pstate = .frozen → (∀ o ∈ s.ops, o.2.f.part = p → ∀ k n ty z em, o.2.w ≠ .lds k n ty z em) → ∃ w, exec (.resume c) s = .next w ∧ (partOf w p).pstate = .running ∧
      (partOf w p).freeze = none ∧ w.acts = s.acts ∧ w.colours = s.colours ∧ w.net = s.net ∧ w.entries = s.entries) ∧
    (t.kind = 7 → (partOf s p).pstate = .running ∨ (partOf s p).pstate = .freezing → exec (.resume c) s = .next s) ∧
    (t.kind = 8 → ∃ w, exec (.reset c) s = .next w ∧ (partOf w p).pstate = .empty ∧ (partOf w p).seed = 0 ∧ (partOf w p).nver = 9 ∧
      (∀ x ∈ w.acts, x.2.part ≠ p) ∧ (∀ x ∈ w.colours, x.2.part ≠ p) ∧ (∀ x ∈ w.cfgs, x.2.part ≠ p) ∧ (∀ n ∈ w.net, n.part ≠ p) ∧
      (∀ x ∈ w.stores, x.2.part = p → x.2.committed = true ∧ x.2.parked = false) ∧
      (∀ x ∈ s.acts, x.2.part ≠ p → x ∈ w.acts) ∧ (∀ d ∈ partCuffs s p, (queueOf w d).fifo = [] ∧ (queueOf w d).cfg = 0))

/-- R265, R266, R286: WATCHDOG_EXPIRY of a queue whose watchdog has expired begins a freeze of its running partition for the queues that expired, and of any
other changes nothing. FREEZE_END waits until what runs has settled, once no load is in progress; a freeze without an image then makes the partition
frozen and writes FROZEN. -/
def WatchdogAndFreezeEnd : Prop :=
  ∀ (s : State) (p : Nat),
    (∀ q, partOfCuff s q = some p → (partOf s p).pstate = .running → (∃ n, (q, n) ∈ expired s p) → (∀ x ∈ s.acts, x.2.part = p → x.2.frz = none) →
      ∃ w i, exec (.watchdogExpiry q) s = .next w ∧
      (partOf w p).pstate = .freezing ∧ (partOf w p).freeze = some (.watchdog (expired s p), i) ∧ w = { s with parts := w.parts } ∧
      ∀ k, k ≠ p → partOf w k = partOf s k) ∧
    (∀ q, partOfCuff s q = some p → (∀ n, (q, n) ∉ expired s p) → exec (.watchdogExpiry q) s = .next s) ∧
    (∀ c i, (partOf s p).pstate = .freezing → (partOf s p).freeze = some (c, i) → (partOf s p).frozen = none → freezeSettled s p = false →
      (∀ x ∈ s.loading, x.part ≠ p) → exec (.freezeEnd p) s = .next s) ∧
    (∀ q n, (partOf s p).pstate = .freezing → (partOf s p).freeze = some (.token q n, none) → (partOf s p).frozen = none → freezeSettled s p = true →
      (∀ x ∈ s.loading, x.part ≠ p) → frozenRoom s (.token q n) = true → (∀ r ∈ s.remotes, r.2.what ≠ .image p) →
      ∃ w u, exec (.freezeEnd p) s = .next w ∧ w = egress u q 0x0B 0 n [0, gridMask s p] ∧ (partOf u p).pstate = .frozen ∧ (partOf u p).fimg = 0 ∧
        u.acts = s.acts ∧ u.colours = s.colours ∧ u.stores = s.stores ∧ u.mem = s.mem)

/-- R282, R289, Table 9.8: with no write to RPLY waiting, an action on a record that is not outstanding, or not written yet, is ignored, and while the partition is freezing or
frozen it waits. REPLAY issues the forms parked under its record again, in park order, and disposes of the record; REPLAY_ALL does so for every
record under which accesses park, and no other goes; an activation with no access left parked is Running again; ABANDON Faults a parked activation, and its record takes no more accesses; END sends the record's colour to Ending; one THAW lets a frozen master issue again, whatever records
froze it. -/
def ReplayActions : Prop :=
  ∀ (s : State) (p : Nat) (n : BitVec 32), (partOf s p).rply = [] →
    let mine (q : Parked) : Bool := q.part == p && q.fseq == n.toNat
    let again (sel : Parked → Bool) (t : State) : Prop :=
      t.parked = s.parked.filter (fun q => !sel q) ∧
      t.entries = s.entries ++ (s.parked.filter sel).filterMap (fun q => match q.what with
        | .form e => some { e with stamp := some s.cycle }
        | _ => none) ∧
      (∀ b, (actOf t b).st = if (∃ q ∈ s.parked, sel q = true ∧ q.act = b) ∧
        (∀ q ∈ s.parked, q.act = b → sel q = true) ∧ (actOf s b).st = .parked then .running else (actOf s b).st) ∧
      t = { s with parked := t.parked, entries := t.entries, acts := t.acts, records := t.records }
    ((partOf s p).pstate = .freezing ∨ (partOf s p).pstate = .frozen →
      exec (.replay p n) s = .next (updPart s p fun x => { x with rply := x.rply ++ [(replayWord 1 n.toNat, 0)] })) ∧
    ((partOf s p).pstate = .running ∨ (partOf s p).pstate = .empty →
      (recordOf s p n.toNat = none → ∀ i ∈ [Instr.replay p n, .abandon p n, .replayEnd p n, .thaw p n], exec i s = .next s) ∧
      ((∀ q ∈ s.parked, q.part = p → ∃ e, q.what = .form e) →
        (∀ r ∈ s.records, r.part = p → r.holds = false ∧ r.frozen = false ∧ r.info.cls ≠ .compressOverflow) →
        ∃ t, exec (.replayAll p) s = .next t ∧ again (fun q => q.part == p) t ∧
          let went (q : Outstanding) : Prop := ∃ r ∈ s.records, r.part = p ∧ (r.parks = true ∨ parksUnder s r = true) ∧ q.part = p ∧ q.fseq = r.fseq
          (∀ q ∈ t.records, ¬went q) ∧ ∀ q ∈ s.records, ¬went q → q ∈ t.records) ∧
      ∀ r, recordOf s p n.toNat = some r → (∀ q ∈ s.records, q.part = p → q.fseq = n.toNat → q = r) →
        ((∀ q ∈ s.parked, mine q = true → ∃ e, q.what = .form e) → parksUnder s r = true → r.holds = false → r.frozen = false →
          r.info.cls ≠ .compressOverflow → ∃ t, exec (.replay p n) s = .next t ∧ again mine t ∧ recordOf t p n.toNat = none) ∧
        (∀ q e, s.parked.filter mine = [q] → q.what = .form e → actLive (actOf s q.act) = true →
          exec (.abandon p n) s = .next (updRecord (faultAct { s with parked := s.parked.filter fun q => !mine q } q.act) r fun x => { x with parks := false })) ∧
        (s.parked.filter mine = [] → exec (.abandon p n) s = .next s) ∧
        (∀ c, lookup s.colours r.colour = some c → c.serial = r.serial → c.st ≠ .free → c.st ≠ .ending →
          (c.creator = 0 ∨ (actOf s c.creator).st = .committed) → ∃ t, exec (.replayEnd p n) s = .next t ∧ (colourOf t r.colour).st = .ending ∧
          ∀ x ∈ t.acts, x.2.colour = r.colour → x.2.serial = r.serial → actLive x.2 = false) ∧
        (r.frozen = true → thawHeld s r = false → (lookup s.sleeves r.sleeve).isSome = true → ∃ t, exec (.thaw p n) s = .next t ∧
          (sleeveOf t r.sleeve).frozen = [] ∧ (∀ v, v ≠ r.sleeve → sleeveOf t v = sleeveOf s v) ∧
          (∀ x ∈ t.records, x.part = p → x.sleeve = r.sleeve → x.frozen = false) ∧ t = { s with sleeves := t.sleeves, records := t.records }))

/-- R25, R157, R173, R280, R315, R321: writes of registers by the host. A bad-unit register is ORed; HEATK takes a value of at most 12; HEATD starts a
decay; CMBAS sets the compression region once; FQSEQ and OLSEQ acknowledge, and with nothing waiting change nothing else. An access to BAR0 that is not
8 bytes wide at a multiple of 8 has no effect but its Unsupported Request; one at 0x100000 + 8 n reads or writes register n, and one below 0x40000 a cuff
window. -/
def HostRegisterWrites : Prop :=
  ∀ (s : State) (v : Word),
    (∀ n, 0x400 ≤ n → n ≤ 0x41F → ∃ t, exec (.badUnitWrite n v) s = .next t ∧
      (∀ k, lookupD t.regs.badn k 0 = if k = n - 0x400 then lookupD s.regs.badn k 0 ||| v else lookupD s.regs.badn k 0) ∧
      t = { s with regs := { s.regs with badn := t.regs.badn } }) ∧
    exec (.badUnitWrite 0x428 v) s = .next { s with regs := { s.regs with badx := s.regs.badx ||| v } } ∧
    exec (.badUnitWrite 0x429 v) s = .next { s with regs := { s.regs with badc := s.regs.badc ||| v } } ∧
    (v.toNat % 16 ≤ 12 → exec (.heatkWrite v) s = .next { s with misses := [], regs := { s.regs with heatk := v.toNat % 16 } }) ∧
    (12 < v.toNat % 16 → exec (.heatkWrite v) s = .next s) ∧
    exec (.heatdWrite v) s = .next (if v.getLsbD 0 then { s with regs := { s.regs with heatRun := true } } else s) ∧
    (s.regs.cmbas.getLsbD 0 = false → v.getLsbD 0 = false ∨ usable s 3 = true →
      exec (.cmbasWrite v) s = .next { s with regs := { s.regs with cmbas := v &&& 0x0FFFFFFE00000001#64 } }) ∧
    (s.regs.cmbas.getLsbD 0 = true → v.getLsbD 0 = false → ∃ t, exec (.cmbasWrite v) s = .next t ∧
      t.regs = { s.regs with cmbas := v &&& 0x0FFFFFFE00000001#64 } ∧
      (s.packed = [] → (∀ x ∈ statedBlocks s, 8 < x.2) → t = { s with regs := t.regs })) ∧
    (v.getLsbD 0 = true → usable s 3 = false ∨ s.regs.cmbas.getLsbD 0 = true → exec (.cmbasWrite v) s = .next s) ∧
    (∀ p, p < 16 → (partOf s p).frecs = [] → exec (.fqseqWrite p v) s = .next (updPart s p fun x => { x with fack := v.setWidth 32 })) ∧
    (s.olrecs = [] → exec (.olseqWrite v) s = .next { s with regs := { s.regs with olack := v.setWidth 32 } }) ∧
    (∀ ofs width write, width ≠ 8 ∨ ofs % 8 ≠ 0 → exec (.registerWrite ofs v (.bar width write)) s = .next { s with out := s.out ++ [.bar ofs none] }) ∧
    (∀ n, n < 65536 →
      exec (.registerWrite (0x100000 + 8 * n) v (.bar 8 false)) s = .next { s with out := s.out ++ [.bar (0x100000 + 8 * n) (some (readReg s none n))] } ∧
      exec (.registerWrite (0x100000 + 8 * n) v (.bar 8 true)) s = exec (.registerWrite n v .mgmt) s) ∧
    (∀ c, c < 64 → exec (.registerWrite (4096 * c) v (.bar 8 true)) s = exec (.tokloWrite c v) s ∧
      exec (.registerWrite (4096 * c + 8) v (.bar 8 true)) s = exec (.tokhiWrite c v) s ∧
      exec (.registerWrite (4096 * c + 24) v (.bar 8 true)) s = exec (.egackWrite c v) s)

/-- R293, R299, Table 10.1: GCFG with EN starts the group Open when all eight members are valid, this device has its rank and the feature is there, and
is ignored otherwise; GMEM sets a member entry, and a valid one restarts the numbering with that rank; while a rebuild runs both are ignored.
HOLD, RELEASE and REBUILD move the group from Open to Held, back, and to Rebuilding, and REBUILD_DONE ends a rebuild in Held, with RBERR
when a member can no longer be reached. -/
def GroupStates : Prop :=
  ∀ (s : State) (v : Word) (k : Nat),
    let rank := bits v.toNat 0 3
    (s.regs.gstate = 3 → exec (.gcfgWrite v) s = .next s ∧ (k < 8 → exec (.gmemWrite k v) s = .next s)) ∧
    (s.regs.gstate ≠ 3 → v.getLsbD 63 = true → s.regs.gen = false →
      ((∀ j < 8, memberValid s j = true) → memberDev s rank = s.regs.devn.toNat → usable s 1 = true → ∃ t, exec (.gcfgWrite v) s = .next t ∧
        t.regs = { s.regs with gen := true, rank := rank, gstate := 1, drained := false, rberr := false } ∧ t.deltas = [] ∧ t.dseqTo = [] ∧
        t.dseqFrom = [] ∧ takesPart t = true ∧ SameMemory s t) ∧
      ((∃ j < 8, memberValid s j = false) ∨ memberDev s rank ≠ s.regs.devn.toNat → exec (.gcfgWrite v) s = .next s)) ∧
    (v.getLsbD 63 = true → usable s 1 = false → exec (.gcfgWrite v) s = .next s) ∧
    (s.regs.gstate ≠ 3 → v.getLsbD 63 = false → s.regs.gen = true → ∃ t, exec (.gcfgWrite v) s = .next t ∧
      t.regs = { s.regs with gen := false, rank := rank, gstate := 0 } ∧ t.deltas = [] ∧ SameMemory s t ∧
      ∀ q ∈ t.parked, ∀ o, q.what ≠ .fence o) ∧
    (s.regs.gstate ≠ 3 → k < 8 → v.getLsbD 63 = true → v.getLsbD 62 = false → ∃ t, exec (.gmemWrite k v) s = .next t ∧
      lookupD t.regs.gmem k 0 = v &&& 0xC0000000003FFFFF#64 ∧ lookupD t.dseqTo k 0 = 0 ∧ lookupD t.dseqFrom k 0 = 0 ∧
      (∀ d ∈ t.deltas, d.rank = k → d.lost = true) ∧ (∀ j, j ≠ k → lookupD t.regs.gmem j 0 = lookupD s.regs.gmem j 0) ∧ SameMemory s t) ∧
    exec .hold s = .next (if s.regs.gstate = 1 then { s with regs := { s.regs with gstate := 2, drained := false } } else s) ∧
    (s.regs.gstate = 2 → ∃ t, exec .release s = .next t ∧ t.regs = { s.regs with gstate := 1, drained := false } ∧ t.stalled = [] ∧
      t = { s with regs := t.regs, stalled := [], entries := t.entries }) ∧
    (s.regs.gstate ≠ 2 → exec .release s = .next s ∧ exec .rebuild s = .next s) ∧
    (s.regs.gstate = 2 → ∃ t, exec .rebuild s = .next t ∧ t.regs.gstate = 3 ∧ t.rebuilt = 0 ∧ SameMemory s t ∧
      ((∀ j ∈ otherRanks s, memberValid s j = true ∧ memberLost s j = false) → (∀ j ∈ otherRanks s, routePort s (memberDev s j) 0 ≠ none) →
        t.regs.rberr = false ∧ ∃ ports : List Nat, ports.length = (otherRanks s).length ∧
          t.out = s.out ++ (ports.zip (otherRanks s)).map (fun y => .coll y.1 (memberDev s y.2) .askHeld) ∧
          ∀ y ∈ ports.zip (otherRanks s), y.1 ∈ routePorts s (memberDev s y.2)) ∧
      ((∃ j ∈ otherRanks s, memberValid s j = false ∨ memberLost s j = true) → t.regs.rberr = true)) ∧
    (s.regs.gstate = 3 → s.regs.rberr = true ∨ s.rbHeld.length = 7 ∧ regionSectors s ≤ s.rebuilt → ∃ t, exec .rebuildDone s = .next t ∧
      t.regs = { s.regs with gstate := 2 } ∧ t.rbHeld = [] ∧ SameMemory s t) ∧
    (s.regs.gstate = 3 → rebuildWhole s = false → cutOff s = true → ∃ t, exec .rebuildDone s = .next t ∧
      t.regs = { s.regs with gstate := 2, rberr := true } ∧ t.rbHeld = [] ∧ SameMemory s t) ∧
    (s.regs.gstate = 3 → s.regs.rberr = false → rebuildWhole s = false → cutOff s = false → exec .rebuildDone s = .next s) ∧
    (s.regs.gstate ≠ 3 → exec .rebuildDone s = .next s)

/-- R290, R294, R295: at a device that takes part in its group, a DELTA that is next in its sender's order is XORed into its parity sector, and no other
byte of memory changes; one behind a gap waits; one for another device's parity is discarded and counted. A PDELTA in order poisons the sector. DACK frees the deltas that it covers. -/
def DeltaTraffic : Prop :=
  ∀ (s : State) (src k : Nat) (m : DeltaMsg), Quiet s → rankOf s src = some k →
    let p := m.sector.toNat / 2048
    let e := lookupD s.dseqFrom k 0
    let a := sectorAddr s m.sector.toNat
    (takesPart s = true → p < s.regs.gpn → p % 8 = s.regs.rank → k ≠ s.regs.rank → (∀ d ∈ s.early, d.rank ≠ k) →
      poisonLoc s (.dev 0 a) = false → Exists 0 a 256 →
      (m.dseq.toNat = e.toNat % 2 ^ 26 →
        (∃ t, exec (.delta src m) s = .next t ∧ readDev t 0 a 256 = Nat.xor (readDev s 0 a 256) m.delta.toNat ∧
          (∀ b n, 0 < n → Exists 0 b n → a + 256 ≤ b ∨ b + n ≤ a → readDev t 0 b n = readDev s 0 b n) ∧ t.podMem = s.podMem ∧
          lookupD t.dseqFrom k 0 = e + 1 ∧ t.early = s.early ∧ poisonLoc t (.dev 0 a) = false) ∧
        (∃ t, exec (.pdelta src m) s = .next t ∧ poisonLoc t (.dev 0 a) = true ∧ SameMemory s t ∧ lookupD t.dseqFrom k 0 = e + 1 ∧
          t.regs.gpps = s.regs.gpps + 1)) ∧
      (m.dseq.toNat = (e.toNat + 1) % 2 ^ 26 → ∃ t, exec (.delta src m) s = .next t ∧ SameMemory s t ∧ t.dseqFrom = s.dseqFrom ∧
        t.early = s.early ++ [{ rank := k, sector := m.sector.toNat, dseq := e + 1, poison := false, delta := m.delta }] ∧ t = { s with early := t.early })) ∧
    (takesPart s = false ∨ s.regs.gpn ≤ p ∨ p % 8 ≠ s.regs.rank ∨ k = s.regs.rank →
      exec (.delta src m) s = .next { s with regs := { s.regs with hldr := s.regs.hldr + 1 } }) ∧
    (∀ n, ∃ t, exec (.dack src n) s = .next t ∧
      t.deltas = s.deltas.filter (fun d => d.lost || d.rank != k || decide (2 ^ 31 ≤ (n - d.dseq).toNat)) ∧
      t = { s with deltas := t.deltas, stalled := [], entries := t.entries })

/-- R238, R296, R298: MEMBER_LOST_TIMEOUT of a rank with a delta unacknowledged for GLTO sets its LOST bit and discards its deltas, and changes nothing
before. A request whether this device is held and drained is answered, and one for a sector of the region with the sector; a collective's
message that comes before the collective begins is kept. -/
def MemberTraffic : Prop :=
  ∀ (s : State) (k src : Nat),
    (s.regs.glto ≠ 0 → memberLost s k = false → (∃ d ∈ deltasTo s k, d.sent + cyclesOf s s.regs.glto ≤ s.cycle) →
      ∃ t, exec (.memberLostTimeout k) s = .next t ∧ memberLost t k = true ∧ (∀ d ∈ t.deltas, d.rank = k → d.lost = true) ∧
        ∀ j, j ≠ k → lookupD t.regs.gmem j 0 = lookupD s.regs.gmem j 0) ∧
    (s.regs.glto = 0 ∨ memberLost s k = true ∨ (∀ d ∈ deltasTo s k, s.cycle < d.sent + cyclesOf s s.regs.glto) →
      exec (.memberLostTimeout k) s = .next s) ∧
    (takesPart s = true → (askerRank s src).isSome = true → routePorts s src ≠ [] → ∃ p ∈ routePorts s src,
      exec (.coll src .askHeld) s = .next { s with out := s.out ++ [.coll p src (.held (s.regs.gstate == 2 && s.regs.drained))] } ∧
      ∀ n, n < regionSectors s → Quiet s → ∃ t, exec (.coll src (.askUnit n)) s = .next t ∧ SameMemory s t ∧
        t.out = s.out ++ [.coll p src (.unit n (BitVec.ofNat 256 (readDev s 0 (sectorAddr s n) 256)) (poisonLoc s (.dev 0 (sectorAddr s n))))]) ∧
    (takesPart s = false ∨ askerRank s src = none → exec (.coll src .askHeld) s = .next { s with regs := { s.regs with hldr := s.regs.hldr + 1 } }) ∧
    (∀ g n i v b, (∀ y ∈ s.colls, ¬(y.2.group = g ∧ y.2.num = n)) →
      exec (.coll src (.elem g n i v b)) s = .next (if n < collNext s g then s else { s with collBox := s.collBox ++ [(src, .elem g n i v b)] }))

/-- R329: a READ of the export window is answered by READ_DATA with its bits, and changes no memory; a WRITE puts its bits there and no others, and is
answered by WRITE_ACK. Outside the window both get ERROR REFUSED, and a PROTECTION record of cause 10 is written. -/
def HomeAccesses : Prop :=
  ∀ (s : State) (src : Nat) (m : AccessMsg), Quiet s →
    let a := m.addr.toNat
    let n := m.len.toNat
    (Exported s (.read src m) a n false → ∃ u d, exec (.read src m) s = .next (sendSlot u src (a / 512) (readDataSlot d)).2 ∧ SameMemory s u ∧
      d.rid = m.rid ∧ d.data.toNat = readDev s 0 a n ∧ (d.poi = true ↔ ∃ p ∈ linearParts a n, poisonLoc s (linearLoc p) = true) ∧
      u = { s with l2 := u.l2, victim := u.victim, misses := u.misses }) ∧
    (Exported s (.write src m) a n true → Exists 0 a n →
      ∃ u, exec (.write src m) s = .next (sendSlot u src (a / 512) (writeAckSlot m.rid)).2 ∧ readDev u 0 a n = m.data.toNat % 2 ^ n ∧
        (∀ b k, 0 < k → Exists 0 b k → a + n ≤ b ∨ b + k ≤ a → readDev u 0 b k = readDev s 0 b k) ∧ u.podMem = s.podMem) ∧
    (exported s a n = false → 0 < n → n ≤ 192 → s.inbound = [] →
      exec (.read src m) s = .next (recordOnly (replyError s src (a / 512) 2 m.rid) s.regs.hxpart 0 0 0 { cls := .protection, cause := 10 }) ∧
      exec (.write src m) s = .next (recordOnly (replyError s src (a / 512) 2 m.rid) s.regs.hxpart 0 0 0 { cls := .protection, cause := 10, wr := true }))

/-- R329, R346, Table 12.1: an ATOMIC of an unpoisoned element within one sector of the export window leaves there what its operation gives and is
answered by ATOMIC_DATA with the old value, in one step. -/
def HomeAtomics : Prop :=
  ∀ (s : State) (src : Nat) (m : AtomicMsg) (t : Ty), Quiet s → atomicTy m.op m.ty = some t → m.op.toNat ≤ 8 →
    let a := m.addr.toNat
    a % 256 + t.width ≤ 256 → Exported s (.atomic src m) a t.width true → Exists 0 a t.width → poisonLoc s (.dev 0 a) = false →
    let old : BitVec t.width := BitVec.ofNat t.width (readDev s 0 a t.width)
    ∃ u d, exec (.atomic src m) s = .next (sendSlot u src (a / 512) (atomicDataSlot d)).2 ∧ d.rid = m.rid ∧ d.poi = false ∧
      d.data.toNat = readDev s 0 a t.width ∧
      readDev u 0 a t.width = (atomicValue t m.u m.op.toNat old (m.b.setWidth t.width) (m.c.setWidth t.width)).toNat ∧
      (∀ b k, 0 < k → Exists 0 b k → a + t.width ≤ b ∨ b + k ≤ a → readDev u 0 b k = readDev s 0 b k) ∧ u.podMem = s.podMem

/-- R330, R433: replies at the requester. The last piece of a load ends its wait with the loaded value, WRITE_ACK performs its part of a store, ATOMIC_DATA
sends the old value. ERROR, and a time-out, of a load or an atomic is a PROTECTION fault of cause 10 of its activation; of a store, it parks the
store under a record of that class and cause that holds its colour; of a transfer, it writes such a record and stops the transfer. A reply that
matches no request changes nothing. -/
def RequesterReplies : Prop :=
  ∀ (s : State) (src : Nat) (rid : BitVec 32) (r : Remote),
    let gone : State := { s with remotes := eraseAt s.remotes rid.toNat }
    (lookup s.remotes rid.toNat = none → ∀ m : DataMsg, m.rid = rid → ∀ i ∈ [Instr.readData src m, .writeAck src rid, .atomicData src m, .error src 2 rid,
      .remoteTimeout rid], exec i s = .next s) ∧
    (lookup s.remotes rid.toNat = some r → r.dst = src →
      (∀ k f t z order (m : DataMsg), m.rid = rid → r.what = .load k 0 → r.mask = 0 → r.given = 0 → r.len = t.width →
        lookup s.ops k = some { f := f, w := .remote [(0, 0, t.width, none)] t z false, order := order } →
        exec (.readData src m) s = .next (sendBoth { gone with ops := eraseAt s.ops k } f
          { scalarOf (extended (z || t.isFloat) (BitVec.ofNat t.width m.data.toNat)) with poi := m.poi })) ∧
      (∀ sid x e, r.what = .store sid → lookup s.stores sid = some x → x.elems = [e] → ∃ t, exec (.writeAck src rid) s = .next t ∧
        t.stores = eraseAt s.stores sid ∧ lookup t.remotes rid.toNat = none ∧
        t = { s with stores := t.stores, stalled := [], entries := t.entries, copies := t.copies, l2 := t.l2, remotes := t.remotes }) ∧
      (∀ k f q t u order (m : DataMsg), m.rid = rid → r.what = .atomic k → lookup s.ops k = some { f := f, w := .remoteAtomic q t u, order := order } →
        exec (.atomicData src m) s = .next (sendBoth
          { (dropCopy s r.dst (r.addr / 512)) with remotes := eraseAt (dropCopy s r.dst (r.addr / 512)).remotes rid.toNat, ops := eraseAt s.ops k } f
          { scalarOf (extended (u || t.isFloat) (BitVec.ofNat t.width m.data.toNat)) with poi := m.poi })) ∧
      (∀ k f q t u order st, r.what = .atomic k → lookup s.ops k = some { f := f, w := .remoteAtomic q t u, order := order } →
        ∃ v i, i.cls = .protection ∧ i.cause = 10 ∧ i.wr = true ∧ v.ops = eraseAt s.ops k ∧ v.acts = s.acts ∧ v.mem = s.mem ∧
          exec (.error src st rid) s = .next (raise v f.act f.node i) ∧
          (r.sent + cyclesOf s s.regs.hxto ≤ s.cycle → exec (.remoteTimeout rid) s = .next (raise v f.act f.node i))) ∧
      (∀ k j f ps t z vec order st, r.what = .load k j → lookup s.ops k = some { f := f, w := .remote ps t z vec, order := order } →
        ∃ v i, i.cls = .protection ∧ i.cause = 10 ∧ i.wr = false ∧ v.ops = eraseAt s.ops k ∧ v.acts = s.acts ∧ v.mem = s.mem ∧
          exec (.error src st rid) s = .next (raise v f.act f.node i) ∧
          (r.sent + cyclesOf s s.regs.hxto ≤ s.cycle → exec (.remoteTimeout rid) s = .next (raise v f.act f.node i))) ∧
      (∀ sid x e es st, r.what = .store sid → lookup s.stores sid = some x → x.elems = e :: es → (lookup s.colours x.colour).isSome = true →
        (colourOf s x.colour).serial = x.serial → ∃ t, exec (.error src st rid) s = .next t ∧
          lookup t.stores sid = some { x with parked := true, rids := [] } ∧
          (colourOf t x.colour).dw = (colourOf s x.colour).dw ++ [(partOf s x.part).fseq.toNat] ∧
          (∃ q ∈ t.records, q.part = x.part ∧ q.fseq = (partOf s x.part).fseq.toNat ∧ q.info.cls = .protection ∧ q.info.cause = 10 ∧
            q.info.wr = true ∧ q.info.va = e.va ∧ q.holds = true) ∧
          (r.sent + cyclesOf s s.regs.hxto ≤ s.cycle → exec (.remoteTimeout rid) s = .next t)) ∧
      (∀ tid x st, r.what = .xfer tid → lookup s.xfers tid = some x → x.st ≠ .stopped → NoBatchWaits s x.colour → ∃ t,
        exec (.error src st rid) s = .next t ∧ (∀ y, lookup t.xfers tid = some y → y.st = .stopped) ∧
        (∃ q ∈ t.records, q.part = x.f.part ∧ q.fseq = (partOf s x.f.part).fseq.toNat ∧ q.colour = x.colour ∧ q.info.cls = .protection ∧
          q.info.cause = 10 ∧ q.info.wr = true ∧ q.info.va = r.va) ∧
        (r.sent + cyclesOf s s.regs.hxto ≤ s.cycle → exec (.remoteTimeout rid) s = .next t)) ∧
      (s.cycle < r.sent + cyclesOf s s.regs.hxto → exec (.remoteTimeout rid) s = .next s))

/-- R325 to R327, R320: a flit with a wrong CRC, or a data flit out of order, is answered by a retry request and nothing of it is taken; one of a kind that Table 11.2 discards, or
with a reserved bit set, does nothing but count; a good empty data
flit in order brings its port up and is acknowledged. LINK_RETRY_REQUEST sends every unacknowledged flit again. A port leaves service when a
flit has been resent 8 times. A CXL port trains on an offer that Table 11.1 supports, and else stays down with the offer logged. -/
def LinkEvents : Prop :=
  ∀ (s : State) (p : Nat), p < 24 →
    let x := portOf s p
    (∀ f : Flit, x.out = false → flitGood f = false → exec (.helupFlit p f) s = .next (linkFlit s p 2)) ∧
    (∀ f : Flit, x.out = false → flitGood f = true → f.fk = 0 → f.rsv = 0 → f.lack = x.acked → f.lseq ≠ x.rx + 1 → ∃ t, exec (.helupFlit p f) s = .next (linkFlit t p 2) ∧
      portOf t p = { x with up := true } ∧ t = { s with helup := t.helup }) ∧
    (∀ f : Flit, x.out = false → flitGood f = true → f.fk = 0 → f.rsv = 0 → f.lack = x.acked → f.lseq = x.rx + 1 → f.slots = 0 →
      f.dst = s.regs.devn ∨ routePorts s f.dst.toNat ≠ [] →
      ∃ t, exec (.helupFlit p f) s = .next (linkFlit t p 1) ∧ portOf t p = { x with up := true, rx := f.lseq } ∧ t = { s with helup := t.helup }) ∧
    (∀ f : Flit, x.out = false → flitGood f = true → 3 ≤ f.fk.toNat ∨ f.rsv ≠ 0 ∧ (f.fk ≠ 0 ∨ f.lseq ≠ x.rx + 1) →
      exec (.helupFlit p f) s = .next { s with regs := { s.regs with hldr := s.regs.hldr + 1 } }) ∧
    (∀ l, x.up = true → l = x.acked → x.buf.length ≤ 2048 → ∃ t, exec (.linkRetryRequest p l) s = .next t ∧
      t.out = s.out ++ x.buf.map (fun f => .flit p (sealFlit { f.1 with lack := x.rx })) ∧
      portOf t p = { x with buf := x.buf.map fun f => (f.1, f.2 + 1) } ∧ t.regs = { s.regs with hlrt := s.regs.hlrt + BitVec.ofNat 64 x.buf.length }) ∧
    (x.up = true → (∃ f ∈ x.buf, 8 ≤ f.2) → ∃ t, exec (.helupPortOut p) s = .next t ∧ (portOf t p).up = false ∧ (portOf t p).out = true) ∧
    (x.up = false ∨ (∀ f ∈ x.buf, f.2 < 8) → exec (.helupPortOut p) s = .next s) ∧
    (∀ (c : Nat) (o : CxlOffer), c < 6 →
      (offerOk o = true → exec (.cxlLinkTrain c o) s =
        .next { s with cxl := insertAt s.cxl c { up := true, width := o.width.toNat, gts := if o.gts64 then 64 else 32 } }) ∧
      (offerOk o = false → ∃ t, exec (.cxlLinkTrain c o) s = .next t ∧ lookup t.cxl c = some {} ∧ t.mc.log = s.mc.log ++ [(c, o)] ∧
        t = { s with cxl := t.cxl, mc := t.mc }))

/-- R187, R313 to R315, R323: at a line of the exported range that no agent owns, a read is answered with the line, an agent that asks to own it becomes its
owner, a write puts its data there, and a far atomic is performed there in one step and answered with the old value in
its place in the line; of a line that another agent owns, the request waits for the owner, whose dirty answer is written
first. A snoop that stays unanswered makes the line owner-lost, and requests to it then get errors. A snoop of this device's L2 is answered, with its
dirty copy; a write of another agent leaves that agent's data; an error reply of a pod home takes the copy away, and the line is lost here. -/
def PodLines : Prop :=
  ∀ (s : State) (line g : Nat), Quiet s → LineExists line → s.inbound = [] →
    let d := dirOf s line
    let data : BitVec 512 := BitVec.ofNat 512 (readDev s 0 (512 * line) 512)
    let bad := (lineLocs line).any (poisonLoc s)
    (s.ownerLost.contains line = false → d.owner = none →
      (∃ t, exec (.podLineRequest { agent := g, line := line, ask := .read }) s = .next t ∧ t.out = s.out ++ [.pod g line false bad data] ∧
        SameMemory s t ∧ t.dir = s.dir) ∧
      (heldSpots s (lineSpots s (.inbound s.ids) line) = false →
        ∃ t, exec (.podLineRequest { agent := g, line := line, ask := .own }) s = .next t ∧
        t.out = s.out ++ ((d.sharers.filter (· != g)).map fun k => .snoop k line) ++ [.pod g line false bad data] ∧
        (dirOf t line).owner = some g ∧ (dirOf t line).sharers = [] ∧ SameMemory s t) ∧
      (∀ v, Passes s (.inbound s.ids) (lineSpots s (.inbound s.ids) line) →
        ∃ t, exec (.podLineRequest { agent := g, line := line, ask := .write v }) s = .next t ∧ readDev t 0 (512 * line) 512 = v.toNat ∧
          ∀ b n, 0 < n → Exists 0 b n → 512 * line + 512 ≤ b ∨ b + n ≤ 512 * line → readDev t 0 b n = readDev s 0 b n) ∧
      (∀ (m : PodAtomic) (t : Ty), atomicTy m.op m.ty = some t → m.op.toNat ≤ 8 → m.ofs.toNat % 256 + t.width ≤ 256 →
        let a := 512 * line + m.ofs.toNat
        Passes s (.inbound s.ids) (lineSpots s (.inbound s.ids) line) → Exists 0 a t.width → poisonLoc s (.dev 0 a) = false →
        ∃ u l, exec (.podLineRequest { agent := g, line := line, ask := .atomic m }) s = .next u ∧
          u.out = l ++ [.pod g line false false (BitVec.ofNat 512 (readDev s 0 a t.width * 2 ^ m.ofs.toNat))] ∧
          readDev u 0 a t.width = (atomicValue t m.u m.op.toNat (BitVec.ofNat t.width (readDev s 0 a t.width)) (m.b.setWidth t.width)
            (m.c.setWidth t.width)).toNat ∧
          ∀ b k, 0 < k → Exists 0 b k → a + t.width ≤ b ∨ b + k ≤ a → readDev u 0 b k = readDev s 0 b k)) ∧
    (∀ h, s.ownerLost.contains line = false → d.owner = some h → h ≠ g → d.asked = none →
      ∃ t, exec (.podLineRequest { agent := g, line := line, ask := .read }) s = .next t ∧ t.out = s.out ++ [.snoop h line] ∧
        (dirOf t line).waiting = d.waiting ++ [{ agent := g, line := line, ask := .read }] ∧ (dirOf t line).asked = some s.cycle ∧ SameMemory s t) ∧
    (∀ h v, s.ownerLost.contains line = false → d.owner = some h → d.waiting = [] → ∃ t, exec (.snoopReply line (.dirty v)) s = .next t ∧
      readDev t 0 (512 * line) 512 = v.toNat ∧ (dirOf t line).owner = none) ∧
    (s.ownerLost.contains line = true ∨ d.owner = none → ∀ m, exec (.snoopReply line m) s = .next s) ∧
    (∀ h n, d.owner = some h → d.asked = some n → n + cyclesOf s s.regs.ownto ≤ s.cycle → s.regs.oln = 0 → ∃ t, exec (.ownerLostTimeout line) s = .next t ∧
      t.ownerLost.contains line = true ∧ (∀ l ∈ lineLocs line, poisonLoc t l = true) ∧ dirOf t line = {} ∧ SameMemory s t ∧
      t.regs = { s.regs with olnext := s.regs.olnext + 1 }) ∧
    (d.asked = none → exec (.ownerLostTimeout line) s = .next s) ∧
    (s.ownerLost.contains line = true → exec (.podLineRequest { agent := g, line := line, ask := .read }) s =
      .next { s with out := s.out ++ [.pod g line true false 0] }) ∧
    (∀ k, let x := lookupD s.l2 (podLine0 + k) {}
      let answer : OutMsg := .snoopAnswer k (if x.dirty then some (BitVec.ofNat 512 (readPod s (512 * k) 512)) else none)
      (∃ t, exec (.snoop k .share) s = .next t ∧ SameMemory s t ∧ t.out = s.out ++ [answer] ∧ (lookupD t.l2 (podLine0 + k) {}).dirty = false ∧
        lostLoc t (.pod (512 * k)) = false ∧ t = { s with l2 := t.l2, podLost := t.podLost, out := t.out }) ∧
      (∃ t, exec (.snoop k .invalidate) s = .next t ∧ SameMemory s t ∧ t.out = s.out ++ [answer] ∧ t.l2 = eraseAt s.l2 (podLine0 + k) ∧
        lostLoc t (.pod (512 * k)) = false ∧ t = { s with l2 := t.l2, podLost := t.podLost, out := t.out }) ∧
      (∃ t, exec (.snoop k .lost) s = .next t ∧ t.l2 = eraseAt s.l2 (podLine0 + k) ∧ lostLoc t (.pod (512 * k)) = true ∧ t.out = s.out ∧
        (x.dirty = false → SameMemory s t) ∧ t = { s with l2 := t.l2, podLost := t.podLost, podMem := t.podMem, free := t.free }) ∧
      (∀ v poi, ∃ t, exec (.snoop k (.written v poi)) s = .next t ∧ readPod t (512 * k) 512 = v.toNat ∧ t.mem = s.mem ∧
        (∀ b n, 0 < n → 512 * k + 512 ≤ b ∨ b + n ≤ 512 * k → readPod t b n = readPod s b n) ∧ lookup t.l2 (podLine0 + k) = none ∧
        lostLoc t (.pod (512 * k)) = false ∧ poisonLoc t (.pod (512 * k)) = poi))

/-- R272, R274, R278: the end of a walk that has a walker, with one access that waits. A leaf that the access passes is cached for its page and the access issues again;
one that it fails faults it and is not cached, once every other page of its record is translated; a walk that stops parks it with TRANSLATION, the level and the entry. -/
def PageWalkEnds : Prop :=
  (∀ (s : State) (k : Nat) (x : Walk), lookup s.walks k = some x → hasWalker s k x = false → exec (.pageWalkDone k) s = .next s) ∧
  ∀ (s : State) (k : Nat) (x : Walk) (w : Waiter), Quiet s → lookup s.walks k = some x → x.waiting = [w] → hasWalker s k x = true →
    waitsAt s (.form w.e.act w.e.node) = none →
    let i : FaultInfo := { va := w.va, width := w.width, wr := w.use.writes }
    match (walkTables s x.part x.va).2 with
    | .owned l => ∃ u, u = { s with l2 := u.l2, victim := u.victim, misses := u.misses } ∧ exec (.pageWalkDone k) s = .next (snoopOwner u l none)
    | .stop c lvl e => ∃ u, u = { s with walks := eraseAt s.walks k, l2 := u.l2, victim := u.victim, misses := u.misses } ∧
        exec (.pageWalkDone k) s = .next (park u w.e.act w.e.node { i with cls := .translation, cause := c, lvl := lvl, info := e } (.form w.e))
    | .leaf e big _ =>
      w.leaves = [] →
      (∀ c, w.parts = [(w.va, w.part)] → permission (supervisor s x.part) w.use e = some c ∨
          permission (supervisor s x.part) w.use e = none ∧ apertureBad s w.use e big w.va w.part = true ∧ c = 6 →
        ∃ u, u = { s with walks := eraseAt s.walks k, l2 := u.l2, victim := u.victim, misses := u.misses } ∧
        exec (.pageWalkDone k) s = .next (raise u w.e.act w.e.node { i with cls := .protection, cause := c, lvl := if big then 2 else 3, info := e })) ∧
      (∀ y, w.parts = [(w.va, w.part), y] → (permission (supervisor s x.part) w.use e).isSome = true ∨ apertureBad s w.use e big w.va w.part = true →
        pageBase y.1 big ≠ pageBase w.va big → tlbLookup s (.quad w.e.quad) x.part y.1 = none →
        ∃ u, u = { s with walks := eraseAt s.walks k, l2 := u.l2, victim := u.victim, misses := u.misses } ∧
        exec (.pageWalkDone k) s = .next (awaitWalk u x.part y.1
          { w with va := y.1, part := y.2, leaves := [{ part := x.part, va := pageBase w.va big, big := big, leaf := e }] })) ∧
      (w.parts = [(w.va, w.part)] → permission (supervisor s x.part) w.use e = none → apertureBad s w.use e big w.va w.part = false →
        tlbLookup s (.quad w.e.quad) x.part x.va = none → ∃ t, exec (.pageWalkDone k) s = .next t ∧
          t.entries = s.entries ++ [{ w.e with stamp := some s.cycle }] ∧
          tlbLookup t (.quad w.e.quad) x.part x.va = some { part := x.part, va := pageBase x.va big, big := big, leaf := e } ∧
          t = { s with walks := eraseAt s.walks k, l2 := t.l2, victim := t.victim, misses := t.misses, tlbQuad := t.tlbQuad, tlbGrid := t.tlbGrid, entries := t.entries })

/-- R152, R157 to R160: a write-back of a clean line changes nothing; a dirty one leaves the L2 and the victim cache. With a compression region its block's
state becomes that of its size when the block is marked for compression, and 0 otherwise; a block in state 9 or above is stored raw, and its sectors that
no cache holds stay poisoned. -/
def WriteBack : Prop :=
  ∀ (s : State) (line : Nat), let x := lineState s line
    (x.dirty = false → exec (.writeBack line) s = .next s) ∧
    (x.dirty = true → line < compactLine0 → s.regs.cmbas.getLsbD 0 = false → s.packed = [] →
      exec (.writeBack line) s = .next { s with l2 := eraseAt s.l2 line, victim := eraseAt s.victim line }) ∧
    (let u := cdaToLinear (64 * line) / 256
     let base := bits s.regs.cmbas.toNat 33 27 * 2 ^ 30
     let n := blockSize (readDev s 0 (2048 * u) 2048)
     let marked := [line / 4 * 4, line / 4 * 4 + 1, line / 4 * 4 + 2, line / 4 * 4 + 3].any fun k => (lineState s k).cmark
     x.dirty = true → line < compactLine0 → s.regs.cmbas.getLsbD 0 = true → ¬(base ≤ 256 * u ∧ 256 * u < base + 960 * 2 ^ 20) →
     s.poison = [] → ∃ t, exec (.writeBack line) s = .next t ∧ lookup t.l2 line = none ∧ lookup t.victim line = none ∧
       (∀ k, k ≠ line → lookup t.l2 k = lookup s.l2 k ∧ lookup t.victim k = lookup s.victim k) ∧
       (∀ c, c ≠ linearToCda (metaAddr s u / 8) → lookupD s.packed u 0 = blockState s u ∨ 9 ≤ blockState s u → cellRead t.mem c = cellRead s.mem c) ∧
       t.podMem = s.podMem ∧ lookupD t.packed u 0 = blockState t u ∧
       (blockState s u ≤ 8 → lookupD s.packed u 0 = blockState s u →
         blockState t u = (if marked = false then 0 else if n = 0 then 8 else if n ≤ 224 then (n + 31) / 32 else 0) ∧
         t.regs.cmraw = s.regs.cmraw + (if marked = true ∧ 224 < n then 1 else 0) ∧ t.poison = []) ∧
       (9 ≤ blockState s u → blockState t u = 0 ∧ t.regs.cmraw = s.regs.cmraw ∧
         ∀ k, k ∈ t.poison ↔ k ∈ unitSectors u ∧ sectorCached s k = false))

/-- R159, R174: an error that scrub finds is counted for its bank; an uncorrectable one poisons its sector, unless a dirty copy is held. Mirroring copies
the counts for ECNT, clearing zeroes them, and ECNT reads the mirrored counts of the bank that ECSEL names. -/
def ScrubAndCounts : Prop :=
  ∀ (s : State) (sec : Nat), let b := bankNumber (32 * sec)
    (∀ u, cdaExists (32 * sec) = false → exec (.hbmScrub sec u) s = .next s) ∧
    (cdaExists (32 * sec) = true →
      (∃ t, exec (.hbmScrub sec false) s = .next t ∧ t = { s with mc := t.mc } ∧
        lookupD t.mc.counts b (0, 0) = ((lookupD s.mc.counts b (0, 0)).1 + 1, (lookupD s.mc.counts b (0, 0)).2) ∧
        ∀ k, k ≠ b → lookupD t.mc.counts k (0, 0) = lookupD s.mc.counts k (0, 0)) ∧
      (∃ t, exec (.hbmScrub sec true) s = .next t ∧ t = { s with mc := t.mc, l2 := t.l2, victim := t.victim, poison := t.poison } ∧
        lookupD t.mc.counts b (0, 0) = ((lookupD s.mc.counts b (0, 0)).1, (lookupD s.mc.counts b (0, 0)).2 + 1) ∧
        (sectorHeld s sec = (true, true) → t.poison = s.poison ∧ t.l2 = s.l2 ∧ t.victim = s.victim) ∧
        (sectorHeld s sec ≠ (true, true) → ∀ k, k ∈ t.poison ↔ k = sec ∨ k ∈ s.poison) ∧ (sectorHeld s sec = (true, false) → (sectorHeld t sec).1 = false))) ∧
    exec .errorCountMirror s = .next (updMc s fun m => { m with mirror := m.counts }) ∧
    exec .errorCountClear s = .next (updMc s fun m => { m with counts := [], mirror := [] }) ∧
    (∀ c u, bits s.regs.ecsel.toNat 4 7 < 96 → lookupD s.mc.mirror s.regs.ecsel.toNat (0, 0) = (c, u) → c < 65536 → u < 65536 →
      readReg s none 0x46D = BitVec.ofNat 64 (u * 2 ^ 32 + c))

/-- R173: HEAT_DECAY_DONE during a decay halves every one of the 2^26 entries of the heat table, changes no other byte, and clears RUN. -/
def HeatDecay : Prop :=
  ∀ (s : State),
    (s.regs.heatRun = false → exec .heatDecayDone s = .next s) ∧
    (s.regs.heatRun = true → ∃ t, exec .heatDecayDone s = .next t ∧ t = { s with mem := t.mem, podMem := t.podMem, regs := { s.regs with heatRun := false } } ∧
      (∀ i, i < 2 ^ 26 → readArea t (8 * heatBase s + 16 * i) 16 = readArea s (8 * heatBase s + 16 * i) 16 / 2) ∧
      (∀ c, (∀ b, heatBase s ≤ b → b < heatBase s + 2 ^ 27 → c ≠ linearToCda b) → cellRead t.mem c = cellRead s.mem c) ∧
      (∀ b, b < heatBase s ∨ heatBase s + 2 ^ 27 ≤ b → cellRead t.podMem b = cellRead s.podMem b))

/-- R25: BAD_BIT_SET makes one bit of a bad-unit register one and leaves the others; BAD_BIT_CLEAR makes it zero, only while no configuration is loaded
on the unit's grid. -/
def BadBits : Prop :=
  ∀ (s : State) (num bit : Nat), bit < 64 → 0x400 ≤ num → num ≤ 0x429 →
    (∃ t, exec (.badBitSet num bit) s = .next t ∧ t = { s with regs := t.regs } ∧
      (∀ n, n ≤ 0x429 → 0x400 ≤ n → ∀ k, k < 64 →
        (readReg t none n).getLsbD k = ((readReg s none n).getLsbD k || decide (n = num ∧ k = bit)))) ∧
    (gridLoaded s (bitGrid num bit) = true → exec (.badBitClear num bit) s = .next s) ∧
    (gridLoaded s (bitGrid num bit) = false → ∃ t, exec (.badBitClear num bit) s = .next t ∧ t = { s with regs := t.regs } ∧
      (∀ n, n ≤ 0x429 → 0x400 ≤ n → ∀ k, k < 64 →
        (readReg t none n).getLsbD k = ((readReg s none n).getLsbD k && decide ¬(n = num ∧ k = bit))))

/-- R338, R339: a bundle is accepted, and runs, exactly when its key has the fused digest, its signature verifies, and its version is not below the
fused minimum. An attestation report has 340 bytes, with the format, DEVN, DID, the firmware's digest and the nonce in their places. -/
def FirmwareAndAttestation : Prop :=
  ∀ (s : State),
    (∀ b : Bundle, if sha512 (bytesBig 132 b.key.toNat) = Config.rootKeyDigest ∧ ecdsaVerify b.key (sha512 (bytesOfNat 4 b.svn.toNat ++ b.image)) b.sigR b.sigS = true ∧
        Config.minSvn.toNat ≤ b.svn.toNat
      then exec (.firmwareUpdate b) s =
        .next { s with out := s.out ++ [.firmware true], mc := { s.mc with running := some (sha512 b.image), svn := b.svn } }
      else exec (.firmwareUpdate b) s = .next { s with out := s.out ++ [.firmware false] }) ∧
    (∀ nonce : BitVec 512, ∃ l, exec (.attestationRequest nonce) s = .next { s with out := s.out ++ [.report l] } ∧ l.length = 340 ∧
      l.take 208 = reportBody s nonce ∧ natOfBytes (l.take 4) = 1 ∧ natOfBytes ((l.drop 4).take 4) = s.regs.devn.toNat ∧
      natOfBytes ((l.drop 8).take 8) = (readReg s none 0x900).toNat ∧
      natOfBytes ((l.drop 16).take 64).reverse = (s.mc.running.getD Config.firmwareDigest).toNat ∧
      natOfBytes ((l.drop 80).take 64) = nonce.toNat)

/-- R332, R340: throttling steps the clock from 1600 to 1200 to 800 MHz; shutdown removes power, after which nothing but a device reset happens; a device
reset counts DBOOT, keeps DEVN and the bad units, leaves every cuff at NEXT 0, ESEQ 0 and ACK 0xFFFFFFFF, and no configuration or colour. -/
def PowerAndReset : Prop :=
  ∀ (s : State),
    (s.mc.clock = 1600 → exec .thermalThrottle s = .next { s with mc := { s.mc with clock := 1200 } }) ∧
    (s.mc.clock = 1200 → exec .thermalThrottle s = .next { s with mc := { s.mc with clock := 800 } }) ∧
    (∃ t, exec .thermalShutdown s = .next t ∧ t = { s with mc := { s.mc with powered := false } } ∧
      (t.agenda.head? ≠ some (.event .deviceReset) → step t = .fault .noPower)) ∧
    (∃ t, exec .deviceReset s = .next t ∧ t.regs.dboot = s.regs.dboot + 1 ∧ t.regs.devn = s.regs.devn ∧ t.regs.badn = s.regs.badn ∧
      t.regs.badi = s.regs.badi ∧ t.regs.badx = s.regs.badx ∧ t.regs.badc = s.regs.badc ∧ t.cfgs = [] ∧ t.colours = [] ∧ t.acts = [] ∧ t.net = [] ∧
      t.mc.powered = true ∧ (s.mc.powered = true → t.mem = s.mem ∧ t.poison = s.poison) ∧
      (∀ c, (queueOf t c).next = 0 ∧ (queueOf t c).eseq = 0 ∧ (queueOf t c).ack = 0xFFFFFFFF ∧ (queueOf t c).fifo = []) ∧
      (∀ p, (partOf t p).pstate = (partOf State.reset p).pstate))

/-- Records of the spec's worked examples, read bit by bit by Tables 3.6 to 3.14: ADD (R98), FFMA, ACAS, TMMA, XGAT, SWR, FENCE and TLBI. -/
def DecodedWords : Prop :=
  decodeRecord 0x200110875000000000000005 = .ok (.add (plainG .i32 .a (.node 7 .b false) (.slot 0 false) .scalar 5)) ∧
  decodeRecord 0x430830890000000000000000 = .ok (.ffma (plainG .f32 .abc (.node 9 .a false) .none .scalar 0)) ∧
  decodeRecord 0x520C10850860020000000000 = .ok (.qblk (plainG .e4m3 .a (.node 5 .a false) (.node 6 .a false) .packed 0)) ∧
  decodeRecord 0xB30010000000000000000451 = .ok (.swr (plainG .i64 .a .none .none .scalar 0x451)) ∧
  decodeRecord 0xB60010830000000000000000 = .ok (.tlbiPage (plainG .i64 .a (.node 3 .a false) .none .scalar 0)) ∧
  decodeRecord 0x7831308900002FFF00000030 =
    .ok (.acas { c := { fn := 3, ty := .i32, pm := .always, ar := .abc, tg := .keep, t0 := .node 9 .a false, t1 := .none },
                 own := 2, pred := 31, succ := 31, ordr := .acqRel, ofs := 0x30 }) ∧
  decodeRecord 0x6EB000870000317C00000000 =
    .ok (.fence { c := { fn := 11, ty := .i64, pm := .always, ar := .start, tg := .keep, t0 := .node 7 .a false, t1 := .none },
                  own := 3, pred := 2, succ := 31, ordr := .relaxed, ofs := 0 }) ∧
  decodeRecord 0x930C108900000A0000004000 =
    .ok (.tmma { c := { fn := 0, ty := .e4m3, pm := .always, ar := .a, tg := .keep, t0 := .node 9 .a false, t1 := .none },
                 isl := 0, all := true, slot := 2, aux := 0, row := 0, nrow := 64, col := 0 }) ∧
  decodeRecord 0x820030870880004018000005 =
    .ok (.xgat { c := { fn := 0, ty := .i64, pm := .always, ar := .abc, tg := .keep, t0 := .node 7 .a false, t1 := .node 8 .a false },
                 hslot := 0, full := false, ha := true, hb := false, lit := 0x18000005 })

/-- Tables 3.6 to 3.14: the encoding and the decoding of node records are inverse. Every well-formed form with a record, with every field at every value
its type admits, decodes from its word and from its 12 bytes; every word that decodes is the word of a well-formed form. -/
def DecodeEncode : Prop :=
  (∀ (i : Instr) (w : RecordWord), i.wf = true → encodeRecord i = some w →
    decodeRecord w = .ok i ∧ ∃ b, encode i = some b ∧ b.length = 12 ∧ decode b = .ok i) ∧
  (∀ (w : RecordWord) (i : Instr), decodeRecord w = .ok i → i.wf = true ∧ encodeRecord i = some w)

/-- R89, R97, R98: a record is refused with a reserved OPC exactly when Table 3.13 leaves its OPC out. TY code 7, PM 11, TG 6 and 7, a non-zero field of
target kind 00, and bits that a form's format reserves are refused too. -/
def ReservedRefused : Prop :=
  (∀ w : RecordWord, let o := (w.extractLsb' 88 8).toNat
    (assigned o = false → decodeRecord w = .error (.reservedOpc (w.extractLsb' 88 8))) ∧
    (assigned o = true → ∀ x, decodeRecord w ≠ .error (.reservedOpc x)) ∧
    (0x90 ≤ o → o ≤ 0x98 → w.getLsbD 7 = true → ∀ i, decodeRecord w ≠ .ok i) ∧
    (o ∈ [0x08, 0x09, 0x15, 0x19, 0x1A, 0x1B] → w.extractLsb' 32 14 ≠ 0 → ∀ i, decodeRecord w ≠ .ok i) ∧
    (0x80 ≤ o ∧ o ≤ 0x89 ∨ 0xA0 ≤ o ∧ o ≤ 0xA4 → w.extractLsb' 32 5 ≠ 0 → ∀ i, decodeRecord w ≠ .ok i)) ∧
  (∀ w : RecordWord, w.extractLsb' 80 4 = 7 ∨ w.extractLsb' 78 2 = 3 ∨ 6 ≤ (w.extractLsb' 73 3).toNat ∨
      (w.extractLsb' 71 2 = 0 ∧ w.extractLsb' 61 12 ≠ 0) ∨ (w.extractLsb' 59 2 = 0 ∧ w.extractLsb' 49 12 ≠ 0) →
    ∀ i, decodeRecord w ≠ .ok i)

/-- R50, R51: the record that an EN issues completed in an earlier cycle, is among the 64 of its ready queue and is not held, and no other such record of
the EN completed before it. A step
whose agenda names the EN frees its entry, lets its node fire, and runs the decoded form (a set that its predicate does not select has
no effect); a step whose agenda names an event runs that event. Each then ends the cycle. -/
def StepRunsDecoded : Prop :=
  ∀ (s : State), s.mc.powered = true →
    (∀ en e, headEligible s en = some e → e ∈ s.entries ∧ e.en = en ∧ held s e = false ∧ ∃ c, e.stamp = some c ∧ c < s.cycle ∧
      (s.entries.filter fun y => y.en == en && match y.stamp with | some d => decide (d < c) | none => false).length < 64 ∧
      ∀ y ∈ s.entries, ∀ d, y.en = en → y.stamp = some d → d < s.cycle → held s y = false → c ≤ d) ∧
    (∀ en rest, s.agenda = .issue en :: rest → let t := { s with agenda := rest }
      (headEligible t en = none → step s = .next (endStep s t)) ∧
      (∀ e, headEligible t en = some e → let w := imgRec (actOf t e.act).image e.node
        (selected w e = false → step s = .next (endStep s (issued t e))) ∧
        (∀ i, selected w e = true → decodeRecord w = .ok i → step s = finish s (exec i (issued t e))))) ∧
    (∀ i rest, s.agenda = .event i :: rest → step s = finish s (exec i { s with agenda := rest })) ∧
    (∀ t, finish s (.next t) = .next (endStep s t))

/-- Every meaning answers a next state: what the spec has a form or an event report goes into the state, as a fault record, a token or a record. -/
def ExecCompletes : Prop := ∀ (i : Instr) (s : State), ∃ t, exec i s = .next t

/-- R73, Table 2.10: in every state that a step gives, the throttle state of every quad agrees with its occupancy. -/
def ThrottleKept : Prop := ∀ (s s' : State), step s = .next s' → ThrottleSettled s'

/-- The canonical form of device memory and of pod memory (Safety.lean) is an invariant of every step. -/
def SafeSteps : Prop := ∀ s : State, s.Safe → safeStep s

/-- R73: no quad is Throttled, or at its on-threshold, after reset. -/
def ThrottleAtReset : Prop := ThrottleSettled State.reset ∧ State.reset.throttled = []

/-- The reset columns of Tables 2.8, 4.6, 5.10, 8.9, 8.10, 9.3, 10.9 and 11.4: MSLIM, NVER, HEATK, QCFG, FQSEQ, FSTAT, GLTO, OWNTO, OLSEQ, DID and HXCFG
have values; every other number reads zero. -/
def resetValue (num : Nat) : Word :=
  if num = 0x440 then BitVec.ofNat 64 (56 * 2 ^ 8 + 48)
  else if num = 0x451 then 9
  else if num = 0x460 then 6
  else if 0x500 ≤ num ∧ num < 0x700 ∧ num % 8 = 0 then BitVec.ofNat 64 (16 * 2 ^ 40 + 192 * 2 ^ 16 + 64)
  else if 0x700 ≤ num ∧ num < 0x800 ∧ num % 16 = 4 then 0xFFFFFFFF
  else if 0x700 ≤ num ∧ num < 0x800 ∧ num % 16 = 6 then BitVec.ofNat 64 (3 * 2 ^ 62)
  else if num = 0x80D then 50000
  else if num = 0x815 then 2000
  else if num = 0x818 then 0xFFFFFFFF
  else if num = 0x900 then BitVec.ofNat 64 (9 * 2 ^ 48 + 9 * 2 ^ 40)
  else if num = 0x920 then BitVec.ofNat 64 (10000 * 2 ^ 16)
  else 0

/-- R71, R124, R175, R268, R281, R317, R332, R333: every system register but DFEAT (0x901) and DBOOT (0x903) reads its table's reset value after device
reset, for every issuing partition and sleeve; the device number, which the management controller gives, is 0 (log 5). Each queue's ACK is all ones. -/
def ResetState : Prop :=
  (∀ p v num, num ≠ 0x901 → num ≠ 0x903 → readReg State.reset (some (p, v)) num = resetValue num) ∧
  (∀ c, (queueOf State.reset c).ack = 0xFFFFFFFF) ∧
  memWf State.reset.mem ∧ memWf State.reset.podMem ∧ State.reset.mc.powered = true

/-- R41: a token of a colour that is not live, to a node, a write slot or another block, is discarded when it is delivered and counted in DEADC of its
partition; nothing else changes. Colour 0x0000, and a colour that has been freed, are not live. -/
def DeadTokens : Prop :=
  (∀ s p, live s (colourKey p 0) = false) ∧ (∀ s p n, (lookup s.colours (colourKey p n)).isSome = false → live s (colourKey p n) = false) ∧
  ∀ (s : State) (i : Nat) (n : NetToken), s.net[i]? = some n → retHeld s n = false → parityOf n.tok = n.par →
    live s (colourKey n.part (tagColour n.tok.tag)) = false →
    exec (.tokenDelivery i) s =
      .next (updPart { s with net := s.net.eraseIdx i } n.part fun x => { x with deadc := (partOf s n.part).deadc + 1 })

/-- R72, Table 2.9: MSLIM reads its thresholds in bits [14:8] and [6:0] and zero elsewhere, 56 and 48 after reset. A write sets both, or changes
nothing when its ON is 0 or above 64 or its OFF is not less than ON. -/
def ThrottleLimits : Prop :=
  ∀ (s : State) (p : Nat) (v : Word),
    let on := bits v.toNat 8 7
    let off := bits v.toNat 0 7
    (1 ≤ on → on ≤ 64 → off < on → ∃ t, writePartReg s p 0x440 v = t ∧ t = { s with parts := t.parts } ∧ (∀ q, q ≠ p → partOf t q = partOf s q) ∧
      partOf t p = { partOf s p with on := on, off := off } ∧ readPartReg (partOf t p) 0x440 = v &&& 0x7F7F) ∧
    (on = 0 ∨ 64 < on ∨ on ≤ off → writePartReg s p 0x440 v = s) ∧
    readPartReg (partOf State.reset p) 0x440 = BitVec.ofNat 64 (56 * 256 + 48)

/-- R73, Table 2.10: the end of a cycle moves each quad of a partition between Open and Throttled by its occupancy, counts in THRC every quad that
becomes Throttled, and from then on holds there the records that R74 names. -/
def ThrottleStates : Prop :=
  ∀ (old s : State) (q p : Nat), partOfQuad s q = some p → 1 ≤ (partOf s p).on → (partOf s p).off < (partOf s p).on →
    let t := endCycle old s
    (q ∉ s.throttled → (q ∈ t.throttled ↔ (partOf s p).on ≤ occupancy t q)) ∧
    (q ∈ s.throttled → (q ∈ t.throttled ↔ (partOf s p).off ≤ occupancy t q)) ∧
    (partOf t p).thrc = (partOf s p).thrc + BitVec.ofNat 64
      ((List.range 512).filter fun k => decide (partOfQuad s k = some p ∧ k ∉ s.throttled ∧ k ∈ t.throttled)).length ∧
    (∀ e, e.en / 4 = q → q ∈ t.throttled → throttledForm (imgRec (actOf t e.act).image e.node) = true → held t e = true)

/-- R95, R215: TZRO of rows beyond 512, an NROW of 0 standing for 4,096, is BLOCK_SHAPE at issue; its command sets rows ROW to ROW + NROW - 1 of the accumulators to zero, clears their poison
bits, and changes no other row, latch, scale or tile-store bit. -/
def ZeroRows : Prop :=
  (∀ (r : TRec) (s : State) (seg : Nat × Nat), Clean s r.c 0 → (sleeveOf s (begin s r.c 0).cur.sleeve).seg = some seg →
    r.all = true ∨ r.isl.toNat < seg.2 → 512 < r.row.toNat + rowsOf r →
    exec (.tzro r) s = .next (raise (begin s r.c 0) s.cur.act s.cur.node { cls := .blockShape })) ∧
  (∀ (s : State) (i isl : Nat) (c : HemCmd) (r : TRec) (a b : TokVal), Arrives s i isl c a b → c.instr = .tzro r →
    ∃ t y, exec (.hemCommandArrival i) s = .next t ∧ Ran s t i isl c id y ∧ y = { islandOf s isl with acc := y.acc, poi := y.poi } ∧
      ∀ k, (accPoi y k = (accPoi (islandOf s isl) k && !(decide (r.row.toNat ≤ k) && decide (k < r.row.toNat + rowsOf r)))) ∧
        ∀ j < 128, accAt y k j = if r.row.toNat ≤ k ∧ k < r.row.toNat + rowsOf r then 0 else accAt (islandOf s isl) k j)

end Sys2Proof.Claims

/-! ## Obligations -/

open Sys2Proof

/-- Integer addition, subtraction, multiplication, negation and absolute value, wrapping and saturating. -/
def Obligations.IntegerArithmetic : Prop :=
  Claims.IntegerWrap ∧ Claims.IntegerSaturate ∧ Claims.NegAbs

/-- Division, order, bitwise, shift, bit-count, compare, select and bit-field forms. -/
def Obligations.IntegerLogic : Prop :=
  Claims.DivideAndOrder ∧ Claims.BitwiseAndShift ∧ Claims.BitCounts ∧ Claims.CompareSelectField

/-- What a poisoned operand, a null operand and a tag operation beyond its depth do to a form that only computes. -/
def Obligations.OperandMarks : Prop :=
  Claims.PoisonKills ∧ Claims.NullPropagates ∧ Claims.TagDepthRaised

/-- The tag operations, and the token that a result becomes at each kind of target. -/
def Obligations.TagsAndTargets : Prop :=
  Claims.TagOperations ∧ Claims.TokenSent

/-- The frame of the computing forms: only tokens are sent, nothing else changes. -/
def Obligations.PureFrame : Prop :=
  Claims.PureFrame

/-- MOV, MOVI, NULL, GATE, JOIN and the tag forms. -/
def Obligations.DataflowForms : Prop :=
  Claims.DataflowForms

/-- Element forms lane by lane, and the forms that move lanes. Rests on the model's choices in log 48. -/
def Obligations.VectorLanes : Prop :=
  Claims.VectorLanes ∧ Claims.LaneForms

/-- Results of the float group, and its comparisons and classes. Rests on the model's choices in log 12. -/
def Obligations.FloatForms : Prop :=
  Claims.FloatForms ∧ Claims.FloatOrder ∧ Claims.UnaryFunctions ∧ Claims.SpecialOperands

/-- Exact arithmetic before rounding, rounding to a neighbour, and every float pattern reads back from what writing its number gives. -/
def Obligations.FloatArithmetic : Prop :=
  Claims.ExactArithmetic ∧ Claims.RoundsToUnit ∧ Claims.FloatRoundTrip

/-- Conversion, scaling, quantisation, packing and unpacking. -/
def Obligations.ConversionForms : Prop :=
  Claims.ConvertForms ∧ Claims.QuantiseForms

/-- Reductions and scans of a vector, by the fixed tree, and the steps by which COMB combines tokens. Rests on the model's choices in log 3. -/
def Obligations.Reductions : Prop :=
  Claims.Reductions ∧ Claims.TreeReductions ∧ Claims.CombSteps

/-- EXIT and EXITX: the exit an activation produces, and the faults of a second or wrong one. -/
def Obligations.ExitForms : Prop :=
  Claims.ExitForms ∧ Claims.ExitFaults

/-- Predicted successors start, and a wrong prediction squashes them. -/
def Obligations.PredictionAndMispredict : Prop :=
  Claims.Prediction ∧ Claims.Mispredict

/-- WAVE, LENT, LEAV, LBND and LCNT; iterations start within the window, and counted loops give their tokens. Rests on the model's choices in log 26. -/
def Obligations.Loops : Prop :=
  Claims.LoopForms ∧ Claims.CountedLoop ∧ Claims.LoopEvents

/-- CTXA, CALL and SPAWN create a colour, its root thread and its first activation. Rests on the model's choices in log 3. -/
def Obligations.ColourCreation : Prop :=
  Claims.ColourCreation

/-- CTXF, CTXJ, CTXS and RET. Rests on the model's choices in log 26. -/
def Obligations.ColourForms : Prop :=
  Claims.ColourForms ∧ Claims.ReturnForm

/-- The linear and tiled apertures are bijections onto device memory; bits written to device memory, pod memory and scratchpads read back, and no other bit changes. -/
def Obligations.ReadAfterWrite : Prop :=
  Claims.ApertureBijection ∧ Claims.ReadAfterWrite ∧ Claims.ReadAfterWriteElsewhere

/-- How an address resolves, and the permission causes in their order. -/
def Obligations.AddressChecks : Prop :=
  Claims.AddressChecks ∧ Claims.PermissionCauses

/-- LD and LDV: the value read, its extension, and its return. -/
def Obligations.LoadForms : Prop :=
  Claims.LoadForms ∧ Claims.LoadValue ∧ Claims.LoadReturn

/-- SPLD, SPST and the forwarding table. -/
def Obligations.ScratchForms : Prop :=
  Claims.ScratchForms ∧ Claims.ScratchDrain

/-- LDS, LDI, STF, STE and STI on full, empty and deferred words, and the answers when a word is made Full. Rests on the model's choices in log 29. -/
def Obligations.FullEmptyWords : Prop :=
  Claims.FullEmptyLoads ∧ Claims.FullEmptyStores ∧ Claims.FullEmptyAnswers

/-- The nine memory atomics read, combine and write in one step. -/
def Obligations.AtomicForms : Prop :=
  Claims.AtomicForms

/-- Stores enter the store buffer, one part per sector; STORE_PERFORM writes the element of a committed one, or waits. -/
def Obligations.Stores : Prop :=
  Claims.StoreForms ∧ Claims.StorePerform ∧ Claims.StoreWaits

/-- FENCE, PREF, FLSH and INVL. Rests on the model's choices in log 7, 57. -/
def Obligations.FenceAndCacheForms : Prop :=
  Claims.FenceForm ∧ Claims.CacheForms

/-- Circular buffers, SEND and RECV. Rests on the model's choices in log 31. -/
def Obligations.BuffersAndPorts : Prop :=
  Claims.CircularBuffers ∧ Claims.StreamPorts

/-- Tokens are matched and counted at their nodes, held as mode tokens, retried on bad parity, spilled, and refilled. Rests on the model's choices in log 23, 53. -/
def Obligations.TokenTraffic : Prop :=
  Claims.TokenDelivery ∧ Claims.TokenCounting ∧ Claims.ModeTokens ∧ Claims.ParityRetry ∧ Claims.TokenSpill ∧ Claims.TokenRefill

/-- A block is fetched, verified and mapped, and its activation starts with the register values it reads. Rests on the model's choices in log 30. -/
def Obligations.ActivationStart : Prop :=
  Claims.ActivationStart ∧ Claims.BlockFetch

/-- A commit lets frame writes and stores take effect and goes on at the exit block. Rests on the model's choices in log 22. -/
def Obligations.CommitToBlock : Prop :=
  Claims.CommitToBlock

/-- Colours end and are freed with their DONE record, are placed, and are created again after a kill. Rests on the model's choices in log 53. -/
def Obligations.ColourLives : Prop :=
  Claims.ColourEnds ∧ Claims.ColourPlacement

/-- A fault is taken precisely, waits with a predicted activation, or parks the activation. -/
def Obligations.FaultsTaken : Prop :=
  Claims.FaultTaken ∧ Claims.FaultDeferredOrParked

/-- The layout of fault records and egress records, and their places in their rings. Rests on the model's choices in log 10. -/
def Obligations.RecordsWritten : Prop :=
  Claims.FaultRecordWritten ∧ Claims.EgressRecord

/-- TRAP, BKPT, FRZ and ERET. -/
def Obligations.TrapAndReturn : Prop :=
  Claims.TrapForms ∧ Claims.EretReturn

/-- HVYA, HVYR, SRD and SWR. Rests on the model's choices in log 50. -/
def Obligations.BudgetAndRegisters : Prop :=
  Claims.BudgetForms ∧ Claims.RegisterForms

/-- TLBI removes translations, and a page walk ends with a translation, a fault or a park. Rests on the model's choices in log 24, 51. -/
def Obligations.Translation : Prop :=
  Claims.TlbiForms ∧ Claims.PageWalkEnds

/-- The pointer forms, and LCMP of a lining. Rests on the model's choices in log 37. -/
def Obligations.PointerAndLining : Prop :=
  Claims.PointerForms ∧ Claims.LiningCompare

/-- PMIG locks a page, and its switch copies the page and changes the leaf in one step. Rests on the model's choices in log 36, 60. -/
def Obligations.PageMigration : Prop :=
  Claims.PageLock ∧ Claims.PageSwitch

/-- Lines shared with the pod: requests, owners, snoops, and DRCL of a lost line. Rests on the model's choices in log 25. -/
def Obligations.PodLines : Prop :=
  Claims.PodLines ∧ Claims.LineReclaim

/-- Each of the eleven hem forms completes at its EN with its commands on their way, or faults on shape, island and budget. -/
def Obligations.HemIssue : Prop :=
  Claims.HemFormsComplete ∧ Claims.HemIssue

/-- What a hem command does on its island: tile store, latches, accumulators, their zero rows, and scales. Rests on the model's choices in log 16, 55. -/
def Obligations.HemCommands : Prop :=
  Claims.HemCommands ∧ Claims.HemScales ∧ Claims.HemQuantise ∧ Claims.ZeroRows

/-- TMMA accumulates its products, TROT rotates latches along the ring, and commands complete. Rests on the model's choices in log 16, 55. -/
def Obligations.MatrixWork : Prop :=
  Claims.MatrixMultiply ∧ Claims.RotateAndComplete

/-- The transfer, batch and handle forms. Rests on the model's choices in log 17. -/
def Obligations.TransfersIssued : Prop :=
  Claims.TransferForms ∧ Claims.BatchForms ∧ Claims.HandleForms

/-- A transfer island accepts a transfer and moves its units. Rests on the model's choices in log 17, 55. -/
def Obligations.TransfersRun : Prop :=
  Claims.TransferAcceptance ∧ Claims.TransferUnits

/-- The collective forms, their reductions and their ends. Rests on the model's choices in log 49, 54. -/
def Obligations.Collectives : Prop :=
  Claims.CollectiveForms ∧ Claims.CollectiveReduction ∧ Claims.CollectiveEnds

/-- Ingress tokens: what a cuff window write does, ARG and START. -/
def Obligations.CuffTraffic : Prop :=
  Claims.CuffWrites ∧ Claims.ArgAndStart

/-- CONFIG and UNLOAD. Rests on the model's choices in log 41. -/
def Obligations.ConfigAndUnload : Prop :=
  Claims.ConfigAndUnload

/-- FREEZE, RESUME, RESET, the watchdog and the end of a freeze. Rests on the model's choices in log 39, 42. -/
def Obligations.FreezeAndReset : Prop :=
  Claims.FreezeResumeReset ∧ Claims.WatchdogAndFreezeEnd

/-- Replay of parked work, and register writes of the management window. Rests on the model's choices in log 35, 56, 59. -/
def Obligations.ReplayAndWindow : Prop :=
  Claims.ReplayActions ∧ Claims.HostRegisterWrites

/-- Gusset groups: configuration, rebuild, deltas, acknowledgements and lost members. Rests on the model's choices in log 33. -/
def Obligations.GussetGroup : Prop :=
  Claims.GroupStates ∧ Claims.DeltaTraffic ∧ Claims.MemberTraffic

/-- Accesses between devices: requests at the home, replies at the requester, and the link under them. Rests on the model's choices in log 43, 44, 45. -/
def Obligations.RemoteAccesses : Prop :=
  Claims.HomeAccesses ∧ Claims.HomeAtomics ∧ Claims.RequesterReplies ∧ Claims.LinkEvents

/-- Write-backs, scrub errors, heat decay and bad bits. Rests on the model's choices in log 7, 10, 46. -/
def Obligations.MemoryUpkeep : Prop :=
  Claims.WriteBack ∧ Claims.ScrubAndCounts ∧ Claims.HeatDecay ∧ Claims.BadBits

/-- Firmware, attestation, throttling, shutdown and device reset. Rests on the model's choices in log 8, 9, 21, 47. -/
def Obligations.PowerAndIdentity : Prop :=
  Claims.FirmwareAndAttestation ∧ Claims.PowerAndReset

/-- Tokens of a colour that is not live are discarded and counted in DEADC. -/
def Obligations.DeadTokens : Prop :=
  Claims.DeadTokens

/-- The fields of MSLIM, and the writes that are ignored. -/
def Obligations.ThrottleLimits : Prop :=
  Claims.ThrottleLimits

/-- Throttle hysteresis: each quad moves between Open and Throttled at the end of every cycle; after any step, and after reset, the two agree with its occupancy. -/
def Obligations.ThrottleStates : Prop :=
  Claims.ThrottleStates ∧ Claims.ThrottleKept ∧ Claims.ThrottleAtReset

/-- A step from a state whose memories have their canonical form gives such a state. -/
def Obligations.SafeSteps : Prop :=
  Claims.SafeSteps

/-- Decoding and encoding of node records are inverse on every well-formed record form. -/
def Obligations.DecodeEncode : Prop :=
  Claims.DecodeEncode

/-- The words of the spec's worked examples decode to the records they stand for. -/
def Obligations.DecodedWords : Prop :=
  Claims.DecodedWords

/-- Reserved codes are refused wherever they stand in a record. -/
def Obligations.ReservedRefused : Prop :=
  Claims.ReservedRefused

/-- A step issues the head eligible record of its EN, runs the decoded form, and ends the cycle. Rests on the model's choices in log 2. -/
def Obligations.StepRunsDecoded : Prop :=
  Claims.StepRunsDecoded

/-- Every meaning answers a next state in every state; and what the registers read after device reset. Rests on the model's choices in log 5. -/
def Obligations.ExecCompletes : Prop :=
  Claims.ExecCompletes ∧ Claims.ResetState
end

