-- ==== Sys2Proof/Laws/Elements.lean ====
section
/-! SUPPORT. Element forms on scalars, and element patterns as bit vectors. -/

namespace Sys2Proof.Machine

open Sys2Proof

theorem ty_width_bounds (t : Ty) : 3 ≤ t.width ∧ t.width ≤ 64 := by cases t <;> decide

theorem minLn_scalars {l : List TokVal} (h : ∀ v ∈ l, v.kind ≠ .vector) : minLn l = none := by
  have e : (l.filter fun v => v.kind == .vector) = [] := by
    rw [List.filter_eq_nil_iff]
    intro a ha
    simpa using h a ha
  unfold minLn
  rw [e]
  rfl

/-- The pattern of a scalar's element, as the low bits of its word (R114). -/
theorem scalar_pattern {w : Nat} (hw : w ≤ 64) (v : TokVal) : v.val.toNat % 2 ^ w = (v.word.setWidth w).toNat := by
  simp only [TokVal.word, BitVec.toNat_setWidth, BitVec.extractLsb'_toNat, Nat.shiftRight_zero]
  exact (Nat.mod_mod_of_dvd _ (Nat.pow_dvd_pow 2 hw)).symm

theorem elementForm_scalars {lm : LaneMode} {w wr : Nat} {sg : Bool} {l : List TokVal} {f : List Nat → Nat} (hw : w ≤ 64)
    (h : ∀ v ∈ l, v.kind ≠ .vector) :
    elementForm lm w wr sg l f = scalarElem wr sg (f (l.map fun v => (v.word.setWidth w).toNat)) := by
  have e : (l.map fun v => elemOf lm w v 0) = l.map fun v => (v.word.setWidth w).toNat := by
    apply List.map_congr_left
    intro v hv
    rw [← scalar_pattern hw]
    have := h v hv
    unfold elemOf
    revert this
    cases v.kind <;> simp
  unfold elementForm
  rw [minLn_scalars h]
  cases lm <;> simp [e]

/-- The signed reading of a pattern is its two's complement value (R113). -/
theorem signedOf_toNat {w : Nat} (hw : 0 < w) (x : BitVec w) : signedOf w x.toNat = x.toInt := by
  unfold signedOf
  rw [BitVec.toInt_eq_toNat_cond]
  have h : x.toNat % 2 ^ w = x.toNat := Nat.mod_eq_of_lt x.isLt
  have e : 2 * 2 ^ (w - 1) = 2 ^ w := by
    rw [← Nat.pow_succ']
    congr 1
    omega
  simp only [h]
  split <;> split <;> omega

/-- Narrowing an integer modulo 2^w (R342). -/
theorem patternOf_ofInt (w : Nat) (x : Int) : patternOf w x = (BitVec.ofInt w x).toNat := by
  simp [patternOf, BitVec.toNat_ofInt]

/-- A scalar of a w-bit pattern, extended by its sign (R114). -/
theorem scalarElem_signed {w : Nat} (h : 0 < w) (x : BitVec w) : scalarElem w true x.toNat = scalarOf (x.signExtend 64) := by
  unfold scalarElem extendTo
  rw [if_pos rfl, signedOf_toNat h, patternOf_ofInt, BitVec.ofNat_toNat, BitVec.setWidth_eq]
  rfl
/-- A scalar of a w-bit pattern, extended by zeros (R114). -/
theorem scalarElem_unsigned {w : Nat} (x : BitVec w) : scalarElem w false x.toNat = scalarOf (x.setWidth 64) := by
  unfold scalarElem extendTo
  simp [Nat.mod_eq_of_lt x.isLt]

end Sys2Proof.Machine
end

