-- ==== Sys2Proof/Laws/Encoding.lean ====
section
/-! SUPPORT. Fields of an encoded record: parts of a word made by joining fields, and its OPC. -/

namespace Sys2Proof

theorem append_high {m n : Nat} (x : BitVec m) (y : BitVec n) : (x ++ y).extractLsb' n m = x := by
  apply BitVec.eq_of_getLsbD_eq
  intro i hi
  simp [BitVec.getLsbD_append, hi]

theorem append_deep {m n k a : Nat} (x : BitVec m) (y : BitVec n) (h : n ≤ a) : (x ++ y).extractLsb' a k = x.extractLsb' (a - n) k := by
  apply BitVec.eq_of_getLsbD_eq
  intro i hi
  have e : ¬ a + i < n := by omega
  simp [BitVec.getLsbD_append, hi, e, show a + i - n = a - n + i by omega]

theorem Common.word_opc (opc : BitVec 8) (c : Common) : (c.word opc).extractLsb' 39 8 = opc := by
  unfold Common.word
  repeat rw [append_deep _ _ (by omega)]
  simp

theorem GRec.word_opc (opc : BitVec 8) (r : GRec) : (r.word opc).extractLsb' 88 8 = opc := by
  unfold GRec.word
  repeat rw [append_deep _ _ (by omega)]
  exact Common.word_opc opc r.c

theorem MRec.word_opc (opc : BitVec 8) (r : MRec) : (r.word opc).extractLsb' 88 8 = opc := by
  unfold MRec.word
  repeat rw [append_deep _ _ (by omega)]
  exact Common.word_opc opc r.c

theorem TRec.word_opc (opc : BitVec 8) (r : TRec) : (r.word opc).extractLsb' 88 8 = opc := by
  unfold TRec.word
  repeat rw [append_deep _ _ (by omega)]
  exact Common.word_opc opc r.c

theorem CRec.word_opc (opc : BitVec 8) (r : CRec) : (r.word opc).extractLsb' 88 8 = opc := by
  unfold CRec.word
  repeat rw [append_deep _ _ (by omega)]
  exact Common.word_opc opc r.c

theorem XRec.word_opc (opc : BitVec 8) (r : XRec) : (r.word opc).extractLsb' 88 8 = opc := by
  unfold XRec.word
  repeat rw [append_deep _ _ (by omega)]
  exact Common.word_opc opc r.c

end Sys2Proof
end

