-- ==== Sys2Proof/Laws/State.lean ====
section
/-! SUPPORT. One lemma per field per update of State: what the updates of Ops.lean, Memory.lean and Tokens.lean leave as it was, and the
new value of the field that each writes. -/

namespace Sys2Proof.Machine

open Sys2Proof

/-! ## updPart -/

@[simp] theorem updPart_agenda (s : State) (p : Nat) (f : Partition → Partition) : (updPart s p f).agenda = s.agenda := rfl
@[simp] theorem updPart_turns (s : State) (p : Nat) (f : Partition → Partition) : (updPart s p f).turns = s.turns := rfl
@[simp] theorem updPart_free (s : State) (p : Nat) (f : Partition → Partition) : (updPart s p f).free = s.free := rfl
@[simp] theorem updPart_ids (s : State) (p : Nat) (f : Partition → Partition) : (updPart s p f).ids = s.ids := rfl
@[simp] theorem updPart_cycle (s : State) (p : Nat) (f : Partition → Partition) : (updPart s p f).cycle = s.cycle := rfl
@[simp] theorem updPart_cur (s : State) (p : Nat) (f : Partition → Partition) : (updPart s p f).cur = s.cur := rfl
@[simp] theorem updPart_parts (s : State) (p : Nat) (f : Partition → Partition) : (updPart s p f).parts = insertAt s.parts p (f (partOf s p)) := rfl
@[simp] theorem updPart_queues (s : State) (p : Nat) (f : Partition → Partition) : (updPart s p f).queues = s.queues := rfl
@[simp] theorem updPart_sleeves (s : State) (p : Nat) (f : Partition → Partition) : (updPart s p f).sleeves = s.sleeves := rfl
@[simp] theorem updPart_cfgs (s : State) (p : Nat) (f : Partition → Partition) : (updPart s p f).cfgs = s.cfgs := rfl
@[simp] theorem updPart_colours (s : State) (p : Nat) (f : Partition → Partition) : (updPart s p f).colours = s.colours := rfl
@[simp] theorem updPart_acts (s : State) (p : Nat) (f : Partition → Partition) : (updPart s p f).acts = s.acts := rfl
@[simp] theorem updPart_threads (s : State) (p : Nat) (f : Partition → Partition) : (updPart s p f).threads = s.threads := rfl
@[simp] theorem updPart_loops (s : State) (p : Nat) (f : Partition → Partition) : (updPart s p f).loops = s.loops := rfl
@[simp] theorem updPart_net (s : State) (p : Nat) (f : Partition → Partition) : (updPart s p f).net = s.net := rfl
@[simp] theorem updPart_far (s : State) (p : Nat) (f : Partition → Partition) : (updPart s p f).far = s.far := rfl
@[simp] theorem updPart_unsorted (s : State) (p : Nat) (f : Partition → Partition) : (updPart s p f).unsorted = s.unsorted := rfl
@[simp] theorem updPart_entries (s : State) (p : Nat) (f : Partition → Partition) : (updPart s p f).entries = s.entries := rfl
@[simp] theorem updPart_spilled (s : State) (p : Nat) (f : Partition → Partition) : (updPart s p f).spilled = s.spilled := rfl
@[simp] theorem updPart_throttled (s : State) (p : Nat) (f : Partition → Partition) : (updPart s p f).throttled = s.throttled := rfl
@[simp] theorem updPart_ops (s : State) (p : Nat) (f : Partition → Partition) : (updPart s p f).ops = s.ops := rfl
@[simp] theorem updPart_stores (s : State) (p : Nat) (f : Partition → Partition) : (updPart s p f).stores = s.stores := rfl
@[simp] theorem updPart_parked (s : State) (p : Nat) (f : Partition → Partition) : (updPart s p f).parked = s.parked := rfl
@[simp] theorem updPart_records (s : State) (p : Nat) (f : Partition → Partition) : (updPart s p f).records = s.records := rfl
@[simp] theorem updPart_retries (s : State) (p : Nat) (f : Partition → Partition) : (updPart s p f).retries = s.retries := rfl
@[simp] theorem updPart_prefetched (s : State) (p : Nat) (f : Partition → Partition) : (updPart s p f).prefetched = s.prefetched := rfl
@[simp] theorem updPart_islands (s : State) (p : Nat) (f : Partition → Partition) : (updPart s p f).islands = s.islands := rfl
@[simp] theorem updPart_flights (s : State) (p : Nat) (f : Partition → Partition) : (updPart s p f).flights = s.flights := rfl
@[simp] theorem updPart_hemOps (s : State) (p : Nat) (f : Partition → Partition) : (updPart s p f).hemOps = s.hemOps := rfl
@[simp] theorem updPart_xfers (s : State) (p : Nat) (f : Partition → Partition) : (updPart s p f).xfers = s.xfers := rfl
@[simp] theorem updPart_colls (s : State) (p : Nat) (f : Partition → Partition) : (updPart s p f).colls = s.colls := rfl
@[simp] theorem updPart_collSeq (s : State) (p : Nat) (f : Partition → Partition) : (updPart s p f).collSeq = s.collSeq := rfl
@[simp] theorem updPart_slotSeq (s : State) (p : Nat) (f : Partition → Partition) : (updPart s p f).slotSeq = s.slotSeq := rfl
@[simp] theorem updPart_collBox (s : State) (p : Nat) (f : Partition → Partition) : (updPart s p f).collBox = s.collBox := rfl
@[simp] theorem updPart_mem (s : State) (p : Nat) (f : Partition → Partition) : (updPart s p f).mem = s.mem := rfl
@[simp] theorem updPart_podMem (s : State) (p : Nat) (f : Partition → Partition) : (updPart s p f).podMem = s.podMem := rfl
@[simp] theorem updPart_poison (s : State) (p : Nat) (f : Partition → Partition) : (updPart s p f).poison = s.poison := rfl
@[simp] theorem updPart_podPoison (s : State) (p : Nat) (f : Partition → Partition) : (updPart s p f).podPoison = s.podPoison := rfl
@[simp] theorem updPart_fe (s : State) (p : Nat) (f : Partition → Partition) : (updPart s p f).fe = s.fe := rfl
@[simp] theorem updPart_dfr (s : State) (p : Nat) (f : Partition → Partition) : (updPart s p f).dfr = s.dfr := rfl
@[simp] theorem updPart_l2 (s : State) (p : Nat) (f : Partition → Partition) : (updPart s p f).l2 = s.l2 := rfl
@[simp] theorem updPart_victim (s : State) (p : Nat) (f : Partition → Partition) : (updPart s p f).victim = s.victim := rfl
@[simp] theorem updPart_misses (s : State) (p : Nat) (f : Partition → Partition) : (updPart s p f).misses = s.misses := rfl
@[simp] theorem updPart_mdLines (s : State) (p : Nat) (f : Partition → Partition) : (updPart s p f).mdLines = s.mdLines := rfl
@[simp] theorem updPart_packed (s : State) (p : Nat) (f : Partition → Partition) : (updPart s p f).packed = s.packed := rfl
@[simp] theorem updPart_pinned (s : State) (p : Nat) (f : Partition → Partition) : (updPart s p f).pinned = s.pinned := rfl
@[simp] theorem updPart_overflow (s : State) (p : Nat) (f : Partition → Partition) : (updPart s p f).overflow = s.overflow := rfl
@[simp] theorem updPart_locks (s : State) (p : Nat) (f : Partition → Partition) : (updPart s p f).locks = s.locks := rfl
@[simp] theorem updPart_waits (s : State) (p : Nat) (f : Partition → Partition) : (updPart s p f).waits = s.waits := rfl
@[simp] theorem updPart_stalled (s : State) (p : Nat) (f : Partition → Partition) : (updPart s p f).stalled = s.stalled := rfl
@[simp] theorem updPart_tlbQuad (s : State) (p : Nat) (f : Partition → Partition) : (updPart s p f).tlbQuad = s.tlbQuad := rfl
@[simp] theorem updPart_tlbGrid (s : State) (p : Nat) (f : Partition → Partition) : (updPart s p f).tlbGrid = s.tlbGrid := rfl
@[simp] theorem updPart_tlbColl (s : State) (p : Nat) (f : Partition → Partition) : (updPart s p f).tlbColl = s.tlbColl := rfl
@[simp] theorem updPart_walks (s : State) (p : Nat) (f : Partition → Partition) : (updPart s p f).walks = s.walks := rfl
@[simp] theorem updPart_remotes (s : State) (p : Nat) (f : Partition → Partition) : (updPart s p f).remotes = s.remotes := rfl
@[simp] theorem updPart_copies (s : State) (p : Nat) (f : Partition → Partition) : (updPart s p f).copies = s.copies := rfl
@[simp] theorem updPart_dir (s : State) (p : Nat) (f : Partition → Partition) : (updPart s p f).dir = s.dir := rfl
@[simp] theorem updPart_ownerLost (s : State) (p : Nat) (f : Partition → Partition) : (updPart s p f).ownerLost = s.ownerLost := rfl
@[simp] theorem updPart_podLost (s : State) (p : Nat) (f : Partition → Partition) : (updPart s p f).podLost = s.podLost := rfl
@[simp] theorem updPart_olrecs (s : State) (p : Nat) (f : Partition → Partition) : (updPart s p f).olrecs = s.olrecs := rfl
@[simp] theorem updPart_deltas (s : State) (p : Nat) (f : Partition → Partition) : (updPart s p f).deltas = s.deltas := rfl
@[simp] theorem updPart_dseqTo (s : State) (p : Nat) (f : Partition → Partition) : (updPart s p f).dseqTo = s.dseqTo := rfl
@[simp] theorem updPart_dseqFrom (s : State) (p : Nat) (f : Partition → Partition) : (updPart s p f).dseqFrom = s.dseqFrom := rfl
@[simp] theorem updPart_early (s : State) (p : Nat) (f : Partition → Partition) : (updPart s p f).early = s.early := rfl
@[simp] theorem updPart_rebuilt (s : State) (p : Nat) (f : Partition → Partition) : (updPart s p f).rebuilt = s.rebuilt := rfl
@[simp] theorem updPart_rbHeld (s : State) (p : Nat) (f : Partition → Partition) : (updPart s p f).rbHeld = s.rbHeld := rfl
@[simp] theorem updPart_rbGot (s : State) (p : Nat) (f : Partition → Partition) : (updPart s p f).rbGot = s.rbGot := rfl
@[simp] theorem updPart_rbTo (s : State) (p : Nat) (f : Partition → Partition) : (updPart s p f).rbTo = s.rbTo := rfl
@[simp] theorem updPart_helup (s : State) (p : Nat) (f : Partition → Partition) : (updPart s p f).helup = s.helup := rfl
@[simp] theorem updPart_cxl (s : State) (p : Nat) (f : Partition → Partition) : (updPart s p f).cxl = s.cxl := rfl
@[simp] theorem updPart_out (s : State) (p : Nat) (f : Partition → Partition) : (updPart s p f).out = s.out := rfl
@[simp] theorem updPart_inbound (s : State) (p : Nat) (f : Partition → Partition) : (updPart s p f).inbound = s.inbound := rfl
@[simp] theorem updPart_regs (s : State) (p : Nat) (f : Partition → Partition) : (updPart s p f).regs = s.regs := rfl
@[simp] theorem updPart_mc (s : State) (p : Nat) (f : Partition → Partition) : (updPart s p f).mc = s.mc := rfl
@[simp] theorem updPart_loading (s : State) (p : Nat) (f : Partition → Partition) : (updPart s p f).loading = s.loading := rfl
@[simp] theorem updPart_snaps (s : State) (p : Nat) (f : Partition → Partition) : (updPart s p f).snaps = s.snaps := rfl
@[simp] theorem updPart_lastServed (s : State) (p : Nat) (f : Partition → Partition) : (updPart s p f).lastServed = s.lastServed := rfl

/-! ## updQueue -/

@[simp] theorem updQueue_agenda (s : State) (q : Nat) (f : Queue → Queue) : (updQueue s q f).agenda = s.agenda := rfl
@[simp] theorem updQueue_turns (s : State) (q : Nat) (f : Queue → Queue) : (updQueue s q f).turns = s.turns := rfl
@[simp] theorem updQueue_free (s : State) (q : Nat) (f : Queue → Queue) : (updQueue s q f).free = s.free := rfl
@[simp] theorem updQueue_ids (s : State) (q : Nat) (f : Queue → Queue) : (updQueue s q f).ids = s.ids := rfl
@[simp] theorem updQueue_cycle (s : State) (q : Nat) (f : Queue → Queue) : (updQueue s q f).cycle = s.cycle := rfl
@[simp] theorem updQueue_cur (s : State) (q : Nat) (f : Queue → Queue) : (updQueue s q f).cur = s.cur := rfl
@[simp] theorem updQueue_parts (s : State) (q : Nat) (f : Queue → Queue) : (updQueue s q f).parts = s.parts := rfl
@[simp] theorem updQueue_queues (s : State) (q : Nat) (f : Queue → Queue) : (updQueue s q f).queues = insertAt s.queues q (f (queueOf s q)) := rfl
@[simp] theorem updQueue_sleeves (s : State) (q : Nat) (f : Queue → Queue) : (updQueue s q f).sleeves = s.sleeves := rfl
@[simp] theorem updQueue_cfgs (s : State) (q : Nat) (f : Queue → Queue) : (updQueue s q f).cfgs = s.cfgs := rfl
@[simp] theorem updQueue_colours (s : State) (q : Nat) (f : Queue → Queue) : (updQueue s q f).colours = s.colours := rfl
@[simp] theorem updQueue_acts (s : State) (q : Nat) (f : Queue → Queue) : (updQueue s q f).acts = s.acts := rfl
@[simp] theorem updQueue_threads (s : State) (q : Nat) (f : Queue → Queue) : (updQueue s q f).threads = s.threads := rfl
@[simp] theorem updQueue_loops (s : State) (q : Nat) (f : Queue → Queue) : (updQueue s q f).loops = s.loops := rfl
@[simp] theorem updQueue_net (s : State) (q : Nat) (f : Queue → Queue) : (updQueue s q f).net = s.net := rfl
@[simp] theorem updQueue_far (s : State) (q : Nat) (f : Queue → Queue) : (updQueue s q f).far = s.far := rfl
@[simp] theorem updQueue_unsorted (s : State) (q : Nat) (f : Queue → Queue) : (updQueue s q f).unsorted = s.unsorted := rfl
@[simp] theorem updQueue_entries (s : State) (q : Nat) (f : Queue → Queue) : (updQueue s q f).entries = s.entries := rfl
@[simp] theorem updQueue_spilled (s : State) (q : Nat) (f : Queue → Queue) : (updQueue s q f).spilled = s.spilled := rfl
@[simp] theorem updQueue_throttled (s : State) (q : Nat) (f : Queue → Queue) : (updQueue s q f).throttled = s.throttled := rfl
@[simp] theorem updQueue_ops (s : State) (q : Nat) (f : Queue → Queue) : (updQueue s q f).ops = s.ops := rfl
@[simp] theorem updQueue_stores (s : State) (q : Nat) (f : Queue → Queue) : (updQueue s q f).stores = s.stores := rfl
@[simp] theorem updQueue_parked (s : State) (q : Nat) (f : Queue → Queue) : (updQueue s q f).parked = s.parked := rfl
@[simp] theorem updQueue_records (s : State) (q : Nat) (f : Queue → Queue) : (updQueue s q f).records = s.records := rfl
@[simp] theorem updQueue_retries (s : State) (q : Nat) (f : Queue → Queue) : (updQueue s q f).retries = s.retries := rfl
@[simp] theorem updQueue_prefetched (s : State) (q : Nat) (f : Queue → Queue) : (updQueue s q f).prefetched = s.prefetched := rfl
@[simp] theorem updQueue_islands (s : State) (q : Nat) (f : Queue → Queue) : (updQueue s q f).islands = s.islands := rfl
@[simp] theorem updQueue_flights (s : State) (q : Nat) (f : Queue → Queue) : (updQueue s q f).flights = s.flights := rfl
@[simp] theorem updQueue_hemOps (s : State) (q : Nat) (f : Queue → Queue) : (updQueue s q f).hemOps = s.hemOps := rfl
@[simp] theorem updQueue_xfers (s : State) (q : Nat) (f : Queue → Queue) : (updQueue s q f).xfers = s.xfers := rfl
@[simp] theorem updQueue_colls (s : State) (q : Nat) (f : Queue → Queue) : (updQueue s q f).colls = s.colls := rfl
@[simp] theorem updQueue_collSeq (s : State) (q : Nat) (f : Queue → Queue) : (updQueue s q f).collSeq = s.collSeq := rfl
@[simp] theorem updQueue_slotSeq (s : State) (q : Nat) (f : Queue → Queue) : (updQueue s q f).slotSeq = s.slotSeq := rfl
@[simp] theorem updQueue_collBox (s : State) (q : Nat) (f : Queue → Queue) : (updQueue s q f).collBox = s.collBox := rfl
@[simp] theorem updQueue_mem (s : State) (q : Nat) (f : Queue → Queue) : (updQueue s q f).mem = s.mem := rfl
@[simp] theorem updQueue_podMem (s : State) (q : Nat) (f : Queue → Queue) : (updQueue s q f).podMem = s.podMem := rfl
@[simp] theorem updQueue_poison (s : State) (q : Nat) (f : Queue → Queue) : (updQueue s q f).poison = s.poison := rfl
@[simp] theorem updQueue_podPoison (s : State) (q : Nat) (f : Queue → Queue) : (updQueue s q f).podPoison = s.podPoison := rfl
@[simp] theorem updQueue_fe (s : State) (q : Nat) (f : Queue → Queue) : (updQueue s q f).fe = s.fe := rfl
@[simp] theorem updQueue_dfr (s : State) (q : Nat) (f : Queue → Queue) : (updQueue s q f).dfr = s.dfr := rfl
@[simp] theorem updQueue_l2 (s : State) (q : Nat) (f : Queue → Queue) : (updQueue s q f).l2 = s.l2 := rfl
@[simp] theorem updQueue_victim (s : State) (q : Nat) (f : Queue → Queue) : (updQueue s q f).victim = s.victim := rfl
@[simp] theorem updQueue_misses (s : State) (q : Nat) (f : Queue → Queue) : (updQueue s q f).misses = s.misses := rfl
@[simp] theorem updQueue_mdLines (s : State) (q : Nat) (f : Queue → Queue) : (updQueue s q f).mdLines = s.mdLines := rfl
@[simp] theorem updQueue_packed (s : State) (q : Nat) (f : Queue → Queue) : (updQueue s q f).packed = s.packed := rfl
@[simp] theorem updQueue_pinned (s : State) (q : Nat) (f : Queue → Queue) : (updQueue s q f).pinned = s.pinned := rfl
@[simp] theorem updQueue_overflow (s : State) (q : Nat) (f : Queue → Queue) : (updQueue s q f).overflow = s.overflow := rfl
@[simp] theorem updQueue_locks (s : State) (q : Nat) (f : Queue → Queue) : (updQueue s q f).locks = s.locks := rfl
@[simp] theorem updQueue_waits (s : State) (q : Nat) (f : Queue → Queue) : (updQueue s q f).waits = s.waits := rfl
@[simp] theorem updQueue_stalled (s : State) (q : Nat) (f : Queue → Queue) : (updQueue s q f).stalled = s.stalled := rfl
@[simp] theorem updQueue_tlbQuad (s : State) (q : Nat) (f : Queue → Queue) : (updQueue s q f).tlbQuad = s.tlbQuad := rfl
@[simp] theorem updQueue_tlbGrid (s : State) (q : Nat) (f : Queue → Queue) : (updQueue s q f).tlbGrid = s.tlbGrid := rfl
@[simp] theorem updQueue_tlbColl (s : State) (q : Nat) (f : Queue → Queue) : (updQueue s q f).tlbColl = s.tlbColl := rfl
@[simp] theorem updQueue_walks (s : State) (q : Nat) (f : Queue → Queue) : (updQueue s q f).walks = s.walks := rfl
@[simp] theorem updQueue_remotes (s : State) (q : Nat) (f : Queue → Queue) : (updQueue s q f).remotes = s.remotes := rfl
@[simp] theorem updQueue_copies (s : State) (q : Nat) (f : Queue → Queue) : (updQueue s q f).copies = s.copies := rfl
@[simp] theorem updQueue_dir (s : State) (q : Nat) (f : Queue → Queue) : (updQueue s q f).dir = s.dir := rfl
@[simp] theorem updQueue_ownerLost (s : State) (q : Nat) (f : Queue → Queue) : (updQueue s q f).ownerLost = s.ownerLost := rfl
@[simp] theorem updQueue_podLost (s : State) (q : Nat) (f : Queue → Queue) : (updQueue s q f).podLost = s.podLost := rfl
@[simp] theorem updQueue_olrecs (s : State) (q : Nat) (f : Queue → Queue) : (updQueue s q f).olrecs = s.olrecs := rfl
@[simp] theorem updQueue_deltas (s : State) (q : Nat) (f : Queue → Queue) : (updQueue s q f).deltas = s.deltas := rfl
@[simp] theorem updQueue_dseqTo (s : State) (q : Nat) (f : Queue → Queue) : (updQueue s q f).dseqTo = s.dseqTo := rfl
@[simp] theorem updQueue_dseqFrom (s : State) (q : Nat) (f : Queue → Queue) : (updQueue s q f).dseqFrom = s.dseqFrom := rfl
@[simp] theorem updQueue_early (s : State) (q : Nat) (f : Queue → Queue) : (updQueue s q f).early = s.early := rfl
@[simp] theorem updQueue_rebuilt (s : State) (q : Nat) (f : Queue → Queue) : (updQueue s q f).rebuilt = s.rebuilt := rfl
@[simp] theorem updQueue_rbHeld (s : State) (q : Nat) (f : Queue → Queue) : (updQueue s q f).rbHeld = s.rbHeld := rfl
@[simp] theorem updQueue_rbGot (s : State) (q : Nat) (f : Queue → Queue) : (updQueue s q f).rbGot = s.rbGot := rfl
@[simp] theorem updQueue_rbTo (s : State) (q : Nat) (f : Queue → Queue) : (updQueue s q f).rbTo = s.rbTo := rfl
@[simp] theorem updQueue_helup (s : State) (q : Nat) (f : Queue → Queue) : (updQueue s q f).helup = s.helup := rfl
@[simp] theorem updQueue_cxl (s : State) (q : Nat) (f : Queue → Queue) : (updQueue s q f).cxl = s.cxl := rfl
@[simp] theorem updQueue_out (s : State) (q : Nat) (f : Queue → Queue) : (updQueue s q f).out = s.out := rfl
@[simp] theorem updQueue_inbound (s : State) (q : Nat) (f : Queue → Queue) : (updQueue s q f).inbound = s.inbound := rfl
@[simp] theorem updQueue_regs (s : State) (q : Nat) (f : Queue → Queue) : (updQueue s q f).regs = s.regs := rfl
@[simp] theorem updQueue_mc (s : State) (q : Nat) (f : Queue → Queue) : (updQueue s q f).mc = s.mc := rfl
@[simp] theorem updQueue_loading (s : State) (q : Nat) (f : Queue → Queue) : (updQueue s q f).loading = s.loading := rfl
@[simp] theorem updQueue_snaps (s : State) (q : Nat) (f : Queue → Queue) : (updQueue s q f).snaps = s.snaps := rfl
@[simp] theorem updQueue_lastServed (s : State) (q : Nat) (f : Queue → Queue) : (updQueue s q f).lastServed = s.lastServed := rfl

/-! ## updSleeve -/

@[simp] theorem updSleeve_agenda (s : State) (v : Nat) (f : Sleeve → Sleeve) : (updSleeve s v f).agenda = s.agenda := by unfold updSleeve; split <;> rfl
@[simp] theorem updSleeve_turns (s : State) (v : Nat) (f : Sleeve → Sleeve) : (updSleeve s v f).turns = s.turns := by unfold updSleeve; split <;> rfl
@[simp] theorem updSleeve_free (s : State) (v : Nat) (f : Sleeve → Sleeve) : (updSleeve s v f).free = s.free := by unfold updSleeve; split <;> rfl
@[simp] theorem updSleeve_ids (s : State) (v : Nat) (f : Sleeve → Sleeve) : (updSleeve s v f).ids = s.ids := by unfold updSleeve; split <;> rfl
@[simp] theorem updSleeve_cycle (s : State) (v : Nat) (f : Sleeve → Sleeve) : (updSleeve s v f).cycle = s.cycle := by unfold updSleeve; split <;> rfl
@[simp] theorem updSleeve_cur (s : State) (v : Nat) (f : Sleeve → Sleeve) : (updSleeve s v f).cur = s.cur := by unfold updSleeve; split <;> rfl
@[simp] theorem updSleeve_parts (s : State) (v : Nat) (f : Sleeve → Sleeve) : (updSleeve s v f).parts = s.parts := by unfold updSleeve; split <;> rfl
@[simp] theorem updSleeve_queues (s : State) (v : Nat) (f : Sleeve → Sleeve) : (updSleeve s v f).queues = s.queues := by unfold updSleeve; split <;> rfl
@[simp] theorem updSleeve_cfgs (s : State) (v : Nat) (f : Sleeve → Sleeve) : (updSleeve s v f).cfgs = s.cfgs := by unfold updSleeve; split <;> rfl
@[simp] theorem updSleeve_colours (s : State) (v : Nat) (f : Sleeve → Sleeve) : (updSleeve s v f).colours = s.colours := by unfold updSleeve; split <;> rfl
@[simp] theorem updSleeve_acts (s : State) (v : Nat) (f : Sleeve → Sleeve) : (updSleeve s v f).acts = s.acts := by unfold updSleeve; split <;> rfl
@[simp] theorem updSleeve_threads (s : State) (v : Nat) (f : Sleeve → Sleeve) : (updSleeve s v f).threads = s.threads := by unfold updSleeve; split <;> rfl
@[simp] theorem updSleeve_loops (s : State) (v : Nat) (f : Sleeve → Sleeve) : (updSleeve s v f).loops = s.loops := by unfold updSleeve; split <;> rfl
@[simp] theorem updSleeve_net (s : State) (v : Nat) (f : Sleeve → Sleeve) : (updSleeve s v f).net = s.net := by unfold updSleeve; split <;> rfl
@[simp] theorem updSleeve_far (s : State) (v : Nat) (f : Sleeve → Sleeve) : (updSleeve s v f).far = s.far := by unfold updSleeve; split <;> rfl
@[simp] theorem updSleeve_unsorted (s : State) (v : Nat) (f : Sleeve → Sleeve) : (updSleeve s v f).unsorted = s.unsorted := by unfold updSleeve; split <;> rfl
@[simp] theorem updSleeve_entries (s : State) (v : Nat) (f : Sleeve → Sleeve) : (updSleeve s v f).entries = s.entries := by unfold updSleeve; split <;> rfl
@[simp] theorem updSleeve_spilled (s : State) (v : Nat) (f : Sleeve → Sleeve) : (updSleeve s v f).spilled = s.spilled := by unfold updSleeve; split <;> rfl
@[simp] theorem updSleeve_throttled (s : State) (v : Nat) (f : Sleeve → Sleeve) : (updSleeve s v f).throttled = s.throttled := by unfold updSleeve; split <;> rfl
@[simp] theorem updSleeve_ops (s : State) (v : Nat) (f : Sleeve → Sleeve) : (updSleeve s v f).ops = s.ops := by unfold updSleeve; split <;> rfl
@[simp] theorem updSleeve_stores (s : State) (v : Nat) (f : Sleeve → Sleeve) : (updSleeve s v f).stores = s.stores := by unfold updSleeve; split <;> rfl
@[simp] theorem updSleeve_parked (s : State) (v : Nat) (f : Sleeve → Sleeve) : (updSleeve s v f).parked = s.parked := by unfold updSleeve; split <;> rfl
@[simp] theorem updSleeve_records (s : State) (v : Nat) (f : Sleeve → Sleeve) : (updSleeve s v f).records = s.records := by unfold updSleeve; split <;> rfl
@[simp] theorem updSleeve_retries (s : State) (v : Nat) (f : Sleeve → Sleeve) : (updSleeve s v f).retries = s.retries := by unfold updSleeve; split <;> rfl
@[simp] theorem updSleeve_prefetched (s : State) (v : Nat) (f : Sleeve → Sleeve) : (updSleeve s v f).prefetched = s.prefetched := by unfold updSleeve; split <;> rfl
@[simp] theorem updSleeve_islands (s : State) (v : Nat) (f : Sleeve → Sleeve) : (updSleeve s v f).islands = s.islands := by unfold updSleeve; split <;> rfl
@[simp] theorem updSleeve_flights (s : State) (v : Nat) (f : Sleeve → Sleeve) : (updSleeve s v f).flights = s.flights := by unfold updSleeve; split <;> rfl
@[simp] theorem updSleeve_hemOps (s : State) (v : Nat) (f : Sleeve → Sleeve) : (updSleeve s v f).hemOps = s.hemOps := by unfold updSleeve; split <;> rfl
@[simp] theorem updSleeve_xfers (s : State) (v : Nat) (f : Sleeve → Sleeve) : (updSleeve s v f).xfers = s.xfers := by unfold updSleeve; split <;> rfl
@[simp] theorem updSleeve_colls (s : State) (v : Nat) (f : Sleeve → Sleeve) : (updSleeve s v f).colls = s.colls := by unfold updSleeve; split <;> rfl
@[simp] theorem updSleeve_collSeq (s : State) (v : Nat) (f : Sleeve → Sleeve) : (updSleeve s v f).collSeq = s.collSeq := by unfold updSleeve; split <;> rfl
@[simp] theorem updSleeve_slotSeq (s : State) (v : Nat) (f : Sleeve → Sleeve) : (updSleeve s v f).slotSeq = s.slotSeq := by unfold updSleeve; split <;> rfl
@[simp] theorem updSleeve_collBox (s : State) (v : Nat) (f : Sleeve → Sleeve) : (updSleeve s v f).collBox = s.collBox := by unfold updSleeve; split <;> rfl
@[simp] theorem updSleeve_mem (s : State) (v : Nat) (f : Sleeve → Sleeve) : (updSleeve s v f).mem = s.mem := by unfold updSleeve; split <;> rfl
@[simp] theorem updSleeve_podMem (s : State) (v : Nat) (f : Sleeve → Sleeve) : (updSleeve s v f).podMem = s.podMem := by unfold updSleeve; split <;> rfl
@[simp] theorem updSleeve_poison (s : State) (v : Nat) (f : Sleeve → Sleeve) : (updSleeve s v f).poison = s.poison := by unfold updSleeve; split <;> rfl
@[simp] theorem updSleeve_podPoison (s : State) (v : Nat) (f : Sleeve → Sleeve) : (updSleeve s v f).podPoison = s.podPoison := by unfold updSleeve; split <;> rfl
@[simp] theorem updSleeve_fe (s : State) (v : Nat) (f : Sleeve → Sleeve) : (updSleeve s v f).fe = s.fe := by unfold updSleeve; split <;> rfl
@[simp] theorem updSleeve_dfr (s : State) (v : Nat) (f : Sleeve → Sleeve) : (updSleeve s v f).dfr = s.dfr := by unfold updSleeve; split <;> rfl
@[simp] theorem updSleeve_l2 (s : State) (v : Nat) (f : Sleeve → Sleeve) : (updSleeve s v f).l2 = s.l2 := by unfold updSleeve; split <;> rfl
@[simp] theorem updSleeve_victim (s : State) (v : Nat) (f : Sleeve → Sleeve) : (updSleeve s v f).victim = s.victim := by unfold updSleeve; split <;> rfl
@[simp] theorem updSleeve_misses (s : State) (v : Nat) (f : Sleeve → Sleeve) : (updSleeve s v f).misses = s.misses := by unfold updSleeve; split <;> rfl
@[simp] theorem updSleeve_mdLines (s : State) (v : Nat) (f : Sleeve → Sleeve) : (updSleeve s v f).mdLines = s.mdLines := by unfold updSleeve; split <;> rfl
@[simp] theorem updSleeve_packed (s : State) (v : Nat) (f : Sleeve → Sleeve) : (updSleeve s v f).packed = s.packed := by unfold updSleeve; split <;> rfl
@[simp] theorem updSleeve_pinned (s : State) (v : Nat) (f : Sleeve → Sleeve) : (updSleeve s v f).pinned = s.pinned := by unfold updSleeve; split <;> rfl
@[simp] theorem updSleeve_overflow (s : State) (v : Nat) (f : Sleeve → Sleeve) : (updSleeve s v f).overflow = s.overflow := by unfold updSleeve; split <;> rfl
@[simp] theorem updSleeve_locks (s : State) (v : Nat) (f : Sleeve → Sleeve) : (updSleeve s v f).locks = s.locks := by unfold updSleeve; split <;> rfl
@[simp] theorem updSleeve_waits (s : State) (v : Nat) (f : Sleeve → Sleeve) : (updSleeve s v f).waits = s.waits := by unfold updSleeve; split <;> rfl
@[simp] theorem updSleeve_stalled (s : State) (v : Nat) (f : Sleeve → Sleeve) : (updSleeve s v f).stalled = s.stalled := by unfold updSleeve; split <;> rfl
@[simp] theorem updSleeve_tlbQuad (s : State) (v : Nat) (f : Sleeve → Sleeve) : (updSleeve s v f).tlbQuad = s.tlbQuad := by unfold updSleeve; split <;> rfl
@[simp] theorem updSleeve_tlbGrid (s : State) (v : Nat) (f : Sleeve → Sleeve) : (updSleeve s v f).tlbGrid = s.tlbGrid := by unfold updSleeve; split <;> rfl
@[simp] theorem updSleeve_tlbColl (s : State) (v : Nat) (f : Sleeve → Sleeve) : (updSleeve s v f).tlbColl = s.tlbColl := by unfold updSleeve; split <;> rfl
@[simp] theorem updSleeve_walks (s : State) (v : Nat) (f : Sleeve → Sleeve) : (updSleeve s v f).walks = s.walks := by unfold updSleeve; split <;> rfl
@[simp] theorem updSleeve_remotes (s : State) (v : Nat) (f : Sleeve → Sleeve) : (updSleeve s v f).remotes = s.remotes := by unfold updSleeve; split <;> rfl
@[simp] theorem updSleeve_copies (s : State) (v : Nat) (f : Sleeve → Sleeve) : (updSleeve s v f).copies = s.copies := by unfold updSleeve; split <;> rfl
@[simp] theorem updSleeve_dir (s : State) (v : Nat) (f : Sleeve → Sleeve) : (updSleeve s v f).dir = s.dir := by unfold updSleeve; split <;> rfl
@[simp] theorem updSleeve_ownerLost (s : State) (v : Nat) (f : Sleeve → Sleeve) : (updSleeve s v f).ownerLost = s.ownerLost := by unfold updSleeve; split <;> rfl
@[simp] theorem updSleeve_podLost (s : State) (v : Nat) (f : Sleeve → Sleeve) : (updSleeve s v f).podLost = s.podLost := by unfold updSleeve; split <;> rfl
@[simp] theorem updSleeve_olrecs (s : State) (v : Nat) (f : Sleeve → Sleeve) : (updSleeve s v f).olrecs = s.olrecs := by unfold updSleeve; split <;> rfl
@[simp] theorem updSleeve_deltas (s : State) (v : Nat) (f : Sleeve → Sleeve) : (updSleeve s v f).deltas = s.deltas := by unfold updSleeve; split <;> rfl
@[simp] theorem updSleeve_dseqTo (s : State) (v : Nat) (f : Sleeve → Sleeve) : (updSleeve s v f).dseqTo = s.dseqTo := by unfold updSleeve; split <;> rfl
@[simp] theorem updSleeve_dseqFrom (s : State) (v : Nat) (f : Sleeve → Sleeve) : (updSleeve s v f).dseqFrom = s.dseqFrom := by unfold updSleeve; split <;> rfl
@[simp] theorem updSleeve_early (s : State) (v : Nat) (f : Sleeve → Sleeve) : (updSleeve s v f).early = s.early := by unfold updSleeve; split <;> rfl
@[simp] theorem updSleeve_rebuilt (s : State) (v : Nat) (f : Sleeve → Sleeve) : (updSleeve s v f).rebuilt = s.rebuilt := by unfold updSleeve; split <;> rfl
@[simp] theorem updSleeve_rbHeld (s : State) (v : Nat) (f : Sleeve → Sleeve) : (updSleeve s v f).rbHeld = s.rbHeld := by unfold updSleeve; split <;> rfl
@[simp] theorem updSleeve_rbGot (s : State) (v : Nat) (f : Sleeve → Sleeve) : (updSleeve s v f).rbGot = s.rbGot := by unfold updSleeve; split <;> rfl
@[simp] theorem updSleeve_rbTo (s : State) (v : Nat) (f : Sleeve → Sleeve) : (updSleeve s v f).rbTo = s.rbTo := by unfold updSleeve; split <;> rfl
@[simp] theorem updSleeve_helup (s : State) (v : Nat) (f : Sleeve → Sleeve) : (updSleeve s v f).helup = s.helup := by unfold updSleeve; split <;> rfl
@[simp] theorem updSleeve_cxl (s : State) (v : Nat) (f : Sleeve → Sleeve) : (updSleeve s v f).cxl = s.cxl := by unfold updSleeve; split <;> rfl
@[simp] theorem updSleeve_out (s : State) (v : Nat) (f : Sleeve → Sleeve) : (updSleeve s v f).out = s.out := by unfold updSleeve; split <;> rfl
@[simp] theorem updSleeve_inbound (s : State) (v : Nat) (f : Sleeve → Sleeve) : (updSleeve s v f).inbound = s.inbound := by unfold updSleeve; split <;> rfl
@[simp] theorem updSleeve_regs (s : State) (v : Nat) (f : Sleeve → Sleeve) : (updSleeve s v f).regs = s.regs := by unfold updSleeve; split <;> rfl
@[simp] theorem updSleeve_mc (s : State) (v : Nat) (f : Sleeve → Sleeve) : (updSleeve s v f).mc = s.mc := by unfold updSleeve; split <;> rfl
@[simp] theorem updSleeve_loading (s : State) (v : Nat) (f : Sleeve → Sleeve) : (updSleeve s v f).loading = s.loading := by unfold updSleeve; split <;> rfl
@[simp] theorem updSleeve_snaps (s : State) (v : Nat) (f : Sleeve → Sleeve) : (updSleeve s v f).snaps = s.snaps := by unfold updSleeve; split <;> rfl
@[simp] theorem updSleeve_lastServed (s : State) (v : Nat) (f : Sleeve → Sleeve) : (updSleeve s v f).lastServed = s.lastServed := by unfold updSleeve; split <;> rfl

/-! ## updCfg -/

@[simp] theorem updCfg_agenda (s : State) (c : Nat) (f : Configuration → Configuration) : (updCfg s c f).agenda = s.agenda := by unfold updCfg; split <;> rfl
@[simp] theorem updCfg_turns (s : State) (c : Nat) (f : Configuration → Configuration) : (updCfg s c f).turns = s.turns := by unfold updCfg; split <;> rfl
@[simp] theorem updCfg_free (s : State) (c : Nat) (f : Configuration → Configuration) : (updCfg s c f).free = s.free := by unfold updCfg; split <;> rfl
@[simp] theorem updCfg_ids (s : State) (c : Nat) (f : Configuration → Configuration) : (updCfg s c f).ids = s.ids := by unfold updCfg; split <;> rfl
@[simp] theorem updCfg_cycle (s : State) (c : Nat) (f : Configuration → Configuration) : (updCfg s c f).cycle = s.cycle := by unfold updCfg; split <;> rfl
@[simp] theorem updCfg_cur (s : State) (c : Nat) (f : Configuration → Configuration) : (updCfg s c f).cur = s.cur := by unfold updCfg; split <;> rfl
@[simp] theorem updCfg_parts (s : State) (c : Nat) (f : Configuration → Configuration) : (updCfg s c f).parts = s.parts := by unfold updCfg; split <;> rfl
@[simp] theorem updCfg_queues (s : State) (c : Nat) (f : Configuration → Configuration) : (updCfg s c f).queues = s.queues := by unfold updCfg; split <;> rfl
@[simp] theorem updCfg_sleeves (s : State) (c : Nat) (f : Configuration → Configuration) : (updCfg s c f).sleeves = s.sleeves := by unfold updCfg; split <;> rfl
@[simp] theorem updCfg_colours (s : State) (c : Nat) (f : Configuration → Configuration) : (updCfg s c f).colours = s.colours := by unfold updCfg; split <;> rfl
@[simp] theorem updCfg_acts (s : State) (c : Nat) (f : Configuration → Configuration) : (updCfg s c f).acts = s.acts := by unfold updCfg; split <;> rfl
@[simp] theorem updCfg_threads (s : State) (c : Nat) (f : Configuration → Configuration) : (updCfg s c f).threads = s.threads := by unfold updCfg; split <;> rfl
@[simp] theorem updCfg_loops (s : State) (c : Nat) (f : Configuration → Configuration) : (updCfg s c f).loops = s.loops := by unfold updCfg; split <;> rfl
@[simp] theorem updCfg_net (s : State) (c : Nat) (f : Configuration → Configuration) : (updCfg s c f).net = s.net := by unfold updCfg; split <;> rfl
@[simp] theorem updCfg_far (s : State) (c : Nat) (f : Configuration → Configuration) : (updCfg s c f).far = s.far := by unfold updCfg; split <;> rfl
@[simp] theorem updCfg_unsorted (s : State) (c : Nat) (f : Configuration → Configuration) : (updCfg s c f).unsorted = s.unsorted := by unfold updCfg; split <;> rfl
@[simp] theorem updCfg_entries (s : State) (c : Nat) (f : Configuration → Configuration) : (updCfg s c f).entries = s.entries := by unfold updCfg; split <;> rfl
@[simp] theorem updCfg_spilled (s : State) (c : Nat) (f : Configuration → Configuration) : (updCfg s c f).spilled = s.spilled := by unfold updCfg; split <;> rfl
@[simp] theorem updCfg_throttled (s : State) (c : Nat) (f : Configuration → Configuration) : (updCfg s c f).throttled = s.throttled := by unfold updCfg; split <;> rfl
@[simp] theorem updCfg_ops (s : State) (c : Nat) (f : Configuration → Configuration) : (updCfg s c f).ops = s.ops := by unfold updCfg; split <;> rfl
@[simp] theorem updCfg_stores (s : State) (c : Nat) (f : Configuration → Configuration) : (updCfg s c f).stores = s.stores := by unfold updCfg; split <;> rfl
@[simp] theorem updCfg_parked (s : State) (c : Nat) (f : Configuration → Configuration) : (updCfg s c f).parked = s.parked := by unfold updCfg; split <;> rfl
@[simp] theorem updCfg_records (s : State) (c : Nat) (f : Configuration → Configuration) : (updCfg s c f).records = s.records := by unfold updCfg; split <;> rfl
@[simp] theorem updCfg_retries (s : State) (c : Nat) (f : Configuration → Configuration) : (updCfg s c f).retries = s.retries := by unfold updCfg; split <;> rfl
@[simp] theorem updCfg_prefetched (s : State) (c : Nat) (f : Configuration → Configuration) : (updCfg s c f).prefetched = s.prefetched := by unfold updCfg; split <;> rfl
@[simp] theorem updCfg_islands (s : State) (c : Nat) (f : Configuration → Configuration) : (updCfg s c f).islands = s.islands := by unfold updCfg; split <;> rfl
@[simp] theorem updCfg_flights (s : State) (c : Nat) (f : Configuration → Configuration) : (updCfg s c f).flights = s.flights := by unfold updCfg; split <;> rfl
@[simp] theorem updCfg_hemOps (s : State) (c : Nat) (f : Configuration → Configuration) : (updCfg s c f).hemOps = s.hemOps := by unfold updCfg; split <;> rfl
@[simp] theorem updCfg_xfers (s : State) (c : Nat) (f : Configuration → Configuration) : (updCfg s c f).xfers = s.xfers := by unfold updCfg; split <;> rfl
@[simp] theorem updCfg_colls (s : State) (c : Nat) (f : Configuration → Configuration) : (updCfg s c f).colls = s.colls := by unfold updCfg; split <;> rfl
@[simp] theorem updCfg_collSeq (s : State) (c : Nat) (f : Configuration → Configuration) : (updCfg s c f).collSeq = s.collSeq := by unfold updCfg; split <;> rfl
@[simp] theorem updCfg_slotSeq (s : State) (c : Nat) (f : Configuration → Configuration) : (updCfg s c f).slotSeq = s.slotSeq := by unfold updCfg; split <;> rfl
@[simp] theorem updCfg_collBox (s : State) (c : Nat) (f : Configuration → Configuration) : (updCfg s c f).collBox = s.collBox := by unfold updCfg; split <;> rfl
@[simp] theorem updCfg_mem (s : State) (c : Nat) (f : Configuration → Configuration) : (updCfg s c f).mem = s.mem := by unfold updCfg; split <;> rfl
@[simp] theorem updCfg_podMem (s : State) (c : Nat) (f : Configuration → Configuration) : (updCfg s c f).podMem = s.podMem := by unfold updCfg; split <;> rfl
@[simp] theorem updCfg_poison (s : State) (c : Nat) (f : Configuration → Configuration) : (updCfg s c f).poison = s.poison := by unfold updCfg; split <;> rfl
@[simp] theorem updCfg_podPoison (s : State) (c : Nat) (f : Configuration → Configuration) : (updCfg s c f).podPoison = s.podPoison := by unfold updCfg; split <;> rfl
@[simp] theorem updCfg_fe (s : State) (c : Nat) (f : Configuration → Configuration) : (updCfg s c f).fe = s.fe := by unfold updCfg; split <;> rfl
@[simp] theorem updCfg_dfr (s : State) (c : Nat) (f : Configuration → Configuration) : (updCfg s c f).dfr = s.dfr := by unfold updCfg; split <;> rfl
@[simp] theorem updCfg_l2 (s : State) (c : Nat) (f : Configuration → Configuration) : (updCfg s c f).l2 = s.l2 := by unfold updCfg; split <;> rfl
@[simp] theorem updCfg_victim (s : State) (c : Nat) (f : Configuration → Configuration) : (updCfg s c f).victim = s.victim := by unfold updCfg; split <;> rfl
@[simp] theorem updCfg_misses (s : State) (c : Nat) (f : Configuration → Configuration) : (updCfg s c f).misses = s.misses := by unfold updCfg; split <;> rfl
@[simp] theorem updCfg_mdLines (s : State) (c : Nat) (f : Configuration → Configuration) : (updCfg s c f).mdLines = s.mdLines := by unfold updCfg; split <;> rfl
@[simp] theorem updCfg_packed (s : State) (c : Nat) (f : Configuration → Configuration) : (updCfg s c f).packed = s.packed := by unfold updCfg; split <;> rfl
@[simp] theorem updCfg_pinned (s : State) (c : Nat) (f : Configuration → Configuration) : (updCfg s c f).pinned = s.pinned := by unfold updCfg; split <;> rfl
@[simp] theorem updCfg_overflow (s : State) (c : Nat) (f : Configuration → Configuration) : (updCfg s c f).overflow = s.overflow := by unfold updCfg; split <;> rfl
@[simp] theorem updCfg_locks (s : State) (c : Nat) (f : Configuration → Configuration) : (updCfg s c f).locks = s.locks := by unfold updCfg; split <;> rfl
@[simp] theorem updCfg_waits (s : State) (c : Nat) (f : Configuration → Configuration) : (updCfg s c f).waits = s.waits := by unfold updCfg; split <;> rfl
@[simp] theorem updCfg_stalled (s : State) (c : Nat) (f : Configuration → Configuration) : (updCfg s c f).stalled = s.stalled := by unfold updCfg; split <;> rfl
@[simp] theorem updCfg_tlbQuad (s : State) (c : Nat) (f : Configuration → Configuration) : (updCfg s c f).tlbQuad = s.tlbQuad := by unfold updCfg; split <;> rfl
@[simp] theorem updCfg_tlbGrid (s : State) (c : Nat) (f : Configuration → Configuration) : (updCfg s c f).tlbGrid = s.tlbGrid := by unfold updCfg; split <;> rfl
@[simp] theorem updCfg_tlbColl (s : State) (c : Nat) (f : Configuration → Configuration) : (updCfg s c f).tlbColl = s.tlbColl := by unfold updCfg; split <;> rfl
@[simp] theorem updCfg_walks (s : State) (c : Nat) (f : Configuration → Configuration) : (updCfg s c f).walks = s.walks := by unfold updCfg; split <;> rfl
@[simp] theorem updCfg_remotes (s : State) (c : Nat) (f : Configuration → Configuration) : (updCfg s c f).remotes = s.remotes := by unfold updCfg; split <;> rfl
@[simp] theorem updCfg_copies (s : State) (c : Nat) (f : Configuration → Configuration) : (updCfg s c f).copies = s.copies := by unfold updCfg; split <;> rfl
@[simp] theorem updCfg_dir (s : State) (c : Nat) (f : Configuration → Configuration) : (updCfg s c f).dir = s.dir := by unfold updCfg; split <;> rfl
@[simp] theorem updCfg_ownerLost (s : State) (c : Nat) (f : Configuration → Configuration) : (updCfg s c f).ownerLost = s.ownerLost := by unfold updCfg; split <;> rfl
@[simp] theorem updCfg_podLost (s : State) (c : Nat) (f : Configuration → Configuration) : (updCfg s c f).podLost = s.podLost := by unfold updCfg; split <;> rfl
@[simp] theorem updCfg_olrecs (s : State) (c : Nat) (f : Configuration → Configuration) : (updCfg s c f).olrecs = s.olrecs := by unfold updCfg; split <;> rfl
@[simp] theorem updCfg_deltas (s : State) (c : Nat) (f : Configuration → Configuration) : (updCfg s c f).deltas = s.deltas := by unfold updCfg; split <;> rfl
@[simp] theorem updCfg_dseqTo (s : State) (c : Nat) (f : Configuration → Configuration) : (updCfg s c f).dseqTo = s.dseqTo := by unfold updCfg; split <;> rfl
@[simp] theorem updCfg_dseqFrom (s : State) (c : Nat) (f : Configuration → Configuration) : (updCfg s c f).dseqFrom = s.dseqFrom := by unfold updCfg; split <;> rfl
@[simp] theorem updCfg_early (s : State) (c : Nat) (f : Configuration → Configuration) : (updCfg s c f).early = s.early := by unfold updCfg; split <;> rfl
@[simp] theorem updCfg_rebuilt (s : State) (c : Nat) (f : Configuration → Configuration) : (updCfg s c f).rebuilt = s.rebuilt := by unfold updCfg; split <;> rfl
@[simp] theorem updCfg_rbHeld (s : State) (c : Nat) (f : Configuration → Configuration) : (updCfg s c f).rbHeld = s.rbHeld := by unfold updCfg; split <;> rfl
@[simp] theorem updCfg_rbGot (s : State) (c : Nat) (f : Configuration → Configuration) : (updCfg s c f).rbGot = s.rbGot := by unfold updCfg; split <;> rfl
@[simp] theorem updCfg_rbTo (s : State) (c : Nat) (f : Configuration → Configuration) : (updCfg s c f).rbTo = s.rbTo := by unfold updCfg; split <;> rfl
@[simp] theorem updCfg_helup (s : State) (c : Nat) (f : Configuration → Configuration) : (updCfg s c f).helup = s.helup := by unfold updCfg; split <;> rfl
@[simp] theorem updCfg_cxl (s : State) (c : Nat) (f : Configuration → Configuration) : (updCfg s c f).cxl = s.cxl := by unfold updCfg; split <;> rfl
@[simp] theorem updCfg_out (s : State) (c : Nat) (f : Configuration → Configuration) : (updCfg s c f).out = s.out := by unfold updCfg; split <;> rfl
@[simp] theorem updCfg_inbound (s : State) (c : Nat) (f : Configuration → Configuration) : (updCfg s c f).inbound = s.inbound := by unfold updCfg; split <;> rfl
@[simp] theorem updCfg_regs (s : State) (c : Nat) (f : Configuration → Configuration) : (updCfg s c f).regs = s.regs := by unfold updCfg; split <;> rfl
@[simp] theorem updCfg_mc (s : State) (c : Nat) (f : Configuration → Configuration) : (updCfg s c f).mc = s.mc := by unfold updCfg; split <;> rfl
@[simp] theorem updCfg_loading (s : State) (c : Nat) (f : Configuration → Configuration) : (updCfg s c f).loading = s.loading := by unfold updCfg; split <;> rfl
@[simp] theorem updCfg_snaps (s : State) (c : Nat) (f : Configuration → Configuration) : (updCfg s c f).snaps = s.snaps := by unfold updCfg; split <;> rfl
@[simp] theorem updCfg_lastServed (s : State) (c : Nat) (f : Configuration → Configuration) : (updCfg s c f).lastServed = s.lastServed := by unfold updCfg; split <;> rfl

/-! ## updColour -/

@[simp] theorem updColour_agenda (s : State) (k : Nat) (f : Colour → Colour) : (updColour s k f).agenda = s.agenda := by unfold updColour; split <;> rfl
@[simp] theorem updColour_turns (s : State) (k : Nat) (f : Colour → Colour) : (updColour s k f).turns = s.turns := by unfold updColour; split <;> rfl
@[simp] theorem updColour_free (s : State) (k : Nat) (f : Colour → Colour) : (updColour s k f).free = s.free := by unfold updColour; split <;> rfl
@[simp] theorem updColour_ids (s : State) (k : Nat) (f : Colour → Colour) : (updColour s k f).ids = s.ids := by unfold updColour; split <;> rfl
@[simp] theorem updColour_cycle (s : State) (k : Nat) (f : Colour → Colour) : (updColour s k f).cycle = s.cycle := by unfold updColour; split <;> rfl
@[simp] theorem updColour_cur (s : State) (k : Nat) (f : Colour → Colour) : (updColour s k f).cur = s.cur := by unfold updColour; split <;> rfl
@[simp] theorem updColour_parts (s : State) (k : Nat) (f : Colour → Colour) : (updColour s k f).parts = s.parts := by unfold updColour; split <;> rfl
@[simp] theorem updColour_queues (s : State) (k : Nat) (f : Colour → Colour) : (updColour s k f).queues = s.queues := by unfold updColour; split <;> rfl
@[simp] theorem updColour_sleeves (s : State) (k : Nat) (f : Colour → Colour) : (updColour s k f).sleeves = s.sleeves := by unfold updColour; split <;> rfl
@[simp] theorem updColour_cfgs (s : State) (k : Nat) (f : Colour → Colour) : (updColour s k f).cfgs = s.cfgs := by unfold updColour; split <;> rfl
@[simp] theorem updColour_acts (s : State) (k : Nat) (f : Colour → Colour) : (updColour s k f).acts = s.acts := by unfold updColour; split <;> rfl
@[simp] theorem updColour_threads (s : State) (k : Nat) (f : Colour → Colour) : (updColour s k f).threads = s.threads := by unfold updColour; split <;> rfl
@[simp] theorem updColour_loops (s : State) (k : Nat) (f : Colour → Colour) : (updColour s k f).loops = s.loops := by unfold updColour; split <;> rfl
@[simp] theorem updColour_net (s : State) (k : Nat) (f : Colour → Colour) : (updColour s k f).net = s.net := by unfold updColour; split <;> rfl
@[simp] theorem updColour_far (s : State) (k : Nat) (f : Colour → Colour) : (updColour s k f).far = s.far := by unfold updColour; split <;> rfl
@[simp] theorem updColour_unsorted (s : State) (k : Nat) (f : Colour → Colour) : (updColour s k f).unsorted = s.unsorted := by unfold updColour; split <;> rfl
@[simp] theorem updColour_entries (s : State) (k : Nat) (f : Colour → Colour) : (updColour s k f).entries = s.entries := by unfold updColour; split <;> rfl
@[simp] theorem updColour_spilled (s : State) (k : Nat) (f : Colour → Colour) : (updColour s k f).spilled = s.spilled := by unfold updColour; split <;> rfl
@[simp] theorem updColour_throttled (s : State) (k : Nat) (f : Colour → Colour) : (updColour s k f).throttled = s.throttled := by unfold updColour; split <;> rfl
@[simp] theorem updColour_ops (s : State) (k : Nat) (f : Colour → Colour) : (updColour s k f).ops = s.ops := by unfold updColour; split <;> rfl
@[simp] theorem updColour_stores (s : State) (k : Nat) (f : Colour → Colour) : (updColour s k f).stores = s.stores := by unfold updColour; split <;> rfl
@[simp] theorem updColour_parked (s : State) (k : Nat) (f : Colour → Colour) : (updColour s k f).parked = s.parked := by unfold updColour; split <;> rfl
@[simp] theorem updColour_records (s : State) (k : Nat) (f : Colour → Colour) : (updColour s k f).records = s.records := by unfold updColour; split <;> rfl
@[simp] theorem updColour_retries (s : State) (k : Nat) (f : Colour → Colour) : (updColour s k f).retries = s.retries := by unfold updColour; split <;> rfl
@[simp] theorem updColour_prefetched (s : State) (k : Nat) (f : Colour → Colour) : (updColour s k f).prefetched = s.prefetched := by unfold updColour; split <;> rfl
@[simp] theorem updColour_islands (s : State) (k : Nat) (f : Colour → Colour) : (updColour s k f).islands = s.islands := by unfold updColour; split <;> rfl
@[simp] theorem updColour_flights (s : State) (k : Nat) (f : Colour → Colour) : (updColour s k f).flights = s.flights := by unfold updColour; split <;> rfl
@[simp] theorem updColour_hemOps (s : State) (k : Nat) (f : Colour → Colour) : (updColour s k f).hemOps = s.hemOps := by unfold updColour; split <;> rfl
@[simp] theorem updColour_xfers (s : State) (k : Nat) (f : Colour → Colour) : (updColour s k f).xfers = s.xfers := by unfold updColour; split <;> rfl
@[simp] theorem updColour_colls (s : State) (k : Nat) (f : Colour → Colour) : (updColour s k f).colls = s.colls := by unfold updColour; split <;> rfl
@[simp] theorem updColour_collSeq (s : State) (k : Nat) (f : Colour → Colour) : (updColour s k f).collSeq = s.collSeq := by unfold updColour; split <;> rfl
@[simp] theorem updColour_slotSeq (s : State) (k : Nat) (f : Colour → Colour) : (updColour s k f).slotSeq = s.slotSeq := by unfold updColour; split <;> rfl
@[simp] theorem updColour_collBox (s : State) (k : Nat) (f : Colour → Colour) : (updColour s k f).collBox = s.collBox := by unfold updColour; split <;> rfl
@[simp] theorem updColour_mem (s : State) (k : Nat) (f : Colour → Colour) : (updColour s k f).mem = s.mem := by unfold updColour; split <;> rfl
@[simp] theorem updColour_podMem (s : State) (k : Nat) (f : Colour → Colour) : (updColour s k f).podMem = s.podMem := by unfold updColour; split <;> rfl
@[simp] theorem updColour_poison (s : State) (k : Nat) (f : Colour → Colour) : (updColour s k f).poison = s.poison := by unfold updColour; split <;> rfl
@[simp] theorem updColour_podPoison (s : State) (k : Nat) (f : Colour → Colour) : (updColour s k f).podPoison = s.podPoison := by unfold updColour; split <;> rfl
@[simp] theorem updColour_fe (s : State) (k : Nat) (f : Colour → Colour) : (updColour s k f).fe = s.fe := by unfold updColour; split <;> rfl
@[simp] theorem updColour_dfr (s : State) (k : Nat) (f : Colour → Colour) : (updColour s k f).dfr = s.dfr := by unfold updColour; split <;> rfl
@[simp] theorem updColour_l2 (s : State) (k : Nat) (f : Colour → Colour) : (updColour s k f).l2 = s.l2 := by unfold updColour; split <;> rfl
@[simp] theorem updColour_victim (s : State) (k : Nat) (f : Colour → Colour) : (updColour s k f).victim = s.victim := by unfold updColour; split <;> rfl
@[simp] theorem updColour_misses (s : State) (k : Nat) (f : Colour → Colour) : (updColour s k f).misses = s.misses := by unfold updColour; split <;> rfl
@[simp] theorem updColour_mdLines (s : State) (k : Nat) (f : Colour → Colour) : (updColour s k f).mdLines = s.mdLines := by unfold updColour; split <;> rfl
@[simp] theorem updColour_packed (s : State) (k : Nat) (f : Colour → Colour) : (updColour s k f).packed = s.packed := by unfold updColour; split <;> rfl
@[simp] theorem updColour_pinned (s : State) (k : Nat) (f : Colour → Colour) : (updColour s k f).pinned = s.pinned := by unfold updColour; split <;> rfl
@[simp] theorem updColour_overflow (s : State) (k : Nat) (f : Colour → Colour) : (updColour s k f).overflow = s.overflow := by unfold updColour; split <;> rfl
@[simp] theorem updColour_locks (s : State) (k : Nat) (f : Colour → Colour) : (updColour s k f).locks = s.locks := by unfold updColour; split <;> rfl
@[simp] theorem updColour_waits (s : State) (k : Nat) (f : Colour → Colour) : (updColour s k f).waits = s.waits := by unfold updColour; split <;> rfl
@[simp] theorem updColour_stalled (s : State) (k : Nat) (f : Colour → Colour) : (updColour s k f).stalled = s.stalled := by unfold updColour; split <;> rfl
@[simp] theorem updColour_tlbQuad (s : State) (k : Nat) (f : Colour → Colour) : (updColour s k f).tlbQuad = s.tlbQuad := by unfold updColour; split <;> rfl
@[simp] theorem updColour_tlbGrid (s : State) (k : Nat) (f : Colour → Colour) : (updColour s k f).tlbGrid = s.tlbGrid := by unfold updColour; split <;> rfl
@[simp] theorem updColour_tlbColl (s : State) (k : Nat) (f : Colour → Colour) : (updColour s k f).tlbColl = s.tlbColl := by unfold updColour; split <;> rfl
@[simp] theorem updColour_walks (s : State) (k : Nat) (f : Colour → Colour) : (updColour s k f).walks = s.walks := by unfold updColour; split <;> rfl
@[simp] theorem updColour_remotes (s : State) (k : Nat) (f : Colour → Colour) : (updColour s k f).remotes = s.remotes := by unfold updColour; split <;> rfl
@[simp] theorem updColour_copies (s : State) (k : Nat) (f : Colour → Colour) : (updColour s k f).copies = s.copies := by unfold updColour; split <;> rfl
@[simp] theorem updColour_dir (s : State) (k : Nat) (f : Colour → Colour) : (updColour s k f).dir = s.dir := by unfold updColour; split <;> rfl
@[simp] theorem updColour_ownerLost (s : State) (k : Nat) (f : Colour → Colour) : (updColour s k f).ownerLost = s.ownerLost := by unfold updColour; split <;> rfl
@[simp] theorem updColour_podLost (s : State) (k : Nat) (f : Colour → Colour) : (updColour s k f).podLost = s.podLost := by unfold updColour; split <;> rfl
@[simp] theorem updColour_olrecs (s : State) (k : Nat) (f : Colour → Colour) : (updColour s k f).olrecs = s.olrecs := by unfold updColour; split <;> rfl
@[simp] theorem updColour_deltas (s : State) (k : Nat) (f : Colour → Colour) : (updColour s k f).deltas = s.deltas := by unfold updColour; split <;> rfl
@[simp] theorem updColour_dseqTo (s : State) (k : Nat) (f : Colour → Colour) : (updColour s k f).dseqTo = s.dseqTo := by unfold updColour; split <;> rfl
@[simp] theorem updColour_dseqFrom (s : State) (k : Nat) (f : Colour → Colour) : (updColour s k f).dseqFrom = s.dseqFrom := by unfold updColour; split <;> rfl
@[simp] theorem updColour_early (s : State) (k : Nat) (f : Colour → Colour) : (updColour s k f).early = s.early := by unfold updColour; split <;> rfl
@[simp] theorem updColour_rebuilt (s : State) (k : Nat) (f : Colour → Colour) : (updColour s k f).rebuilt = s.rebuilt := by unfold updColour; split <;> rfl
@[simp] theorem updColour_rbHeld (s : State) (k : Nat) (f : Colour → Colour) : (updColour s k f).rbHeld = s.rbHeld := by unfold updColour; split <;> rfl
@[simp] theorem updColour_rbGot (s : State) (k : Nat) (f : Colour → Colour) : (updColour s k f).rbGot = s.rbGot := by unfold updColour; split <;> rfl
@[simp] theorem updColour_rbTo (s : State) (k : Nat) (f : Colour → Colour) : (updColour s k f).rbTo = s.rbTo := by unfold updColour; split <;> rfl
@[simp] theorem updColour_helup (s : State) (k : Nat) (f : Colour → Colour) : (updColour s k f).helup = s.helup := by unfold updColour; split <;> rfl
@[simp] theorem updColour_cxl (s : State) (k : Nat) (f : Colour → Colour) : (updColour s k f).cxl = s.cxl := by unfold updColour; split <;> rfl
@[simp] theorem updColour_out (s : State) (k : Nat) (f : Colour → Colour) : (updColour s k f).out = s.out := by unfold updColour; split <;> rfl
@[simp] theorem updColour_inbound (s : State) (k : Nat) (f : Colour → Colour) : (updColour s k f).inbound = s.inbound := by unfold updColour; split <;> rfl
@[simp] theorem updColour_regs (s : State) (k : Nat) (f : Colour → Colour) : (updColour s k f).regs = s.regs := by unfold updColour; split <;> rfl
@[simp] theorem updColour_mc (s : State) (k : Nat) (f : Colour → Colour) : (updColour s k f).mc = s.mc := by unfold updColour; split <;> rfl
@[simp] theorem updColour_loading (s : State) (k : Nat) (f : Colour → Colour) : (updColour s k f).loading = s.loading := by unfold updColour; split <;> rfl
@[simp] theorem updColour_snaps (s : State) (k : Nat) (f : Colour → Colour) : (updColour s k f).snaps = s.snaps := by unfold updColour; split <;> rfl
@[simp] theorem updColour_lastServed (s : State) (k : Nat) (f : Colour → Colour) : (updColour s k f).lastServed = s.lastServed := by unfold updColour; split <;> rfl

/-! ## updAct -/

@[simp] theorem updAct_agenda (s : State) (a : Nat) (f : Act → Act) : (updAct s a f).agenda = s.agenda := by unfold updAct; split <;> rfl
@[simp] theorem updAct_turns (s : State) (a : Nat) (f : Act → Act) : (updAct s a f).turns = s.turns := by unfold updAct; split <;> rfl
@[simp] theorem updAct_free (s : State) (a : Nat) (f : Act → Act) : (updAct s a f).free = s.free := by unfold updAct; split <;> rfl
@[simp] theorem updAct_ids (s : State) (a : Nat) (f : Act → Act) : (updAct s a f).ids = s.ids := by unfold updAct; split <;> rfl
@[simp] theorem updAct_cycle (s : State) (a : Nat) (f : Act → Act) : (updAct s a f).cycle = s.cycle := by unfold updAct; split <;> rfl
@[simp] theorem updAct_cur (s : State) (a : Nat) (f : Act → Act) : (updAct s a f).cur = s.cur := by unfold updAct; split <;> rfl
@[simp] theorem updAct_parts (s : State) (a : Nat) (f : Act → Act) : (updAct s a f).parts = s.parts := by unfold updAct; split <;> rfl
@[simp] theorem updAct_queues (s : State) (a : Nat) (f : Act → Act) : (updAct s a f).queues = s.queues := by unfold updAct; split <;> rfl
@[simp] theorem updAct_sleeves (s : State) (a : Nat) (f : Act → Act) : (updAct s a f).sleeves = s.sleeves := by unfold updAct; split <;> rfl
@[simp] theorem updAct_cfgs (s : State) (a : Nat) (f : Act → Act) : (updAct s a f).cfgs = s.cfgs := by unfold updAct; split <;> rfl
@[simp] theorem updAct_colours (s : State) (a : Nat) (f : Act → Act) : (updAct s a f).colours = s.colours := by unfold updAct; split <;> rfl
@[simp] theorem updAct_threads (s : State) (a : Nat) (f : Act → Act) : (updAct s a f).threads = s.threads := by unfold updAct; split <;> rfl
@[simp] theorem updAct_loops (s : State) (a : Nat) (f : Act → Act) : (updAct s a f).loops = s.loops := by unfold updAct; split <;> rfl
@[simp] theorem updAct_net (s : State) (a : Nat) (f : Act → Act) : (updAct s a f).net = s.net := by unfold updAct; split <;> rfl
@[simp] theorem updAct_far (s : State) (a : Nat) (f : Act → Act) : (updAct s a f).far = s.far := by unfold updAct; split <;> rfl
@[simp] theorem updAct_unsorted (s : State) (a : Nat) (f : Act → Act) : (updAct s a f).unsorted = s.unsorted := by unfold updAct; split <;> rfl
@[simp] theorem updAct_entries (s : State) (a : Nat) (f : Act → Act) : (updAct s a f).entries = s.entries := by unfold updAct; split <;> rfl
@[simp] theorem updAct_spilled (s : State) (a : Nat) (f : Act → Act) : (updAct s a f).spilled = s.spilled := by unfold updAct; split <;> rfl
@[simp] theorem updAct_throttled (s : State) (a : Nat) (f : Act → Act) : (updAct s a f).throttled = s.throttled := by unfold updAct; split <;> rfl
@[simp] theorem updAct_ops (s : State) (a : Nat) (f : Act → Act) : (updAct s a f).ops = s.ops := by unfold updAct; split <;> rfl
@[simp] theorem updAct_stores (s : State) (a : Nat) (f : Act → Act) : (updAct s a f).stores = s.stores := by unfold updAct; split <;> rfl
@[simp] theorem updAct_parked (s : State) (a : Nat) (f : Act → Act) : (updAct s a f).parked = s.parked := by unfold updAct; split <;> rfl
@[simp] theorem updAct_records (s : State) (a : Nat) (f : Act → Act) : (updAct s a f).records = s.records := by unfold updAct; split <;> rfl
@[simp] theorem updAct_retries (s : State) (a : Nat) (f : Act → Act) : (updAct s a f).retries = s.retries := by unfold updAct; split <;> rfl
@[simp] theorem updAct_prefetched (s : State) (a : Nat) (f : Act → Act) : (updAct s a f).prefetched = s.prefetched := by unfold updAct; split <;> rfl
@[simp] theorem updAct_islands (s : State) (a : Nat) (f : Act → Act) : (updAct s a f).islands = s.islands := by unfold updAct; split <;> rfl
@[simp] theorem updAct_flights (s : State) (a : Nat) (f : Act → Act) : (updAct s a f).flights = s.flights := by unfold updAct; split <;> rfl
@[simp] theorem updAct_hemOps (s : State) (a : Nat) (f : Act → Act) : (updAct s a f).hemOps = s.hemOps := by unfold updAct; split <;> rfl
@[simp] theorem updAct_xfers (s : State) (a : Nat) (f : Act → Act) : (updAct s a f).xfers = s.xfers := by unfold updAct; split <;> rfl
@[simp] theorem updAct_colls (s : State) (a : Nat) (f : Act → Act) : (updAct s a f).colls = s.colls := by unfold updAct; split <;> rfl
@[simp] theorem updAct_collSeq (s : State) (a : Nat) (f : Act → Act) : (updAct s a f).collSeq = s.collSeq := by unfold updAct; split <;> rfl
@[simp] theorem updAct_slotSeq (s : State) (a : Nat) (f : Act → Act) : (updAct s a f).slotSeq = s.slotSeq := by unfold updAct; split <;> rfl
@[simp] theorem updAct_collBox (s : State) (a : Nat) (f : Act → Act) : (updAct s a f).collBox = s.collBox := by unfold updAct; split <;> rfl
@[simp] theorem updAct_mem (s : State) (a : Nat) (f : Act → Act) : (updAct s a f).mem = s.mem := by unfold updAct; split <;> rfl
@[simp] theorem updAct_podMem (s : State) (a : Nat) (f : Act → Act) : (updAct s a f).podMem = s.podMem := by unfold updAct; split <;> rfl
@[simp] theorem updAct_poison (s : State) (a : Nat) (f : Act → Act) : (updAct s a f).poison = s.poison := by unfold updAct; split <;> rfl
@[simp] theorem updAct_podPoison (s : State) (a : Nat) (f : Act → Act) : (updAct s a f).podPoison = s.podPoison := by unfold updAct; split <;> rfl
@[simp] theorem updAct_fe (s : State) (a : Nat) (f : Act → Act) : (updAct s a f).fe = s.fe := by unfold updAct; split <;> rfl
@[simp] theorem updAct_dfr (s : State) (a : Nat) (f : Act → Act) : (updAct s a f).dfr = s.dfr := by unfold updAct; split <;> rfl
@[simp] theorem updAct_l2 (s : State) (a : Nat) (f : Act → Act) : (updAct s a f).l2 = s.l2 := by unfold updAct; split <;> rfl
@[simp] theorem updAct_victim (s : State) (a : Nat) (f : Act → Act) : (updAct s a f).victim = s.victim := by unfold updAct; split <;> rfl
@[simp] theorem updAct_misses (s : State) (a : Nat) (f : Act → Act) : (updAct s a f).misses = s.misses := by unfold updAct; split <;> rfl
@[simp] theorem updAct_mdLines (s : State) (a : Nat) (f : Act → Act) : (updAct s a f).mdLines = s.mdLines := by unfold updAct; split <;> rfl
@[simp] theorem updAct_packed (s : State) (a : Nat) (f : Act → Act) : (updAct s a f).packed = s.packed := by unfold updAct; split <;> rfl
@[simp] theorem updAct_pinned (s : State) (a : Nat) (f : Act → Act) : (updAct s a f).pinned = s.pinned := by unfold updAct; split <;> rfl
@[simp] theorem updAct_overflow (s : State) (a : Nat) (f : Act → Act) : (updAct s a f).overflow = s.overflow := by unfold updAct; split <;> rfl
@[simp] theorem updAct_locks (s : State) (a : Nat) (f : Act → Act) : (updAct s a f).locks = s.locks := by unfold updAct; split <;> rfl
@[simp] theorem updAct_waits (s : State) (a : Nat) (f : Act → Act) : (updAct s a f).waits = s.waits := by unfold updAct; split <;> rfl
@[simp] theorem updAct_stalled (s : State) (a : Nat) (f : Act → Act) : (updAct s a f).stalled = s.stalled := by unfold updAct; split <;> rfl
@[simp] theorem updAct_tlbQuad (s : State) (a : Nat) (f : Act → Act) : (updAct s a f).tlbQuad = s.tlbQuad := by unfold updAct; split <;> rfl
@[simp] theorem updAct_tlbGrid (s : State) (a : Nat) (f : Act → Act) : (updAct s a f).tlbGrid = s.tlbGrid := by unfold updAct; split <;> rfl
@[simp] theorem updAct_tlbColl (s : State) (a : Nat) (f : Act → Act) : (updAct s a f).tlbColl = s.tlbColl := by unfold updAct; split <;> rfl
@[simp] theorem updAct_walks (s : State) (a : Nat) (f : Act → Act) : (updAct s a f).walks = s.walks := by unfold updAct; split <;> rfl
@[simp] theorem updAct_remotes (s : State) (a : Nat) (f : Act → Act) : (updAct s a f).remotes = s.remotes := by unfold updAct; split <;> rfl
@[simp] theorem updAct_copies (s : State) (a : Nat) (f : Act → Act) : (updAct s a f).copies = s.copies := by unfold updAct; split <;> rfl
@[simp] theorem updAct_dir (s : State) (a : Nat) (f : Act → Act) : (updAct s a f).dir = s.dir := by unfold updAct; split <;> rfl
@[simp] theorem updAct_ownerLost (s : State) (a : Nat) (f : Act → Act) : (updAct s a f).ownerLost = s.ownerLost := by unfold updAct; split <;> rfl
@[simp] theorem updAct_podLost (s : State) (a : Nat) (f : Act → Act) : (updAct s a f).podLost = s.podLost := by unfold updAct; split <;> rfl
@[simp] theorem updAct_olrecs (s : State) (a : Nat) (f : Act → Act) : (updAct s a f).olrecs = s.olrecs := by unfold updAct; split <;> rfl
@[simp] theorem updAct_deltas (s : State) (a : Nat) (f : Act → Act) : (updAct s a f).deltas = s.deltas := by unfold updAct; split <;> rfl
@[simp] theorem updAct_dseqTo (s : State) (a : Nat) (f : Act → Act) : (updAct s a f).dseqTo = s.dseqTo := by unfold updAct; split <;> rfl
@[simp] theorem updAct_dseqFrom (s : State) (a : Nat) (f : Act → Act) : (updAct s a f).dseqFrom = s.dseqFrom := by unfold updAct; split <;> rfl
@[simp] theorem updAct_early (s : State) (a : Nat) (f : Act → Act) : (updAct s a f).early = s.early := by unfold updAct; split <;> rfl
@[simp] theorem updAct_rebuilt (s : State) (a : Nat) (f : Act → Act) : (updAct s a f).rebuilt = s.rebuilt := by unfold updAct; split <;> rfl
@[simp] theorem updAct_rbHeld (s : State) (a : Nat) (f : Act → Act) : (updAct s a f).rbHeld = s.rbHeld := by unfold updAct; split <;> rfl
@[simp] theorem updAct_rbGot (s : State) (a : Nat) (f : Act → Act) : (updAct s a f).rbGot = s.rbGot := by unfold updAct; split <;> rfl
@[simp] theorem updAct_rbTo (s : State) (a : Nat) (f : Act → Act) : (updAct s a f).rbTo = s.rbTo := by unfold updAct; split <;> rfl
@[simp] theorem updAct_helup (s : State) (a : Nat) (f : Act → Act) : (updAct s a f).helup = s.helup := by unfold updAct; split <;> rfl
@[simp] theorem updAct_cxl (s : State) (a : Nat) (f : Act → Act) : (updAct s a f).cxl = s.cxl := by unfold updAct; split <;> rfl
@[simp] theorem updAct_out (s : State) (a : Nat) (f : Act → Act) : (updAct s a f).out = s.out := by unfold updAct; split <;> rfl
@[simp] theorem updAct_inbound (s : State) (a : Nat) (f : Act → Act) : (updAct s a f).inbound = s.inbound := by unfold updAct; split <;> rfl
@[simp] theorem updAct_regs (s : State) (a : Nat) (f : Act → Act) : (updAct s a f).regs = s.regs := by unfold updAct; split <;> rfl
@[simp] theorem updAct_mc (s : State) (a : Nat) (f : Act → Act) : (updAct s a f).mc = s.mc := by unfold updAct; split <;> rfl
@[simp] theorem updAct_loading (s : State) (a : Nat) (f : Act → Act) : (updAct s a f).loading = s.loading := by unfold updAct; split <;> rfl
@[simp] theorem updAct_snaps (s : State) (a : Nat) (f : Act → Act) : (updAct s a f).snaps = s.snaps := by unfold updAct; split <;> rfl
@[simp] theorem updAct_lastServed (s : State) (a : Nat) (f : Act → Act) : (updAct s a f).lastServed = s.lastServed := by unfold updAct; split <;> rfl

/-! ## updLoop -/

@[simp] theorem updLoop_agenda (s : State) (l : Nat) (f : Loop → Loop) : (updLoop s l f).agenda = s.agenda := by unfold updLoop; split <;> rfl
@[simp] theorem updLoop_turns (s : State) (l : Nat) (f : Loop → Loop) : (updLoop s l f).turns = s.turns := by unfold updLoop; split <;> rfl
@[simp] theorem updLoop_free (s : State) (l : Nat) (f : Loop → Loop) : (updLoop s l f).free = s.free := by unfold updLoop; split <;> rfl
@[simp] theorem updLoop_ids (s : State) (l : Nat) (f : Loop → Loop) : (updLoop s l f).ids = s.ids := by unfold updLoop; split <;> rfl
@[simp] theorem updLoop_cycle (s : State) (l : Nat) (f : Loop → Loop) : (updLoop s l f).cycle = s.cycle := by unfold updLoop; split <;> rfl
@[simp] theorem updLoop_cur (s : State) (l : Nat) (f : Loop → Loop) : (updLoop s l f).cur = s.cur := by unfold updLoop; split <;> rfl
@[simp] theorem updLoop_parts (s : State) (l : Nat) (f : Loop → Loop) : (updLoop s l f).parts = s.parts := by unfold updLoop; split <;> rfl
@[simp] theorem updLoop_queues (s : State) (l : Nat) (f : Loop → Loop) : (updLoop s l f).queues = s.queues := by unfold updLoop; split <;> rfl
@[simp] theorem updLoop_sleeves (s : State) (l : Nat) (f : Loop → Loop) : (updLoop s l f).sleeves = s.sleeves := by unfold updLoop; split <;> rfl
@[simp] theorem updLoop_cfgs (s : State) (l : Nat) (f : Loop → Loop) : (updLoop s l f).cfgs = s.cfgs := by unfold updLoop; split <;> rfl
@[simp] theorem updLoop_colours (s : State) (l : Nat) (f : Loop → Loop) : (updLoop s l f).colours = s.colours := by unfold updLoop; split <;> rfl
@[simp] theorem updLoop_acts (s : State) (l : Nat) (f : Loop → Loop) : (updLoop s l f).acts = s.acts := by unfold updLoop; split <;> rfl
@[simp] theorem updLoop_threads (s : State) (l : Nat) (f : Loop → Loop) : (updLoop s l f).threads = s.threads := by unfold updLoop; split <;> rfl
@[simp] theorem updLoop_net (s : State) (l : Nat) (f : Loop → Loop) : (updLoop s l f).net = s.net := by unfold updLoop; split <;> rfl
@[simp] theorem updLoop_far (s : State) (l : Nat) (f : Loop → Loop) : (updLoop s l f).far = s.far := by unfold updLoop; split <;> rfl
@[simp] theorem updLoop_unsorted (s : State) (l : Nat) (f : Loop → Loop) : (updLoop s l f).unsorted = s.unsorted := by unfold updLoop; split <;> rfl
@[simp] theorem updLoop_entries (s : State) (l : Nat) (f : Loop → Loop) : (updLoop s l f).entries = s.entries := by unfold updLoop; split <;> rfl
@[simp] theorem updLoop_spilled (s : State) (l : Nat) (f : Loop → Loop) : (updLoop s l f).spilled = s.spilled := by unfold updLoop; split <;> rfl
@[simp] theorem updLoop_throttled (s : State) (l : Nat) (f : Loop → Loop) : (updLoop s l f).throttled = s.throttled := by unfold updLoop; split <;> rfl
@[simp] theorem updLoop_ops (s : State) (l : Nat) (f : Loop → Loop) : (updLoop s l f).ops = s.ops := by unfold updLoop; split <;> rfl
@[simp] theorem updLoop_stores (s : State) (l : Nat) (f : Loop → Loop) : (updLoop s l f).stores = s.stores := by unfold updLoop; split <;> rfl
@[simp] theorem updLoop_parked (s : State) (l : Nat) (f : Loop → Loop) : (updLoop s l f).parked = s.parked := by unfold updLoop; split <;> rfl
@[simp] theorem updLoop_records (s : State) (l : Nat) (f : Loop → Loop) : (updLoop s l f).records = s.records := by unfold updLoop; split <;> rfl
@[simp] theorem updLoop_retries (s : State) (l : Nat) (f : Loop → Loop) : (updLoop s l f).retries = s.retries := by unfold updLoop; split <;> rfl
@[simp] theorem updLoop_prefetched (s : State) (l : Nat) (f : Loop → Loop) : (updLoop s l f).prefetched = s.prefetched := by unfold updLoop; split <;> rfl
@[simp] theorem updLoop_islands (s : State) (l : Nat) (f : Loop → Loop) : (updLoop s l f).islands = s.islands := by unfold updLoop; split <;> rfl
@[simp] theorem updLoop_flights (s : State) (l : Nat) (f : Loop → Loop) : (updLoop s l f).flights = s.flights := by unfold updLoop; split <;> rfl
@[simp] theorem updLoop_hemOps (s : State) (l : Nat) (f : Loop → Loop) : (updLoop s l f).hemOps = s.hemOps := by unfold updLoop; split <;> rfl
@[simp] theorem updLoop_xfers (s : State) (l : Nat) (f : Loop → Loop) : (updLoop s l f).xfers = s.xfers := by unfold updLoop; split <;> rfl
@[simp] theorem updLoop_colls (s : State) (l : Nat) (f : Loop → Loop) : (updLoop s l f).colls = s.colls := by unfold updLoop; split <;> rfl
@[simp] theorem updLoop_collSeq (s : State) (l : Nat) (f : Loop → Loop) : (updLoop s l f).collSeq = s.collSeq := by unfold updLoop; split <;> rfl
@[simp] theorem updLoop_slotSeq (s : State) (l : Nat) (f : Loop → Loop) : (updLoop s l f).slotSeq = s.slotSeq := by unfold updLoop; split <;> rfl
@[simp] theorem updLoop_collBox (s : State) (l : Nat) (f : Loop → Loop) : (updLoop s l f).collBox = s.collBox := by unfold updLoop; split <;> rfl
@[simp] theorem updLoop_mem (s : State) (l : Nat) (f : Loop → Loop) : (updLoop s l f).mem = s.mem := by unfold updLoop; split <;> rfl
@[simp] theorem updLoop_podMem (s : State) (l : Nat) (f : Loop → Loop) : (updLoop s l f).podMem = s.podMem := by unfold updLoop; split <;> rfl
@[simp] theorem updLoop_poison (s : State) (l : Nat) (f : Loop → Loop) : (updLoop s l f).poison = s.poison := by unfold updLoop; split <;> rfl
@[simp] theorem updLoop_podPoison (s : State) (l : Nat) (f : Loop → Loop) : (updLoop s l f).podPoison = s.podPoison := by unfold updLoop; split <;> rfl
@[simp] theorem updLoop_fe (s : State) (l : Nat) (f : Loop → Loop) : (updLoop s l f).fe = s.fe := by unfold updLoop; split <;> rfl
@[simp] theorem updLoop_dfr (s : State) (l : Nat) (f : Loop → Loop) : (updLoop s l f).dfr = s.dfr := by unfold updLoop; split <;> rfl
@[simp] theorem updLoop_l2 (s : State) (l : Nat) (f : Loop → Loop) : (updLoop s l f).l2 = s.l2 := by unfold updLoop; split <;> rfl
@[simp] theorem updLoop_victim (s : State) (l : Nat) (f : Loop → Loop) : (updLoop s l f).victim = s.victim := by unfold updLoop; split <;> rfl
@[simp] theorem updLoop_misses (s : State) (l : Nat) (f : Loop → Loop) : (updLoop s l f).misses = s.misses := by unfold updLoop; split <;> rfl
@[simp] theorem updLoop_mdLines (s : State) (l : Nat) (f : Loop → Loop) : (updLoop s l f).mdLines = s.mdLines := by unfold updLoop; split <;> rfl
@[simp] theorem updLoop_packed (s : State) (l : Nat) (f : Loop → Loop) : (updLoop s l f).packed = s.packed := by unfold updLoop; split <;> rfl
@[simp] theorem updLoop_pinned (s : State) (l : Nat) (f : Loop → Loop) : (updLoop s l f).pinned = s.pinned := by unfold updLoop; split <;> rfl
@[simp] theorem updLoop_overflow (s : State) (l : Nat) (f : Loop → Loop) : (updLoop s l f).overflow = s.overflow := by unfold updLoop; split <;> rfl
@[simp] theorem updLoop_locks (s : State) (l : Nat) (f : Loop → Loop) : (updLoop s l f).locks = s.locks := by unfold updLoop; split <;> rfl
@[simp] theorem updLoop_waits (s : State) (l : Nat) (f : Loop → Loop) : (updLoop s l f).waits = s.waits := by unfold updLoop; split <;> rfl
@[simp] theorem updLoop_stalled (s : State) (l : Nat) (f : Loop → Loop) : (updLoop s l f).stalled = s.stalled := by unfold updLoop; split <;> rfl
@[simp] theorem updLoop_tlbQuad (s : State) (l : Nat) (f : Loop → Loop) : (updLoop s l f).tlbQuad = s.tlbQuad := by unfold updLoop; split <;> rfl
@[simp] theorem updLoop_tlbGrid (s : State) (l : Nat) (f : Loop → Loop) : (updLoop s l f).tlbGrid = s.tlbGrid := by unfold updLoop; split <;> rfl
@[simp] theorem updLoop_tlbColl (s : State) (l : Nat) (f : Loop → Loop) : (updLoop s l f).tlbColl = s.tlbColl := by unfold updLoop; split <;> rfl
@[simp] theorem updLoop_walks (s : State) (l : Nat) (f : Loop → Loop) : (updLoop s l f).walks = s.walks := by unfold updLoop; split <;> rfl
@[simp] theorem updLoop_remotes (s : State) (l : Nat) (f : Loop → Loop) : (updLoop s l f).remotes = s.remotes := by unfold updLoop; split <;> rfl
@[simp] theorem updLoop_copies (s : State) (l : Nat) (f : Loop → Loop) : (updLoop s l f).copies = s.copies := by unfold updLoop; split <;> rfl
@[simp] theorem updLoop_dir (s : State) (l : Nat) (f : Loop → Loop) : (updLoop s l f).dir = s.dir := by unfold updLoop; split <;> rfl
@[simp] theorem updLoop_ownerLost (s : State) (l : Nat) (f : Loop → Loop) : (updLoop s l f).ownerLost = s.ownerLost := by unfold updLoop; split <;> rfl
@[simp] theorem updLoop_podLost (s : State) (l : Nat) (f : Loop → Loop) : (updLoop s l f).podLost = s.podLost := by unfold updLoop; split <;> rfl
@[simp] theorem updLoop_olrecs (s : State) (l : Nat) (f : Loop → Loop) : (updLoop s l f).olrecs = s.olrecs := by unfold updLoop; split <;> rfl
@[simp] theorem updLoop_deltas (s : State) (l : Nat) (f : Loop → Loop) : (updLoop s l f).deltas = s.deltas := by unfold updLoop; split <;> rfl
@[simp] theorem updLoop_dseqTo (s : State) (l : Nat) (f : Loop → Loop) : (updLoop s l f).dseqTo = s.dseqTo := by unfold updLoop; split <;> rfl
@[simp] theorem updLoop_dseqFrom (s : State) (l : Nat) (f : Loop → Loop) : (updLoop s l f).dseqFrom = s.dseqFrom := by unfold updLoop; split <;> rfl
@[simp] theorem updLoop_early (s : State) (l : Nat) (f : Loop → Loop) : (updLoop s l f).early = s.early := by unfold updLoop; split <;> rfl
@[simp] theorem updLoop_rebuilt (s : State) (l : Nat) (f : Loop → Loop) : (updLoop s l f).rebuilt = s.rebuilt := by unfold updLoop; split <;> rfl
@[simp] theorem updLoop_rbHeld (s : State) (l : Nat) (f : Loop → Loop) : (updLoop s l f).rbHeld = s.rbHeld := by unfold updLoop; split <;> rfl
@[simp] theorem updLoop_rbGot (s : State) (l : Nat) (f : Loop → Loop) : (updLoop s l f).rbGot = s.rbGot := by unfold updLoop; split <;> rfl
@[simp] theorem updLoop_rbTo (s : State) (l : Nat) (f : Loop → Loop) : (updLoop s l f).rbTo = s.rbTo := by unfold updLoop; split <;> rfl
@[simp] theorem updLoop_helup (s : State) (l : Nat) (f : Loop → Loop) : (updLoop s l f).helup = s.helup := by unfold updLoop; split <;> rfl
@[simp] theorem updLoop_cxl (s : State) (l : Nat) (f : Loop → Loop) : (updLoop s l f).cxl = s.cxl := by unfold updLoop; split <;> rfl
@[simp] theorem updLoop_out (s : State) (l : Nat) (f : Loop → Loop) : (updLoop s l f).out = s.out := by unfold updLoop; split <;> rfl
@[simp] theorem updLoop_inbound (s : State) (l : Nat) (f : Loop → Loop) : (updLoop s l f).inbound = s.inbound := by unfold updLoop; split <;> rfl
@[simp] theorem updLoop_regs (s : State) (l : Nat) (f : Loop → Loop) : (updLoop s l f).regs = s.regs := by unfold updLoop; split <;> rfl
@[simp] theorem updLoop_mc (s : State) (l : Nat) (f : Loop → Loop) : (updLoop s l f).mc = s.mc := by unfold updLoop; split <;> rfl
@[simp] theorem updLoop_loading (s : State) (l : Nat) (f : Loop → Loop) : (updLoop s l f).loading = s.loading := by unfold updLoop; split <;> rfl
@[simp] theorem updLoop_snaps (s : State) (l : Nat) (f : Loop → Loop) : (updLoop s l f).snaps = s.snaps := by unfold updLoop; split <;> rfl
@[simp] theorem updLoop_lastServed (s : State) (l : Nat) (f : Loop → Loop) : (updLoop s l f).lastServed = s.lastServed := by unfold updLoop; split <;> rfl

/-! ## updIsland -/

@[simp] theorem updIsland_agenda (s : State) (i : Nat) (f : Island → Island) : (updIsland s i f).agenda = s.agenda := rfl
@[simp] theorem updIsland_turns (s : State) (i : Nat) (f : Island → Island) : (updIsland s i f).turns = s.turns := rfl
@[simp] theorem updIsland_free (s : State) (i : Nat) (f : Island → Island) : (updIsland s i f).free = s.free := rfl
@[simp] theorem updIsland_ids (s : State) (i : Nat) (f : Island → Island) : (updIsland s i f).ids = s.ids := rfl
@[simp] theorem updIsland_cycle (s : State) (i : Nat) (f : Island → Island) : (updIsland s i f).cycle = s.cycle := rfl
@[simp] theorem updIsland_cur (s : State) (i : Nat) (f : Island → Island) : (updIsland s i f).cur = s.cur := rfl
@[simp] theorem updIsland_parts (s : State) (i : Nat) (f : Island → Island) : (updIsland s i f).parts = s.parts := rfl
@[simp] theorem updIsland_queues (s : State) (i : Nat) (f : Island → Island) : (updIsland s i f).queues = s.queues := rfl
@[simp] theorem updIsland_sleeves (s : State) (i : Nat) (f : Island → Island) : (updIsland s i f).sleeves = s.sleeves := rfl
@[simp] theorem updIsland_cfgs (s : State) (i : Nat) (f : Island → Island) : (updIsland s i f).cfgs = s.cfgs := rfl
@[simp] theorem updIsland_colours (s : State) (i : Nat) (f : Island → Island) : (updIsland s i f).colours = s.colours := rfl
@[simp] theorem updIsland_acts (s : State) (i : Nat) (f : Island → Island) : (updIsland s i f).acts = s.acts := rfl
@[simp] theorem updIsland_threads (s : State) (i : Nat) (f : Island → Island) : (updIsland s i f).threads = s.threads := rfl
@[simp] theorem updIsland_loops (s : State) (i : Nat) (f : Island → Island) : (updIsland s i f).loops = s.loops := rfl
@[simp] theorem updIsland_net (s : State) (i : Nat) (f : Island → Island) : (updIsland s i f).net = s.net := rfl
@[simp] theorem updIsland_far (s : State) (i : Nat) (f : Island → Island) : (updIsland s i f).far = s.far := rfl
@[simp] theorem updIsland_unsorted (s : State) (i : Nat) (f : Island → Island) : (updIsland s i f).unsorted = s.unsorted := rfl
@[simp] theorem updIsland_entries (s : State) (i : Nat) (f : Island → Island) : (updIsland s i f).entries = s.entries := rfl
@[simp] theorem updIsland_spilled (s : State) (i : Nat) (f : Island → Island) : (updIsland s i f).spilled = s.spilled := rfl
@[simp] theorem updIsland_throttled (s : State) (i : Nat) (f : Island → Island) : (updIsland s i f).throttled = s.throttled := rfl
@[simp] theorem updIsland_ops (s : State) (i : Nat) (f : Island → Island) : (updIsland s i f).ops = s.ops := rfl
@[simp] theorem updIsland_stores (s : State) (i : Nat) (f : Island → Island) : (updIsland s i f).stores = s.stores := rfl
@[simp] theorem updIsland_parked (s : State) (i : Nat) (f : Island → Island) : (updIsland s i f).parked = s.parked := rfl
@[simp] theorem updIsland_records (s : State) (i : Nat) (f : Island → Island) : (updIsland s i f).records = s.records := rfl
@[simp] theorem updIsland_retries (s : State) (i : Nat) (f : Island → Island) : (updIsland s i f).retries = s.retries := rfl
@[simp] theorem updIsland_prefetched (s : State) (i : Nat) (f : Island → Island) : (updIsland s i f).prefetched = s.prefetched := rfl
@[simp] theorem updIsland_islands (s : State) (i : Nat) (f : Island → Island) : (updIsland s i f).islands = insertAt s.islands i (f (islandOf s i)) := rfl
@[simp] theorem updIsland_flights (s : State) (i : Nat) (f : Island → Island) : (updIsland s i f).flights = s.flights := rfl
@[simp] theorem updIsland_hemOps (s : State) (i : Nat) (f : Island → Island) : (updIsland s i f).hemOps = s.hemOps := rfl
@[simp] theorem updIsland_xfers (s : State) (i : Nat) (f : Island → Island) : (updIsland s i f).xfers = s.xfers := rfl
@[simp] theorem updIsland_colls (s : State) (i : Nat) (f : Island → Island) : (updIsland s i f).colls = s.colls := rfl
@[simp] theorem updIsland_collSeq (s : State) (i : Nat) (f : Island → Island) : (updIsland s i f).collSeq = s.collSeq := rfl
@[simp] theorem updIsland_slotSeq (s : State) (i : Nat) (f : Island → Island) : (updIsland s i f).slotSeq = s.slotSeq := rfl
@[simp] theorem updIsland_collBox (s : State) (i : Nat) (f : Island → Island) : (updIsland s i f).collBox = s.collBox := rfl
@[simp] theorem updIsland_mem (s : State) (i : Nat) (f : Island → Island) : (updIsland s i f).mem = s.mem := rfl
@[simp] theorem updIsland_podMem (s : State) (i : Nat) (f : Island → Island) : (updIsland s i f).podMem = s.podMem := rfl
@[simp] theorem updIsland_poison (s : State) (i : Nat) (f : Island → Island) : (updIsland s i f).poison = s.poison := rfl
@[simp] theorem updIsland_podPoison (s : State) (i : Nat) (f : Island → Island) : (updIsland s i f).podPoison = s.podPoison := rfl
@[simp] theorem updIsland_fe (s : State) (i : Nat) (f : Island → Island) : (updIsland s i f).fe = s.fe := rfl
@[simp] theorem updIsland_dfr (s : State) (i : Nat) (f : Island → Island) : (updIsland s i f).dfr = s.dfr := rfl
@[simp] theorem updIsland_l2 (s : State) (i : Nat) (f : Island → Island) : (updIsland s i f).l2 = s.l2 := rfl
@[simp] theorem updIsland_victim (s : State) (i : Nat) (f : Island → Island) : (updIsland s i f).victim = s.victim := rfl
@[simp] theorem updIsland_misses (s : State) (i : Nat) (f : Island → Island) : (updIsland s i f).misses = s.misses := rfl
@[simp] theorem updIsland_mdLines (s : State) (i : Nat) (f : Island → Island) : (updIsland s i f).mdLines = s.mdLines := rfl
@[simp] theorem updIsland_packed (s : State) (i : Nat) (f : Island → Island) : (updIsland s i f).packed = s.packed := rfl
@[simp] theorem updIsland_pinned (s : State) (i : Nat) (f : Island → Island) : (updIsland s i f).pinned = s.pinned := rfl
@[simp] theorem updIsland_overflow (s : State) (i : Nat) (f : Island → Island) : (updIsland s i f).overflow = s.overflow := rfl
@[simp] theorem updIsland_locks (s : State) (i : Nat) (f : Island → Island) : (updIsland s i f).locks = s.locks := rfl
@[simp] theorem updIsland_waits (s : State) (i : Nat) (f : Island → Island) : (updIsland s i f).waits = s.waits := rfl
@[simp] theorem updIsland_stalled (s : State) (i : Nat) (f : Island → Island) : (updIsland s i f).stalled = s.stalled := rfl
@[simp] theorem updIsland_tlbQuad (s : State) (i : Nat) (f : Island → Island) : (updIsland s i f).tlbQuad = s.tlbQuad := rfl
@[simp] theorem updIsland_tlbGrid (s : State) (i : Nat) (f : Island → Island) : (updIsland s i f).tlbGrid = s.tlbGrid := rfl
@[simp] theorem updIsland_tlbColl (s : State) (i : Nat) (f : Island → Island) : (updIsland s i f).tlbColl = s.tlbColl := rfl
@[simp] theorem updIsland_walks (s : State) (i : Nat) (f : Island → Island) : (updIsland s i f).walks = s.walks := rfl
@[simp] theorem updIsland_remotes (s : State) (i : Nat) (f : Island → Island) : (updIsland s i f).remotes = s.remotes := rfl
@[simp] theorem updIsland_copies (s : State) (i : Nat) (f : Island → Island) : (updIsland s i f).copies = s.copies := rfl
@[simp] theorem updIsland_dir (s : State) (i : Nat) (f : Island → Island) : (updIsland s i f).dir = s.dir := rfl
@[simp] theorem updIsland_ownerLost (s : State) (i : Nat) (f : Island → Island) : (updIsland s i f).ownerLost = s.ownerLost := rfl
@[simp] theorem updIsland_podLost (s : State) (i : Nat) (f : Island → Island) : (updIsland s i f).podLost = s.podLost := rfl
@[simp] theorem updIsland_olrecs (s : State) (i : Nat) (f : Island → Island) : (updIsland s i f).olrecs = s.olrecs := rfl
@[simp] theorem updIsland_deltas (s : State) (i : Nat) (f : Island → Island) : (updIsland s i f).deltas = s.deltas := rfl
@[simp] theorem updIsland_dseqTo (s : State) (i : Nat) (f : Island → Island) : (updIsland s i f).dseqTo = s.dseqTo := rfl
@[simp] theorem updIsland_dseqFrom (s : State) (i : Nat) (f : Island → Island) : (updIsland s i f).dseqFrom = s.dseqFrom := rfl
@[simp] theorem updIsland_early (s : State) (i : Nat) (f : Island → Island) : (updIsland s i f).early = s.early := rfl
@[simp] theorem updIsland_rebuilt (s : State) (i : Nat) (f : Island → Island) : (updIsland s i f).rebuilt = s.rebuilt := rfl
@[simp] theorem updIsland_rbHeld (s : State) (i : Nat) (f : Island → Island) : (updIsland s i f).rbHeld = s.rbHeld := rfl
@[simp] theorem updIsland_rbGot (s : State) (i : Nat) (f : Island → Island) : (updIsland s i f).rbGot = s.rbGot := rfl
@[simp] theorem updIsland_rbTo (s : State) (i : Nat) (f : Island → Island) : (updIsland s i f).rbTo = s.rbTo := rfl
@[simp] theorem updIsland_helup (s : State) (i : Nat) (f : Island → Island) : (updIsland s i f).helup = s.helup := rfl
@[simp] theorem updIsland_cxl (s : State) (i : Nat) (f : Island → Island) : (updIsland s i f).cxl = s.cxl := rfl
@[simp] theorem updIsland_out (s : State) (i : Nat) (f : Island → Island) : (updIsland s i f).out = s.out := rfl
@[simp] theorem updIsland_inbound (s : State) (i : Nat) (f : Island → Island) : (updIsland s i f).inbound = s.inbound := rfl
@[simp] theorem updIsland_regs (s : State) (i : Nat) (f : Island → Island) : (updIsland s i f).regs = s.regs := rfl
@[simp] theorem updIsland_mc (s : State) (i : Nat) (f : Island → Island) : (updIsland s i f).mc = s.mc := rfl
@[simp] theorem updIsland_loading (s : State) (i : Nat) (f : Island → Island) : (updIsland s i f).loading = s.loading := rfl
@[simp] theorem updIsland_snaps (s : State) (i : Nat) (f : Island → Island) : (updIsland s i f).snaps = s.snaps := rfl
@[simp] theorem updIsland_lastServed (s : State) (i : Nat) (f : Island → Island) : (updIsland s i f).lastServed = s.lastServed := rfl

/-! ## updRegs -/

@[simp] theorem updRegs_agenda (s : State) (f : Regs → Regs) : (updRegs s f).agenda = s.agenda := rfl
@[simp] theorem updRegs_turns (s : State) (f : Regs → Regs) : (updRegs s f).turns = s.turns := rfl
@[simp] theorem updRegs_free (s : State) (f : Regs → Regs) : (updRegs s f).free = s.free := rfl
@[simp] theorem updRegs_ids (s : State) (f : Regs → Regs) : (updRegs s f).ids = s.ids := rfl
@[simp] theorem updRegs_cycle (s : State) (f : Regs → Regs) : (updRegs s f).cycle = s.cycle := rfl
@[simp] theorem updRegs_cur (s : State) (f : Regs → Regs) : (updRegs s f).cur = s.cur := rfl
@[simp] theorem updRegs_parts (s : State) (f : Regs → Regs) : (updRegs s f).parts = s.parts := rfl
@[simp] theorem updRegs_queues (s : State) (f : Regs → Regs) : (updRegs s f).queues = s.queues := rfl
@[simp] theorem updRegs_sleeves (s : State) (f : Regs → Regs) : (updRegs s f).sleeves = s.sleeves := rfl
@[simp] theorem updRegs_cfgs (s : State) (f : Regs → Regs) : (updRegs s f).cfgs = s.cfgs := rfl
@[simp] theorem updRegs_colours (s : State) (f : Regs → Regs) : (updRegs s f).colours = s.colours := rfl
@[simp] theorem updRegs_acts (s : State) (f : Regs → Regs) : (updRegs s f).acts = s.acts := rfl
@[simp] theorem updRegs_threads (s : State) (f : Regs → Regs) : (updRegs s f).threads = s.threads := rfl
@[simp] theorem updRegs_loops (s : State) (f : Regs → Regs) : (updRegs s f).loops = s.loops := rfl
@[simp] theorem updRegs_net (s : State) (f : Regs → Regs) : (updRegs s f).net = s.net := rfl
@[simp] theorem updRegs_far (s : State) (f : Regs → Regs) : (updRegs s f).far = s.far := rfl
@[simp] theorem updRegs_unsorted (s : State) (f : Regs → Regs) : (updRegs s f).unsorted = s.unsorted := rfl
@[simp] theorem updRegs_entries (s : State) (f : Regs → Regs) : (updRegs s f).entries = s.entries := rfl
@[simp] theorem updRegs_spilled (s : State) (f : Regs → Regs) : (updRegs s f).spilled = s.spilled := rfl
@[simp] theorem updRegs_throttled (s : State) (f : Regs → Regs) : (updRegs s f).throttled = s.throttled := rfl
@[simp] theorem updRegs_ops (s : State) (f : Regs → Regs) : (updRegs s f).ops = s.ops := rfl
@[simp] theorem updRegs_stores (s : State) (f : Regs → Regs) : (updRegs s f).stores = s.stores := rfl
@[simp] theorem updRegs_parked (s : State) (f : Regs → Regs) : (updRegs s f).parked = s.parked := rfl
@[simp] theorem updRegs_records (s : State) (f : Regs → Regs) : (updRegs s f).records = s.records := rfl
@[simp] theorem updRegs_retries (s : State) (f : Regs → Regs) : (updRegs s f).retries = s.retries := rfl
@[simp] theorem updRegs_prefetched (s : State) (f : Regs → Regs) : (updRegs s f).prefetched = s.prefetched := rfl
@[simp] theorem updRegs_islands (s : State) (f : Regs → Regs) : (updRegs s f).islands = s.islands := rfl
@[simp] theorem updRegs_flights (s : State) (f : Regs → Regs) : (updRegs s f).flights = s.flights := rfl
@[simp] theorem updRegs_hemOps (s : State) (f : Regs → Regs) : (updRegs s f).hemOps = s.hemOps := rfl
@[simp] theorem updRegs_xfers (s : State) (f : Regs → Regs) : (updRegs s f).xfers = s.xfers := rfl
@[simp] theorem updRegs_colls (s : State) (f : Regs → Regs) : (updRegs s f).colls = s.colls := rfl
@[simp] theorem updRegs_collSeq (s : State) (f : Regs → Regs) : (updRegs s f).collSeq = s.collSeq := rfl
@[simp] theorem updRegs_slotSeq (s : State) (f : Regs → Regs) : (updRegs s f).slotSeq = s.slotSeq := rfl
@[simp] theorem updRegs_collBox (s : State) (f : Regs → Regs) : (updRegs s f).collBox = s.collBox := rfl
@[simp] theorem updRegs_mem (s : State) (f : Regs → Regs) : (updRegs s f).mem = s.mem := rfl
@[simp] theorem updRegs_podMem (s : State) (f : Regs → Regs) : (updRegs s f).podMem = s.podMem := rfl
@[simp] theorem updRegs_poison (s : State) (f : Regs → Regs) : (updRegs s f).poison = s.poison := rfl
@[simp] theorem updRegs_podPoison (s : State) (f : Regs → Regs) : (updRegs s f).podPoison = s.podPoison := rfl
@[simp] theorem updRegs_fe (s : State) (f : Regs → Regs) : (updRegs s f).fe = s.fe := rfl
@[simp] theorem updRegs_dfr (s : State) (f : Regs → Regs) : (updRegs s f).dfr = s.dfr := rfl
@[simp] theorem updRegs_l2 (s : State) (f : Regs → Regs) : (updRegs s f).l2 = s.l2 := rfl
@[simp] theorem updRegs_victim (s : State) (f : Regs → Regs) : (updRegs s f).victim = s.victim := rfl
@[simp] theorem updRegs_misses (s : State) (f : Regs → Regs) : (updRegs s f).misses = s.misses := rfl
@[simp] theorem updRegs_mdLines (s : State) (f : Regs → Regs) : (updRegs s f).mdLines = s.mdLines := rfl
@[simp] theorem updRegs_packed (s : State) (f : Regs → Regs) : (updRegs s f).packed = s.packed := rfl
@[simp] theorem updRegs_pinned (s : State) (f : Regs → Regs) : (updRegs s f).pinned = s.pinned := rfl
@[simp] theorem updRegs_overflow (s : State) (f : Regs → Regs) : (updRegs s f).overflow = s.overflow := rfl
@[simp] theorem updRegs_locks (s : State) (f : Regs → Regs) : (updRegs s f).locks = s.locks := rfl
@[simp] theorem updRegs_waits (s : State) (f : Regs → Regs) : (updRegs s f).waits = s.waits := rfl
@[simp] theorem updRegs_stalled (s : State) (f : Regs → Regs) : (updRegs s f).stalled = s.stalled := rfl
@[simp] theorem updRegs_tlbQuad (s : State) (f : Regs → Regs) : (updRegs s f).tlbQuad = s.tlbQuad := rfl
@[simp] theorem updRegs_tlbGrid (s : State) (f : Regs → Regs) : (updRegs s f).tlbGrid = s.tlbGrid := rfl
@[simp] theorem updRegs_tlbColl (s : State) (f : Regs → Regs) : (updRegs s f).tlbColl = s.tlbColl := rfl
@[simp] theorem updRegs_walks (s : State) (f : Regs → Regs) : (updRegs s f).walks = s.walks := rfl
@[simp] theorem updRegs_remotes (s : State) (f : Regs → Regs) : (updRegs s f).remotes = s.remotes := rfl
@[simp] theorem updRegs_copies (s : State) (f : Regs → Regs) : (updRegs s f).copies = s.copies := rfl
@[simp] theorem updRegs_dir (s : State) (f : Regs → Regs) : (updRegs s f).dir = s.dir := rfl
@[simp] theorem updRegs_ownerLost (s : State) (f : Regs → Regs) : (updRegs s f).ownerLost = s.ownerLost := rfl
@[simp] theorem updRegs_podLost (s : State) (f : Regs → Regs) : (updRegs s f).podLost = s.podLost := rfl
@[simp] theorem updRegs_olrecs (s : State) (f : Regs → Regs) : (updRegs s f).olrecs = s.olrecs := rfl
@[simp] theorem updRegs_deltas (s : State) (f : Regs → Regs) : (updRegs s f).deltas = s.deltas := rfl
@[simp] theorem updRegs_dseqTo (s : State) (f : Regs → Regs) : (updRegs s f).dseqTo = s.dseqTo := rfl
@[simp] theorem updRegs_dseqFrom (s : State) (f : Regs → Regs) : (updRegs s f).dseqFrom = s.dseqFrom := rfl
@[simp] theorem updRegs_early (s : State) (f : Regs → Regs) : (updRegs s f).early = s.early := rfl
@[simp] theorem updRegs_rebuilt (s : State) (f : Regs → Regs) : (updRegs s f).rebuilt = s.rebuilt := rfl
@[simp] theorem updRegs_rbHeld (s : State) (f : Regs → Regs) : (updRegs s f).rbHeld = s.rbHeld := rfl
@[simp] theorem updRegs_rbGot (s : State) (f : Regs → Regs) : (updRegs s f).rbGot = s.rbGot := rfl
@[simp] theorem updRegs_rbTo (s : State) (f : Regs → Regs) : (updRegs s f).rbTo = s.rbTo := rfl
@[simp] theorem updRegs_helup (s : State) (f : Regs → Regs) : (updRegs s f).helup = s.helup := rfl
@[simp] theorem updRegs_cxl (s : State) (f : Regs → Regs) : (updRegs s f).cxl = s.cxl := rfl
@[simp] theorem updRegs_out (s : State) (f : Regs → Regs) : (updRegs s f).out = s.out := rfl
@[simp] theorem updRegs_inbound (s : State) (f : Regs → Regs) : (updRegs s f).inbound = s.inbound := rfl
@[simp] theorem updRegs_regs (s : State) (f : Regs → Regs) : (updRegs s f).regs = f s.regs := rfl
@[simp] theorem updRegs_mc (s : State) (f : Regs → Regs) : (updRegs s f).mc = s.mc := rfl
@[simp] theorem updRegs_loading (s : State) (f : Regs → Regs) : (updRegs s f).loading = s.loading := rfl
@[simp] theorem updRegs_snaps (s : State) (f : Regs → Regs) : (updRegs s f).snaps = s.snaps := rfl
@[simp] theorem updRegs_lastServed (s : State) (f : Regs → Regs) : (updRegs s f).lastServed = s.lastServed := rfl

/-! ## updMc -/

@[simp] theorem updMc_agenda (s : State) (f : Mc → Mc) : (updMc s f).agenda = s.agenda := rfl
@[simp] theorem updMc_turns (s : State) (f : Mc → Mc) : (updMc s f).turns = s.turns := rfl
@[simp] theorem updMc_free (s : State) (f : Mc → Mc) : (updMc s f).free = s.free := rfl
@[simp] theorem updMc_ids (s : State) (f : Mc → Mc) : (updMc s f).ids = s.ids := rfl
@[simp] theorem updMc_cycle (s : State) (f : Mc → Mc) : (updMc s f).cycle = s.cycle := rfl
@[simp] theorem updMc_cur (s : State) (f : Mc → Mc) : (updMc s f).cur = s.cur := rfl
@[simp] theorem updMc_parts (s : State) (f : Mc → Mc) : (updMc s f).parts = s.parts := rfl
@[simp] theorem updMc_queues (s : State) (f : Mc → Mc) : (updMc s f).queues = s.queues := rfl
@[simp] theorem updMc_sleeves (s : State) (f : Mc → Mc) : (updMc s f).sleeves = s.sleeves := rfl
@[simp] theorem updMc_cfgs (s : State) (f : Mc → Mc) : (updMc s f).cfgs = s.cfgs := rfl
@[simp] theorem updMc_colours (s : State) (f : Mc → Mc) : (updMc s f).colours = s.colours := rfl
@[simp] theorem updMc_acts (s : State) (f : Mc → Mc) : (updMc s f).acts = s.acts := rfl
@[simp] theorem updMc_threads (s : State) (f : Mc → Mc) : (updMc s f).threads = s.threads := rfl
@[simp] theorem updMc_loops (s : State) (f : Mc → Mc) : (updMc s f).loops = s.loops := rfl
@[simp] theorem updMc_net (s : State) (f : Mc → Mc) : (updMc s f).net = s.net := rfl
@[simp] theorem updMc_far (s : State) (f : Mc → Mc) : (updMc s f).far = s.far := rfl
@[simp] theorem updMc_unsorted (s : State) (f : Mc → Mc) : (updMc s f).unsorted = s.unsorted := rfl
@[simp] theorem updMc_entries (s : State) (f : Mc → Mc) : (updMc s f).entries = s.entries := rfl
@[simp] theorem updMc_spilled (s : State) (f : Mc → Mc) : (updMc s f).spilled = s.spilled := rfl
@[simp] theorem updMc_throttled (s : State) (f : Mc → Mc) : (updMc s f).throttled = s.throttled := rfl
@[simp] theorem updMc_ops (s : State) (f : Mc → Mc) : (updMc s f).ops = s.ops := rfl
@[simp] theorem updMc_stores (s : State) (f : Mc → Mc) : (updMc s f).stores = s.stores := rfl
@[simp] theorem updMc_parked (s : State) (f : Mc → Mc) : (updMc s f).parked = s.parked := rfl
@[simp] theorem updMc_records (s : State) (f : Mc → Mc) : (updMc s f).records = s.records := rfl
@[simp] theorem updMc_retries (s : State) (f : Mc → Mc) : (updMc s f).retries = s.retries := rfl
@[simp] theorem updMc_prefetched (s : State) (f : Mc → Mc) : (updMc s f).prefetched = s.prefetched := rfl
@[simp] theorem updMc_islands (s : State) (f : Mc → Mc) : (updMc s f).islands = s.islands := rfl
@[simp] theorem updMc_flights (s : State) (f : Mc → Mc) : (updMc s f).flights = s.flights := rfl
@[simp] theorem updMc_hemOps (s : State) (f : Mc → Mc) : (updMc s f).hemOps = s.hemOps := rfl
@[simp] theorem updMc_xfers (s : State) (f : Mc → Mc) : (updMc s f).xfers = s.xfers := rfl
@[simp] theorem updMc_colls (s : State) (f : Mc → Mc) : (updMc s f).colls = s.colls := rfl
@[simp] theorem updMc_collSeq (s : State) (f : Mc → Mc) : (updMc s f).collSeq = s.collSeq := rfl
@[simp] theorem updMc_slotSeq (s : State) (f : Mc → Mc) : (updMc s f).slotSeq = s.slotSeq := rfl
@[simp] theorem updMc_collBox (s : State) (f : Mc → Mc) : (updMc s f).collBox = s.collBox := rfl
@[simp] theorem updMc_mem (s : State) (f : Mc → Mc) : (updMc s f).mem = s.mem := rfl
@[simp] theorem updMc_podMem (s : State) (f : Mc → Mc) : (updMc s f).podMem = s.podMem := rfl
@[simp] theorem updMc_poison (s : State) (f : Mc → Mc) : (updMc s f).poison = s.poison := rfl
@[simp] theorem updMc_podPoison (s : State) (f : Mc → Mc) : (updMc s f).podPoison = s.podPoison := rfl
@[simp] theorem updMc_fe (s : State) (f : Mc → Mc) : (updMc s f).fe = s.fe := rfl
@[simp] theorem updMc_dfr (s : State) (f : Mc → Mc) : (updMc s f).dfr = s.dfr := rfl
@[simp] theorem updMc_l2 (s : State) (f : Mc → Mc) : (updMc s f).l2 = s.l2 := rfl
@[simp] theorem updMc_victim (s : State) (f : Mc → Mc) : (updMc s f).victim = s.victim := rfl
@[simp] theorem updMc_misses (s : State) (f : Mc → Mc) : (updMc s f).misses = s.misses := rfl
@[simp] theorem updMc_mdLines (s : State) (f : Mc → Mc) : (updMc s f).mdLines = s.mdLines := rfl
@[simp] theorem updMc_packed (s : State) (f : Mc → Mc) : (updMc s f).packed = s.packed := rfl
@[simp] theorem updMc_pinned (s : State) (f : Mc → Mc) : (updMc s f).pinned = s.pinned := rfl
@[simp] theorem updMc_overflow (s : State) (f : Mc → Mc) : (updMc s f).overflow = s.overflow := rfl
@[simp] theorem updMc_locks (s : State) (f : Mc → Mc) : (updMc s f).locks = s.locks := rfl
@[simp] theorem updMc_waits (s : State) (f : Mc → Mc) : (updMc s f).waits = s.waits := rfl
@[simp] theorem updMc_stalled (s : State) (f : Mc → Mc) : (updMc s f).stalled = s.stalled := rfl
@[simp] theorem updMc_tlbQuad (s : State) (f : Mc → Mc) : (updMc s f).tlbQuad = s.tlbQuad := rfl
@[simp] theorem updMc_tlbGrid (s : State) (f : Mc → Mc) : (updMc s f).tlbGrid = s.tlbGrid := rfl
@[simp] theorem updMc_tlbColl (s : State) (f : Mc → Mc) : (updMc s f).tlbColl = s.tlbColl := rfl
@[simp] theorem updMc_walks (s : State) (f : Mc → Mc) : (updMc s f).walks = s.walks := rfl
@[simp] theorem updMc_remotes (s : State) (f : Mc → Mc) : (updMc s f).remotes = s.remotes := rfl
@[simp] theorem updMc_copies (s : State) (f : Mc → Mc) : (updMc s f).copies = s.copies := rfl
@[simp] theorem updMc_dir (s : State) (f : Mc → Mc) : (updMc s f).dir = s.dir := rfl
@[simp] theorem updMc_ownerLost (s : State) (f : Mc → Mc) : (updMc s f).ownerLost = s.ownerLost := rfl
@[simp] theorem updMc_podLost (s : State) (f : Mc → Mc) : (updMc s f).podLost = s.podLost := rfl
@[simp] theorem updMc_olrecs (s : State) (f : Mc → Mc) : (updMc s f).olrecs = s.olrecs := rfl
@[simp] theorem updMc_deltas (s : State) (f : Mc → Mc) : (updMc s f).deltas = s.deltas := rfl
@[simp] theorem updMc_dseqTo (s : State) (f : Mc → Mc) : (updMc s f).dseqTo = s.dseqTo := rfl
@[simp] theorem updMc_dseqFrom (s : State) (f : Mc → Mc) : (updMc s f).dseqFrom = s.dseqFrom := rfl
@[simp] theorem updMc_early (s : State) (f : Mc → Mc) : (updMc s f).early = s.early := rfl
@[simp] theorem updMc_rebuilt (s : State) (f : Mc → Mc) : (updMc s f).rebuilt = s.rebuilt := rfl
@[simp] theorem updMc_rbHeld (s : State) (f : Mc → Mc) : (updMc s f).rbHeld = s.rbHeld := rfl
@[simp] theorem updMc_rbGot (s : State) (f : Mc → Mc) : (updMc s f).rbGot = s.rbGot := rfl
@[simp] theorem updMc_rbTo (s : State) (f : Mc → Mc) : (updMc s f).rbTo = s.rbTo := rfl
@[simp] theorem updMc_helup (s : State) (f : Mc → Mc) : (updMc s f).helup = s.helup := rfl
@[simp] theorem updMc_cxl (s : State) (f : Mc → Mc) : (updMc s f).cxl = s.cxl := rfl
@[simp] theorem updMc_out (s : State) (f : Mc → Mc) : (updMc s f).out = s.out := rfl
@[simp] theorem updMc_inbound (s : State) (f : Mc → Mc) : (updMc s f).inbound = s.inbound := rfl
@[simp] theorem updMc_regs (s : State) (f : Mc → Mc) : (updMc s f).regs = s.regs := rfl
@[simp] theorem updMc_mc (s : State) (f : Mc → Mc) : (updMc s f).mc = f s.mc := rfl
@[simp] theorem updMc_loading (s : State) (f : Mc → Mc) : (updMc s f).loading = s.loading := rfl
@[simp] theorem updMc_snaps (s : State) (f : Mc → Mc) : (updMc s f).snaps = s.snaps := rfl
@[simp] theorem updMc_lastServed (s : State) (f : Mc → Mc) : (updMc s f).lastServed = s.lastServed := rfl

/-! ## dead -/

@[simp] theorem dead_agenda (s : State) (p n : Nat) : (dead s p n).agenda = s.agenda := rfl
@[simp] theorem dead_turns (s : State) (p n : Nat) : (dead s p n).turns = s.turns := rfl
@[simp] theorem dead_free (s : State) (p n : Nat) : (dead s p n).free = s.free := rfl
@[simp] theorem dead_ids (s : State) (p n : Nat) : (dead s p n).ids = s.ids := rfl
@[simp] theorem dead_cycle (s : State) (p n : Nat) : (dead s p n).cycle = s.cycle := rfl
@[simp] theorem dead_cur (s : State) (p n : Nat) : (dead s p n).cur = s.cur := rfl
@[simp] theorem dead_queues (s : State) (p n : Nat) : (dead s p n).queues = s.queues := rfl
@[simp] theorem dead_sleeves (s : State) (p n : Nat) : (dead s p n).sleeves = s.sleeves := rfl
@[simp] theorem dead_cfgs (s : State) (p n : Nat) : (dead s p n).cfgs = s.cfgs := rfl
@[simp] theorem dead_colours (s : State) (p n : Nat) : (dead s p n).colours = s.colours := rfl
@[simp] theorem dead_acts (s : State) (p n : Nat) : (dead s p n).acts = s.acts := rfl
@[simp] theorem dead_threads (s : State) (p n : Nat) : (dead s p n).threads = s.threads := rfl
@[simp] theorem dead_loops (s : State) (p n : Nat) : (dead s p n).loops = s.loops := rfl
@[simp] theorem dead_net (s : State) (p n : Nat) : (dead s p n).net = s.net := rfl
@[simp] theorem dead_far (s : State) (p n : Nat) : (dead s p n).far = s.far := rfl
@[simp] theorem dead_unsorted (s : State) (p n : Nat) : (dead s p n).unsorted = s.unsorted := rfl
@[simp] theorem dead_entries (s : State) (p n : Nat) : (dead s p n).entries = s.entries := rfl
@[simp] theorem dead_spilled (s : State) (p n : Nat) : (dead s p n).spilled = s.spilled := rfl
@[simp] theorem dead_throttled (s : State) (p n : Nat) : (dead s p n).throttled = s.throttled := rfl
@[simp] theorem dead_ops (s : State) (p n : Nat) : (dead s p n).ops = s.ops := rfl
@[simp] theorem dead_stores (s : State) (p n : Nat) : (dead s p n).stores = s.stores := rfl
@[simp] theorem dead_parked (s : State) (p n : Nat) : (dead s p n).parked = s.parked := rfl
@[simp] theorem dead_records (s : State) (p n : Nat) : (dead s p n).records = s.records := rfl
@[simp] theorem dead_retries (s : State) (p n : Nat) : (dead s p n).retries = s.retries := rfl
@[simp] theorem dead_prefetched (s : State) (p n : Nat) : (dead s p n).prefetched = s.prefetched := rfl
@[simp] theorem dead_islands (s : State) (p n : Nat) : (dead s p n).islands = s.islands := rfl
@[simp] theorem dead_flights (s : State) (p n : Nat) : (dead s p n).flights = s.flights := rfl
@[simp] theorem dead_hemOps (s : State) (p n : Nat) : (dead s p n).hemOps = s.hemOps := rfl
@[simp] theorem dead_xfers (s : State) (p n : Nat) : (dead s p n).xfers = s.xfers := rfl
@[simp] theorem dead_colls (s : State) (p n : Nat) : (dead s p n).colls = s.colls := rfl
@[simp] theorem dead_collSeq (s : State) (p n : Nat) : (dead s p n).collSeq = s.collSeq := rfl
@[simp] theorem dead_slotSeq (s : State) (p n : Nat) : (dead s p n).slotSeq = s.slotSeq := rfl
@[simp] theorem dead_collBox (s : State) (p n : Nat) : (dead s p n).collBox = s.collBox := rfl
@[simp] theorem dead_mem (s : State) (p n : Nat) : (dead s p n).mem = s.mem := rfl
@[simp] theorem dead_podMem (s : State) (p n : Nat) : (dead s p n).podMem = s.podMem := rfl
@[simp] theorem dead_poison (s : State) (p n : Nat) : (dead s p n).poison = s.poison := rfl
@[simp] theorem dead_podPoison (s : State) (p n : Nat) : (dead s p n).podPoison = s.podPoison := rfl
@[simp] theorem dead_fe (s : State) (p n : Nat) : (dead s p n).fe = s.fe := rfl
@[simp] theorem dead_dfr (s : State) (p n : Nat) : (dead s p n).dfr = s.dfr := rfl
@[simp] theorem dead_l2 (s : State) (p n : Nat) : (dead s p n).l2 = s.l2 := rfl
@[simp] theorem dead_victim (s : State) (p n : Nat) : (dead s p n).victim = s.victim := rfl
@[simp] theorem dead_misses (s : State) (p n : Nat) : (dead s p n).misses = s.misses := rfl
@[simp] theorem dead_mdLines (s : State) (p n : Nat) : (dead s p n).mdLines = s.mdLines := rfl
@[simp] theorem dead_packed (s : State) (p n : Nat) : (dead s p n).packed = s.packed := rfl
@[simp] theorem dead_pinned (s : State) (p n : Nat) : (dead s p n).pinned = s.pinned := rfl
@[simp] theorem dead_overflow (s : State) (p n : Nat) : (dead s p n).overflow = s.overflow := rfl
@[simp] theorem dead_locks (s : State) (p n : Nat) : (dead s p n).locks = s.locks := rfl
@[simp] theorem dead_waits (s : State) (p n : Nat) : (dead s p n).waits = s.waits := rfl
@[simp] theorem dead_stalled (s : State) (p n : Nat) : (dead s p n).stalled = s.stalled := rfl
@[simp] theorem dead_tlbQuad (s : State) (p n : Nat) : (dead s p n).tlbQuad = s.tlbQuad := rfl
@[simp] theorem dead_tlbGrid (s : State) (p n : Nat) : (dead s p n).tlbGrid = s.tlbGrid := rfl
@[simp] theorem dead_tlbColl (s : State) (p n : Nat) : (dead s p n).tlbColl = s.tlbColl := rfl
@[simp] theorem dead_walks (s : State) (p n : Nat) : (dead s p n).walks = s.walks := rfl
@[simp] theorem dead_remotes (s : State) (p n : Nat) : (dead s p n).remotes = s.remotes := rfl
@[simp] theorem dead_copies (s : State) (p n : Nat) : (dead s p n).copies = s.copies := rfl
@[simp] theorem dead_dir (s : State) (p n : Nat) : (dead s p n).dir = s.dir := rfl
@[simp] theorem dead_ownerLost (s : State) (p n : Nat) : (dead s p n).ownerLost = s.ownerLost := rfl
@[simp] theorem dead_podLost (s : State) (p n : Nat) : (dead s p n).podLost = s.podLost := rfl
@[simp] theorem dead_olrecs (s : State) (p n : Nat) : (dead s p n).olrecs = s.olrecs := rfl
@[simp] theorem dead_deltas (s : State) (p n : Nat) : (dead s p n).deltas = s.deltas := rfl
@[simp] theorem dead_dseqTo (s : State) (p n : Nat) : (dead s p n).dseqTo = s.dseqTo := rfl
@[simp] theorem dead_dseqFrom (s : State) (p n : Nat) : (dead s p n).dseqFrom = s.dseqFrom := rfl
@[simp] theorem dead_early (s : State) (p n : Nat) : (dead s p n).early = s.early := rfl
@[simp] theorem dead_rebuilt (s : State) (p n : Nat) : (dead s p n).rebuilt = s.rebuilt := rfl
@[simp] theorem dead_rbHeld (s : State) (p n : Nat) : (dead s p n).rbHeld = s.rbHeld := rfl
@[simp] theorem dead_rbGot (s : State) (p n : Nat) : (dead s p n).rbGot = s.rbGot := rfl
@[simp] theorem dead_rbTo (s : State) (p n : Nat) : (dead s p n).rbTo = s.rbTo := rfl
@[simp] theorem dead_helup (s : State) (p n : Nat) : (dead s p n).helup = s.helup := rfl
@[simp] theorem dead_cxl (s : State) (p n : Nat) : (dead s p n).cxl = s.cxl := rfl
@[simp] theorem dead_out (s : State) (p n : Nat) : (dead s p n).out = s.out := rfl
@[simp] theorem dead_inbound (s : State) (p n : Nat) : (dead s p n).inbound = s.inbound := rfl
@[simp] theorem dead_regs (s : State) (p n : Nat) : (dead s p n).regs = s.regs := rfl
@[simp] theorem dead_mc (s : State) (p n : Nat) : (dead s p n).mc = s.mc := rfl
@[simp] theorem dead_loading (s : State) (p n : Nat) : (dead s p n).loading = s.loading := rfl
@[simp] theorem dead_snaps (s : State) (p n : Nat) : (dead s p n).snaps = s.snaps := rfl
@[simp] theorem dead_lastServed (s : State) (p n : Nat) : (dead s p n).lastServed = s.lastServed := rfl

/-! ## putThread -/

@[simp] theorem putThread_agenda (s : State) (h : Thread) : (putThread s h).agenda = s.agenda := rfl
@[simp] theorem putThread_turns (s : State) (h : Thread) : (putThread s h).turns = s.turns := rfl
@[simp] theorem putThread_free (s : State) (h : Thread) : (putThread s h).free = s.free := rfl
@[simp] theorem putThread_ids (s : State) (h : Thread) : (putThread s h).ids = s.ids := rfl
@[simp] theorem putThread_cycle (s : State) (h : Thread) : (putThread s h).cycle = s.cycle := rfl
@[simp] theorem putThread_cur (s : State) (h : Thread) : (putThread s h).cur = s.cur := rfl
@[simp] theorem putThread_parts (s : State) (h : Thread) : (putThread s h).parts = s.parts := rfl
@[simp] theorem putThread_queues (s : State) (h : Thread) : (putThread s h).queues = s.queues := rfl
@[simp] theorem putThread_sleeves (s : State) (h : Thread) : (putThread s h).sleeves = s.sleeves := rfl
@[simp] theorem putThread_cfgs (s : State) (h : Thread) : (putThread s h).cfgs = s.cfgs := rfl
@[simp] theorem putThread_colours (s : State) (h : Thread) : (putThread s h).colours = s.colours := rfl
@[simp] theorem putThread_acts (s : State) (h : Thread) : (putThread s h).acts = s.acts := rfl
@[simp] theorem putThread_threads (s : State) (h : Thread) : (putThread s h).threads = h :: s.threads.filter fun g => !(g.part == h.part && g.tag == h.tag) := rfl
@[simp] theorem putThread_loops (s : State) (h : Thread) : (putThread s h).loops = s.loops := rfl
@[simp] theorem putThread_net (s : State) (h : Thread) : (putThread s h).net = s.net := rfl
@[simp] theorem putThread_far (s : State) (h : Thread) : (putThread s h).far = s.far := rfl
@[simp] theorem putThread_unsorted (s : State) (h : Thread) : (putThread s h).unsorted = s.unsorted := rfl
@[simp] theorem putThread_entries (s : State) (h : Thread) : (putThread s h).entries = s.entries := rfl
@[simp] theorem putThread_spilled (s : State) (h : Thread) : (putThread s h).spilled = s.spilled := rfl
@[simp] theorem putThread_throttled (s : State) (h : Thread) : (putThread s h).throttled = s.throttled := rfl
@[simp] theorem putThread_ops (s : State) (h : Thread) : (putThread s h).ops = s.ops := rfl
@[simp] theorem putThread_stores (s : State) (h : Thread) : (putThread s h).stores = s.stores := rfl
@[simp] theorem putThread_parked (s : State) (h : Thread) : (putThread s h).parked = s.parked := rfl
@[simp] theorem putThread_records (s : State) (h : Thread) : (putThread s h).records = s.records := rfl
@[simp] theorem putThread_retries (s : State) (h : Thread) : (putThread s h).retries = s.retries := rfl
@[simp] theorem putThread_prefetched (s : State) (h : Thread) : (putThread s h).prefetched = s.prefetched := rfl
@[simp] theorem putThread_islands (s : State) (h : Thread) : (putThread s h).islands = s.islands := rfl
@[simp] theorem putThread_flights (s : State) (h : Thread) : (putThread s h).flights = s.flights := rfl
@[simp] theorem putThread_hemOps (s : State) (h : Thread) : (putThread s h).hemOps = s.hemOps := rfl
@[simp] theorem putThread_xfers (s : State) (h : Thread) : (putThread s h).xfers = s.xfers := rfl
@[simp] theorem putThread_colls (s : State) (h : Thread) : (putThread s h).colls = s.colls := rfl
@[simp] theorem putThread_collSeq (s : State) (h : Thread) : (putThread s h).collSeq = s.collSeq := rfl
@[simp] theorem putThread_slotSeq (s : State) (h : Thread) : (putThread s h).slotSeq = s.slotSeq := rfl
@[simp] theorem putThread_collBox (s : State) (h : Thread) : (putThread s h).collBox = s.collBox := rfl
@[simp] theorem putThread_mem (s : State) (h : Thread) : (putThread s h).mem = s.mem := rfl
@[simp] theorem putThread_podMem (s : State) (h : Thread) : (putThread s h).podMem = s.podMem := rfl
@[simp] theorem putThread_poison (s : State) (h : Thread) : (putThread s h).poison = s.poison := rfl
@[simp] theorem putThread_podPoison (s : State) (h : Thread) : (putThread s h).podPoison = s.podPoison := rfl
@[simp] theorem putThread_fe (s : State) (h : Thread) : (putThread s h).fe = s.fe := rfl
@[simp] theorem putThread_dfr (s : State) (h : Thread) : (putThread s h).dfr = s.dfr := rfl
@[simp] theorem putThread_l2 (s : State) (h : Thread) : (putThread s h).l2 = s.l2 := rfl
@[simp] theorem putThread_victim (s : State) (h : Thread) : (putThread s h).victim = s.victim := rfl
@[simp] theorem putThread_misses (s : State) (h : Thread) : (putThread s h).misses = s.misses := rfl
@[simp] theorem putThread_mdLines (s : State) (h : Thread) : (putThread s h).mdLines = s.mdLines := rfl
@[simp] theorem putThread_packed (s : State) (h : Thread) : (putThread s h).packed = s.packed := rfl
@[simp] theorem putThread_pinned (s : State) (h : Thread) : (putThread s h).pinned = s.pinned := rfl
@[simp] theorem putThread_overflow (s : State) (h : Thread) : (putThread s h).overflow = s.overflow := rfl
@[simp] theorem putThread_locks (s : State) (h : Thread) : (putThread s h).locks = s.locks := rfl
@[simp] theorem putThread_waits (s : State) (h : Thread) : (putThread s h).waits = s.waits := rfl
@[simp] theorem putThread_stalled (s : State) (h : Thread) : (putThread s h).stalled = s.stalled := rfl
@[simp] theorem putThread_tlbQuad (s : State) (h : Thread) : (putThread s h).tlbQuad = s.tlbQuad := rfl
@[simp] theorem putThread_tlbGrid (s : State) (h : Thread) : (putThread s h).tlbGrid = s.tlbGrid := rfl
@[simp] theorem putThread_tlbColl (s : State) (h : Thread) : (putThread s h).tlbColl = s.tlbColl := rfl
@[simp] theorem putThread_walks (s : State) (h : Thread) : (putThread s h).walks = s.walks := rfl
@[simp] theorem putThread_remotes (s : State) (h : Thread) : (putThread s h).remotes = s.remotes := rfl
@[simp] theorem putThread_copies (s : State) (h : Thread) : (putThread s h).copies = s.copies := rfl
@[simp] theorem putThread_dir (s : State) (h : Thread) : (putThread s h).dir = s.dir := rfl
@[simp] theorem putThread_ownerLost (s : State) (h : Thread) : (putThread s h).ownerLost = s.ownerLost := rfl
@[simp] theorem putThread_podLost (s : State) (h : Thread) : (putThread s h).podLost = s.podLost := rfl
@[simp] theorem putThread_olrecs (s : State) (h : Thread) : (putThread s h).olrecs = s.olrecs := rfl
@[simp] theorem putThread_deltas (s : State) (h : Thread) : (putThread s h).deltas = s.deltas := rfl
@[simp] theorem putThread_dseqTo (s : State) (h : Thread) : (putThread s h).dseqTo = s.dseqTo := rfl
@[simp] theorem putThread_dseqFrom (s : State) (h : Thread) : (putThread s h).dseqFrom = s.dseqFrom := rfl
@[simp] theorem putThread_early (s : State) (h : Thread) : (putThread s h).early = s.early := rfl
@[simp] theorem putThread_rebuilt (s : State) (h : Thread) : (putThread s h).rebuilt = s.rebuilt := rfl
@[simp] theorem putThread_rbHeld (s : State) (h : Thread) : (putThread s h).rbHeld = s.rbHeld := rfl
@[simp] theorem putThread_rbGot (s : State) (h : Thread) : (putThread s h).rbGot = s.rbGot := rfl
@[simp] theorem putThread_rbTo (s : State) (h : Thread) : (putThread s h).rbTo = s.rbTo := rfl
@[simp] theorem putThread_helup (s : State) (h : Thread) : (putThread s h).helup = s.helup := rfl
@[simp] theorem putThread_cxl (s : State) (h : Thread) : (putThread s h).cxl = s.cxl := rfl
@[simp] theorem putThread_out (s : State) (h : Thread) : (putThread s h).out = s.out := rfl
@[simp] theorem putThread_inbound (s : State) (h : Thread) : (putThread s h).inbound = s.inbound := rfl
@[simp] theorem putThread_regs (s : State) (h : Thread) : (putThread s h).regs = s.regs := rfl
@[simp] theorem putThread_mc (s : State) (h : Thread) : (putThread s h).mc = s.mc := rfl
@[simp] theorem putThread_loading (s : State) (h : Thread) : (putThread s h).loading = s.loading := rfl
@[simp] theorem putThread_snaps (s : State) (h : Thread) : (putThread s h).snaps = s.snaps := rfl
@[simp] theorem putThread_lastServed (s : State) (h : Thread) : (putThread s h).lastServed = s.lastServed := rfl

/-! ## putEntry -/

@[simp] theorem putEntry_agenda (s : State) (e : Entry) : (putEntry s e).agenda = s.agenda := rfl
@[simp] theorem putEntry_turns (s : State) (e : Entry) : (putEntry s e).turns = s.turns := rfl
@[simp] theorem putEntry_free (s : State) (e : Entry) : (putEntry s e).free = s.free := rfl
@[simp] theorem putEntry_ids (s : State) (e : Entry) : (putEntry s e).ids = s.ids := rfl
@[simp] theorem putEntry_cycle (s : State) (e : Entry) : (putEntry s e).cycle = s.cycle := rfl
@[simp] theorem putEntry_cur (s : State) (e : Entry) : (putEntry s e).cur = s.cur := rfl
@[simp] theorem putEntry_parts (s : State) (e : Entry) : (putEntry s e).parts = s.parts := rfl
@[simp] theorem putEntry_queues (s : State) (e : Entry) : (putEntry s e).queues = s.queues := rfl
@[simp] theorem putEntry_sleeves (s : State) (e : Entry) : (putEntry s e).sleeves = s.sleeves := rfl
@[simp] theorem putEntry_cfgs (s : State) (e : Entry) : (putEntry s e).cfgs = s.cfgs := rfl
@[simp] theorem putEntry_colours (s : State) (e : Entry) : (putEntry s e).colours = s.colours := rfl
@[simp] theorem putEntry_acts (s : State) (e : Entry) : (putEntry s e).acts = s.acts := rfl
@[simp] theorem putEntry_threads (s : State) (e : Entry) : (putEntry s e).threads = s.threads := rfl
@[simp] theorem putEntry_loops (s : State) (e : Entry) : (putEntry s e).loops = s.loops := rfl
@[simp] theorem putEntry_net (s : State) (e : Entry) : (putEntry s e).net = s.net := rfl
@[simp] theorem putEntry_far (s : State) (e : Entry) : (putEntry s e).far = s.far := rfl
@[simp] theorem putEntry_unsorted (s : State) (e : Entry) : (putEntry s e).unsorted = s.unsorted := rfl
@[simp] theorem putEntry_entries (s : State) (e : Entry) : (putEntry s e).entries = s.entries.filter (fun x => !(x.act == e.act && x.node == e.node)) ++ [e] := rfl
@[simp] theorem putEntry_spilled (s : State) (e : Entry) : (putEntry s e).spilled = s.spilled := rfl
@[simp] theorem putEntry_throttled (s : State) (e : Entry) : (putEntry s e).throttled = s.throttled := rfl
@[simp] theorem putEntry_ops (s : State) (e : Entry) : (putEntry s e).ops = s.ops := rfl
@[simp] theorem putEntry_stores (s : State) (e : Entry) : (putEntry s e).stores = s.stores := rfl
@[simp] theorem putEntry_parked (s : State) (e : Entry) : (putEntry s e).parked = s.parked := rfl
@[simp] theorem putEntry_records (s : State) (e : Entry) : (putEntry s e).records = s.records := rfl
@[simp] theorem putEntry_retries (s : State) (e : Entry) : (putEntry s e).retries = s.retries := rfl
@[simp] theorem putEntry_prefetched (s : State) (e : Entry) : (putEntry s e).prefetched = s.prefetched := rfl
@[simp] theorem putEntry_islands (s : State) (e : Entry) : (putEntry s e).islands = s.islands := rfl
@[simp] theorem putEntry_flights (s : State) (e : Entry) : (putEntry s e).flights = s.flights := rfl
@[simp] theorem putEntry_hemOps (s : State) (e : Entry) : (putEntry s e).hemOps = s.hemOps := rfl
@[simp] theorem putEntry_xfers (s : State) (e : Entry) : (putEntry s e).xfers = s.xfers := rfl
@[simp] theorem putEntry_colls (s : State) (e : Entry) : (putEntry s e).colls = s.colls := rfl
@[simp] theorem putEntry_collSeq (s : State) (e : Entry) : (putEntry s e).collSeq = s.collSeq := rfl
@[simp] theorem putEntry_slotSeq (s : State) (e : Entry) : (putEntry s e).slotSeq = s.slotSeq := rfl
@[simp] theorem putEntry_collBox (s : State) (e : Entry) : (putEntry s e).collBox = s.collBox := rfl
@[simp] theorem putEntry_mem (s : State) (e : Entry) : (putEntry s e).mem = s.mem := rfl
@[simp] theorem putEntry_podMem (s : State) (e : Entry) : (putEntry s e).podMem = s.podMem := rfl
@[simp] theorem putEntry_poison (s : State) (e : Entry) : (putEntry s e).poison = s.poison := rfl
@[simp] theorem putEntry_podPoison (s : State) (e : Entry) : (putEntry s e).podPoison = s.podPoison := rfl
@[simp] theorem putEntry_fe (s : State) (e : Entry) : (putEntry s e).fe = s.fe := rfl
@[simp] theorem putEntry_dfr (s : State) (e : Entry) : (putEntry s e).dfr = s.dfr := rfl
@[simp] theorem putEntry_l2 (s : State) (e : Entry) : (putEntry s e).l2 = s.l2 := rfl
@[simp] theorem putEntry_victim (s : State) (e : Entry) : (putEntry s e).victim = s.victim := rfl
@[simp] theorem putEntry_misses (s : State) (e : Entry) : (putEntry s e).misses = s.misses := rfl
@[simp] theorem putEntry_mdLines (s : State) (e : Entry) : (putEntry s e).mdLines = s.mdLines := rfl
@[simp] theorem putEntry_packed (s : State) (e : Entry) : (putEntry s e).packed = s.packed := rfl
@[simp] theorem putEntry_pinned (s : State) (e : Entry) : (putEntry s e).pinned = s.pinned := rfl
@[simp] theorem putEntry_overflow (s : State) (e : Entry) : (putEntry s e).overflow = s.overflow := rfl
@[simp] theorem putEntry_locks (s : State) (e : Entry) : (putEntry s e).locks = s.locks := rfl
@[simp] theorem putEntry_waits (s : State) (e : Entry) : (putEntry s e).waits = s.waits := rfl
@[simp] theorem putEntry_stalled (s : State) (e : Entry) : (putEntry s e).stalled = s.stalled := rfl
@[simp] theorem putEntry_tlbQuad (s : State) (e : Entry) : (putEntry s e).tlbQuad = s.tlbQuad := rfl
@[simp] theorem putEntry_tlbGrid (s : State) (e : Entry) : (putEntry s e).tlbGrid = s.tlbGrid := rfl
@[simp] theorem putEntry_tlbColl (s : State) (e : Entry) : (putEntry s e).tlbColl = s.tlbColl := rfl
@[simp] theorem putEntry_walks (s : State) (e : Entry) : (putEntry s e).walks = s.walks := rfl
@[simp] theorem putEntry_remotes (s : State) (e : Entry) : (putEntry s e).remotes = s.remotes := rfl
@[simp] theorem putEntry_copies (s : State) (e : Entry) : (putEntry s e).copies = s.copies := rfl
@[simp] theorem putEntry_dir (s : State) (e : Entry) : (putEntry s e).dir = s.dir := rfl
@[simp] theorem putEntry_ownerLost (s : State) (e : Entry) : (putEntry s e).ownerLost = s.ownerLost := rfl
@[simp] theorem putEntry_podLost (s : State) (e : Entry) : (putEntry s e).podLost = s.podLost := rfl
@[simp] theorem putEntry_olrecs (s : State) (e : Entry) : (putEntry s e).olrecs = s.olrecs := rfl
@[simp] theorem putEntry_deltas (s : State) (e : Entry) : (putEntry s e).deltas = s.deltas := rfl
@[simp] theorem putEntry_dseqTo (s : State) (e : Entry) : (putEntry s e).dseqTo = s.dseqTo := rfl
@[simp] theorem putEntry_dseqFrom (s : State) (e : Entry) : (putEntry s e).dseqFrom = s.dseqFrom := rfl
@[simp] theorem putEntry_early (s : State) (e : Entry) : (putEntry s e).early = s.early := rfl
@[simp] theorem putEntry_rebuilt (s : State) (e : Entry) : (putEntry s e).rebuilt = s.rebuilt := rfl
@[simp] theorem putEntry_rbHeld (s : State) (e : Entry) : (putEntry s e).rbHeld = s.rbHeld := rfl
@[simp] theorem putEntry_rbGot (s : State) (e : Entry) : (putEntry s e).rbGot = s.rbGot := rfl
@[simp] theorem putEntry_rbTo (s : State) (e : Entry) : (putEntry s e).rbTo = s.rbTo := rfl
@[simp] theorem putEntry_helup (s : State) (e : Entry) : (putEntry s e).helup = s.helup := rfl
@[simp] theorem putEntry_cxl (s : State) (e : Entry) : (putEntry s e).cxl = s.cxl := rfl
@[simp] theorem putEntry_out (s : State) (e : Entry) : (putEntry s e).out = s.out := rfl
@[simp] theorem putEntry_inbound (s : State) (e : Entry) : (putEntry s e).inbound = s.inbound := rfl
@[simp] theorem putEntry_regs (s : State) (e : Entry) : (putEntry s e).regs = s.regs := rfl
@[simp] theorem putEntry_mc (s : State) (e : Entry) : (putEntry s e).mc = s.mc := rfl
@[simp] theorem putEntry_loading (s : State) (e : Entry) : (putEntry s e).loading = s.loading := rfl
@[simp] theorem putEntry_snaps (s : State) (e : Entry) : (putEntry s e).snaps = s.snaps := rfl
@[simp] theorem putEntry_lastServed (s : State) (e : Entry) : (putEntry s e).lastServed = s.lastServed := rfl

/-! ## addRecord -/

@[simp] theorem addRecord_agenda (s : State) (r : Outstanding) : (addRecord s r).agenda = s.agenda := rfl
@[simp] theorem addRecord_turns (s : State) (r : Outstanding) : (addRecord s r).turns = s.turns := rfl
@[simp] theorem addRecord_free (s : State) (r : Outstanding) : (addRecord s r).free = s.free := rfl
@[simp] theorem addRecord_ids (s : State) (r : Outstanding) : (addRecord s r).ids = s.ids := rfl
@[simp] theorem addRecord_cycle (s : State) (r : Outstanding) : (addRecord s r).cycle = s.cycle := rfl
@[simp] theorem addRecord_cur (s : State) (r : Outstanding) : (addRecord s r).cur = s.cur := rfl
@[simp] theorem addRecord_parts (s : State) (r : Outstanding) : (addRecord s r).parts = s.parts := rfl
@[simp] theorem addRecord_queues (s : State) (r : Outstanding) : (addRecord s r).queues = s.queues := rfl
@[simp] theorem addRecord_sleeves (s : State) (r : Outstanding) : (addRecord s r).sleeves = s.sleeves := rfl
@[simp] theorem addRecord_cfgs (s : State) (r : Outstanding) : (addRecord s r).cfgs = s.cfgs := rfl
@[simp] theorem addRecord_colours (s : State) (r : Outstanding) : (addRecord s r).colours = s.colours := rfl
@[simp] theorem addRecord_acts (s : State) (r : Outstanding) : (addRecord s r).acts = s.acts := rfl
@[simp] theorem addRecord_threads (s : State) (r : Outstanding) : (addRecord s r).threads = s.threads := rfl
@[simp] theorem addRecord_loops (s : State) (r : Outstanding) : (addRecord s r).loops = s.loops := rfl
@[simp] theorem addRecord_net (s : State) (r : Outstanding) : (addRecord s r).net = s.net := rfl
@[simp] theorem addRecord_far (s : State) (r : Outstanding) : (addRecord s r).far = s.far := rfl
@[simp] theorem addRecord_unsorted (s : State) (r : Outstanding) : (addRecord s r).unsorted = s.unsorted := rfl
@[simp] theorem addRecord_entries (s : State) (r : Outstanding) : (addRecord s r).entries = s.entries := rfl
@[simp] theorem addRecord_spilled (s : State) (r : Outstanding) : (addRecord s r).spilled = s.spilled := rfl
@[simp] theorem addRecord_throttled (s : State) (r : Outstanding) : (addRecord s r).throttled = s.throttled := rfl
@[simp] theorem addRecord_ops (s : State) (r : Outstanding) : (addRecord s r).ops = s.ops := rfl
@[simp] theorem addRecord_stores (s : State) (r : Outstanding) : (addRecord s r).stores = s.stores := rfl
@[simp] theorem addRecord_parked (s : State) (r : Outstanding) : (addRecord s r).parked = s.parked := rfl
@[simp] theorem addRecord_records (s : State) (r : Outstanding) : (addRecord s r).records = s.records ++ [{ r with gone := decide ((partOf s r.part).fqn = 0) }] := rfl
@[simp] theorem addRecord_retries (s : State) (r : Outstanding) : (addRecord s r).retries = s.retries := rfl
@[simp] theorem addRecord_prefetched (s : State) (r : Outstanding) : (addRecord s r).prefetched = s.prefetched := rfl
@[simp] theorem addRecord_islands (s : State) (r : Outstanding) : (addRecord s r).islands = s.islands := rfl
@[simp] theorem addRecord_flights (s : State) (r : Outstanding) : (addRecord s r).flights = s.flights := rfl
@[simp] theorem addRecord_hemOps (s : State) (r : Outstanding) : (addRecord s r).hemOps = s.hemOps := rfl
@[simp] theorem addRecord_xfers (s : State) (r : Outstanding) : (addRecord s r).xfers = s.xfers := rfl
@[simp] theorem addRecord_colls (s : State) (r : Outstanding) : (addRecord s r).colls = s.colls := rfl
@[simp] theorem addRecord_collSeq (s : State) (r : Outstanding) : (addRecord s r).collSeq = s.collSeq := rfl
@[simp] theorem addRecord_slotSeq (s : State) (r : Outstanding) : (addRecord s r).slotSeq = s.slotSeq := rfl
@[simp] theorem addRecord_collBox (s : State) (r : Outstanding) : (addRecord s r).collBox = s.collBox := rfl
@[simp] theorem addRecord_mem (s : State) (r : Outstanding) : (addRecord s r).mem = s.mem := rfl
@[simp] theorem addRecord_podMem (s : State) (r : Outstanding) : (addRecord s r).podMem = s.podMem := rfl
@[simp] theorem addRecord_poison (s : State) (r : Outstanding) : (addRecord s r).poison = s.poison := rfl
@[simp] theorem addRecord_podPoison (s : State) (r : Outstanding) : (addRecord s r).podPoison = s.podPoison := rfl
@[simp] theorem addRecord_fe (s : State) (r : Outstanding) : (addRecord s r).fe = s.fe := rfl
@[simp] theorem addRecord_dfr (s : State) (r : Outstanding) : (addRecord s r).dfr = s.dfr := rfl
@[simp] theorem addRecord_l2 (s : State) (r : Outstanding) : (addRecord s r).l2 = s.l2 := rfl
@[simp] theorem addRecord_victim (s : State) (r : Outstanding) : (addRecord s r).victim = s.victim := rfl
@[simp] theorem addRecord_misses (s : State) (r : Outstanding) : (addRecord s r).misses = s.misses := rfl
@[simp] theorem addRecord_mdLines (s : State) (r : Outstanding) : (addRecord s r).mdLines = s.mdLines := rfl
@[simp] theorem addRecord_packed (s : State) (r : Outstanding) : (addRecord s r).packed = s.packed := rfl
@[simp] theorem addRecord_pinned (s : State) (r : Outstanding) : (addRecord s r).pinned = s.pinned := rfl
@[simp] theorem addRecord_overflow (s : State) (r : Outstanding) : (addRecord s r).overflow = s.overflow := rfl
@[simp] theorem addRecord_locks (s : State) (r : Outstanding) : (addRecord s r).locks = s.locks := rfl
@[simp] theorem addRecord_waits (s : State) (r : Outstanding) : (addRecord s r).waits = s.waits := rfl
@[simp] theorem addRecord_stalled (s : State) (r : Outstanding) : (addRecord s r).stalled = s.stalled := rfl
@[simp] theorem addRecord_tlbQuad (s : State) (r : Outstanding) : (addRecord s r).tlbQuad = s.tlbQuad := rfl
@[simp] theorem addRecord_tlbGrid (s : State) (r : Outstanding) : (addRecord s r).tlbGrid = s.tlbGrid := rfl
@[simp] theorem addRecord_tlbColl (s : State) (r : Outstanding) : (addRecord s r).tlbColl = s.tlbColl := rfl
@[simp] theorem addRecord_walks (s : State) (r : Outstanding) : (addRecord s r).walks = s.walks := rfl
@[simp] theorem addRecord_remotes (s : State) (r : Outstanding) : (addRecord s r).remotes = s.remotes := rfl
@[simp] theorem addRecord_copies (s : State) (r : Outstanding) : (addRecord s r).copies = s.copies := rfl
@[simp] theorem addRecord_dir (s : State) (r : Outstanding) : (addRecord s r).dir = s.dir := rfl
@[simp] theorem addRecord_ownerLost (s : State) (r : Outstanding) : (addRecord s r).ownerLost = s.ownerLost := rfl
@[simp] theorem addRecord_podLost (s : State) (r : Outstanding) : (addRecord s r).podLost = s.podLost := rfl
@[simp] theorem addRecord_olrecs (s : State) (r : Outstanding) : (addRecord s r).olrecs = s.olrecs := rfl
@[simp] theorem addRecord_deltas (s : State) (r : Outstanding) : (addRecord s r).deltas = s.deltas := rfl
@[simp] theorem addRecord_dseqTo (s : State) (r : Outstanding) : (addRecord s r).dseqTo = s.dseqTo := rfl
@[simp] theorem addRecord_dseqFrom (s : State) (r : Outstanding) : (addRecord s r).dseqFrom = s.dseqFrom := rfl
@[simp] theorem addRecord_early (s : State) (r : Outstanding) : (addRecord s r).early = s.early := rfl
@[simp] theorem addRecord_rebuilt (s : State) (r : Outstanding) : (addRecord s r).rebuilt = s.rebuilt := rfl
@[simp] theorem addRecord_rbHeld (s : State) (r : Outstanding) : (addRecord s r).rbHeld = s.rbHeld := rfl
@[simp] theorem addRecord_rbGot (s : State) (r : Outstanding) : (addRecord s r).rbGot = s.rbGot := rfl
@[simp] theorem addRecord_rbTo (s : State) (r : Outstanding) : (addRecord s r).rbTo = s.rbTo := rfl
@[simp] theorem addRecord_helup (s : State) (r : Outstanding) : (addRecord s r).helup = s.helup := rfl
@[simp] theorem addRecord_cxl (s : State) (r : Outstanding) : (addRecord s r).cxl = s.cxl := rfl
@[simp] theorem addRecord_out (s : State) (r : Outstanding) : (addRecord s r).out = s.out := rfl
@[simp] theorem addRecord_inbound (s : State) (r : Outstanding) : (addRecord s r).inbound = s.inbound := rfl
@[simp] theorem addRecord_regs (s : State) (r : Outstanding) : (addRecord s r).regs = s.regs := rfl
@[simp] theorem addRecord_mc (s : State) (r : Outstanding) : (addRecord s r).mc = s.mc := rfl
@[simp] theorem addRecord_loading (s : State) (r : Outstanding) : (addRecord s r).loading = s.loading := rfl
@[simp] theorem addRecord_snaps (s : State) (r : Outstanding) : (addRecord s r).snaps = s.snaps := rfl
@[simp] theorem addRecord_lastServed (s : State) (r : Outstanding) : (addRecord s r).lastServed = s.lastServed := rfl

/-! ## addParked -/

@[simp] theorem addParked_agenda (s : State) (q : Parked) : (addParked s q).agenda = s.agenda := rfl
@[simp] theorem addParked_turns (s : State) (q : Parked) : (addParked s q).turns = s.turns := rfl
@[simp] theorem addParked_free (s : State) (q : Parked) : (addParked s q).free = s.free := rfl
@[simp] theorem addParked_ids (s : State) (q : Parked) : (addParked s q).ids = s.ids := rfl
@[simp] theorem addParked_cycle (s : State) (q : Parked) : (addParked s q).cycle = s.cycle := rfl
@[simp] theorem addParked_cur (s : State) (q : Parked) : (addParked s q).cur = s.cur := rfl
@[simp] theorem addParked_parts (s : State) (q : Parked) : (addParked s q).parts = s.parts := rfl
@[simp] theorem addParked_queues (s : State) (q : Parked) : (addParked s q).queues = s.queues := rfl
@[simp] theorem addParked_sleeves (s : State) (q : Parked) : (addParked s q).sleeves = s.sleeves := rfl
@[simp] theorem addParked_cfgs (s : State) (q : Parked) : (addParked s q).cfgs = s.cfgs := rfl
@[simp] theorem addParked_colours (s : State) (q : Parked) : (addParked s q).colours = s.colours := rfl
@[simp] theorem addParked_acts (s : State) (q : Parked) : (addParked s q).acts = s.acts := rfl
@[simp] theorem addParked_threads (s : State) (q : Parked) : (addParked s q).threads = s.threads := rfl
@[simp] theorem addParked_loops (s : State) (q : Parked) : (addParked s q).loops = s.loops := rfl
@[simp] theorem addParked_net (s : State) (q : Parked) : (addParked s q).net = s.net := rfl
@[simp] theorem addParked_far (s : State) (q : Parked) : (addParked s q).far = s.far := rfl
@[simp] theorem addParked_unsorted (s : State) (q : Parked) : (addParked s q).unsorted = s.unsorted := rfl
@[simp] theorem addParked_entries (s : State) (q : Parked) : (addParked s q).entries = s.entries := rfl
@[simp] theorem addParked_spilled (s : State) (q : Parked) : (addParked s q).spilled = s.spilled := rfl
@[simp] theorem addParked_throttled (s : State) (q : Parked) : (addParked s q).throttled = s.throttled := rfl
@[simp] theorem addParked_ops (s : State) (q : Parked) : (addParked s q).ops = s.ops := rfl
@[simp] theorem addParked_stores (s : State) (q : Parked) : (addParked s q).stores = s.stores := rfl
@[simp] theorem addParked_parked (s : State) (q : Parked) : (addParked s q).parked = s.parked ++ [q] := rfl
@[simp] theorem addParked_records (s : State) (q : Parked) : (addParked s q).records = s.records := rfl
@[simp] theorem addParked_retries (s : State) (q : Parked) : (addParked s q).retries = s.retries := rfl
@[simp] theorem addParked_prefetched (s : State) (q : Parked) : (addParked s q).prefetched = s.prefetched := rfl
@[simp] theorem addParked_islands (s : State) (q : Parked) : (addParked s q).islands = s.islands := rfl
@[simp] theorem addParked_flights (s : State) (q : Parked) : (addParked s q).flights = s.flights := rfl
@[simp] theorem addParked_hemOps (s : State) (q : Parked) : (addParked s q).hemOps = s.hemOps := rfl
@[simp] theorem addParked_xfers (s : State) (q : Parked) : (addParked s q).xfers = s.xfers := rfl
@[simp] theorem addParked_colls (s : State) (q : Parked) : (addParked s q).colls = s.colls := rfl
@[simp] theorem addParked_collSeq (s : State) (q : Parked) : (addParked s q).collSeq = s.collSeq := rfl
@[simp] theorem addParked_slotSeq (s : State) (q : Parked) : (addParked s q).slotSeq = s.slotSeq := rfl
@[simp] theorem addParked_collBox (s : State) (q : Parked) : (addParked s q).collBox = s.collBox := rfl
@[simp] theorem addParked_mem (s : State) (q : Parked) : (addParked s q).mem = s.mem := rfl
@[simp] theorem addParked_podMem (s : State) (q : Parked) : (addParked s q).podMem = s.podMem := rfl
@[simp] theorem addParked_poison (s : State) (q : Parked) : (addParked s q).poison = s.poison := rfl
@[simp] theorem addParked_podPoison (s : State) (q : Parked) : (addParked s q).podPoison = s.podPoison := rfl
@[simp] theorem addParked_fe (s : State) (q : Parked) : (addParked s q).fe = s.fe := rfl
@[simp] theorem addParked_dfr (s : State) (q : Parked) : (addParked s q).dfr = s.dfr := rfl
@[simp] theorem addParked_l2 (s : State) (q : Parked) : (addParked s q).l2 = s.l2 := rfl
@[simp] theorem addParked_victim (s : State) (q : Parked) : (addParked s q).victim = s.victim := rfl
@[simp] theorem addParked_misses (s : State) (q : Parked) : (addParked s q).misses = s.misses := rfl
@[simp] theorem addParked_mdLines (s : State) (q : Parked) : (addParked s q).mdLines = s.mdLines := rfl
@[simp] theorem addParked_packed (s : State) (q : Parked) : (addParked s q).packed = s.packed := rfl
@[simp] theorem addParked_pinned (s : State) (q : Parked) : (addParked s q).pinned = s.pinned := rfl
@[simp] theorem addParked_overflow (s : State) (q : Parked) : (addParked s q).overflow = s.overflow := rfl
@[simp] theorem addParked_locks (s : State) (q : Parked) : (addParked s q).locks = s.locks := rfl
@[simp] theorem addParked_waits (s : State) (q : Parked) : (addParked s q).waits = s.waits := rfl
@[simp] theorem addParked_stalled (s : State) (q : Parked) : (addParked s q).stalled = s.stalled := rfl
@[simp] theorem addParked_tlbQuad (s : State) (q : Parked) : (addParked s q).tlbQuad = s.tlbQuad := rfl
@[simp] theorem addParked_tlbGrid (s : State) (q : Parked) : (addParked s q).tlbGrid = s.tlbGrid := rfl
@[simp] theorem addParked_tlbColl (s : State) (q : Parked) : (addParked s q).tlbColl = s.tlbColl := rfl
@[simp] theorem addParked_walks (s : State) (q : Parked) : (addParked s q).walks = s.walks := rfl
@[simp] theorem addParked_remotes (s : State) (q : Parked) : (addParked s q).remotes = s.remotes := rfl
@[simp] theorem addParked_copies (s : State) (q : Parked) : (addParked s q).copies = s.copies := rfl
@[simp] theorem addParked_dir (s : State) (q : Parked) : (addParked s q).dir = s.dir := rfl
@[simp] theorem addParked_ownerLost (s : State) (q : Parked) : (addParked s q).ownerLost = s.ownerLost := rfl
@[simp] theorem addParked_podLost (s : State) (q : Parked) : (addParked s q).podLost = s.podLost := rfl
@[simp] theorem addParked_olrecs (s : State) (q : Parked) : (addParked s q).olrecs = s.olrecs := rfl
@[simp] theorem addParked_deltas (s : State) (q : Parked) : (addParked s q).deltas = s.deltas := rfl
@[simp] theorem addParked_dseqTo (s : State) (q : Parked) : (addParked s q).dseqTo = s.dseqTo := rfl
@[simp] theorem addParked_dseqFrom (s : State) (q : Parked) : (addParked s q).dseqFrom = s.dseqFrom := rfl
@[simp] theorem addParked_early (s : State) (q : Parked) : (addParked s q).early = s.early := rfl
@[simp] theorem addParked_rebuilt (s : State) (q : Parked) : (addParked s q).rebuilt = s.rebuilt := rfl
@[simp] theorem addParked_rbHeld (s : State) (q : Parked) : (addParked s q).rbHeld = s.rbHeld := rfl
@[simp] theorem addParked_rbGot (s : State) (q : Parked) : (addParked s q).rbGot = s.rbGot := rfl
@[simp] theorem addParked_rbTo (s : State) (q : Parked) : (addParked s q).rbTo = s.rbTo := rfl
@[simp] theorem addParked_helup (s : State) (q : Parked) : (addParked s q).helup = s.helup := rfl
@[simp] theorem addParked_cxl (s : State) (q : Parked) : (addParked s q).cxl = s.cxl := rfl
@[simp] theorem addParked_out (s : State) (q : Parked) : (addParked s q).out = s.out := rfl
@[simp] theorem addParked_inbound (s : State) (q : Parked) : (addParked s q).inbound = s.inbound := rfl
@[simp] theorem addParked_regs (s : State) (q : Parked) : (addParked s q).regs = s.regs := rfl
@[simp] theorem addParked_mc (s : State) (q : Parked) : (addParked s q).mc = s.mc := rfl
@[simp] theorem addParked_loading (s : State) (q : Parked) : (addParked s q).loading = s.loading := rfl
@[simp] theorem addParked_snaps (s : State) (q : Parked) : (addParked s q).snaps = s.snaps := rfl
@[simp] theorem addParked_lastServed (s : State) (q : Parked) : (addParked s q).lastServed = s.lastServed := rfl

/-! ## dropOp -/

@[simp] theorem dropOp_agenda (s : State) (k : Nat) : (dropOp s k).agenda = s.agenda := rfl
@[simp] theorem dropOp_turns (s : State) (k : Nat) : (dropOp s k).turns = s.turns := rfl
@[simp] theorem dropOp_free (s : State) (k : Nat) : (dropOp s k).free = s.free := rfl
@[simp] theorem dropOp_ids (s : State) (k : Nat) : (dropOp s k).ids = s.ids := rfl
@[simp] theorem dropOp_cycle (s : State) (k : Nat) : (dropOp s k).cycle = s.cycle := rfl
@[simp] theorem dropOp_cur (s : State) (k : Nat) : (dropOp s k).cur = s.cur := rfl
@[simp] theorem dropOp_parts (s : State) (k : Nat) : (dropOp s k).parts = s.parts := rfl
@[simp] theorem dropOp_queues (s : State) (k : Nat) : (dropOp s k).queues = s.queues := rfl
@[simp] theorem dropOp_sleeves (s : State) (k : Nat) : (dropOp s k).sleeves = s.sleeves := rfl
@[simp] theorem dropOp_cfgs (s : State) (k : Nat) : (dropOp s k).cfgs = s.cfgs := rfl
@[simp] theorem dropOp_colours (s : State) (k : Nat) : (dropOp s k).colours = s.colours := rfl
@[simp] theorem dropOp_acts (s : State) (k : Nat) : (dropOp s k).acts = s.acts := rfl
@[simp] theorem dropOp_threads (s : State) (k : Nat) : (dropOp s k).threads = s.threads := rfl
@[simp] theorem dropOp_loops (s : State) (k : Nat) : (dropOp s k).loops = s.loops := rfl
@[simp] theorem dropOp_net (s : State) (k : Nat) : (dropOp s k).net = s.net := rfl
@[simp] theorem dropOp_far (s : State) (k : Nat) : (dropOp s k).far = s.far := rfl
@[simp] theorem dropOp_unsorted (s : State) (k : Nat) : (dropOp s k).unsorted = s.unsorted := rfl
@[simp] theorem dropOp_entries (s : State) (k : Nat) : (dropOp s k).entries = s.entries := rfl
@[simp] theorem dropOp_spilled (s : State) (k : Nat) : (dropOp s k).spilled = s.spilled := rfl
@[simp] theorem dropOp_throttled (s : State) (k : Nat) : (dropOp s k).throttled = s.throttled := rfl
@[simp] theorem dropOp_ops (s : State) (k : Nat) : (dropOp s k).ops = eraseAt s.ops k := rfl
@[simp] theorem dropOp_stores (s : State) (k : Nat) : (dropOp s k).stores = s.stores := rfl
@[simp] theorem dropOp_parked (s : State) (k : Nat) : (dropOp s k).parked = s.parked := rfl
@[simp] theorem dropOp_records (s : State) (k : Nat) : (dropOp s k).records = s.records := rfl
@[simp] theorem dropOp_retries (s : State) (k : Nat) : (dropOp s k).retries = s.retries := rfl
@[simp] theorem dropOp_prefetched (s : State) (k : Nat) : (dropOp s k).prefetched = s.prefetched := rfl
@[simp] theorem dropOp_islands (s : State) (k : Nat) : (dropOp s k).islands = s.islands := rfl
@[simp] theorem dropOp_flights (s : State) (k : Nat) : (dropOp s k).flights = s.flights := rfl
@[simp] theorem dropOp_hemOps (s : State) (k : Nat) : (dropOp s k).hemOps = s.hemOps := rfl
@[simp] theorem dropOp_xfers (s : State) (k : Nat) : (dropOp s k).xfers = s.xfers := rfl
@[simp] theorem dropOp_colls (s : State) (k : Nat) : (dropOp s k).colls = s.colls := rfl
@[simp] theorem dropOp_collSeq (s : State) (k : Nat) : (dropOp s k).collSeq = s.collSeq := rfl
@[simp] theorem dropOp_slotSeq (s : State) (k : Nat) : (dropOp s k).slotSeq = s.slotSeq := rfl
@[simp] theorem dropOp_collBox (s : State) (k : Nat) : (dropOp s k).collBox = s.collBox := rfl
@[simp] theorem dropOp_mem (s : State) (k : Nat) : (dropOp s k).mem = s.mem := rfl
@[simp] theorem dropOp_podMem (s : State) (k : Nat) : (dropOp s k).podMem = s.podMem := rfl
@[simp] theorem dropOp_poison (s : State) (k : Nat) : (dropOp s k).poison = s.poison := rfl
@[simp] theorem dropOp_podPoison (s : State) (k : Nat) : (dropOp s k).podPoison = s.podPoison := rfl
@[simp] theorem dropOp_fe (s : State) (k : Nat) : (dropOp s k).fe = s.fe := rfl
@[simp] theorem dropOp_dfr (s : State) (k : Nat) : (dropOp s k).dfr = s.dfr := rfl
@[simp] theorem dropOp_l2 (s : State) (k : Nat) : (dropOp s k).l2 = s.l2 := rfl
@[simp] theorem dropOp_victim (s : State) (k : Nat) : (dropOp s k).victim = s.victim := rfl
@[simp] theorem dropOp_misses (s : State) (k : Nat) : (dropOp s k).misses = s.misses := rfl
@[simp] theorem dropOp_mdLines (s : State) (k : Nat) : (dropOp s k).mdLines = s.mdLines := rfl
@[simp] theorem dropOp_packed (s : State) (k : Nat) : (dropOp s k).packed = s.packed := rfl
@[simp] theorem dropOp_pinned (s : State) (k : Nat) : (dropOp s k).pinned = s.pinned := rfl
@[simp] theorem dropOp_overflow (s : State) (k : Nat) : (dropOp s k).overflow = s.overflow := rfl
@[simp] theorem dropOp_locks (s : State) (k : Nat) : (dropOp s k).locks = s.locks := rfl
@[simp] theorem dropOp_waits (s : State) (k : Nat) : (dropOp s k).waits = s.waits := rfl
@[simp] theorem dropOp_stalled (s : State) (k : Nat) : (dropOp s k).stalled = s.stalled := rfl
@[simp] theorem dropOp_tlbQuad (s : State) (k : Nat) : (dropOp s k).tlbQuad = s.tlbQuad := rfl
@[simp] theorem dropOp_tlbGrid (s : State) (k : Nat) : (dropOp s k).tlbGrid = s.tlbGrid := rfl
@[simp] theorem dropOp_tlbColl (s : State) (k : Nat) : (dropOp s k).tlbColl = s.tlbColl := rfl
@[simp] theorem dropOp_walks (s : State) (k : Nat) : (dropOp s k).walks = s.walks := rfl
@[simp] theorem dropOp_remotes (s : State) (k : Nat) : (dropOp s k).remotes = s.remotes := rfl
@[simp] theorem dropOp_copies (s : State) (k : Nat) : (dropOp s k).copies = s.copies := rfl
@[simp] theorem dropOp_dir (s : State) (k : Nat) : (dropOp s k).dir = s.dir := rfl
@[simp] theorem dropOp_ownerLost (s : State) (k : Nat) : (dropOp s k).ownerLost = s.ownerLost := rfl
@[simp] theorem dropOp_podLost (s : State) (k : Nat) : (dropOp s k).podLost = s.podLost := rfl
@[simp] theorem dropOp_olrecs (s : State) (k : Nat) : (dropOp s k).olrecs = s.olrecs := rfl
@[simp] theorem dropOp_deltas (s : State) (k : Nat) : (dropOp s k).deltas = s.deltas := rfl
@[simp] theorem dropOp_dseqTo (s : State) (k : Nat) : (dropOp s k).dseqTo = s.dseqTo := rfl
@[simp] theorem dropOp_dseqFrom (s : State) (k : Nat) : (dropOp s k).dseqFrom = s.dseqFrom := rfl
@[simp] theorem dropOp_early (s : State) (k : Nat) : (dropOp s k).early = s.early := rfl
@[simp] theorem dropOp_rebuilt (s : State) (k : Nat) : (dropOp s k).rebuilt = s.rebuilt := rfl
@[simp] theorem dropOp_rbHeld (s : State) (k : Nat) : (dropOp s k).rbHeld = s.rbHeld := rfl
@[simp] theorem dropOp_rbGot (s : State) (k : Nat) : (dropOp s k).rbGot = s.rbGot := rfl
@[simp] theorem dropOp_rbTo (s : State) (k : Nat) : (dropOp s k).rbTo = s.rbTo := rfl
@[simp] theorem dropOp_helup (s : State) (k : Nat) : (dropOp s k).helup = s.helup := rfl
@[simp] theorem dropOp_cxl (s : State) (k : Nat) : (dropOp s k).cxl = s.cxl := rfl
@[simp] theorem dropOp_out (s : State) (k : Nat) : (dropOp s k).out = s.out := rfl
@[simp] theorem dropOp_inbound (s : State) (k : Nat) : (dropOp s k).inbound = s.inbound := rfl
@[simp] theorem dropOp_regs (s : State) (k : Nat) : (dropOp s k).regs = s.regs := rfl
@[simp] theorem dropOp_mc (s : State) (k : Nat) : (dropOp s k).mc = s.mc := rfl
@[simp] theorem dropOp_loading (s : State) (k : Nat) : (dropOp s k).loading = s.loading := rfl
@[simp] theorem dropOp_snaps (s : State) (k : Nat) : (dropOp s k).snaps = s.snaps := rfl
@[simp] theorem dropOp_lastServed (s : State) (k : Nat) : (dropOp s k).lastServed = s.lastServed := rfl

/-! ## begin -/

@[simp] theorem begin_agenda (s : State) (c : Common) (ofs : BitVec 32) : (begin s c ofs).agenda = s.agenda := rfl
@[simp] theorem begin_turns (s : State) (c : Common) (ofs : BitVec 32) : (begin s c ofs).turns = s.turns := rfl
@[simp] theorem begin_free (s : State) (c : Common) (ofs : BitVec 32) : (begin s c ofs).free = s.free := rfl
@[simp] theorem begin_ids (s : State) (c : Common) (ofs : BitVec 32) : (begin s c ofs).ids = s.ids := rfl
@[simp] theorem begin_cycle (s : State) (c : Common) (ofs : BitVec 32) : (begin s c ofs).cycle = s.cycle := rfl
theorem begin_cur (s : State) (c : Common) (ofs : BitVec 32) : (begin s c ofs).cur = { s.cur with com := c, ofs := ofs } := rfl
@[simp] theorem begin_parts (s : State) (c : Common) (ofs : BitVec 32) : (begin s c ofs).parts = s.parts := rfl
@[simp] theorem begin_queues (s : State) (c : Common) (ofs : BitVec 32) : (begin s c ofs).queues = s.queues := rfl
@[simp] theorem begin_sleeves (s : State) (c : Common) (ofs : BitVec 32) : (begin s c ofs).sleeves = s.sleeves := rfl
@[simp] theorem begin_cfgs (s : State) (c : Common) (ofs : BitVec 32) : (begin s c ofs).cfgs = s.cfgs := rfl
@[simp] theorem begin_colours (s : State) (c : Common) (ofs : BitVec 32) : (begin s c ofs).colours = s.colours := rfl
@[simp] theorem begin_acts (s : State) (c : Common) (ofs : BitVec 32) : (begin s c ofs).acts = s.acts := rfl
@[simp] theorem begin_threads (s : State) (c : Common) (ofs : BitVec 32) : (begin s c ofs).threads = s.threads := rfl
@[simp] theorem begin_loops (s : State) (c : Common) (ofs : BitVec 32) : (begin s c ofs).loops = s.loops := rfl
@[simp] theorem begin_net (s : State) (c : Common) (ofs : BitVec 32) : (begin s c ofs).net = s.net := rfl
@[simp] theorem begin_far (s : State) (c : Common) (ofs : BitVec 32) : (begin s c ofs).far = s.far := rfl
@[simp] theorem begin_unsorted (s : State) (c : Common) (ofs : BitVec 32) : (begin s c ofs).unsorted = s.unsorted := rfl
@[simp] theorem begin_entries (s : State) (c : Common) (ofs : BitVec 32) : (begin s c ofs).entries = s.entries := rfl
@[simp] theorem begin_spilled (s : State) (c : Common) (ofs : BitVec 32) : (begin s c ofs).spilled = s.spilled := rfl
@[simp] theorem begin_throttled (s : State) (c : Common) (ofs : BitVec 32) : (begin s c ofs).throttled = s.throttled := rfl
@[simp] theorem begin_ops (s : State) (c : Common) (ofs : BitVec 32) : (begin s c ofs).ops = s.ops := rfl
@[simp] theorem begin_stores (s : State) (c : Common) (ofs : BitVec 32) : (begin s c ofs).stores = s.stores := rfl
@[simp] theorem begin_parked (s : State) (c : Common) (ofs : BitVec 32) : (begin s c ofs).parked = s.parked := rfl
@[simp] theorem begin_records (s : State) (c : Common) (ofs : BitVec 32) : (begin s c ofs).records = s.records := rfl
@[simp] theorem begin_retries (s : State) (c : Common) (ofs : BitVec 32) : (begin s c ofs).retries = s.retries := rfl
@[simp] theorem begin_prefetched (s : State) (c : Common) (ofs : BitVec 32) : (begin s c ofs).prefetched = s.prefetched := rfl
@[simp] theorem begin_islands (s : State) (c : Common) (ofs : BitVec 32) : (begin s c ofs).islands = s.islands := rfl
@[simp] theorem begin_flights (s : State) (c : Common) (ofs : BitVec 32) : (begin s c ofs).flights = s.flights := rfl
@[simp] theorem begin_hemOps (s : State) (c : Common) (ofs : BitVec 32) : (begin s c ofs).hemOps = s.hemOps := rfl
@[simp] theorem begin_xfers (s : State) (c : Common) (ofs : BitVec 32) : (begin s c ofs).xfers = s.xfers := rfl
@[simp] theorem begin_colls (s : State) (c : Common) (ofs : BitVec 32) : (begin s c ofs).colls = s.colls := rfl
@[simp] theorem begin_collSeq (s : State) (c : Common) (ofs : BitVec 32) : (begin s c ofs).collSeq = s.collSeq := rfl
@[simp] theorem begin_slotSeq (s : State) (c : Common) (ofs : BitVec 32) : (begin s c ofs).slotSeq = s.slotSeq := rfl
@[simp] theorem begin_collBox (s : State) (c : Common) (ofs : BitVec 32) : (begin s c ofs).collBox = s.collBox := rfl
@[simp] theorem begin_mem (s : State) (c : Common) (ofs : BitVec 32) : (begin s c ofs).mem = s.mem := rfl
@[simp] theorem begin_podMem (s : State) (c : Common) (ofs : BitVec 32) : (begin s c ofs).podMem = s.podMem := rfl
@[simp] theorem begin_poison (s : State) (c : Common) (ofs : BitVec 32) : (begin s c ofs).poison = s.poison := rfl
@[simp] theorem begin_podPoison (s : State) (c : Common) (ofs : BitVec 32) : (begin s c ofs).podPoison = s.podPoison := rfl
@[simp] theorem begin_fe (s : State) (c : Common) (ofs : BitVec 32) : (begin s c ofs).fe = s.fe := rfl
@[simp] theorem begin_dfr (s : State) (c : Common) (ofs : BitVec 32) : (begin s c ofs).dfr = s.dfr := rfl
@[simp] theorem begin_l2 (s : State) (c : Common) (ofs : BitVec 32) : (begin s c ofs).l2 = s.l2 := rfl
@[simp] theorem begin_victim (s : State) (c : Common) (ofs : BitVec 32) : (begin s c ofs).victim = s.victim := rfl
@[simp] theorem begin_misses (s : State) (c : Common) (ofs : BitVec 32) : (begin s c ofs).misses = s.misses := rfl
@[simp] theorem begin_mdLines (s : State) (c : Common) (ofs : BitVec 32) : (begin s c ofs).mdLines = s.mdLines := rfl
@[simp] theorem begin_packed (s : State) (c : Common) (ofs : BitVec 32) : (begin s c ofs).packed = s.packed := rfl
@[simp] theorem begin_pinned (s : State) (c : Common) (ofs : BitVec 32) : (begin s c ofs).pinned = s.pinned := rfl
@[simp] theorem begin_overflow (s : State) (c : Common) (ofs : BitVec 32) : (begin s c ofs).overflow = s.overflow := rfl
@[simp] theorem begin_locks (s : State) (c : Common) (ofs : BitVec 32) : (begin s c ofs).locks = s.locks := rfl
@[simp] theorem begin_waits (s : State) (c : Common) (ofs : BitVec 32) : (begin s c ofs).waits = s.waits := rfl
@[simp] theorem begin_stalled (s : State) (c : Common) (ofs : BitVec 32) : (begin s c ofs).stalled = s.stalled := rfl
@[simp] theorem begin_tlbQuad (s : State) (c : Common) (ofs : BitVec 32) : (begin s c ofs).tlbQuad = s.tlbQuad := rfl
@[simp] theorem begin_tlbGrid (s : State) (c : Common) (ofs : BitVec 32) : (begin s c ofs).tlbGrid = s.tlbGrid := rfl
@[simp] theorem begin_tlbColl (s : State) (c : Common) (ofs : BitVec 32) : (begin s c ofs).tlbColl = s.tlbColl := rfl
@[simp] theorem begin_walks (s : State) (c : Common) (ofs : BitVec 32) : (begin s c ofs).walks = s.walks := rfl
@[simp] theorem begin_remotes (s : State) (c : Common) (ofs : BitVec 32) : (begin s c ofs).remotes = s.remotes := rfl
@[simp] theorem begin_copies (s : State) (c : Common) (ofs : BitVec 32) : (begin s c ofs).copies = s.copies := rfl
@[simp] theorem begin_dir (s : State) (c : Common) (ofs : BitVec 32) : (begin s c ofs).dir = s.dir := rfl
@[simp] theorem begin_ownerLost (s : State) (c : Common) (ofs : BitVec 32) : (begin s c ofs).ownerLost = s.ownerLost := rfl
@[simp] theorem begin_podLost (s : State) (c : Common) (ofs : BitVec 32) : (begin s c ofs).podLost = s.podLost := rfl
@[simp] theorem begin_olrecs (s : State) (c : Common) (ofs : BitVec 32) : (begin s c ofs).olrecs = s.olrecs := rfl
@[simp] theorem begin_deltas (s : State) (c : Common) (ofs : BitVec 32) : (begin s c ofs).deltas = s.deltas := rfl
@[simp] theorem begin_dseqTo (s : State) (c : Common) (ofs : BitVec 32) : (begin s c ofs).dseqTo = s.dseqTo := rfl
@[simp] theorem begin_dseqFrom (s : State) (c : Common) (ofs : BitVec 32) : (begin s c ofs).dseqFrom = s.dseqFrom := rfl
@[simp] theorem begin_early (s : State) (c : Common) (ofs : BitVec 32) : (begin s c ofs).early = s.early := rfl
@[simp] theorem begin_rebuilt (s : State) (c : Common) (ofs : BitVec 32) : (begin s c ofs).rebuilt = s.rebuilt := rfl
@[simp] theorem begin_rbHeld (s : State) (c : Common) (ofs : BitVec 32) : (begin s c ofs).rbHeld = s.rbHeld := rfl
@[simp] theorem begin_rbGot (s : State) (c : Common) (ofs : BitVec 32) : (begin s c ofs).rbGot = s.rbGot := rfl
@[simp] theorem begin_rbTo (s : State) (c : Common) (ofs : BitVec 32) : (begin s c ofs).rbTo = s.rbTo := rfl
@[simp] theorem begin_helup (s : State) (c : Common) (ofs : BitVec 32) : (begin s c ofs).helup = s.helup := rfl
@[simp] theorem begin_cxl (s : State) (c : Common) (ofs : BitVec 32) : (begin s c ofs).cxl = s.cxl := rfl
@[simp] theorem begin_out (s : State) (c : Common) (ofs : BitVec 32) : (begin s c ofs).out = s.out := rfl
@[simp] theorem begin_inbound (s : State) (c : Common) (ofs : BitVec 32) : (begin s c ofs).inbound = s.inbound := rfl
@[simp] theorem begin_regs (s : State) (c : Common) (ofs : BitVec 32) : (begin s c ofs).regs = s.regs := rfl
@[simp] theorem begin_mc (s : State) (c : Common) (ofs : BitVec 32) : (begin s c ofs).mc = s.mc := rfl
@[simp] theorem begin_loading (s : State) (c : Common) (ofs : BitVec 32) : (begin s c ofs).loading = s.loading := rfl
@[simp] theorem begin_snaps (s : State) (c : Common) (ofs : BitVec 32) : (begin s c ofs).snaps = s.snaps := rfl
@[simp] theorem begin_lastServed (s : State) (c : Common) (ofs : BitVec 32) : (begin s c ofs).lastServed = s.lastServed := rfl

/-! ## setPoison -/

@[simp] theorem setPoison_agenda (s : State) (k : Nat) (on : Bool) : (setPoison s k on).agenda = s.agenda := rfl
@[simp] theorem setPoison_turns (s : State) (k : Nat) (on : Bool) : (setPoison s k on).turns = s.turns := rfl
@[simp] theorem setPoison_free (s : State) (k : Nat) (on : Bool) : (setPoison s k on).free = s.free := rfl
@[simp] theorem setPoison_ids (s : State) (k : Nat) (on : Bool) : (setPoison s k on).ids = s.ids := rfl
@[simp] theorem setPoison_cycle (s : State) (k : Nat) (on : Bool) : (setPoison s k on).cycle = s.cycle := rfl
@[simp] theorem setPoison_cur (s : State) (k : Nat) (on : Bool) : (setPoison s k on).cur = s.cur := rfl
@[simp] theorem setPoison_parts (s : State) (k : Nat) (on : Bool) : (setPoison s k on).parts = s.parts := rfl
@[simp] theorem setPoison_queues (s : State) (k : Nat) (on : Bool) : (setPoison s k on).queues = s.queues := rfl
@[simp] theorem setPoison_sleeves (s : State) (k : Nat) (on : Bool) : (setPoison s k on).sleeves = s.sleeves := rfl
@[simp] theorem setPoison_cfgs (s : State) (k : Nat) (on : Bool) : (setPoison s k on).cfgs = s.cfgs := rfl
@[simp] theorem setPoison_colours (s : State) (k : Nat) (on : Bool) : (setPoison s k on).colours = s.colours := rfl
@[simp] theorem setPoison_acts (s : State) (k : Nat) (on : Bool) : (setPoison s k on).acts = s.acts := rfl
@[simp] theorem setPoison_threads (s : State) (k : Nat) (on : Bool) : (setPoison s k on).threads = s.threads := rfl
@[simp] theorem setPoison_loops (s : State) (k : Nat) (on : Bool) : (setPoison s k on).loops = s.loops := rfl
@[simp] theorem setPoison_net (s : State) (k : Nat) (on : Bool) : (setPoison s k on).net = s.net := rfl
@[simp] theorem setPoison_far (s : State) (k : Nat) (on : Bool) : (setPoison s k on).far = s.far := rfl
@[simp] theorem setPoison_unsorted (s : State) (k : Nat) (on : Bool) : (setPoison s k on).unsorted = s.unsorted := rfl
@[simp] theorem setPoison_entries (s : State) (k : Nat) (on : Bool) : (setPoison s k on).entries = s.entries := rfl
@[simp] theorem setPoison_spilled (s : State) (k : Nat) (on : Bool) : (setPoison s k on).spilled = s.spilled := rfl
@[simp] theorem setPoison_throttled (s : State) (k : Nat) (on : Bool) : (setPoison s k on).throttled = s.throttled := rfl
@[simp] theorem setPoison_ops (s : State) (k : Nat) (on : Bool) : (setPoison s k on).ops = s.ops := rfl
@[simp] theorem setPoison_stores (s : State) (k : Nat) (on : Bool) : (setPoison s k on).stores = s.stores := rfl
@[simp] theorem setPoison_parked (s : State) (k : Nat) (on : Bool) : (setPoison s k on).parked = s.parked := rfl
@[simp] theorem setPoison_records (s : State) (k : Nat) (on : Bool) : (setPoison s k on).records = s.records := rfl
@[simp] theorem setPoison_retries (s : State) (k : Nat) (on : Bool) : (setPoison s k on).retries = s.retries := rfl
@[simp] theorem setPoison_prefetched (s : State) (k : Nat) (on : Bool) : (setPoison s k on).prefetched = s.prefetched := rfl
@[simp] theorem setPoison_islands (s : State) (k : Nat) (on : Bool) : (setPoison s k on).islands = s.islands := rfl
@[simp] theorem setPoison_flights (s : State) (k : Nat) (on : Bool) : (setPoison s k on).flights = s.flights := rfl
@[simp] theorem setPoison_hemOps (s : State) (k : Nat) (on : Bool) : (setPoison s k on).hemOps = s.hemOps := rfl
@[simp] theorem setPoison_xfers (s : State) (k : Nat) (on : Bool) : (setPoison s k on).xfers = s.xfers := rfl
@[simp] theorem setPoison_colls (s : State) (k : Nat) (on : Bool) : (setPoison s k on).colls = s.colls := rfl
@[simp] theorem setPoison_collSeq (s : State) (k : Nat) (on : Bool) : (setPoison s k on).collSeq = s.collSeq := rfl
@[simp] theorem setPoison_slotSeq (s : State) (k : Nat) (on : Bool) : (setPoison s k on).slotSeq = s.slotSeq := rfl
@[simp] theorem setPoison_collBox (s : State) (k : Nat) (on : Bool) : (setPoison s k on).collBox = s.collBox := rfl
@[simp] theorem setPoison_mem (s : State) (k : Nat) (on : Bool) : (setPoison s k on).mem = s.mem := rfl
@[simp] theorem setPoison_podMem (s : State) (k : Nat) (on : Bool) : (setPoison s k on).podMem = s.podMem := rfl
@[simp] theorem setPoison_poison (s : State) (k : Nat) (on : Bool) : (setPoison s k on).poison = if on then insertNat s.poison k else s.poison.filter (· != k) := rfl
@[simp] theorem setPoison_podPoison (s : State) (k : Nat) (on : Bool) : (setPoison s k on).podPoison = s.podPoison := rfl
@[simp] theorem setPoison_fe (s : State) (k : Nat) (on : Bool) : (setPoison s k on).fe = s.fe := rfl
@[simp] theorem setPoison_dfr (s : State) (k : Nat) (on : Bool) : (setPoison s k on).dfr = s.dfr := rfl
@[simp] theorem setPoison_l2 (s : State) (k : Nat) (on : Bool) : (setPoison s k on).l2 = s.l2 := rfl
@[simp] theorem setPoison_victim (s : State) (k : Nat) (on : Bool) : (setPoison s k on).victim = s.victim := rfl
@[simp] theorem setPoison_misses (s : State) (k : Nat) (on : Bool) : (setPoison s k on).misses = s.misses := rfl
@[simp] theorem setPoison_mdLines (s : State) (k : Nat) (on : Bool) : (setPoison s k on).mdLines = s.mdLines := rfl
@[simp] theorem setPoison_packed (s : State) (k : Nat) (on : Bool) : (setPoison s k on).packed = s.packed := rfl
@[simp] theorem setPoison_pinned (s : State) (k : Nat) (on : Bool) : (setPoison s k on).pinned = s.pinned := rfl
@[simp] theorem setPoison_overflow (s : State) (k : Nat) (on : Bool) : (setPoison s k on).overflow = s.overflow := rfl
@[simp] theorem setPoison_locks (s : State) (k : Nat) (on : Bool) : (setPoison s k on).locks = s.locks := rfl
@[simp] theorem setPoison_waits (s : State) (k : Nat) (on : Bool) : (setPoison s k on).waits = s.waits := rfl
@[simp] theorem setPoison_stalled (s : State) (k : Nat) (on : Bool) : (setPoison s k on).stalled = s.stalled := rfl
@[simp] theorem setPoison_tlbQuad (s : State) (k : Nat) (on : Bool) : (setPoison s k on).tlbQuad = s.tlbQuad := rfl
@[simp] theorem setPoison_tlbGrid (s : State) (k : Nat) (on : Bool) : (setPoison s k on).tlbGrid = s.tlbGrid := rfl
@[simp] theorem setPoison_tlbColl (s : State) (k : Nat) (on : Bool) : (setPoison s k on).tlbColl = s.tlbColl := rfl
@[simp] theorem setPoison_walks (s : State) (k : Nat) (on : Bool) : (setPoison s k on).walks = s.walks := rfl
@[simp] theorem setPoison_remotes (s : State) (k : Nat) (on : Bool) : (setPoison s k on).remotes = s.remotes := rfl
@[simp] theorem setPoison_copies (s : State) (k : Nat) (on : Bool) : (setPoison s k on).copies = s.copies := rfl
@[simp] theorem setPoison_dir (s : State) (k : Nat) (on : Bool) : (setPoison s k on).dir = s.dir := rfl
@[simp] theorem setPoison_ownerLost (s : State) (k : Nat) (on : Bool) : (setPoison s k on).ownerLost = s.ownerLost := rfl
@[simp] theorem setPoison_podLost (s : State) (k : Nat) (on : Bool) : (setPoison s k on).podLost = s.podLost := rfl
@[simp] theorem setPoison_olrecs (s : State) (k : Nat) (on : Bool) : (setPoison s k on).olrecs = s.olrecs := rfl
@[simp] theorem setPoison_deltas (s : State) (k : Nat) (on : Bool) : (setPoison s k on).deltas = s.deltas := rfl
@[simp] theorem setPoison_dseqTo (s : State) (k : Nat) (on : Bool) : (setPoison s k on).dseqTo = s.dseqTo := rfl
@[simp] theorem setPoison_dseqFrom (s : State) (k : Nat) (on : Bool) : (setPoison s k on).dseqFrom = s.dseqFrom := rfl
@[simp] theorem setPoison_early (s : State) (k : Nat) (on : Bool) : (setPoison s k on).early = s.early := rfl
@[simp] theorem setPoison_rebuilt (s : State) (k : Nat) (on : Bool) : (setPoison s k on).rebuilt = s.rebuilt := rfl
@[simp] theorem setPoison_rbHeld (s : State) (k : Nat) (on : Bool) : (setPoison s k on).rbHeld = s.rbHeld := rfl
@[simp] theorem setPoison_rbGot (s : State) (k : Nat) (on : Bool) : (setPoison s k on).rbGot = s.rbGot := rfl
@[simp] theorem setPoison_rbTo (s : State) (k : Nat) (on : Bool) : (setPoison s k on).rbTo = s.rbTo := rfl
@[simp] theorem setPoison_helup (s : State) (k : Nat) (on : Bool) : (setPoison s k on).helup = s.helup := rfl
@[simp] theorem setPoison_cxl (s : State) (k : Nat) (on : Bool) : (setPoison s k on).cxl = s.cxl := rfl
@[simp] theorem setPoison_out (s : State) (k : Nat) (on : Bool) : (setPoison s k on).out = s.out := rfl
@[simp] theorem setPoison_inbound (s : State) (k : Nat) (on : Bool) : (setPoison s k on).inbound = s.inbound := rfl
@[simp] theorem setPoison_regs (s : State) (k : Nat) (on : Bool) : (setPoison s k on).regs = s.regs := rfl
@[simp] theorem setPoison_mc (s : State) (k : Nat) (on : Bool) : (setPoison s k on).mc = s.mc := rfl
@[simp] theorem setPoison_loading (s : State) (k : Nat) (on : Bool) : (setPoison s k on).loading = s.loading := rfl
@[simp] theorem setPoison_snaps (s : State) (k : Nat) (on : Bool) : (setPoison s k on).snaps = s.snaps := rfl
@[simp] theorem setPoison_lastServed (s : State) (k : Nat) (on : Bool) : (setPoison s k on).lastServed = s.lastServed := rfl

/-! ## setPodPoison -/

@[simp] theorem setPodPoison_agenda (s : State) (k : Nat) (on : Bool) : (setPodPoison s k on).agenda = s.agenda := rfl
@[simp] theorem setPodPoison_turns (s : State) (k : Nat) (on : Bool) : (setPodPoison s k on).turns = s.turns := rfl
@[simp] theorem setPodPoison_free (s : State) (k : Nat) (on : Bool) : (setPodPoison s k on).free = s.free := rfl
@[simp] theorem setPodPoison_ids (s : State) (k : Nat) (on : Bool) : (setPodPoison s k on).ids = s.ids := rfl
@[simp] theorem setPodPoison_cycle (s : State) (k : Nat) (on : Bool) : (setPodPoison s k on).cycle = s.cycle := rfl
@[simp] theorem setPodPoison_cur (s : State) (k : Nat) (on : Bool) : (setPodPoison s k on).cur = s.cur := rfl
@[simp] theorem setPodPoison_parts (s : State) (k : Nat) (on : Bool) : (setPodPoison s k on).parts = s.parts := rfl
@[simp] theorem setPodPoison_queues (s : State) (k : Nat) (on : Bool) : (setPodPoison s k on).queues = s.queues := rfl
@[simp] theorem setPodPoison_sleeves (s : State) (k : Nat) (on : Bool) : (setPodPoison s k on).sleeves = s.sleeves := rfl
@[simp] theorem setPodPoison_cfgs (s : State) (k : Nat) (on : Bool) : (setPodPoison s k on).cfgs = s.cfgs := rfl
@[simp] theorem setPodPoison_colours (s : State) (k : Nat) (on : Bool) : (setPodPoison s k on).colours = s.colours := rfl
@[simp] theorem setPodPoison_acts (s : State) (k : Nat) (on : Bool) : (setPodPoison s k on).acts = s.acts := rfl
@[simp] theorem setPodPoison_threads (s : State) (k : Nat) (on : Bool) : (setPodPoison s k on).threads = s.threads := rfl
@[simp] theorem setPodPoison_loops (s : State) (k : Nat) (on : Bool) : (setPodPoison s k on).loops = s.loops := rfl
@[simp] theorem setPodPoison_net (s : State) (k : Nat) (on : Bool) : (setPodPoison s k on).net = s.net := rfl
@[simp] theorem setPodPoison_far (s : State) (k : Nat) (on : Bool) : (setPodPoison s k on).far = s.far := rfl
@[simp] theorem setPodPoison_unsorted (s : State) (k : Nat) (on : Bool) : (setPodPoison s k on).unsorted = s.unsorted := rfl
@[simp] theorem setPodPoison_entries (s : State) (k : Nat) (on : Bool) : (setPodPoison s k on).entries = s.entries := rfl
@[simp] theorem setPodPoison_spilled (s : State) (k : Nat) (on : Bool) : (setPodPoison s k on).spilled = s.spilled := rfl
@[simp] theorem setPodPoison_throttled (s : State) (k : Nat) (on : Bool) : (setPodPoison s k on).throttled = s.throttled := rfl
@[simp] theorem setPodPoison_ops (s : State) (k : Nat) (on : Bool) : (setPodPoison s k on).ops = s.ops := rfl
@[simp] theorem setPodPoison_stores (s : State) (k : Nat) (on : Bool) : (setPodPoison s k on).stores = s.stores := rfl
@[simp] theorem setPodPoison_parked (s : State) (k : Nat) (on : Bool) : (setPodPoison s k on).parked = s.parked := rfl
@[simp] theorem setPodPoison_records (s : State) (k : Nat) (on : Bool) : (setPodPoison s k on).records = s.records := rfl
@[simp] theorem setPodPoison_retries (s : State) (k : Nat) (on : Bool) : (setPodPoison s k on).retries = s.retries := rfl
@[simp] theorem setPodPoison_prefetched (s : State) (k : Nat) (on : Bool) : (setPodPoison s k on).prefetched = s.prefetched := rfl
@[simp] theorem setPodPoison_islands (s : State) (k : Nat) (on : Bool) : (setPodPoison s k on).islands = s.islands := rfl
@[simp] theorem setPodPoison_flights (s : State) (k : Nat) (on : Bool) : (setPodPoison s k on).flights = s.flights := rfl
@[simp] theorem setPodPoison_hemOps (s : State) (k : Nat) (on : Bool) : (setPodPoison s k on).hemOps = s.hemOps := rfl
@[simp] theorem setPodPoison_xfers (s : State) (k : Nat) (on : Bool) : (setPodPoison s k on).xfers = s.xfers := rfl
@[simp] theorem setPodPoison_colls (s : State) (k : Nat) (on : Bool) : (setPodPoison s k on).colls = s.colls := rfl
@[simp] theorem setPodPoison_collSeq (s : State) (k : Nat) (on : Bool) : (setPodPoison s k on).collSeq = s.collSeq := rfl
@[simp] theorem setPodPoison_slotSeq (s : State) (k : Nat) (on : Bool) : (setPodPoison s k on).slotSeq = s.slotSeq := rfl
@[simp] theorem setPodPoison_collBox (s : State) (k : Nat) (on : Bool) : (setPodPoison s k on).collBox = s.collBox := rfl
@[simp] theorem setPodPoison_mem (s : State) (k : Nat) (on : Bool) : (setPodPoison s k on).mem = s.mem := rfl
@[simp] theorem setPodPoison_podMem (s : State) (k : Nat) (on : Bool) : (setPodPoison s k on).podMem = s.podMem := rfl
@[simp] theorem setPodPoison_poison (s : State) (k : Nat) (on : Bool) : (setPodPoison s k on).poison = s.poison := rfl
@[simp] theorem setPodPoison_podPoison (s : State) (k : Nat) (on : Bool) : (setPodPoison s k on).podPoison = if on then insertNat s.podPoison k else s.podPoison.filter (· != k) := rfl
@[simp] theorem setPodPoison_fe (s : State) (k : Nat) (on : Bool) : (setPodPoison s k on).fe = s.fe := rfl
@[simp] theorem setPodPoison_dfr (s : State) (k : Nat) (on : Bool) : (setPodPoison s k on).dfr = s.dfr := rfl
@[simp] theorem setPodPoison_l2 (s : State) (k : Nat) (on : Bool) : (setPodPoison s k on).l2 = s.l2 := rfl
@[simp] theorem setPodPoison_victim (s : State) (k : Nat) (on : Bool) : (setPodPoison s k on).victim = s.victim := rfl
@[simp] theorem setPodPoison_misses (s : State) (k : Nat) (on : Bool) : (setPodPoison s k on).misses = s.misses := rfl
@[simp] theorem setPodPoison_mdLines (s : State) (k : Nat) (on : Bool) : (setPodPoison s k on).mdLines = s.mdLines := rfl
@[simp] theorem setPodPoison_packed (s : State) (k : Nat) (on : Bool) : (setPodPoison s k on).packed = s.packed := rfl
@[simp] theorem setPodPoison_pinned (s : State) (k : Nat) (on : Bool) : (setPodPoison s k on).pinned = s.pinned := rfl
@[simp] theorem setPodPoison_overflow (s : State) (k : Nat) (on : Bool) : (setPodPoison s k on).overflow = s.overflow := rfl
@[simp] theorem setPodPoison_locks (s : State) (k : Nat) (on : Bool) : (setPodPoison s k on).locks = s.locks := rfl
@[simp] theorem setPodPoison_waits (s : State) (k : Nat) (on : Bool) : (setPodPoison s k on).waits = s.waits := rfl
@[simp] theorem setPodPoison_stalled (s : State) (k : Nat) (on : Bool) : (setPodPoison s k on).stalled = s.stalled := rfl
@[simp] theorem setPodPoison_tlbQuad (s : State) (k : Nat) (on : Bool) : (setPodPoison s k on).tlbQuad = s.tlbQuad := rfl
@[simp] theorem setPodPoison_tlbGrid (s : State) (k : Nat) (on : Bool) : (setPodPoison s k on).tlbGrid = s.tlbGrid := rfl
@[simp] theorem setPodPoison_tlbColl (s : State) (k : Nat) (on : Bool) : (setPodPoison s k on).tlbColl = s.tlbColl := rfl
@[simp] theorem setPodPoison_walks (s : State) (k : Nat) (on : Bool) : (setPodPoison s k on).walks = s.walks := rfl
@[simp] theorem setPodPoison_remotes (s : State) (k : Nat) (on : Bool) : (setPodPoison s k on).remotes = s.remotes := rfl
@[simp] theorem setPodPoison_copies (s : State) (k : Nat) (on : Bool) : (setPodPoison s k on).copies = s.copies := rfl
@[simp] theorem setPodPoison_dir (s : State) (k : Nat) (on : Bool) : (setPodPoison s k on).dir = s.dir := rfl
@[simp] theorem setPodPoison_ownerLost (s : State) (k : Nat) (on : Bool) : (setPodPoison s k on).ownerLost = s.ownerLost := rfl
@[simp] theorem setPodPoison_podLost (s : State) (k : Nat) (on : Bool) : (setPodPoison s k on).podLost = s.podLost := rfl
@[simp] theorem setPodPoison_olrecs (s : State) (k : Nat) (on : Bool) : (setPodPoison s k on).olrecs = s.olrecs := rfl
@[simp] theorem setPodPoison_deltas (s : State) (k : Nat) (on : Bool) : (setPodPoison s k on).deltas = s.deltas := rfl
@[simp] theorem setPodPoison_dseqTo (s : State) (k : Nat) (on : Bool) : (setPodPoison s k on).dseqTo = s.dseqTo := rfl
@[simp] theorem setPodPoison_dseqFrom (s : State) (k : Nat) (on : Bool) : (setPodPoison s k on).dseqFrom = s.dseqFrom := rfl
@[simp] theorem setPodPoison_early (s : State) (k : Nat) (on : Bool) : (setPodPoison s k on).early = s.early := rfl
@[simp] theorem setPodPoison_rebuilt (s : State) (k : Nat) (on : Bool) : (setPodPoison s k on).rebuilt = s.rebuilt := rfl
@[simp] theorem setPodPoison_rbHeld (s : State) (k : Nat) (on : Bool) : (setPodPoison s k on).rbHeld = s.rbHeld := rfl
@[simp] theorem setPodPoison_rbGot (s : State) (k : Nat) (on : Bool) : (setPodPoison s k on).rbGot = s.rbGot := rfl
@[simp] theorem setPodPoison_rbTo (s : State) (k : Nat) (on : Bool) : (setPodPoison s k on).rbTo = s.rbTo := rfl
@[simp] theorem setPodPoison_helup (s : State) (k : Nat) (on : Bool) : (setPodPoison s k on).helup = s.helup := rfl
@[simp] theorem setPodPoison_cxl (s : State) (k : Nat) (on : Bool) : (setPodPoison s k on).cxl = s.cxl := rfl
@[simp] theorem setPodPoison_out (s : State) (k : Nat) (on : Bool) : (setPodPoison s k on).out = s.out := rfl
@[simp] theorem setPodPoison_inbound (s : State) (k : Nat) (on : Bool) : (setPodPoison s k on).inbound = s.inbound := rfl
@[simp] theorem setPodPoison_regs (s : State) (k : Nat) (on : Bool) : (setPodPoison s k on).regs = s.regs := rfl
@[simp] theorem setPodPoison_mc (s : State) (k : Nat) (on : Bool) : (setPodPoison s k on).mc = s.mc := rfl
@[simp] theorem setPodPoison_loading (s : State) (k : Nat) (on : Bool) : (setPodPoison s k on).loading = s.loading := rfl
@[simp] theorem setPodPoison_snaps (s : State) (k : Nat) (on : Bool) : (setPodPoison s k on).snaps = s.snaps := rfl
@[simp] theorem setPodPoison_lastServed (s : State) (k : Nat) (on : Bool) : (setPodPoison s k on).lastServed = s.lastServed := rfl

/-! ## writeDev -/

@[simp] theorem writeDev_agenda (s : State) (apr a w v : Nat) : (writeDev s apr a w v).agenda = s.agenda := rfl
@[simp] theorem writeDev_turns (s : State) (apr a w v : Nat) : (writeDev s apr a w v).turns = s.turns := rfl
@[simp] theorem writeDev_free (s : State) (apr a w v : Nat) : (writeDev s apr a w v).free = s.free := rfl
@[simp] theorem writeDev_ids (s : State) (apr a w v : Nat) : (writeDev s apr a w v).ids = s.ids := rfl
@[simp] theorem writeDev_cycle (s : State) (apr a w v : Nat) : (writeDev s apr a w v).cycle = s.cycle := rfl
@[simp] theorem writeDev_cur (s : State) (apr a w v : Nat) : (writeDev s apr a w v).cur = s.cur := rfl
@[simp] theorem writeDev_parts (s : State) (apr a w v : Nat) : (writeDev s apr a w v).parts = s.parts := rfl
@[simp] theorem writeDev_queues (s : State) (apr a w v : Nat) : (writeDev s apr a w v).queues = s.queues := rfl
@[simp] theorem writeDev_sleeves (s : State) (apr a w v : Nat) : (writeDev s apr a w v).sleeves = s.sleeves := rfl
@[simp] theorem writeDev_cfgs (s : State) (apr a w v : Nat) : (writeDev s apr a w v).cfgs = s.cfgs := rfl
@[simp] theorem writeDev_colours (s : State) (apr a w v : Nat) : (writeDev s apr a w v).colours = s.colours := rfl
@[simp] theorem writeDev_acts (s : State) (apr a w v : Nat) : (writeDev s apr a w v).acts = s.acts := rfl
@[simp] theorem writeDev_threads (s : State) (apr a w v : Nat) : (writeDev s apr a w v).threads = s.threads := rfl
@[simp] theorem writeDev_loops (s : State) (apr a w v : Nat) : (writeDev s apr a w v).loops = s.loops := rfl
@[simp] theorem writeDev_net (s : State) (apr a w v : Nat) : (writeDev s apr a w v).net = s.net := rfl
@[simp] theorem writeDev_far (s : State) (apr a w v : Nat) : (writeDev s apr a w v).far = s.far := rfl
@[simp] theorem writeDev_unsorted (s : State) (apr a w v : Nat) : (writeDev s apr a w v).unsorted = s.unsorted := rfl
@[simp] theorem writeDev_entries (s : State) (apr a w v : Nat) : (writeDev s apr a w v).entries = s.entries := rfl
@[simp] theorem writeDev_spilled (s : State) (apr a w v : Nat) : (writeDev s apr a w v).spilled = s.spilled := rfl
@[simp] theorem writeDev_throttled (s : State) (apr a w v : Nat) : (writeDev s apr a w v).throttled = s.throttled := rfl
@[simp] theorem writeDev_ops (s : State) (apr a w v : Nat) : (writeDev s apr a w v).ops = s.ops := rfl
@[simp] theorem writeDev_stores (s : State) (apr a w v : Nat) : (writeDev s apr a w v).stores = s.stores := rfl
@[simp] theorem writeDev_parked (s : State) (apr a w v : Nat) : (writeDev s apr a w v).parked = s.parked := rfl
@[simp] theorem writeDev_records (s : State) (apr a w v : Nat) : (writeDev s apr a w v).records = s.records := rfl
@[simp] theorem writeDev_retries (s : State) (apr a w v : Nat) : (writeDev s apr a w v).retries = s.retries := rfl
@[simp] theorem writeDev_prefetched (s : State) (apr a w v : Nat) : (writeDev s apr a w v).prefetched = s.prefetched := rfl
@[simp] theorem writeDev_islands (s : State) (apr a w v : Nat) : (writeDev s apr a w v).islands = s.islands := rfl
@[simp] theorem writeDev_flights (s : State) (apr a w v : Nat) : (writeDev s apr a w v).flights = s.flights := rfl
@[simp] theorem writeDev_hemOps (s : State) (apr a w v : Nat) : (writeDev s apr a w v).hemOps = s.hemOps := rfl
@[simp] theorem writeDev_xfers (s : State) (apr a w v : Nat) : (writeDev s apr a w v).xfers = s.xfers := rfl
@[simp] theorem writeDev_colls (s : State) (apr a w v : Nat) : (writeDev s apr a w v).colls = s.colls := rfl
@[simp] theorem writeDev_collSeq (s : State) (apr a w v : Nat) : (writeDev s apr a w v).collSeq = s.collSeq := rfl
@[simp] theorem writeDev_slotSeq (s : State) (apr a w v : Nat) : (writeDev s apr a w v).slotSeq = s.slotSeq := rfl
@[simp] theorem writeDev_collBox (s : State) (apr a w v : Nat) : (writeDev s apr a w v).collBox = s.collBox := rfl
@[simp] theorem writeDev_podMem (s : State) (apr a w v : Nat) : (writeDev s apr a w v).podMem = s.podMem := rfl
@[simp] theorem writeDev_poison (s : State) (apr a w v : Nat) : (writeDev s apr a w v).poison = s.poison := rfl
@[simp] theorem writeDev_podPoison (s : State) (apr a w v : Nat) : (writeDev s apr a w v).podPoison = s.podPoison := rfl
@[simp] theorem writeDev_fe (s : State) (apr a w v : Nat) : (writeDev s apr a w v).fe = s.fe := rfl
@[simp] theorem writeDev_dfr (s : State) (apr a w v : Nat) : (writeDev s apr a w v).dfr = s.dfr := rfl
@[simp] theorem writeDev_l2 (s : State) (apr a w v : Nat) : (writeDev s apr a w v).l2 = s.l2 := rfl
@[simp] theorem writeDev_victim (s : State) (apr a w v : Nat) : (writeDev s apr a w v).victim = s.victim := rfl
@[simp] theorem writeDev_misses (s : State) (apr a w v : Nat) : (writeDev s apr a w v).misses = s.misses := rfl
@[simp] theorem writeDev_mdLines (s : State) (apr a w v : Nat) : (writeDev s apr a w v).mdLines = s.mdLines := rfl
@[simp] theorem writeDev_packed (s : State) (apr a w v : Nat) : (writeDev s apr a w v).packed = s.packed := rfl
@[simp] theorem writeDev_pinned (s : State) (apr a w v : Nat) : (writeDev s apr a w v).pinned = s.pinned := rfl
@[simp] theorem writeDev_overflow (s : State) (apr a w v : Nat) : (writeDev s apr a w v).overflow = s.overflow := rfl
@[simp] theorem writeDev_locks (s : State) (apr a w v : Nat) : (writeDev s apr a w v).locks = s.locks := rfl
@[simp] theorem writeDev_waits (s : State) (apr a w v : Nat) : (writeDev s apr a w v).waits = s.waits := rfl
@[simp] theorem writeDev_stalled (s : State) (apr a w v : Nat) : (writeDev s apr a w v).stalled = s.stalled := rfl
@[simp] theorem writeDev_tlbQuad (s : State) (apr a w v : Nat) : (writeDev s apr a w v).tlbQuad = s.tlbQuad := rfl
@[simp] theorem writeDev_tlbGrid (s : State) (apr a w v : Nat) : (writeDev s apr a w v).tlbGrid = s.tlbGrid := rfl
@[simp] theorem writeDev_tlbColl (s : State) (apr a w v : Nat) : (writeDev s apr a w v).tlbColl = s.tlbColl := rfl
@[simp] theorem writeDev_walks (s : State) (apr a w v : Nat) : (writeDev s apr a w v).walks = s.walks := rfl
@[simp] theorem writeDev_remotes (s : State) (apr a w v : Nat) : (writeDev s apr a w v).remotes = s.remotes := rfl
@[simp] theorem writeDev_copies (s : State) (apr a w v : Nat) : (writeDev s apr a w v).copies = s.copies := rfl
@[simp] theorem writeDev_dir (s : State) (apr a w v : Nat) : (writeDev s apr a w v).dir = s.dir := rfl
@[simp] theorem writeDev_ownerLost (s : State) (apr a w v : Nat) : (writeDev s apr a w v).ownerLost = s.ownerLost := rfl
@[simp] theorem writeDev_podLost (s : State) (apr a w v : Nat) : (writeDev s apr a w v).podLost = s.podLost := rfl
@[simp] theorem writeDev_olrecs (s : State) (apr a w v : Nat) : (writeDev s apr a w v).olrecs = s.olrecs := rfl
@[simp] theorem writeDev_deltas (s : State) (apr a w v : Nat) : (writeDev s apr a w v).deltas = s.deltas := rfl
@[simp] theorem writeDev_dseqTo (s : State) (apr a w v : Nat) : (writeDev s apr a w v).dseqTo = s.dseqTo := rfl
@[simp] theorem writeDev_dseqFrom (s : State) (apr a w v : Nat) : (writeDev s apr a w v).dseqFrom = s.dseqFrom := rfl
@[simp] theorem writeDev_early (s : State) (apr a w v : Nat) : (writeDev s apr a w v).early = s.early := rfl
@[simp] theorem writeDev_rebuilt (s : State) (apr a w v : Nat) : (writeDev s apr a w v).rebuilt = s.rebuilt := rfl
@[simp] theorem writeDev_rbHeld (s : State) (apr a w v : Nat) : (writeDev s apr a w v).rbHeld = s.rbHeld := rfl
@[simp] theorem writeDev_rbGot (s : State) (apr a w v : Nat) : (writeDev s apr a w v).rbGot = s.rbGot := rfl
@[simp] theorem writeDev_rbTo (s : State) (apr a w v : Nat) : (writeDev s apr a w v).rbTo = s.rbTo := rfl
@[simp] theorem writeDev_helup (s : State) (apr a w v : Nat) : (writeDev s apr a w v).helup = s.helup := rfl
@[simp] theorem writeDev_cxl (s : State) (apr a w v : Nat) : (writeDev s apr a w v).cxl = s.cxl := rfl
@[simp] theorem writeDev_out (s : State) (apr a w v : Nat) : (writeDev s apr a w v).out = s.out := rfl
@[simp] theorem writeDev_inbound (s : State) (apr a w v : Nat) : (writeDev s apr a w v).inbound = s.inbound := rfl
@[simp] theorem writeDev_regs (s : State) (apr a w v : Nat) : (writeDev s apr a w v).regs = s.regs := rfl
@[simp] theorem writeDev_mc (s : State) (apr a w v : Nat) : (writeDev s apr a w v).mc = s.mc := rfl
@[simp] theorem writeDev_loading (s : State) (apr a w v : Nat) : (writeDev s apr a w v).loading = s.loading := rfl
@[simp] theorem writeDev_snaps (s : State) (apr a w v : Nat) : (writeDev s apr a w v).snaps = s.snaps := rfl
@[simp] theorem writeDev_lastServed (s : State) (apr a w v : Nat) : (writeDev s apr a w v).lastServed = s.lastServed := rfl

/-! ## writePod -/

@[simp] theorem writePod_agenda (s : State) (a w v : Nat) : (writePod s a w v).agenda = s.agenda := rfl
@[simp] theorem writePod_turns (s : State) (a w v : Nat) : (writePod s a w v).turns = s.turns := rfl
@[simp] theorem writePod_free (s : State) (a w v : Nat) : (writePod s a w v).free = s.free := rfl
@[simp] theorem writePod_ids (s : State) (a w v : Nat) : (writePod s a w v).ids = s.ids := rfl
@[simp] theorem writePod_cycle (s : State) (a w v : Nat) : (writePod s a w v).cycle = s.cycle := rfl
@[simp] theorem writePod_cur (s : State) (a w v : Nat) : (writePod s a w v).cur = s.cur := rfl
@[simp] theorem writePod_parts (s : State) (a w v : Nat) : (writePod s a w v).parts = s.parts := rfl
@[simp] theorem writePod_queues (s : State) (a w v : Nat) : (writePod s a w v).queues = s.queues := rfl
@[simp] theorem writePod_sleeves (s : State) (a w v : Nat) : (writePod s a w v).sleeves = s.sleeves := rfl
@[simp] theorem writePod_cfgs (s : State) (a w v : Nat) : (writePod s a w v).cfgs = s.cfgs := rfl
@[simp] theorem writePod_colours (s : State) (a w v : Nat) : (writePod s a w v).colours = s.colours := rfl
@[simp] theorem writePod_acts (s : State) (a w v : Nat) : (writePod s a w v).acts = s.acts := rfl
@[simp] theorem writePod_threads (s : State) (a w v : Nat) : (writePod s a w v).threads = s.threads := rfl
@[simp] theorem writePod_loops (s : State) (a w v : Nat) : (writePod s a w v).loops = s.loops := rfl
@[simp] theorem writePod_net (s : State) (a w v : Nat) : (writePod s a w v).net = s.net := rfl
@[simp] theorem writePod_far (s : State) (a w v : Nat) : (writePod s a w v).far = s.far := rfl
@[simp] theorem writePod_unsorted (s : State) (a w v : Nat) : (writePod s a w v).unsorted = s.unsorted := rfl
@[simp] theorem writePod_entries (s : State) (a w v : Nat) : (writePod s a w v).entries = s.entries := rfl
@[simp] theorem writePod_spilled (s : State) (a w v : Nat) : (writePod s a w v).spilled = s.spilled := rfl
@[simp] theorem writePod_throttled (s : State) (a w v : Nat) : (writePod s a w v).throttled = s.throttled := rfl
@[simp] theorem writePod_ops (s : State) (a w v : Nat) : (writePod s a w v).ops = s.ops := rfl
@[simp] theorem writePod_stores (s : State) (a w v : Nat) : (writePod s a w v).stores = s.stores := rfl
@[simp] theorem writePod_parked (s : State) (a w v : Nat) : (writePod s a w v).parked = s.parked := rfl
@[simp] theorem writePod_records (s : State) (a w v : Nat) : (writePod s a w v).records = s.records := rfl
@[simp] theorem writePod_retries (s : State) (a w v : Nat) : (writePod s a w v).retries = s.retries := rfl
@[simp] theorem writePod_prefetched (s : State) (a w v : Nat) : (writePod s a w v).prefetched = s.prefetched := rfl
@[simp] theorem writePod_islands (s : State) (a w v : Nat) : (writePod s a w v).islands = s.islands := rfl
@[simp] theorem writePod_flights (s : State) (a w v : Nat) : (writePod s a w v).flights = s.flights := rfl
@[simp] theorem writePod_hemOps (s : State) (a w v : Nat) : (writePod s a w v).hemOps = s.hemOps := rfl
@[simp] theorem writePod_xfers (s : State) (a w v : Nat) : (writePod s a w v).xfers = s.xfers := rfl
@[simp] theorem writePod_colls (s : State) (a w v : Nat) : (writePod s a w v).colls = s.colls := rfl
@[simp] theorem writePod_collSeq (s : State) (a w v : Nat) : (writePod s a w v).collSeq = s.collSeq := rfl
@[simp] theorem writePod_slotSeq (s : State) (a w v : Nat) : (writePod s a w v).slotSeq = s.slotSeq := rfl
@[simp] theorem writePod_collBox (s : State) (a w v : Nat) : (writePod s a w v).collBox = s.collBox := rfl
@[simp] theorem writePod_mem (s : State) (a w v : Nat) : (writePod s a w v).mem = s.mem := rfl
@[simp] theorem writePod_poison (s : State) (a w v : Nat) : (writePod s a w v).poison = s.poison := rfl
@[simp] theorem writePod_podPoison (s : State) (a w v : Nat) : (writePod s a w v).podPoison = s.podPoison := rfl
@[simp] theorem writePod_fe (s : State) (a w v : Nat) : (writePod s a w v).fe = s.fe := rfl
@[simp] theorem writePod_dfr (s : State) (a w v : Nat) : (writePod s a w v).dfr = s.dfr := rfl
@[simp] theorem writePod_l2 (s : State) (a w v : Nat) : (writePod s a w v).l2 = s.l2 := rfl
@[simp] theorem writePod_victim (s : State) (a w v : Nat) : (writePod s a w v).victim = s.victim := rfl
@[simp] theorem writePod_misses (s : State) (a w v : Nat) : (writePod s a w v).misses = s.misses := rfl
@[simp] theorem writePod_mdLines (s : State) (a w v : Nat) : (writePod s a w v).mdLines = s.mdLines := rfl
@[simp] theorem writePod_packed (s : State) (a w v : Nat) : (writePod s a w v).packed = s.packed := rfl
@[simp] theorem writePod_pinned (s : State) (a w v : Nat) : (writePod s a w v).pinned = s.pinned := rfl
@[simp] theorem writePod_overflow (s : State) (a w v : Nat) : (writePod s a w v).overflow = s.overflow := rfl
@[simp] theorem writePod_locks (s : State) (a w v : Nat) : (writePod s a w v).locks = s.locks := rfl
@[simp] theorem writePod_waits (s : State) (a w v : Nat) : (writePod s a w v).waits = s.waits := rfl
@[simp] theorem writePod_stalled (s : State) (a w v : Nat) : (writePod s a w v).stalled = s.stalled := rfl
@[simp] theorem writePod_tlbQuad (s : State) (a w v : Nat) : (writePod s a w v).tlbQuad = s.tlbQuad := rfl
@[simp] theorem writePod_tlbGrid (s : State) (a w v : Nat) : (writePod s a w v).tlbGrid = s.tlbGrid := rfl
@[simp] theorem writePod_tlbColl (s : State) (a w v : Nat) : (writePod s a w v).tlbColl = s.tlbColl := rfl
@[simp] theorem writePod_walks (s : State) (a w v : Nat) : (writePod s a w v).walks = s.walks := rfl
@[simp] theorem writePod_remotes (s : State) (a w v : Nat) : (writePod s a w v).remotes = s.remotes := rfl
@[simp] theorem writePod_copies (s : State) (a w v : Nat) : (writePod s a w v).copies = s.copies := rfl
@[simp] theorem writePod_dir (s : State) (a w v : Nat) : (writePod s a w v).dir = s.dir := rfl
@[simp] theorem writePod_ownerLost (s : State) (a w v : Nat) : (writePod s a w v).ownerLost = s.ownerLost := rfl
@[simp] theorem writePod_podLost (s : State) (a w v : Nat) : (writePod s a w v).podLost = s.podLost := rfl
@[simp] theorem writePod_olrecs (s : State) (a w v : Nat) : (writePod s a w v).olrecs = s.olrecs := rfl
@[simp] theorem writePod_deltas (s : State) (a w v : Nat) : (writePod s a w v).deltas = s.deltas := rfl
@[simp] theorem writePod_dseqTo (s : State) (a w v : Nat) : (writePod s a w v).dseqTo = s.dseqTo := rfl
@[simp] theorem writePod_dseqFrom (s : State) (a w v : Nat) : (writePod s a w v).dseqFrom = s.dseqFrom := rfl
@[simp] theorem writePod_early (s : State) (a w v : Nat) : (writePod s a w v).early = s.early := rfl
@[simp] theorem writePod_rebuilt (s : State) (a w v : Nat) : (writePod s a w v).rebuilt = s.rebuilt := rfl
@[simp] theorem writePod_rbHeld (s : State) (a w v : Nat) : (writePod s a w v).rbHeld = s.rbHeld := rfl
@[simp] theorem writePod_rbGot (s : State) (a w v : Nat) : (writePod s a w v).rbGot = s.rbGot := rfl
@[simp] theorem writePod_rbTo (s : State) (a w v : Nat) : (writePod s a w v).rbTo = s.rbTo := rfl
@[simp] theorem writePod_helup (s : State) (a w v : Nat) : (writePod s a w v).helup = s.helup := rfl
@[simp] theorem writePod_cxl (s : State) (a w v : Nat) : (writePod s a w v).cxl = s.cxl := rfl
@[simp] theorem writePod_out (s : State) (a w v : Nat) : (writePod s a w v).out = s.out := rfl
@[simp] theorem writePod_inbound (s : State) (a w v : Nat) : (writePod s a w v).inbound = s.inbound := rfl
@[simp] theorem writePod_regs (s : State) (a w v : Nat) : (writePod s a w v).regs = s.regs := rfl
@[simp] theorem writePod_mc (s : State) (a w v : Nat) : (writePod s a w v).mc = s.mc := rfl
@[simp] theorem writePod_loading (s : State) (a w v : Nat) : (writePod s a w v).loading = s.loading := rfl
@[simp] theorem writePod_snaps (s : State) (a w v : Nat) : (writePod s a w v).snaps = s.snaps := rfl
@[simp] theorem writePod_lastServed (s : State) (a w v : Nat) : (writePod s a w v).lastServed = s.lastServed := rfl

/-! ## launch -/

@[simp] theorem launch_agenda (s : State) (n : NetToken) : (launch s n).agenda = s.agenda := rfl
@[simp] theorem launch_turns (s : State) (n : NetToken) : (launch s n).turns = s.turns := rfl
@[simp] theorem launch_free (s : State) (n : NetToken) : (launch s n).free = s.free := rfl
@[simp] theorem launch_ids (s : State) (n : NetToken) : (launch s n).ids = s.ids := rfl
@[simp] theorem launch_cycle (s : State) (n : NetToken) : (launch s n).cycle = s.cycle := rfl
@[simp] theorem launch_cur (s : State) (n : NetToken) : (launch s n).cur = s.cur := rfl
@[simp] theorem launch_parts (s : State) (n : NetToken) : (launch s n).parts = s.parts := rfl
@[simp] theorem launch_queues (s : State) (n : NetToken) : (launch s n).queues = s.queues := rfl
@[simp] theorem launch_sleeves (s : State) (n : NetToken) : (launch s n).sleeves = s.sleeves := rfl
@[simp] theorem launch_cfgs (s : State) (n : NetToken) : (launch s n).cfgs = s.cfgs := rfl
@[simp] theorem launch_colours (s : State) (n : NetToken) : (launch s n).colours = s.colours := rfl
@[simp] theorem launch_acts (s : State) (n : NetToken) : (launch s n).acts = s.acts := rfl
@[simp] theorem launch_threads (s : State) (n : NetToken) : (launch s n).threads = s.threads := rfl
@[simp] theorem launch_loops (s : State) (n : NetToken) : (launch s n).loops = s.loops := rfl
@[simp] theorem launch_far (s : State) (n : NetToken) : (launch s n).far = s.far := rfl
@[simp] theorem launch_unsorted (s : State) (n : NetToken) : (launch s n).unsorted = s.unsorted := rfl
@[simp] theorem launch_entries (s : State) (n : NetToken) : (launch s n).entries = s.entries := rfl
@[simp] theorem launch_spilled (s : State) (n : NetToken) : (launch s n).spilled = s.spilled := rfl
@[simp] theorem launch_throttled (s : State) (n : NetToken) : (launch s n).throttled = s.throttled := rfl
@[simp] theorem launch_ops (s : State) (n : NetToken) : (launch s n).ops = s.ops := rfl
@[simp] theorem launch_stores (s : State) (n : NetToken) : (launch s n).stores = s.stores := rfl
@[simp] theorem launch_parked (s : State) (n : NetToken) : (launch s n).parked = s.parked := rfl
@[simp] theorem launch_records (s : State) (n : NetToken) : (launch s n).records = s.records := rfl
@[simp] theorem launch_retries (s : State) (n : NetToken) : (launch s n).retries = s.retries := rfl
@[simp] theorem launch_prefetched (s : State) (n : NetToken) : (launch s n).prefetched = s.prefetched := rfl
@[simp] theorem launch_islands (s : State) (n : NetToken) : (launch s n).islands = s.islands := rfl
@[simp] theorem launch_flights (s : State) (n : NetToken) : (launch s n).flights = s.flights := rfl
@[simp] theorem launch_hemOps (s : State) (n : NetToken) : (launch s n).hemOps = s.hemOps := rfl
@[simp] theorem launch_xfers (s : State) (n : NetToken) : (launch s n).xfers = s.xfers := rfl
@[simp] theorem launch_colls (s : State) (n : NetToken) : (launch s n).colls = s.colls := rfl
@[simp] theorem launch_collSeq (s : State) (n : NetToken) : (launch s n).collSeq = s.collSeq := rfl
@[simp] theorem launch_slotSeq (s : State) (n : NetToken) : (launch s n).slotSeq = s.slotSeq := rfl
@[simp] theorem launch_collBox (s : State) (n : NetToken) : (launch s n).collBox = s.collBox := rfl
@[simp] theorem launch_mem (s : State) (n : NetToken) : (launch s n).mem = s.mem := rfl
@[simp] theorem launch_podMem (s : State) (n : NetToken) : (launch s n).podMem = s.podMem := rfl
@[simp] theorem launch_poison (s : State) (n : NetToken) : (launch s n).poison = s.poison := rfl
@[simp] theorem launch_podPoison (s : State) (n : NetToken) : (launch s n).podPoison = s.podPoison := rfl
@[simp] theorem launch_fe (s : State) (n : NetToken) : (launch s n).fe = s.fe := rfl
@[simp] theorem launch_dfr (s : State) (n : NetToken) : (launch s n).dfr = s.dfr := rfl
@[simp] theorem launch_l2 (s : State) (n : NetToken) : (launch s n).l2 = s.l2 := rfl
@[simp] theorem launch_victim (s : State) (n : NetToken) : (launch s n).victim = s.victim := rfl
@[simp] theorem launch_misses (s : State) (n : NetToken) : (launch s n).misses = s.misses := rfl
@[simp] theorem launch_mdLines (s : State) (n : NetToken) : (launch s n).mdLines = s.mdLines := rfl
@[simp] theorem launch_packed (s : State) (n : NetToken) : (launch s n).packed = s.packed := rfl
@[simp] theorem launch_pinned (s : State) (n : NetToken) : (launch s n).pinned = s.pinned := rfl
@[simp] theorem launch_overflow (s : State) (n : NetToken) : (launch s n).overflow = s.overflow := rfl
@[simp] theorem launch_locks (s : State) (n : NetToken) : (launch s n).locks = s.locks := rfl
@[simp] theorem launch_waits (s : State) (n : NetToken) : (launch s n).waits = s.waits := rfl
@[simp] theorem launch_stalled (s : State) (n : NetToken) : (launch s n).stalled = s.stalled := rfl
@[simp] theorem launch_tlbQuad (s : State) (n : NetToken) : (launch s n).tlbQuad = s.tlbQuad := rfl
@[simp] theorem launch_tlbGrid (s : State) (n : NetToken) : (launch s n).tlbGrid = s.tlbGrid := rfl
@[simp] theorem launch_tlbColl (s : State) (n : NetToken) : (launch s n).tlbColl = s.tlbColl := rfl
@[simp] theorem launch_walks (s : State) (n : NetToken) : (launch s n).walks = s.walks := rfl
@[simp] theorem launch_remotes (s : State) (n : NetToken) : (launch s n).remotes = s.remotes := rfl
@[simp] theorem launch_copies (s : State) (n : NetToken) : (launch s n).copies = s.copies := rfl
@[simp] theorem launch_dir (s : State) (n : NetToken) : (launch s n).dir = s.dir := rfl
@[simp] theorem launch_ownerLost (s : State) (n : NetToken) : (launch s n).ownerLost = s.ownerLost := rfl
@[simp] theorem launch_podLost (s : State) (n : NetToken) : (launch s n).podLost = s.podLost := rfl
@[simp] theorem launch_olrecs (s : State) (n : NetToken) : (launch s n).olrecs = s.olrecs := rfl
@[simp] theorem launch_deltas (s : State) (n : NetToken) : (launch s n).deltas = s.deltas := rfl
@[simp] theorem launch_dseqTo (s : State) (n : NetToken) : (launch s n).dseqTo = s.dseqTo := rfl
@[simp] theorem launch_dseqFrom (s : State) (n : NetToken) : (launch s n).dseqFrom = s.dseqFrom := rfl
@[simp] theorem launch_early (s : State) (n : NetToken) : (launch s n).early = s.early := rfl
@[simp] theorem launch_rebuilt (s : State) (n : NetToken) : (launch s n).rebuilt = s.rebuilt := rfl
@[simp] theorem launch_rbHeld (s : State) (n : NetToken) : (launch s n).rbHeld = s.rbHeld := rfl
@[simp] theorem launch_rbGot (s : State) (n : NetToken) : (launch s n).rbGot = s.rbGot := rfl
@[simp] theorem launch_rbTo (s : State) (n : NetToken) : (launch s n).rbTo = s.rbTo := rfl
@[simp] theorem launch_helup (s : State) (n : NetToken) : (launch s n).helup = s.helup := rfl
@[simp] theorem launch_cxl (s : State) (n : NetToken) : (launch s n).cxl = s.cxl := rfl
@[simp] theorem launch_out (s : State) (n : NetToken) : (launch s n).out = s.out := rfl
@[simp] theorem launch_inbound (s : State) (n : NetToken) : (launch s n).inbound = s.inbound := rfl
@[simp] theorem launch_regs (s : State) (n : NetToken) : (launch s n).regs = s.regs := rfl
@[simp] theorem launch_mc (s : State) (n : NetToken) : (launch s n).mc = s.mc := rfl
@[simp] theorem launch_loading (s : State) (n : NetToken) : (launch s n).loading = s.loading := rfl
@[simp] theorem launch_snaps (s : State) (n : NetToken) : (launch s n).snaps = s.snaps := rfl
@[simp] theorem launch_lastServed (s : State) (n : NetToken) : (launch s n).lastServed = s.lastServed := rfl

end Sys2Proof.Machine
end

