-- ==== Sys2Proof/Laws/Firing.lean ====
section
/-! SUPPORT. What the common part of a firing can do (R32, R33, R36): each of its four outcomes, and sending to targets that take their
producer's own tag. -/

namespace Sys2Proof.Machine

open Sys2Proof

@[simp] theorem anyPoisoned_begin (s : State) (c : Common) (ofs : BitVec 32) :
    anyPoisoned (begin s c ofs).cur = anyPoisoned s.cur := rfl
@[simp] theorem anyNull_begin (s : State) (c : Common) (ofs : BitVec 32) : anyNull (begin s c ofs).cur = anyNull s.cur := rfl
@[simp] theorem operandsOf_begin (s : State) (c : Common) (ofs : BitVec 32) (r : GRec) (n : Nat) :
    operandsOf r n (begin s c ofs).cur = operandsOf r n s.cur := rfl

/-! ## The outcomes of a firing -/

theorem fire_poisoned {s : State} {c : Common} {ofs : BitVec 32} {body : Firing → State → State}
    (h : anyPoisoned s.cur = true) : fire s c ofs body = killFiring (begin s c ofs) (begin s c ofs).cur := by
  unfold fire
  rw [if_pos (show anyPoisoned (begin s c ofs).cur = true from h)]

theorem fire_null {s : State} {c : Common} {ofs : BitVec 32} {body : Firing → State → State}
    (hp : anyPoisoned s.cur = false) (hn : anyNull s.cur = true) :
    fire s c ofs body = sendBoth (begin s c ofs) (begin s c ofs).cur nullTok := by
  unfold fire
  rw [if_neg (show ¬anyPoisoned (begin s c ofs).cur = true from ne_true_of_eq_false hp),
    if_pos (show anyNull (begin s c ofs).cur = true from hn)]

theorem fire_tagDepth {s : State} {c : Common} {ofs : BitVec 32} {body : Firing → State → State}
    (hp : anyPoisoned s.cur = false) (hn : anyNull s.cur = false) (ht : tagFaults (begin s c ofs).cur = true) :
    fire s c ofs body = raise (begin s c ofs) s.cur.act s.cur.node { cls := .tagDepth } := by
  unfold fire
  rw [if_neg (show ¬anyPoisoned (begin s c ofs).cur = true from ne_true_of_eq_false hp),
    if_neg (show ¬anyNull (begin s c ofs).cur = true from ne_true_of_eq_false hn), if_pos ht]
  rfl

theorem fire_acts {s : State} {c : Common} {ofs : BitVec 32} {body : Firing → State → State}
    (hp : anyPoisoned s.cur = false) (hn : anyNull s.cur = false) (ht : tagFaults (begin s c ofs).cur = false) :
    fire s c ofs body = body (begin s c ofs).cur (begin s c ofs) := by
  unfold fire
  rw [if_neg (show ¬anyPoisoned (begin s c ofs).cur = true from ne_true_of_eq_false hp),
    if_neg (show ¬anyNull (begin s c ofs).cur = true from ne_true_of_eq_false hn), if_neg (ne_true_of_eq_false ht)]

theorem fireG_acts {s : State} {r : GRec} {val : Firing → TokVal} (hp : anyPoisoned s.cur = false) (hn : anyNull s.cur = false)
    (ht : tagFaults (begin s r.c r.lit).cur = false) :
    fireG s r val = sendBoth (begin s r.c r.lit) (begin s r.c r.lit).cur (val (begin s r.c r.lit).cur) := by
  unfold fireG firePure
  exact fire_acts hp hn ht

theorem fireMem_acts {s : State} {r : MRec} {body : Firing → State → State} (hp : anyPoisoned s.cur = false)
    (hn : anyNull s.cur = false) (ht : tagFaults (begin s r.c 0).cur = false) :
    fireMem s r body = body (begin s r.c 0).cur (begin s r.c 0) := by
  unfold fireMem
  rw [if_neg (show ¬anyPoisoned (begin s r.c 0).cur = true from ne_true_of_eq_false hp),
    if_neg (show ¬anyNull (begin s r.c 0).cur = true from ne_true_of_eq_false hn), if_neg (ne_true_of_eq_false ht)]

/-! ## Sending -/

@[simp] theorem sendTarget_none (s : State) (f : Firing) (v : TokVal) : sendTarget s f .none v = s := rfl

theorem launch_net_append (s : State) (n : NetToken) :
    (launch s n).net = s.net ++ [{ n with par := parityOf n.tok, kept := n.tok, keptPar := parityOf n.tok }] := rfl

end Sys2Proof.Machine
end

