-- ==== Sys2Proof/Laws/Memory.lean ====
section
/-! SUPPORT. Sparse tables and cell lists: reading after writing, and the canonical form that every memory operation keeps. -/

namespace Sys2Proof.Machine

open Sys2Proof

/-! ## Sparse tables -/

@[simp] theorem lookup_insertAt_same {α : Type} (m : Map α) (x : Nat) (v : α) : lookup (insertAt m x v) x = some v := by
  induction m with
  | nil => simp [insertAt, lookup]
  | cons h m ih =>
    simp only [insertAt]
    split
    · simp [lookup]
    · split
      · simp [lookup]
      · rename_i hk
        simp [lookup, ih, Ne.symm hk]

theorem lookup_insertAt_other {α : Type} (m : Map α) {x y : Nat} (v : α) (h : y ≠ x) :
    lookup (insertAt m x v) y = lookup m y := by
  induction m with
  | nil => simp [insertAt, lookup, Ne.symm h]
  | cons k m ih =>
    simp only [insertAt]
    split
    · simp [lookup, Ne.symm h]
    · split
      · rename_i hk
        simp [lookup, Ne.symm h, ← hk]
      · simp [lookup, ih]

@[simp] theorem lookupD_insertAt_same {α : Type} (m : Map α) (x : Nat) (v d : α) : lookupD (insertAt m x v) x d = v := by
  simp [lookupD]

theorem lookupD_insertAt_other {α : Type} (m : Map α) {x y : Nat} (v d : α) (h : y ≠ x) :
    lookupD (insertAt m x v) y d = lookupD m y d := by
  simp [lookupD, lookup_insertAt_other m v h]

@[simp] theorem lookup_eraseAt_same {α : Type} (m : Map α) (x : Nat) : lookup (eraseAt m x) x = none := by
  induction m with
  | nil => rfl
  | cons k m ih =>
    by_cases h : k.1 = x
    · simpa [eraseAt, List.filter_cons, h] using ih
    · simpa [eraseAt, List.filter_cons, h, lookup] using ih

theorem lookup_eraseAt_other {α : Type} (m : Map α) {x y : Nat} (h : y ≠ x) : lookup (eraseAt m x) y = lookup m y := by
  induction m with
  | nil => rfl
  | cons k m ih =>
    by_cases e : k.1 = x
    · simpa [eraseAt, List.filter_cons, e, lookup, Ne.symm h] using ih
    · by_cases f : k.1 = y
      · simp [eraseAt, lookup, f, h]
      · simpa [eraseAt, List.filter_cons, e, lookup, f] using ih

/-! ## Cell lists -/

theorem cellsFrom_mono {lo hi : Nat} {m : List Host.Cell} (h : hi ≤ lo) (w : cellsFrom lo m = true) : cellsFrom hi m = true := by
  cases m with
  | nil => rfl
  | cons k m =>
    simp only [cellsFrom, Bool.and_eq_true, decide_eq_true_eq] at w ⊢
    exact ⟨⟨by omega, w.1.2⟩, w.2⟩

theorem cellRead_below {lo : Nat} {m : List Host.Cell} (w : cellsFrom lo m = true) {x : Nat} (h : x < lo) :
    cellRead m x = unlisted := by
  induction m generalizing lo with
  | nil => rfl
  | cons k m ih =>
    simp only [cellsFrom, Bool.and_eq_true, decide_eq_true_eq] at w
    have : k.1 ≠ x := by omega
    simp only [cellRead, this, if_false]
    exact ih w.2 (by omega)

theorem cellsFrom_filter {lo : Nat} {m : List Host.Cell} (w : cellsFrom lo m = true) (p : Host.Cell → Bool) :
    cellsFrom lo (m.filter p) = true := by
  induction m generalizing lo with
  | nil => rfl
  | cons k m ih =>
    simp only [cellsFrom, Bool.and_eq_true, decide_eq_true_eq] at w
    rw [List.filter_cons]
    split
    · simp only [cellsFrom, Bool.and_eq_true, decide_eq_true_eq]
      exact ⟨w.1, ih w.2⟩
    · exact ih (cellsFrom_mono (by omega) w.2)

theorem cellsFrom_insertAt {lo : Nat} {m : List Host.Cell} (w : cellsFrom lo m = true) {x : Nat} (h : lo ≤ x) {v : Byte} (hv : v ≠ unlisted) :
    cellsFrom lo (insertAt m x v) = true := by
  induction m generalizing lo with
  | nil => simp [insertAt, cellsFrom, h, hv]
  | cons k m ih =>
    have w' := w
    simp only [cellsFrom, Bool.and_eq_true, decide_eq_true_eq] at w
    simp only [insertAt]
    split
    · simp only [cellsFrom, Bool.and_eq_true, decide_eq_true_eq]
      exact ⟨⟨h, by simpa using hv⟩, ⟨⟨by omega, w.1.2⟩, w.2⟩⟩
    · split
      · rename_i hx hk
        simp only [cellsFrom, Bool.and_eq_true, decide_eq_true_eq]
        exact ⟨⟨h, by simpa using hv⟩, by rw [hk]; exact w.2⟩
      · simp only [cellsFrom, Bool.and_eq_true, decide_eq_true_eq]
        exact ⟨w.1, ih w.2 (by omega)⟩

theorem cellWrite_canonical {lo : Nat} {m : List Host.Cell} (w : cellsFrom lo m = true) {x : Nat} (h : lo ≤ x) (v : Byte) :
    cellsFrom lo (cellWrite m x v) = true := by
  unfold cellWrite
  split
  · exact cellsFrom_filter w _
  · exact cellsFrom_insertAt w h (by assumption)

theorem cellRead_eq_lookup (m : List Host.Cell) (x : Nat) : cellRead m x = lookupD m x unlisted := by
  induction m with
  | nil => rfl
  | cons k m ih =>
    by_cases h : k.1 = x
    · simp [cellRead, lookupD, lookup, h]
    · simpa [cellRead, lookupD, lookup, h] using ih

@[simp] theorem cellRead_cellWrite_same (m : List Host.Cell) (x : Nat) (v : Byte) : cellRead (cellWrite m x v) x = v := by
  rw [cellRead_eq_lookup, cellWrite]
  split
  · rename_i h
    simpa [lookupD, eraseAt, h] using congrArg (·.getD unlisted) (lookup_eraseAt_same m x)
  · simp

theorem cellRead_cellWrite_other (m : List Host.Cell) {x y : Nat} (h : y ≠ x) (v : Byte) :
    cellRead (cellWrite m x v) y = cellRead m y := by
  simp only [cellRead_eq_lookup, cellWrite]
  split
  · simpa [lookupD, eraseAt] using congrArg (·.getD unlisted) (lookup_eraseAt_other m h)
  · exact lookupD_insertAt_other m v unlisted h

theorem writeBytes_canonical {m : List Host.Cell} (w : memWf m) (l : List (Nat × Byte)) : memWf (writeBytes m l) := by
  unfold writeBytes
  induction l generalizing m with
  | nil => exact w
  | cons x l ih => exact ih (cellWrite_canonical w (Nat.zero_le _) _)

/-! ## Every memory operation keeps the canonical form -/

theorem writeDev_canonical {s : State} (w : memWf s.mem) (apr a n v : Nat) : memWf (writeDev s apr a n v).mem :=
  writeBytes_canonical w _

theorem writePod_canonical {s : State} (w : memWf s.podMem) (a n v : Nat) : memWf (writePod s a n v).podMem :=
  writeBytes_canonical w _

theorem writeArea_canonical {s : State} (w : memWf s.mem ∧ memWf s.podMem) (a n v : Nat) :
    memWf (writeArea s a n v).mem ∧ memWf (writeArea s a n v).podMem := by
  unfold writeArea
  split
  · exact ⟨writeDev_canonical w.1 _ _ _ _, w.2⟩
  · exact ⟨w.1, writePod_canonical w.2 _ _ _⟩

theorem putAreaWords_canonical {s : State} (w : memWf s.mem ∧ memWf s.podMem) (a : Nat) (ws : List Word) :
    memWf (putAreaWords s a ws).mem ∧ memWf (putAreaWords s a ws).podMem := by
  induction ws generalizing s a with
  | nil => exact w
  | cons x xs ih => exact ih (writeArea_canonical w _ _ _) _

theorem putRecord_canonical {s : State} (w : memWf s.mem ∧ memWf s.podMem) (a : Nat) (ws : List Word) :
    memWf (putRecord s a ws).mem ∧ memWf (putRecord s a ws).podMem := by
  cases ws with
  | nil => exact w
  | cons x xs => exact writeArea_canonical (putAreaWords_canonical w _ _) _ _ _

theorem writeScratch_canonical {v : Sleeve} (w : memWf v.scratch) (a n x : Nat) : memWf (writeScratch v a n x).scratch :=
  writeBytes_canonical w _

theorem reset_canonical : memWf State.reset.mem ∧ memWf State.reset.podMem := ⟨rfl, rfl⟩

end Sys2Proof.Machine
end

