-- ==== Sys2Proof/Laws/Level.lean ====
section
/-! SUPPORT. The memory levels keep the canonical form of device memory and pod memory: misses, fills, and the device's own areas. -/

namespace Sys2Proof.Machine

open Sys2Proof

/-- Both memories of a state are in canonical form. -/
structure Canonical (s : State) : Prop where
  dev : memWf s.mem
  pod : memWf s.podMem

/-- What leaves both memories alone keeps the canonical form. -/
theorem Canonical.same {s t : State} (w : Canonical s) (h : t.mem = s.mem) (h' : t.podMem = s.podMem) : Canonical t :=
  ⟨h ▸ w.dev, h' ▸ w.pod⟩

/-- Either of two states in canonical form. -/
theorem ite_canonical {p : Prop} [Decidable p] {s t : State} (w : Canonical s) (w' : Canonical t) : Canonical (if p then s else t) := by
  split
  · exact w
  · exact w'

/-- A fold of operations that keep the canonical form keeps it. -/
theorem foldl_canonical {α : Type} (f : State → α → State) (h : ∀ s x, Canonical s → Canonical (f s x)) (l : List α) {s : State}
    (w : Canonical s) : Canonical (l.foldl f s) := by
  induction l generalizing s with
  | nil => exact w
  | cons x l ih => exact ih (h s x w)

theorem Canonical.writeDev {s : State} (w : Canonical s) (apr a n v : Nat) : Canonical (writeDev s apr a n v) :=
  ⟨writeDev_canonical w.dev _ _ _ _, w.pod⟩

theorem Canonical.writePod {s : State} (w : Canonical s) (a n v : Nat) : Canonical (writePod s a n v) :=
  ⟨w.dev, writePod_canonical w.pod _ _ _⟩

theorem Canonical.writeArea {s : State} (w : Canonical s) (a n v : Nat) : Canonical (writeArea s a n v) :=
  let h := writeArea_canonical ⟨w.dev, w.pod⟩ a n v
  ⟨h.1, h.2⟩

theorem Canonical.writeLoc {s : State} (w : Canonical s) (loc : Loc) (n v : Nat) : Canonical (writeLoc s loc n v) := by
  cases loc with
  | dev apr a => exact w.writeDev _ _ _ _
  | pod a => exact w.writePod _ _ _
  | remote d a => exact w
  | reg o => exact w

theorem Canonical.setPoison {s : State} (w : Canonical s) (n : Nat) (on : Bool) : Canonical (setPoison s n on) := w.same rfl rfl

theorem Canonical.setPoisonLoc {s : State} (w : Canonical s) (loc : Loc) (on : Bool) : Canonical (setPoisonLoc s loc on) := by
  cases loc <;> exact w.same rfl rfl

theorem Canonical.updRegs {s : State} (w : Canonical s) (f : Regs → Regs) : Canonical (updRegs s f) := w.same rfl rfl

theorem Canonical.setPacked {s : State} (w : Canonical s) (u c : Nat) : Canonical (setPacked s u c) := w.same rfl rfl

theorem Canonical.countMiss {s : State} (w : Canonical s) (line region page : Nat) : Canonical (countMiss s line region page) := by
  unfold Machine.countMiss
  dsimp only
  split
  · generalize Nat.min _ _ = v
    refine Canonical.updRegs (Canonical.writeArea ?_ _ _ v) _
    exact w.same rfl rfl
  · exact w.same rfl rfl

theorem Canonical.freeSector {s : State} (w : Canonical s) (sec : Nat) : Canonical (freeSector s sec) := by
  unfold Machine.freeSector
  generalize List.range 4 = l
  apply foldl_canonical _ _ _ w
  intro s x h
  exact Canonical.writeDev (s := { s with free := s.free + 1 }) (h.same rfl rfl) _ _ _ _

theorem Canonical.respell {s : State} (w : Canonical s) (u c : Nat) : Canonical (respell s u c) := by
  unfold Machine.respell
  split
  · exact w
  · generalize List.filter _ _ = l
    dsimp only
    refine Canonical.setPacked ?_ u c
    split
    · refine foldl_canonical _ ?_ l w
      exact fun _ _ h => h.writeDev _ _ _ _
    · exact foldl_canonical _ (fun _ _ h => h.freeSector _) l w

theorem Canonical.readMeta {s : State} (w : Canonical s) (u : Nat) : Canonical (readMeta s u) := by
  unfold Machine.readMeta
  generalize List.range 128 = l
  dsimp only
  split
  all_goals split
  · refine Canonical.updRegs (Canonical.setPoison (Canonical.setPoison (foldl_canonical _ ?_ l w) _ _) _ _) _
    exact fun _ _ h => h.writeDev _ _ _ _
  · exact w
  · refine Canonical.updRegs (Canonical.setPoison (Canonical.setPoison (foldl_canonical _ ?_ l ?_) _ _) _ _) _
    · exact fun _ _ h => h.writeDev _ _ _ _
    · exact w.same rfl rfl
  · exact w.same rfl rfl

theorem Canonical.fillState {s : State} (w : Canonical s) (cda : Nat) : Canonical (fillState s cda).2 := by
  have m := w.readMeta (cdaToLinear cda / 256)
  unfold Machine.fillState
  dsimp only
  generalize Machine.readMeta s (cdaToLinear cda / 256) = t at m
  split
  · exact w
  · split
    · split
      · exact w
      · exact w.setPoison _ _
    · generalize (if inMetadata t _ then 0 else blockState t _) = c
      by_cases h : c ≤ 8
      · simpa only [h, if_true] using m.respell _ _
      · simp only [h, if_false]
        split
        · exact m.setPoison _ _
        · exact Canonical.updRegs (Canonical.writeDev (m.setPoison _ _) _ _ _ _) _

theorem Canonical.fromVictim {s : State} (w : Canonical s) (line : Nat) : Canonical (fromVictim s line) := by
  unfold Machine.fromVictim
  split
  · exact w.same rfl rfl
  · exact w

theorem Canonical.putL2 {s : State} (w : Canonical s) (m : Map L2Line) : Canonical { s with l2 := m } := w.same rfl rfl

theorem Canonical.touch {s : State} (w : Canonical s) (loc : Loc) (counts : Bool) : Canonical (touch s loc counts) := by
  have v (line region page : Nat) : Canonical (Machine.fromVictim (if counts then Machine.countMiss s line region page else s) line) := by
    apply Canonical.fromVictim
    split
    · exact w.countMiss _ _ _
    · exact w
  unfold Machine.touch
  split
  · exact w
  · exact w
  · exact w
  · rename_i line region page _ _ _
    refine ite_canonical w (ite_canonical (v line region page) (Canonical.putL2 ?_ _))
    split
    · exact (v line region page).fillState _
    · exact v line region page

theorem Canonical.soilAt {s : State} (w : Canonical s) (loc : Loc) (cmark big : Bool) : Canonical (soilAt s loc cmark big) := by
  unfold Machine.soilAt
  split
  · exact w.same rfl rfl
  · exact w.same rfl rfl
  · exact w

theorem Canonical.touchArea {s : State} (w : Canonical s) (a n : Nat) : Canonical (touchArea s a n) :=
  foldl_canonical _ (fun _ _ h => h.touch _ _) _ w

theorem Canonical.soilArea {s : State} (w : Canonical s) (a n : Nat) : Canonical (soilArea s a n) :=
  foldl_canonical _ (fun _ _ h => h.soilAt _ _ _) _ (w.touchArea _ _)

theorem Canonical.writeAreaWords {s : State} (w : Canonical s) (a : Nat) (ws : List Word) : Canonical (writeAreaWords s a ws) :=
  let m := w.soilArea a (64 * ws.length)
  let h := putAreaWords_canonical ⟨m.dev, m.pod⟩ a ws
  ⟨h.1, h.2⟩

theorem Canonical.writeRecord {s : State} (w : Canonical s) (a : Nat) (ws : List Word) : Canonical (writeRecord s a ws) :=
  let m := w.soilArea a (64 * ws.length)
  let h := putRecord_canonical ⟨m.dev, m.pod⟩ a ws
  ⟨h.1, h.2⟩

theorem Canonical.leavePacked {s : State} (w : Canonical s) : Canonical (leavePacked s) :=
  foldl_canonical _ (fun _ _ h => h.respell _ _) _ (foldl_canonical _ (fun _ _ h => h.respell _ _) _ w)

end Sys2Proof.Machine
end

