-- ==== Sys2Proof/Laws/PerInstr.lean ====
section
/-! SUPPORT. Per instruction: the word of a record form carries an OPC that Table 3.13 assigns, and a device event has no word. -/

namespace Sys2Proof.Laws

/-- The OPC values that Table 3.13 assigns. -/
def assignedOpc (o : BitVec 8) : Bool :=
  let n := o.toNat
  (decide (0x01 ≤ n) && decide (n ≤ 0x09)) || (decide (0x10 ≤ n) && decide (n ≤ 0x1B)) || (decide (0x20 ≤ n) && decide (n ≤ 0x3E))
    || (decide (0x40 ≤ n) && decide (n ≤ 0x55)) || (decide (0x58 ≤ n) && decide (n ≤ 0x5E)) || (decide (0x60 ≤ n) && decide (n ≤ 0x6E))
    || (decide (0x70 ≤ n) && decide (n ≤ 0x79)) || (decide (0x7C ≤ n) && decide (n ≤ 0x89)) || (decide (0x90 ≤ n) && decide (n ≤ 0x98))
    || (decide (0xA0 ≤ n) && decide (n ≤ 0xA4)) || (decide (0xA8 ≤ n) && decide (n ≤ 0xAB)) || (decide (0xB0 ≤ n) && decide (n ≤ 0xB9))

namespace Opc

/-- The word of a form, if it has one, carries an assigned OPC. -/
def Statement (i : Instr) : Prop := ∀ w, encodeRecord i = some w → assignedOpc (w.extractLsb' 88 8) = true

theorem of_event {i : Instr} (h : encodeRecord i = none) : Statement i := by
  intro w e
  rw [h] at e
  cases e

theorem of_record {i : Instr} {v : RecordWord} {o : BitVec 8} (h : encodeRecord i = some v) (hv : v.extractLsb' 88 8 = o)
    (ho : assignedOpc o = true) : Statement i := by
  intro w e
  rw [h] at e
  cases e
  rw [hv]
  exact ho

theorem mov (r : GRec) : Statement (.mov r) := of_record rfl (GRec.word_opc _ r) rfl
theorem movi (r : GRec) : Statement (.movi r) := of_record rfl (GRec.word_opc _ r) rfl
theorem null (r : GRec) : Statement (.null r) := of_record rfl (GRec.word_opc _ r) rfl
theorem gate (r : GRec) : Statement (.gate r) := of_record rfl (GRec.word_opc _ r) rfl
theorem join (r : GRec) : Statement (.join r) := of_record rfl (GRec.word_opc _ r) rfl
theorem tagr (r : GRec) : Statement (.tagr r) := of_record rfl (GRec.word_opc _ r) rfl
theorem tags (r : GRec) : Statement (.tags r) := of_record rfl (GRec.word_opc _ r) rfl
theorem exitB (r : CRec) : Statement (.exitB r) := of_record rfl (CRec.word_opc _ r) rfl
theorem exitEoi (r : CRec) : Statement (.exitEoi r) := of_record rfl (CRec.word_opc _ r) rfl
theorem exitLeave (r : CRec) : Statement (.exitLeave r) := of_record rfl (CRec.word_opc _ r) rfl
theorem exitEoc (r : CRec) : Statement (.exitEoc r) := of_record rfl (CRec.word_opc _ r) rfl
theorem exitx (r : CRec) : Statement (.exitx r) := of_record rfl (CRec.word_opc _ r) rfl
theorem wave (r : GRec) : Statement (.wave r) := of_record rfl (GRec.word_opc _ r) rfl
theorem lent (r : GRec) : Statement (.lent r) := of_record rfl (GRec.word_opc _ r) rfl
theorem leav (r : GRec) : Statement (.leav r) := of_record rfl (GRec.word_opc _ r) rfl
theorem lbnd (r : GRec) : Statement (.lbnd r) := of_record rfl (GRec.word_opc _ r) rfl
theorem lcnt (r : GRec) : Statement (.lcnt r) := of_record rfl (GRec.word_opc _ r) rfl
theorem ctxa (r : CRec) : Statement (.ctxa r) := of_record rfl (CRec.word_opc _ r) rfl
theorem ctxf (r : GRec) : Statement (.ctxf r) := of_record rfl (GRec.word_opc _ r) rfl
theorem ctxj (r : GRec) : Statement (.ctxj r) := of_record rfl (GRec.word_opc _ r) rfl
theorem ctxs (r : GRec) : Statement (.ctxs r) := of_record rfl (GRec.word_opc _ r) rfl
theorem call (r : CRec) : Statement (.call r) := of_record rfl (CRec.word_opc _ r) rfl
theorem ret (r : CRec) : Statement (.ret r) := of_record rfl (CRec.word_opc _ r) rfl
theorem spawn (r : CRec) : Statement (.spawn r) := of_record rfl (CRec.word_opc _ r) rfl
theorem add (r : GRec) : Statement (.add r) := of_record rfl (GRec.word_opc _ r) rfl
theorem sub (r : GRec) : Statement (.sub r) := of_record rfl (GRec.word_opc _ r) rfl
theorem mul (r : GRec) : Statement (.mul r) := of_record rfl (GRec.word_opc _ r) rfl
theorem mulh (r : GRec) : Statement (.mulh r) := of_record rfl (GRec.word_opc _ r) rfl
theorem div (r : GRec) : Statement (.div r) := of_record rfl (GRec.word_opc _ r) rfl
theorem rem (r : GRec) : Statement (.rem r) := of_record rfl (GRec.word_opc _ r) rfl
theorem neg (r : GRec) : Statement (.neg r) := of_record rfl (GRec.word_opc _ r) rfl
theorem abs (r : GRec) : Statement (.abs r) := of_record rfl (GRec.word_opc _ r) rfl
theorem min (r : GRec) : Statement (.min r) := of_record rfl (GRec.word_opc _ r) rfl
theorem max (r : GRec) : Statement (.max r) := of_record rfl (GRec.word_opc _ r) rfl
theorem and (r : GRec) : Statement (.and r) := of_record rfl (GRec.word_opc _ r) rfl
theorem or (r : GRec) : Statement (.or r) := of_record rfl (GRec.word_opc _ r) rfl
theorem xor (r : GRec) : Statement (.xor r) := of_record rfl (GRec.word_opc _ r) rfl
theorem andn (r : GRec) : Statement (.andn r) := of_record rfl (GRec.word_opc _ r) rfl
theorem shl (r : GRec) : Statement (.shl r) := of_record rfl (GRec.word_opc _ r) rfl
theorem shr (r : GRec) : Statement (.shr r) := of_record rfl (GRec.word_opc _ r) rfl
theorem shra (r : GRec) : Statement (.shra r) := of_record rfl (GRec.word_opc _ r) rfl
theorem rot (r : GRec) : Statement (.rot r) := of_record rfl (GRec.word_opc _ r) rfl
theorem clz (r : GRec) : Statement (.clz r) := of_record rfl (GRec.word_opc _ r) rfl
theorem ctz (r : GRec) : Statement (.ctz r) := of_record rfl (GRec.word_opc _ r) rfl
theorem popc (r : GRec) : Statement (.popc r) := of_record rfl (GRec.word_opc _ r) rfl
theorem bfx (r : GRec) : Statement (.bfx r) := of_record rfl (GRec.word_opc _ r) rfl
theorem bfi (r : GRec) : Statement (.bfi r) := of_record rfl (GRec.word_opc _ r) rfl
theorem cmp (r : GRec) : Statement (.cmp r) := of_record rfl (GRec.word_opc _ r) rfl
theorem sel (r : GRec) : Statement (.sel r) := of_record rfl (GRec.word_opc _ r) rfl
theorem padd (r : GRec) : Statement (.padd r) := of_record rfl (GRec.word_opc _ r) rfl
theorem pdif (r : GRec) : Statement (.pdif r) := of_record rfl (GRec.word_opc _ r) rfl
theorem paln (r : GRec) : Statement (.paln r) := of_record rfl (GRec.word_opc _ r) rfl
theorem pcls (r : GRec) : Statement (.pcls r) := of_record rfl (GRec.word_opc _ r) rfl
theorem pbyt (r : GRec) : Statement (.pbyt r) := of_record rfl (GRec.word_opc _ r) rfl
theorem pbit (r : GRec) : Statement (.pbit r) := of_record rfl (GRec.word_opc _ r) rfl
theorem fadd (r : GRec) : Statement (.fadd r) := of_record rfl (GRec.word_opc _ r) rfl
theorem fsub (r : GRec) : Statement (.fsub r) := of_record rfl (GRec.word_opc _ r) rfl
theorem fmul (r : GRec) : Statement (.fmul r) := of_record rfl (GRec.word_opc _ r) rfl
theorem ffma (r : GRec) : Statement (.ffma r) := of_record rfl (GRec.word_opc _ r) rfl
theorem fmin (r : GRec) : Statement (.fmin r) := of_record rfl (GRec.word_opc _ r) rfl
theorem fmax (r : GRec) : Statement (.fmax r) := of_record rfl (GRec.word_opc _ r) rfl
theorem fdiv (r : GRec) : Statement (.fdiv r) := of_record rfl (GRec.word_opc _ r) rfl
theorem fsqrt (r : GRec) : Statement (.fsqrt r) := of_record rfl (GRec.word_opc _ r) rfl
theorem frcp (r : GRec) : Statement (.frcp r) := of_record rfl (GRec.word_opc _ r) rfl
theorem frsq (r : GRec) : Statement (.frsq r) := of_record rfl (GRec.word_opc _ r) rfl
theorem fex2 (r : GRec) : Statement (.fex2 r) := of_record rfl (GRec.word_opc _ r) rfl
theorem flg2 (r : GRec) : Statement (.flg2 r) := of_record rfl (GRec.word_opc _ r) rfl
theorem ftnh (r : GRec) : Statement (.ftnh r) := of_record rfl (GRec.word_opc _ r) rfl
theorem fcmp (r : GRec) : Statement (.fcmp r) := of_record rfl (GRec.word_opc _ r) rfl
theorem fcls (r : GRec) : Statement (.fcls r) := of_record rfl (GRec.word_opc _ r) rfl
theorem fscl (r : GRec) : Statement (.fscl r) := of_record rfl (GRec.word_opc _ r) rfl
theorem cvt (r : GRec) : Statement (.cvt r) := of_record rfl (GRec.word_opc _ r) rfl
theorem cvts (r : GRec) : Statement (.cvts r) := of_record rfl (GRec.word_opc _ r) rfl
theorem qblk (r : GRec) : Statement (.qblk r) := of_record rfl (GRec.word_opc _ r) rfl
theorem dqbk (r : GRec) : Statement (.dqbk r) := of_record rfl (GRec.word_opc _ r) rfl
theorem pack (r : GRec) : Statement (.pack r) := of_record rfl (GRec.word_opc _ r) rfl
theorem unpk (r : GRec) : Statement (.unpk r) := of_record rfl (GRec.word_opc _ r) rfl
theorem bcst (r : GRec) : Statement (.bcst r) := of_record rfl (GRec.word_opc _ r) rfl
theorem lane (r : GRec) : Statement (.lane r) := of_record rfl (GRec.word_opc _ r) rfl
theorem shuf (r : GRec) : Statement (.shuf r) := of_record rfl (GRec.word_opc _ r) rfl
theorem redl (r : GRec) : Statement (.redl r) := of_record rfl (GRec.word_opc _ r) rfl
theorem scnl (r : GRec) : Statement (.scnl r) := of_record rfl (GRec.word_opc _ r) rfl
theorem cmpx (r : GRec) : Statement (.cmpx r) := of_record rfl (GRec.word_opc _ r) rfl
theorem vlen (r : GRec) : Statement (.vlen r) := of_record rfl (GRec.word_opc _ r) rfl
theorem ld (r : MRec) : Statement (.ld r) := of_record rfl (MRec.word_opc _ r) rfl
theorem st (r : MRec) : Statement (.st r) := of_record rfl (MRec.word_opc _ r) rfl
theorem ldv (r : MRec) : Statement (.ldv r) := of_record rfl (MRec.word_opc _ r) rfl
theorem stv (r : MRec) : Statement (.stv r) := of_record rfl (MRec.word_opc _ r) rfl
theorem lds (r : MRec) : Statement (.lds r) := of_record rfl (MRec.word_opc _ r) rfl
theorem ldsE (r : MRec) : Statement (.ldsE r) := of_record rfl (MRec.word_opc _ r) rfl
theorem stf (r : MRec) : Statement (.stf r) := of_record rfl (MRec.word_opc _ r) rfl
theorem ste (r : MRec) : Statement (.ste r) := of_record rfl (MRec.word_opc _ r) rfl
theorem ldi (r : MRec) : Statement (.ldi r) := of_record rfl (MRec.word_opc _ r) rfl
theorem sti (r : MRec) : Statement (.sti r) := of_record rfl (MRec.word_opc _ r) rfl
theorem spld (r : MRec) : Statement (.spld r) := of_record rfl (MRec.word_opc _ r) rfl
theorem spst (r : MRec) : Statement (.spst r) := of_record rfl (MRec.word_opc _ r) rfl
theorem pref (r : MRec) : Statement (.pref r) := of_record rfl (MRec.word_opc _ r) rfl
theorem flsh (r : MRec) : Statement (.flsh r) := of_record rfl (MRec.word_opc _ r) rfl
theorem invl (r : MRec) : Statement (.invl r) := of_record rfl (MRec.word_opc _ r) rfl
theorem fence (r : MRec) : Statement (.fence r) := of_record rfl (MRec.word_opc _ r) rfl
theorem aadd (r : MRec) : Statement (.aadd r) := of_record rfl (MRec.word_opc _ r) rfl
theorem afad (r : MRec) : Statement (.afad r) := of_record rfl (MRec.word_opc _ r) rfl
theorem amin (r : MRec) : Statement (.amin r) := of_record rfl (MRec.word_opc _ r) rfl
theorem amax (r : MRec) : Statement (.amax r) := of_record rfl (MRec.word_opc _ r) rfl
theorem aand (r : MRec) : Statement (.aand r) := of_record rfl (MRec.word_opc _ r) rfl
theorem aor (r : MRec) : Statement (.aor r) := of_record rfl (MRec.word_opc _ r) rfl
theorem axor (r : MRec) : Statement (.axor r) := of_record rfl (MRec.word_opc _ r) rfl
theorem axch (r : MRec) : Statement (.axch r) := of_record rfl (MRec.word_opc _ r) rfl
theorem acas (r : MRec) : Statement (.acas r) := of_record rfl (MRec.word_opc _ r) rfl
theorem comb (r : GRec) : Statement (.comb r) := of_record rfl (GRec.word_opc _ r) rfl
theorem cbin (r : GRec) : Statement (.cbin r) := of_record rfl (GRec.word_opc _ r) rfl
theorem cbpt (r : GRec) : Statement (.cbpt r) := of_record rfl (GRec.word_opc _ r) rfl
theorem cbaq (r : GRec) : Statement (.cbaq r) := of_record rfl (GRec.word_opc _ r) rfl
theorem cbrl (r : GRec) : Statement (.cbrl r) := of_record rfl (GRec.word_opc _ r) rfl
theorem xcpy (r : XRec) : Statement (.xcpy r) := of_record rfl (XRec.word_opc _ r) rfl
theorem xtil (r : XRec) : Statement (.xtil r) := of_record rfl (XRec.word_opc _ r) rfl
theorem xgat (r : XRec) : Statement (.xgat r) := of_record rfl (XRec.word_opc _ r) rfl
theorem xsct (r : XRec) : Statement (.xsct r) := of_record rfl (XRec.word_opc _ r) rfl
theorem xfil (r : XRec) : Statement (.xfil r) := of_record rfl (XRec.word_opc _ r) rfl
theorem xbat (r : XRec) : Statement (.xbat r) := of_record rfl (XRec.word_opc _ r) rfl
theorem xwait (r : XRec) : Statement (.xwait r) := of_record rfl (XRec.word_opc _ r) rfl
theorem xhnd (r : XRec) : Statement (.xhnd r) := of_record rfl (XRec.word_opc _ r) rfl
theorem xrel (r : XRec) : Statement (.xrel r) := of_record rfl (XRec.word_opc _ r) rfl
theorem xsta (r : XRec) : Statement (.xsta r) := of_record rfl (XRec.word_opc _ r) rfl
theorem tlda (r : TRec) : Statement (.tlda r) := of_record rfl (TRec.word_opc _ r) rfl
theorem tldb (r : TRec) : Statement (.tldb r) := of_record rfl (TRec.word_opc _ r) rfl
theorem tscl (r : TRec) : Statement (.tscl r) := of_record rfl (TRec.word_opc _ r) rfl
theorem tmma (r : TRec) : Statement (.tmma r) := of_record rfl (TRec.word_opc _ r) rfl
theorem trot (r : TRec) : Statement (.trot r) := of_record rfl (TRec.word_opc _ r) rfl
theorem tzro (r : TRec) : Statement (.tzro r) := of_record rfl (TRec.word_opc _ r) rfl
theorem tacsRead (r : TRec) : Statement (.tacsRead r) := of_record rfl (TRec.word_opc _ r) rfl
theorem tacsWrite (r : TRec) : Statement (.tacsWrite r) := of_record rfl (TRec.word_opc _ r) rfl
theorem tacsStore (r : TRec) : Statement (.tacsStore r) := of_record rfl (TRec.word_opc _ r) rfl
theorem tcvq (r : TRec) : Statement (.tcvq r) := of_record rfl (TRec.word_opc _ r) rfl
theorem twait (r : TRec) : Statement (.twait r) := of_record rfl (TRec.word_opc _ r) rfl
theorem krsc (r : XRec) : Statement (.krsc r) := of_record rfl (XRec.word_opc _ r) rfl
theorem kagt (r : XRec) : Statement (.kagt r) := of_record rfl (XRec.word_opc _ r) rfl
theorem kard (r : XRec) : Statement (.kard r) := of_record rfl (XRec.word_opc _ r) rfl
theorem kxpr (r : XRec) : Statement (.kxpr r) := of_record rfl (XRec.word_opc _ r) rfl
theorem kwait (r : XRec) : Statement (.kwait r) := of_record rfl (XRec.word_opc _ r) rfl
theorem send (r : GRec) : Statement (.send r) := of_record rfl (GRec.word_opc _ r) rfl
theorem recv (r : GRec) : Statement (.recv r) := of_record rfl (GRec.word_opc _ r) rfl
theorem hvya (r : GRec) : Statement (.hvya r) := of_record rfl (GRec.word_opc _ r) rfl
theorem hvyr (r : GRec) : Statement (.hvyr r) := of_record rfl (GRec.word_opc _ r) rfl
theorem trap (r : GRec) : Statement (.trap r) := of_record rfl (GRec.word_opc _ r) rfl
theorem eret (r : GRec) : Statement (.eret r) := of_record rfl (GRec.word_opc _ r) rfl
theorem srd (r : GRec) : Statement (.srd r) := of_record rfl (GRec.word_opc _ r) rfl
theorem swr (r : GRec) : Statement (.swr r) := of_record rfl (GRec.word_opc _ r) rfl
theorem bkpt (r : GRec) : Statement (.bkpt r) := of_record rfl (GRec.word_opc _ r) rfl
theorem frz (r : GRec) : Statement (.frz r) := of_record rfl (GRec.word_opc _ r) rfl
theorem tlbiPage (r : GRec) : Statement (.tlbiPage r) := of_record rfl (GRec.word_opc _ r) rfl
theorem tlbiPart (r : GRec) : Statement (.tlbiPart r) := of_record rfl (GRec.word_opc _ r) rfl
theorem pmig (r : GRec) : Statement (.pmig r) := of_record rfl (GRec.word_opc _ r) rfl
theorem drcl (r : GRec) : Statement (.drcl r) := of_record rfl (GRec.word_opc _ r) rfl
theorem lcmp (r : GRec) : Statement (.lcmp r) := of_record rfl (GRec.word_opc _ r) rfl
theorem tokenDelivery (i : Nat) : Statement (.tokenDelivery i) := of_event rfl
theorem tokenRefill (i : Nat) : Statement (.tokenRefill i) := of_event rfl
theorem activationStart (act : Nat) : Statement (.activationStart act) := of_event rfl
theorem blockFetchVerify (act : Nat) : Statement (.blockFetchVerify act) := of_event rfl
theorem predictSuccessor (act : Nat) (blk : Word) : Statement (.predictSuccessor act blk) := of_event rfl
theorem imagePrefetch (sleeve : Nat) (blk : Word) : Statement (.imagePrefetch sleeve blk) := of_event rfl
theorem iterationStart (loop : Nat) : Statement (.iterationStart loop) := of_event rfl
theorem lcntIterationToken (loop : Nat) : Statement (.lcntIterationToken loop) := of_event rfl
theorem activationCommit (act : Nat) : Statement (.activationCommit act) := of_event rfl
theorem colourFree (part col : Nat) : Statement (.colourFree part col) := of_event rfl
theorem colourResident (part col : Nat) : Statement (.colourResident part col) := of_event rfl
theorem spawnRetryReissue (i : Nat) : Statement (.spawnRetryReissue i) := of_event rfl
theorem storePerform (sid : Nat) : Statement (.storePerform sid) := of_event rfl
theorem loadDataReturn (op : Nat) : Statement (.loadDataReturn op) := of_event rfl
theorem forwardingTableDrain (sleeve : Nat) : Statement (.forwardingTableDrain sleeve) := of_event rfl
theorem writeBack (line : Nat) : Statement (.writeBack line) := of_event rfl
theorem hbmScrub (sector : Nat) (uncorrectable : Bool) : Statement (.hbmScrub sector uncorrectable) := of_event rfl
theorem heatDecayDone : Statement .heatDecayDone := of_event rfl
theorem fenceComplete (op : Nat) : Statement (.fenceComplete op) := of_event rfl
theorem tlbiComplete (op : Nat) : Statement (.tlbiComplete op) := of_event rfl
theorem pmigSwitch (op : Nat) : Statement (.pmigSwitch op) := of_event rfl
theorem eretComplete (op : Nat) : Statement (.eretComplete op) := of_event rfl
theorem heavyGrant (part : Nat) : Statement (.heavyGrant part) := of_event rfl
theorem hemCommandArrival (i : Nat) : Statement (.hemCommandArrival i) := of_event rfl
theorem tmmaStart (isl : Nat) : Statement (.tmmaStart isl) := of_event rfl
theorem trotStart (sleeve : Nat) : Statement (.trotStart sleeve) := of_event rfl
theorem hemCommandComplete (cmd : Nat) : Statement (.hemCommandComplete cmd) := of_event rfl
theorem transferAccept (xisl : Nat) : Statement (.transferAccept xisl) := of_event rfl
theorem transferUnitWrite (tid : Nat) : Statement (.transferUnitWrite tid) := of_event rfl
theorem collectiveStart (cisl : Nat) : Statement (.collectiveStart cisl) := of_event rfl
theorem collectiveComplete (cid : Nat) : Statement (.collectiveComplete cid) := of_event rfl
theorem tokloWrite (cuff : Nat) (v : Word) : Statement (.tokloWrite cuff v) := of_event rfl
theorem tokhiWrite (cuff : Nat) (v : Word) : Statement (.tokhiWrite cuff v) := of_event rfl
theorem sync (cuff : Nat) (seq : BitVec 32) : Statement (.sync cuff seq) := of_event rfl
theorem config (cuff : Nat) : Statement (.config cuff) := of_event rfl
theorem arg (cuff : Nat) : Statement (.arg cuff) := of_event rfl
theorem start (cuff : Nat) : Statement (.start cuff) := of_event rfl
theorem unload (cuff : Nat) : Statement (.unload cuff) := of_event rfl
theorem freeze (cuff : Nat) : Statement (.freeze cuff) := of_event rfl
theorem freezeEnd (part : Nat) : Statement (.freezeEnd part) := of_event rfl
theorem resume (cuff : Nat) : Statement (.resume cuff) := of_event rfl
theorem reset (cuff : Nat) : Statement (.reset cuff) := of_event rfl
theorem watchdogExpiry (queue : Nat) : Statement (.watchdogExpiry queue) := of_event rfl
theorem egackWrite (cuff : Nat) (v : Word) : Statement (.egackWrite cuff v) := of_event rfl
theorem qcfgWrite (cuff : Nat) (v : Word) : Statement (.qcfgWrite cuff v) := of_event rfl
theorem replay (part : Nat) (fseq : BitVec 32) : Statement (.replay part fseq) := of_event rfl
theorem replayAll (part : Nat) : Statement (.replayAll part) := of_event rfl
theorem abandon (part : Nat) (fseq : BitVec 32) : Statement (.abandon part fseq) := of_event rfl
theorem replayEnd (part : Nat) (fseq : BitVec 32) : Statement (.replayEnd part fseq) := of_event rfl
theorem thaw (part : Nat) (fseq : BitVec 32) : Statement (.thaw part fseq) := of_event rfl
theorem fqseqWrite (part : Nat) (v : Word) : Statement (.fqseqWrite part v) := of_event rfl
theorem olseqWrite (v : Word) : Statement (.olseqWrite v) := of_event rfl
theorem hold : Statement .hold := of_event rfl
theorem release : Statement .release := of_event rfl
theorem rebuild : Statement .rebuild := of_event rfl
theorem rebuildDone : Statement .rebuildDone := of_event rfl
theorem gcfgWrite (v : Word) : Statement (.gcfgWrite v) := of_event rfl
theorem gmemWrite (k : Nat) (v : Word) : Statement (.gmemWrite k v) := of_event rfl
theorem memberLostTimeout (rank : Nat) : Statement (.memberLostTimeout rank) := of_event rfl
theorem ownerLostTimeout (line : Nat) : Statement (.ownerLostTimeout line) := of_event rfl
theorem remoteTimeout (rid : BitVec 32) : Statement (.remoteTimeout rid) := of_event rfl
theorem heatkWrite (v : Word) : Statement (.heatkWrite v) := of_event rfl
theorem heatdWrite (v : Word) : Statement (.heatdWrite v) := of_event rfl
theorem cmbasWrite (v : Word) : Statement (.cmbasWrite v) := of_event rfl
theorem badUnitWrite (num : Nat) (v : Word) : Statement (.badUnitWrite num v) := of_event rfl
theorem registerWrite (num : Nat) (v : Word) (via : Via) : Statement (.registerWrite num v via) := of_event rfl
theorem read (src : Nat) (m : AccessMsg) : Statement (.read src m) := of_event rfl
theorem readData (src : Nat) (m : DataMsg) : Statement (.readData src m) := of_event rfl
theorem write (src : Nat) (m : AccessMsg) : Statement (.write src m) := of_event rfl
theorem writeAck (src : Nat) (rid : BitVec 32) : Statement (.writeAck src rid) := of_event rfl
theorem atomic (src : Nat) (m : AtomicMsg) : Statement (.atomic src m) := of_event rfl
theorem atomicData (src : Nat) (m : DataMsg) : Statement (.atomicData src m) := of_event rfl
theorem delta (src : Nat) (m : DeltaMsg) : Statement (.delta src m) := of_event rfl
theorem pdelta (src : Nat) (m : DeltaMsg) : Statement (.pdelta src m) := of_event rfl
theorem dack (src : Nat) (dseq : BitVec 32) : Statement (.dack src dseq) := of_event rfl
theorem error (src : Nat) (status : BitVec 8) (rid : BitVec 32) : Statement (.error src status rid) := of_event rfl
theorem coll (src : Nat) (m : CollMsg) : Statement (.coll src m) := of_event rfl
theorem linkRetryRequest (port : Nat) (lack : BitVec 12) : Statement (.linkRetryRequest port lack) := of_event rfl
theorem helupPortOut (port : Nat) : Statement (.helupPortOut port) := of_event rfl
theorem cxlLinkTrain (port : Nat) (offer : CxlOffer) : Statement (.cxlLinkTrain port offer) := of_event rfl
theorem firmwareUpdate (b : Bundle) : Statement (.firmwareUpdate b) := of_event rfl
theorem attestationRequest (nonce : BitVec 512) : Statement (.attestationRequest nonce) := of_event rfl
theorem badBitClear (num bit : Nat) : Statement (.badBitClear num bit) := of_event rfl
theorem deviceReset : Statement .deviceReset := of_event rfl
theorem thermalThrottle : Statement .thermalThrottle := of_event rfl
theorem thermalShutdown : Statement .thermalShutdown := of_event rfl
theorem helupFlit (port : Nat) (f : Flit) : Statement (.helupFlit port f) := of_event rfl
theorem podLineRequest (r : PodRequest) : Statement (.podLineRequest r) := of_event rfl
theorem snoop (line : Nat) (kind : SnoopKind) : Statement (.snoop line kind) := of_event rfl
theorem snoopReply (line : Nat) (m : SnoopAnswer) : Statement (.snoopReply line m) := of_event rfl
theorem pageWalkDone (walk : Nat) : Statement (.pageWalkDone walk) := of_event rfl
theorem errorCountMirror : Statement .errorCountMirror := of_event rfl
theorem errorCountClear : Statement .errorCountClear := of_event rfl
theorem badBitSet (num bit : Nat) : Statement (.badBitSet num bit) := of_event rfl

end Opc

end Sys2Proof.Laws
end

