-- ==== Sys2Proof/Tests/Slice0.lean ====
section
/-! SUPPORT. Tests: decoding of words written out from the spec, the refusals of ill-formed terms, small runs of single
instructions with results taken from the spec, and for every statement with hypotheses a state that meets them. -/

namespace Sys2Proof.Tests

set_option Elab.async false

open Sys2Proof Sys2Proof.Machine Sys2Proof.Claims

/-- A state whose firing has these operands. -/
def withOps (s : State) (a b c p : Option TokVal) : State :=
  { s with cur := { act := 3, sleeve := 2, grant := 1, tag := 0x0001000000000000, blk := 0x4000, a := a, b := b, c := c, p := p } }

/-- The machine after reset with a placed block: activation 3 on sleeve 2 in colour 1 of partition 0. -/
def placed : State := placeRecord State.reset 0
def on (a b c : Option TokVal) : State := withOps placed a b c none
def rec1 (ty : Ty) (ar : Arity) (lit : BitVec 32) : GRec := plainG ty ar (.node 1 .a false) .none .scalar lit
def sat1 (ty : Ty) (ar : Arity) : GRec := { rec1 ty ar 0 with c := { (rec1 ty ar 0).c with fn := 1 } }
def one : TokVal := scalarOf 1
def two : TokVal := scalarOf 2
def top : TokVal := scalarOf 0x80000000
def vec : TokVal := vectorOf [1, 2, 3]

theorem wit_integer :
    (Scalars (rec1 .i32 .ab 0) (on (some top) (some one) none) [top, one] ∧ (rec1 .i32 .ab 0).c.fn.getLsbD 0 = false) ∧
    (Scalars (sat1 .i32 .ab) (on (some top) (some one) none) [top, one] ∧ (sat1 .i32 .ab).c.fn.getLsbD 0 = true) ∧
    Scalars (rec1 .i32 .a 0) (on (some top) none none) [top] ∧ Scalars (sat1 .i32 .a) (on (some top) none none) [top] ∧
    Scalars (rec1 .i64 .abc 0) (on (some top) (some one) (some two)) [top, one, two] := by
  unfold Scalars Clean; decide +kernel

def f32 (ar : Arity) : GRec := rec1 .f32 ar 0
def fone : TokVal := scalarOf 0x3F800000
def ftwo : TokVal := scalarOf 0x40000000
def tagA (d : Nat) : Word := BitVec.ofNat 64 (2 ^ 48 + d * 2 ^ 40)
def crec (exn : BitVec 3) (bofs : BitVec 32) : CRec := { c := (rec1 .i64 .a 0).c, exn := exn, bofs := bofs }
/-- A later activation of the same thread, at the next block. -/
def placed2 : State := (addAct placed 0 0x0001000000000000 0x8000 .predicted 0 0).2
/-- Colour 1 as the callee of a call. -/
def called : State := updColour placed 1 fun c => { c with called := true, caller := 3 }

theorem wit_marks :
    Instr.add ∈ pureForms ∧ anyPoisoned (on (some { one with poi := true }) none none).cur = true ∧
    anyPoisoned (on (some nullTok) none none).cur = false ∧ anyNull (on (some nullTok) none none).cur = true ∧
    tagFaults (begin (on (some one) (some one) none) { (rec1 .i32 .ab 0).c with tg := .wave, t0 := .node 1 .a true } 0).cur = true ∧
    Clean (on (some one) (some one) none) (rec1 .i32 .ab 0).c 0 ∧ (rec1 .i32 .ab 0).c.tg ≠ .wave ∧ (rec1 .i32 .ab 0).c.tg ≠ .push := by
  refine ⟨by simp [pureForms], ?_⟩
  unfold Clean; decide +kernel

theorem wit_tags : tagDepth (tagA 0) ≤ 5 ∧ tagDepth (tagA 5) ≤ 5 ∧ (applyTag .push (tagA 4) 0 0).isSome = true ∧ applyTag .push (tagA 5) 0 0 = none ∧
    applyTag .pop (tagA 0) 0 0 = none ∧ (applyTag .colour (tagA 5) 0 7).isSome = true ∧
    actLive (actOf placed (on (some one) none none).cur.act) = true ∧ (lookup placed.acts 3).isSome = true ∧ Port.a ≠ .c ∧
    (on (some one) none none).cur.com.tg = .keep := by decide +kernel

theorem wit_dataflow :
    (let s := on (some { one with poi := true }) (some one) none
     s.cur.a = some { one with poi := true } ∧ isPoisoned s.cur.p = false ∧ isNull s.cur.p = false ∧
     tagFaults (begin s (rec1 .i64 .ab 0).c 0).cur = false ∧ isPoisoned s.cur.b = false ∧ isNull s.cur.b = false) ∧
    (let s := on (some one) (some (scalarOf (tagA 5))) none
     Clean s (rec1 .i64 .ab 0).c 0 ∧ s.cur.b = some (scalarOf (tagA 5)) ∧ tagDepth (scalarOf (tagA 5)).word < 6 ∧
     6 ≤ tagDepth (scalarOf (tagA 6)).word) := by unfold Clean; decide +kernel

theorem wit_lanes : minLn [vec, one] = some 3 ∧ minLn [vectorOf (List.replicate 32 1)] = some 32 := by decide +kernel

theorem wit_float :
    Scalars (f32 .ab) (on (some fone) (some ftwo) none) [fone, ftwo] ∧ Scalars (f32 .abc) (on (some fone) (some ftwo) (some fone)) [fone, ftwo, fone] ∧
    Scalars (f32 .a) (on (some fone) none none) [fone] ∧
    (floatArgs (f32 .ab) [fone, ftwo] 0).compare (floatArgs (f32 .ab) [fone, ftwo] 1) = some (-1) ∧
    (floatArgs (f32 .ab) [ftwo, fone] 0).compare (floatArgs (f32 .ab) [ftwo, fone] 1) = some 1 ∧
    (floatArgs (f32 .ab) [fone, ftwo] 0).isZero = false ∧ (floatArgs (f32 .ab) [fone, ftwo] 1).isZero = false ∧ (f32 .ab).na = .keep ∧
    ftzOf (f32 .ab) = false ∧ (f32 .ab).c.ty.isFloat = true := by unfold Scalars Clean; decide +kernel

/-- A NaN of each sign, and the zeros. -/
def nanA : TokVal := scalarOf 0x7F800001
def nanB : TokVal := scalarOf 0xFFC00000
theorem wit_special :
    (∀ l ∈ [[nanA, fone], [fone, nanB], [nanB, nanA], [scalarOf 0, top], [top, scalarOf 0]], Scalars (f32 .ab) (on l[0]? l[1]? none) l) ∧
    (floatArgs (f32 .ab) [nanA, fone] 0).isNan = true ∧ (floatArgs (f32 .ab) [nanA, fone] 1).isNan = false ∧
    (floatArgs (f32 .ab) [nanB, nanA] 0).neg = true ∧ (floatArgs (f32 .ab) [nanB, nanA] 1).isNan = true ∧
    (floatArgs (f32 .ab) [top, scalarOf 0] 0).isZero = true ∧ (floatArgs (f32 .ab) [top, scalarOf 0] 1).isZero = true ∧
    (floatArgs (f32 .ab) [top, scalarOf 0] 0).neg ≠ (floatArgs (f32 .ab) [top, scalarOf 0] 1).neg ∧ Machine.Num.isNan (.fin true 0 1 0) = false := by
  unfold Scalars Clean; decide +kernel
theorem wit_overflow : (2 : ℚ) ^ (128 : Int) ≤ ((1 : Nat) : ℚ) / (1 : Nat) * (2 : ℚ) ^ (128 : Int) ∧ (0 : Nat) < 1 ∧ Ty.isFloat .e4m3 = true := by
  norm_num; decide
/-- Numbers that meet each clause about the unary functions: 2^-70 and 9 squared, 2 to an integer, an integer at each end, and a negative one. -/
theorem wit_unary :
    (value (.fin false 81 1 0) = some 81 ∧ (81 : ℚ) = (((9 : Nat) : ℚ) * (2 : ℚ) ^ (0 : Int)) ^ 2 ∧ (9 : Nat) < 2 ^ 64) ∧
    (value (.fin false 1 1 0) = some 1 ∧ (1 : ℚ) = (((2 ^ 63 : Nat) : ℚ) * (2 : ℚ) ^ (-63 : Int)) ^ 2 ∧ (2 ^ 63 : Nat) < 2 ^ 64) ∧
    (value (.fin true 4095 1 0) = some ((-4095 : Int) : ℚ) ∧ |(-4095 : Int)| < 4096 ∧ (((-4095 : Int) : ℚ) < 0)) ∧
    (value (.fin false 3 12 0) = some (1 / 4) ∧ (1 / 4 : ℚ) = (2 : ℚ) ^ (-2 : Int)) := by norm_num [value]

theorem wit_exact : value (.fin false 1 2 0) = some (1 / 2) ∧ value (.fin true 3 1 0) = some (-3) ∧ (-3 : ℚ) ≠ 0 ∧
    value (.fin false 0 1 0) = some 0 := by norm_num [value]

theorem wit_round_trip : Ty.isFloat .e4m3 = true ∧ 0x7E < 2 ^ Ty.width .e4m3 ∧ (readFloat (fmtOf .e4m3) 0x7E).isNan = false ∧
    (readFloat (fmtOf .e4m3) 0x7E).isInf = false ∧ (readFloat (fmtOf .f32) 0x80000000).isNan = false ∧
    (readFloat (fmtOf .f32) 0x80000000).isInf = false := by decide +kernel

/-- CVT to I8 from F32 (source code 8), and from I16 with and without saturation; QBLK, DQBK and PACK. -/
def cvtRec (ty : Ty) (src : BitVec 8) (sat : Sat) : GRec := { rec1 ty .a 0 with aux := src, sat := sat }

theorem wit_convert :
    OneScalar (cvtRec .i8 8 .none) (on (some fone) (some ftwo) none) fone ∧ OneScalar (cvtRec .i8 2 .none) (on (some fone) none none) fone ∧
    OneScalar (cvtRec .i8 2 .sat) (on (some fone) none none) fone := by
  refine ⟨?_, ?_, ?_⟩ <;> (unfold OneScalar NoMode Clean; decide +kernel)

theorem wit_convert_kinds : (srcTy (cvtRec .i8 8 .none)).isFloat = true ∧ (on (some fone) (some ftwo) none).cur.b = some ftwo ∧
    (srcTy (cvtRec .i8 2 .none)).isFloat = false ∧ (cvtRec .i8 2 .sat).sat ≠ .none ∧ Ty.isFloat .i8 = false := by decide +kernel

theorem wit_quantise :
    OneScalar (rec1 .e4m3 .ab 0) (on (some fone) (some ftwo) none) fone ∧ OneScalar (rec1 .i4 .ab 0) (on (some fone) (some ftwo) none) fone := by
  refine ⟨?_, ?_⟩ <;> (unfold OneScalar NoMode Clean; decide +kernel)

theorem wit_quantise_kinds : (readFloat (fmtOf .f32) (fone.lane 0)).isNan = false ∧ (readFloat (fmtOf .f32) (fone.lane 0)).isInf = false ∧
    ftwo.kind = .scalar ∧ (rec1 .e4m3 .ab 0).lm = .scalar ∧ Ty.width .i4 ≤ 16 ∧ Ty.isFloat .i4 = false ∧ (rec1 .i4 .ab 0).sat = .none := by
  decide +kernel

def vrec (ty : Ty) (ar : Arity) (lm : LaneMode) (lit : BitVec 32) : GRec := { rec1 ty ar lit with lm := lm }

theorem wit_lane_forms :
    (let s := on (some one) none none
     Clean s (vrec .i32 .a .vector 32).c 32 ∧ s.cur.a = some one ∧ one.kind = .scalar ∧ (vrec .i32 .a .vector 32).lit.toNat % 64 = 32) ∧
    (let s := on (some vec) (some vec) none
     Clean s (vrec .i32 .ab .vector 0).c 0 ∧ s.cur.a = some vec ∧ vec.kind = .vector ∧ operandsOf (vrec .i32 .ab .vector 0) 2 s.cur = [vec, vec] ∧
     s.cur.b = some vec ∧ 0 < vec.ln ∧ vec.ln ≤ 32 ∧ (vrec .i32 .ab .vector 0).c.ar ≠ .a ∧ (vrec .i32 .a .vector 31).c.ar = .a) ∧
    (let s := on (some vec) none none
     Clean s (vrec .i32 .a .vector 0).c 0 ∧ (vrec .i32 .a .vector 0).c.ty.isFloat = false ∧ elemsOf .vector 32 vec = [1, 2, 3] ∧
     (vrec .i32 .a .vector 0).c.fn = 0 ∧ (vrec .i32 .a .vector 0).sat = .none ∧ elemsOf .packed 3 (vectorOf (List.replicate 32 0)) ≠ [] ∧
     (elemsOf .packed 3 (vectorOf (List.replicate 32 0))).length ≤ 512) := by unfold Clean; decide +kernel

/-- REDL and SCNL of 32 packed I3 lanes, and of F32 lanes under NVER 7; an integer and a float COMB of scalars and of vectors. -/
def combWord (ty : Ty) (fn : BitVec 4) (lit : BitVec 32) : Nat :=
  ((encodeRecord (.comb { vrec ty .a .vector lit with c := { (vrec ty .a .vector lit).c with fn := fn } })).getD 0).toNat
theorem wit_reduce :
    (let s := on (some (vectorOf (List.replicate 32 7))) none none
     let r := { vrec .i3 .a .packed 0 with c := { (vrec .i3 .a .packed 0).c with fn := 5 } }
     Clean s r.c 0 ∧ s.cur.a = some (vectorOf (List.replicate 32 7)) ∧ r.lm ≠ .scalar ∧ r.c.fn.toNat ≤ 5 ∧
     (elemsOf r.lm r.c.ty.width (vectorOf (List.replicate 32 7))).length = 320 ∧ (vectorOf (List.replicate 32 7)).ln ≤ 32) ∧
    (let s := updPart (on (some vec) none none) 0 fun x => { x with nver := 7 }
     let r := vrec .f32 .a .vector 0
     Clean s r.c 0 ∧ (partOf s s.cur.part).nver = 7 ∧ r.c.fn.toNat ≤ 2 ∧ elemsOf r.lm 32 vec ≠ []) ∧
    (∀ ty ∈ [Ty.i64, .i8, .bf16], ∀ fn ∈ [0, 2], ∃ r, GRec.ofWord (BitVec.ofNat 96 (combWord ty fn 3)) = some r ∧ r.c.fn = fn ∧ r.lm = .vector ∧
      0 < placesOf r.lm r.c.ty.width (vectorOf [1, 2]).ln ∧ (vectorOf [1, 2]).ln ≤ vec.ln ∧ (vectorOf [1, 2]).ln % 2 = 0) := by
  refine ⟨by unfold Clean; decide +kernel, by unfold Clean; decide +kernel, ?_⟩
  intro ty ht fn hf
  simp only [List.mem_cons, List.not_mem_nil, or_false] at ht hf
  rcases ht with rfl | rfl | rfl <;> rcases hf with rfl | rfl <;> exact ⟨_, rfl, by decide +kernel⟩

theorem wit_exits :
    (let s := on (some (scalarOf 0x8000)) none none
     anyPoisoned s.cur = false ∧ anyNull s.cur = false ∧ (actOf s s.cur.act).exits = [] ∧ (crec 0 1).exn.toNat < imgXcnt (actOf s s.cur.act).image ∧
     laterInThread s (actOf s s.cur.act) = [] ∧ (opWord s.cur.a).toNat % 16384 = 0) ∧
    (let s := withOps (updAct placed 3 fun x => { x with exits := [(0, 0, .leave)] }) (some (scalarOf 1)) none none none
     anyPoisoned s.cur = false ∧ anyNull s.cur = false ∧ (actOf s s.cur.act).exits ≠ [] ∧ (opWord s.cur.a).toNat % 16384 ≠ 0) ∧
    imgXcnt (actOf placed 3).image ≤ (crec 1 0).exn.toNat ∧ anyPoisoned (on (some { one with poi := true }) none none).cur = true ∧
    anyNull (on (some nullTok) none none).cur = true := by decide +kernel

theorem wit_mispredict :
    let s := withOps placed2 none none none none
    anyPoisoned s.cur = false ∧ anyNull s.cur = false ∧ (actOf s s.cur.act).exits = [] ∧ (crec 0 1).exn.toNat < imgXcnt (actOf s s.cur.act).image ∧
    (actOf s s.cur.act).isTwin = false ∧ (4 : Nat) ≠ s.cur.act ∧ laterInThread s (actOf s s.cur.act) = [4] ∧
    (actOf s 4).blk = farBlock s.cur.blk (crec 0 1).bofs ∧ (actOf s s.cur.act).pushed = none ∧
    (actOf s 4).blk ≠ farBlock s.cur.blk (crec 0 2).bofs := by decide +kernel

theorem wit_loops :
    (Clean (on (some one) none none) (rec1 .i64 .a 5).c 5 ∧ (on (some one) none none).cur.a = some one) ∧
    (let s := on (some one) none none
     let b := begin s { (rec1 .i64 .a 1).c with t0 := .far 0 .a false } 0x20001
     anyPoisoned s.cur = false ∧ anyNull s.cur = false ∧ tagFaults b.cur = false ∧ actLive (actOf s s.cur.act) = true ∧
     (actOf s s.cur.act).pushed = none ∧ imageFor s s.cur.sleeve (lcntHead b.cur) = none ∧ one.lane 0 ≠ 0) ∧
    (scalarOf 0).lane 0 = 0 ∧ anyNull (on (some nullTok) none none).cur = true ∧ anyPoisoned (on (some nullTok) none none).cur = false := by
  unfold Clean; decide +kernel

theorem residents_few (s : State) (v q : Nat) : (residents s v q).length ≤ s.colours.length := by
  unfold residents; exact List.length_filter_le _ _

theorem none_wait (s : State) (h : (s.colours.all fun x => x.2.st == .resident) = true) (v q : Nat) : waitingColours s v q = [] := by
  unfold waitingColours
  rw [List.filter_eq_nil_iff.mpr]; · rfl
  intro x hx; have := List.all_eq_true.mp h x hx; rw [beq_iff_eq] at this; rw [this]; simp

theorem wit_creation :
    (let s := on (some (scalarOf 0x10000)) none none
     Clean s (crec 0 1).c 1 ∧ s.cur.act ≠ 0 ∧ (s.colours.filter fun x => x.2.part == s.cur.part).length < 65535 ∧
     spawnSleeve s s.cur.sleeve (opWord s.cur.a) = some 2) ∧
    ∀ v q, (residents (on (some (scalarOf 0x10000)) none none) v q).length < 64 ∧ waitingColours (on (some (scalarOf 0x10000)) none none) v q = [] := by
  refine ⟨by unfold Clean; decide +kernel, fun v q => ⟨lt_of_le_of_lt (residents_few _ v q) ?_, none_wait _ ?_ v q⟩⟩ <;> decide +kernel

theorem wit_colours :
    (let s := on (some (scalarOf 1)) (some (scalarOf 32)) none
     Clean s (rec1 .i64 .ab 0).c 0 ∧ live s 1 = true ∧ colourKey s.cur.part ((opWord s.cur.a).toNat % 65536) = (actOf s s.cur.act).colour ∧
     (opWord s.cur.b).toNat % 64 = 32) ∧
    (let s := on (some (scalarOf 2)) (some (scalarOf 1)) none
     Clean s (rec1 .i64 .ab 0).c 0 ∧ live s (colourKey s.cur.part 2) = false ∧ colourKey s.cur.part 2 ≠ (actOf s s.cur.act).colour ∧
     live { s with colours := insertAt s.colours 2 { num := 2, st := .resident } } (colourKey s.cur.part 2) = true) ∧
    (let s := withOps called (some one) none none none
     anyPoisoned s.cur = false ∧ isNull s.cur.p = false ∧ (colourOf s (actOf s s.cur.act).colour).called = true ∧ actLive (actOf s s.cur.act) = true ∧
     (actOf s s.cur.act).exits = [] ∧ (crec 0 0).exn.toNat < imgXcnt (actOf s s.cur.act).image ∧ laterInThread s (actOf s s.cur.act) = []) ∧
    (colourOf placed (actOf placed 3).colour).called = false := by unfold Clean; decide +kernel

/-! ## Memory -/

/-- A leaf of page 1 of device memory: readable, writable, executable, with full/empty words. -/
def leafA : Word := 0xC000000000004138
def mrec (ty : Ty) (ar : Arity) (ordr : Order) (fn : BitVec 4) : MRec :=
  { c := { (rec1 ty ar 0).c with fn := fn }, own := 0, pred := 31, succ := 31, ordr := ordr, ofs := 0 }
/-- The placed state with the page of bit address 0x80000 mapped and its translation cached. -/
def mapped : State :=
  { updPart placed 0 fun x => { x with ptbr := 0x8000000000000000 } with tlbQuad := [(0, [{ part := 0, va := 0x80000, big := false, leaf := leafA }])] }
def at80 : TokVal := scalarOf 0x80000
def partA (w : Nat) : Part := { va := 0x80000, width := w, leaf := leafA }
def memOps (b c : Option TokVal) : State := withOps mapped (some at80) b c none

theorem exists_linear (a w : Nat) (h : (a + w - 1) / 8 < deviceBytes) : Exists 0 a w := by
  intro o _ h2
  have : o < deviceBytes := by omega
  simpa [apertureExists] using this

theorem wit_read_after_write : (2 : Nat) ≤ 2 ∧ Exists 0 5 3 ∧ Exists 0 (8 * deviceBytes - 6) 6 := by
  refine ⟨by omega, exists_linear 5 3 ?_, exists_linear _ _ ?_⟩ <;> decide +kernel

def needA (u : Use) : Need := { use := u, width := 32 }

theorem wit_address :
    let s := memOps none none
    let e : TlbEntry := { part := 0, va := 0x80000, big := false, leaf := leafA }
    (partOf s s.cur.part).ptbr.getLsbD 63 = true ∧ tlbLookup s (.quad (s.cur.en / 4)) s.cur.part 0x80000 = some e ∧
    waitsAt s (formAt s.cur) = none ∧
    canonical 0x80000 = true ∧ canonical 0x1000000000000000 = false ∧ permission false .write leafA = none ∧
    permission false .write (leafA &&& ~~~0x10#64) = some 3 ∧ apertureBad s .write leafA false 0x80000 32 = false ∧
    apertureBad s .atomic (leafA ||| 0x1000#64) false 0x80000 32 = true ∧
    windowBad s 0x80000 (needA .write) (partA 32) = false ∧ classBad s (needA .write) 0x80000 (partA 32) = false ∧
    classBad s { needA .sync with sync := true } 0x80030 { partA 32 with va := 0x80030 } = true := by decide +kernel

theorem wit_permission : leafSup 0x40 = true ∧ leafSup leafA = false ∧ leafR (leafA &&& ~~~8#64) = false ∧ leafW (leafA &&& ~~~0x10#64) = false ∧
    leafX (leafA &&& ~~~0x20#64) = false ∧ leafDr (leafA ||| 0x800#64) = true := by decide +kernel

theorem local_A (s : State) (h : lostLoc s (.dev 0 0x80000) = false ∧ ownedLoc s (.dev 0 0x80000) = none)
    (hp : partLoc s (partA 32) = .dev 0 0x80000) : Local s [partA 32] := by
  intro p hm
  simp only [List.mem_singleton] at hm
  subst hm
  exact ⟨Or.inr ⟨0, 0x80000, hp⟩, by rw [hp]; exact h.1, by rw [hp]; exact h.2⟩

theorem wit_loads :
    let s := memOps none none
    (Clean s (mrec .i32 .a .relaxed 3).c 0 ∧ Quiet s) ∧ Local s [partA 32] ∧
    resolve (begin s (mrec .i32 .a .relaxed 3).c 0) (begin s (mrec .i32 .a .relaxed 3).c 0).cur { use := .read, width := 32 } [0x80000] = .ok [partA 32] ∧
    vectorCount 32 1 = 1 := by
  refine ⟨by unfold Clean Quiet; decide +kernel, local_A _ ?_ ?_, ?_, ?_⟩ <;> decide +kernel

theorem wit_load_value : (16 : Nat) < Ty.width .i32 ∧ 5 < 2 ^ 16 ∧ 7 < 2 ^ (Ty.width .i32 - 16) ∧ (0 : Nat) < 2 ^ 0 ∧ 7 < 2 ^ (Ty.width .i32 - 0) := by
  decide +kernel

theorem wit_load_return : lookup [(4, ({ f := {}, w := .data one, order := 4 } : Op))] 4 = some { f := {}, w := .data one, order := 4 } := by
  decide +kernel

theorem wit_stores :
    let s := memOps (some two) none
    Clean s (mrec .i32 .ab .relaxed 3).c 0 ∧
    (∀ x ∈ [(Instr.st, StoreKind.plain, Use.write), (.stf, .fill, .sync), (.sti, .single, .sync)],
      resolve (begin s (mrec .i32 .ab .relaxed 3).c 0) (begin s (mrec .i32 .ab .relaxed 3).c 0).cur
        { use := x.2.2, width := 32, sync := x.2.2.words, psto := imgPsto (actOf s 3).image } [0x80000] = .ok [partA 32]) ∧
    ∀ y, conflicting s y = [] := by
  refine ⟨by unfold Clean; decide +kernel, ?_, fun _ => rfl⟩
  intro x hx
  simp only [List.mem_cons, List.not_mem_nil, or_false] at hx
  rcases hx with rfl | rfl | rfl <;> decide +kernel

theorem wit_scratch :
    Clean (on (some (scalarOf 0x40)) (some two) none) (mrec .i32 .ab .relaxed 0).c 0 ∧ scratchBad (sleeveOf placed 2) 0x40 32 = false ∧
    scratchBad (sleeveOf placed 2) 0x1FFFF0 32 = true ∧ ordered (mrec .i32 .ab .relaxed 0) = false ∧ alignClass 0x40 32 ≠ .x ∧
    (sleeveOf (updSleeve placed 2 fun v => { v with fwd := [(0x40, 32, 7)] }) 2).fwd = [(0x40, 32, 7)] ∧
    (let x : Store := { act := 3, sleeve := 2, colour := 1, serial := 1, kind := .scratch, elems := [{ va := 0x40, width := 32, pat := 7 }], committed := true }
     let s := { placed with stores := [(9, x)] }
     lookup s.stores 9 = some x ∧ mayPerform s 9 x = true ∧ (lookup s.sleeves 2).isSome = true) := by unfold Clean; decide +kernel

/-- The mapped state with the word at the page's start Empty, and one deferral entry. -/
def emptied : State :=
  { memOps (some two) (some one) with fe := [(cdaOf 0 0x10000 / 8, .empty)], regs := { placed.regs with dfrb := 0x800000, dfrn := 10 } }

theorem wit_full_empty :
    let s := memOps none none
    let b := begin s (mrec .i32 .a .relaxed 3).c 0
    let n : Need := { use := .sync, width := 32, sync := true }
    (Clean s (mrec .i32 .a .relaxed 3).c 0 ∧ Quiet s) ∧ resolve b b.cur n [0x80000] = .ok [partA 32] ∧ blockedLine b b.cur n [partA 32] = none ∧
    aliasHeld b b.cur 0 [partA 32] = false ∧ Passes b (formAt b.cur) (spotsOf [partA 32]) ∧ partLoc s (partA 32) = .dev 0 0x80000 ∧
    wordState s (wordKey s (partA 32)) = none ∧ wordState emptied (wordKey emptied (partA 32)) ≠ none ∧
    Passes emptied (formAt emptied.cur) (spotsOf [partA 32]) ∧ 0 < deferralSize emptied ∧ lookup emptied.dfr 0 = none ∧ deferralSize s = 0 := by
  unfold Clean Quiet Passes; decide +kernel

theorem wit_atomics :
    let s := memOps (some two) (some one)
    let b := begin s (mrec .i32 .abc .relaxed 3).c 0
    let n : Need := { use := .atomic, width := 32, sync := true, psto := imgPsto (actOf s 3).image }
    (Clean s (mrec .i32 .abc .relaxed 3).c 0 ∧ Quiet s) ∧ resolve b b.cur n [0x80000] = .ok [partA 32] ∧ aliasHeld b b.cur 0 [partA 32] = false ∧
    Passes b (formAt b.cur) (spotsOf [partA 32]) ∧ overflowed b leafA false 0x80000 = false ∧ Local s [partA 32] ∧
    partLoc s (partA 32) = .dev 0 0x80000 ∧ Exists 0 0x80000 32 ∧ poisonLoc s (.dev 0 0x80000) = false := by
  refine ⟨?_, ?_, ?_, ?_, ?_, local_A _ ?_ ?_, ?_, exists_linear _ _ ?_, ?_⟩ <;> (try unfold Clean Quiet) <;> (try unfold Passes) <;> decide +kernel

def elemA : StoreElem := { va := 0x80000, leaf := leafA, width := 32, pat := 7 }
def storeA (k : StoreKind) : Store := { act := 3, sleeve := 2, colour := 1, serial := 1, kind := k, elems := [elemA], committed := true }
def withStore (k : StoreKind) (s : State) : State := { s with stores := [(9, storeA k)] }

theorem wit_store_perform :
    (∀ k ∈ [StoreKind.plain, .empty, .fill, .single], let s := withStore k mapped
      Quiet s ∧ lookup s.stores 9 = some (storeA k) ∧ mayPerform s 9 (storeA k) = true ∧ Passes s (.store 9) [elemA.spot] ∧ overflowed s leafA false 0x80000 = false ∧ lostLoc s (.dev 0 0x80000) = false ∧
      ownedLoc s (.dev 0 0x80000) = none ∧ locOf s leafA false 0x80000 = .dev 0 0x80000) ∧ Exists 0 0x80000 32 ∧
    wordState (withStore .single mapped) (cdaOf 0 (0x80000 / 8) / 8) = none ∧
    wordState (withStore .single emptied) (cdaOf 0 (0x80000 / 8) / 8) ≠ none ∧
    wordState (withStore .fill emptied) (cdaOf 0 (0x80000 / 8) / 8) ≠ some .deferred ∧ (withStore .fill emptied).ops = [] := by
  refine ⟨by unfold Quiet Passes; decide +kernel, exists_linear _ _ (by decide +kernel), ?_⟩
  decide +kernel

/-- An STF of the Empty word with these forms waiting at it: op 7 and, if there is one, op 8. -/
def waitsAtWord (l : List Bool) : State :=
  { withStore .fill emptied with
    ops := l.zipIdx.map fun x => (7 + x.2, { f := emptied.cur, w := .lds (cdaOf 0 0x10000 / 8) 0 .i32 false x.1, order := 7 + x.2 }) }
/-- An STF of a Deferred word whose one entry, number 3 of the area at 0x800000, an LDI of the placed activation has left. -/
def deferredWord : State :=
  let f := emptied.cur
  let s := { withStore .fill emptied with fe := [(cdaOf 0 0x10000 / 8, .deferred)], dfr := [(3, f)] }
  writeDev (writeDev s 0 0x80000 64 (3 * 2 ^ 32 + 3)) 0 (deferralAt s 3) 256
    (((deferralWords f 0 .i32 false 0).zipIdx.map fun x => x.1.toNat * 2 ^ (64 * x.2)).sum)
theorem wit_fills (s : State) (hq : Quiet s) (h : lookup s.stores 9 = some (storeA .fill) ∧ mayPerform s 9 (storeA .fill) = true)
    (hl : locOf s leafA false 0x80000 = .dev 0 0x80000)
    (hf : Passes s (.store 9) [elemA.spot] ∧ overflowed s leafA false 0x80000 = false ∧ lostLoc s (.dev 0 0x80000) = false ∧
      ownedLoc s (.dev 0 0x80000) = none) : Fills s 9 (storeA .fill) elemA 0 0x80000 :=
  ⟨⟨h.1, h.2, rfl, .inl rfl⟩, ⟨hl, by decide, by decide, exists_linear _ _ (by decide +kernel)⟩, hf, hq⟩
theorem wit_answers :
    (∀ l ∈ [[false], [true], [true, false], [false, true]], let s := waitsAtWord l
      Fills s 9 (storeA .fill) elemA 0 0x80000 ∧ wordState s (cdaOf 0 (0x80000 / 8) / 8) = some .empty ∧
      (waitersOf s (cdaOf 0 (0x80000 / 8) / 8)).map (fun x => (x.1, x.2.2.2.2.2)) = l.zipIdx.map (fun x => (7 + x.2, x.1)) ∧
      (s.ops.map (·.1)).Nodup ∧ (partOf s s.cur.part).pstate = .running) ∧
    (let s := deferredWord
     Fills s 9 (storeA .fill) elemA 0 0x80000 ∧ wordState s (cdaOf 0 (0x80000 / 8) / 8) = some .deferred ∧
     wordBits s (cdaOf 0 (0x80000 / 8) / 8) / 2 ^ 32 = 3 ∧ 3 < deferralSize s ∧ deferralSize s ≤ noDeferral ∧
     waitersOf s (cdaOf 0 (0x80000 / 8) / 8) = [] ∧ lookup s.dfr 3 = some s.cur ∧ s.cur.node < 128 ∧
     s.cur.blk = (s.cur.blk.extractLsb' 14 46 ++ 0#14).signExtend 64 ∧ deferralAt s 3 + 256 ≤ 8 * deviceBytes ∧ deferralAt s 3 / 8 = 0x100060 ∧
     ∀ j < 3, readArea s (deferralAt s 3 + 64 * j) 64 = ((deferralWords s.cur 0 .i32 false 0).getD j 0).toNat) := by
  refine ⟨?_, wit_fills _ ?_ ?_ ?_ ?_, ?_⟩
  · intro l hl
    simp only [List.mem_cons, List.not_mem_nil, or_false] at hl
    rcases hl with rfl | rfl | rfl | rfl <;>
      refine ⟨wit_fills _ ?_ ?_ ?_ ?_, ?_⟩ <;> (try unfold Quiet) <;> (try unfold Passes) <;> decide +kernel
  all_goals (try unfold Quiet) <;> (try unfold Passes) <;> decide +kernel
theorem wit_answers_outside : ∀ j < 32, ∀ i, 0x80000 / 8 ≤ i → i ≤ (0x80000 + 32 - 1) / 8 → cdaOf 0 (0x100060 + j) ≠ cdaOf 0 i := by
  intro j hj i h1 h2
  have : i = 0x10000 ∨ i = 0x10001 ∨ i = 0x10002 ∨ i = 0x10003 := by omega
  revert j
  rcases this with rfl | rfl | rfl | rfl <;> decide +kernel

theorem wit_store_waits :
    (storeA .scratch).kind = .scratch ∧ ({ storeA .plain with committed := false } : Store).committed = false ∧
    ({ storeA .plain with parked := true } : Store).parked = true ∧ ({ storeA .plain with rids := [9] } : Store).rids ≠ [] ∧
    (partOf (updPart placed 0 fun x => { x with pstate := .frozen }) (storeA .plain).part).pstate = .frozen ∧
    32 ≤ (sleeveOf (updSleeve placed 2 fun v => { v with fwd := List.replicate 32 (0, 8, 0) }) (storeA .scratch).sleeve).fwd.length ∧
    keepsBack { mapped with stores := [(8, storeA .plain), (9, { storeA .plain with lsid := 1, release := true })] } (storeA .plain)
      { storeA .plain with lsid := 1, release := true } = true := by decide +kernel

theorem wit_fence :
    (Clean (memOps none none) (mrec .i64 .a .relaxed 3).c 0 ∧ Quiet (memOps none none) ∧ canonical 0x80000 = true ∧
     resolve (begin (memOps none none) (mrec .i64 .a .relaxed 3).c 0) (begin (memOps none none) (mrec .i64 .a .relaxed 3).c 0).cur { use := .read } [0x80000]
       = .ok [partA 0]) ∧
    (let o : Op := { f := { act := 3 }, w := .fence false true true [] false, order := 4 }
     lookup [(4, o)] 4 = some o ∧ fenceReady { mapped with ops := [(4, o)] } o.f false true true [] = true ∧
     fenceReady { mapped with ops := [(4, o)], deltas := [{ sid := 9 }] } o.f true true true [9] = false ∧ mapped.parked = []) := by
  unfold Clean Quiet; decide +kernel

/-- Buffer 0 of the placed sleeve: four slots of 64 bits, one free, one filled and two held. -/
def buffered : State := updSleeve (on (some (scalarOf 0)) (some two) none) 2 fun v =>
  { v with cbd := [(0, 0x4_0000_0000)], cbc := [(0, 0)] }

theorem wit_none_waits (s : State) (h : s.ops = []) (v : Nat) (hv : (lookup s.sleeves v).isSome = true) : NoneWaits s v := by
  refine ⟨?_, by rw [h]; rfl, hv⟩
  rw [h]; intro x hx; cases hx

theorem wit_ports :
    (let s := on (some one) none none
     Clean s (rec1 .i64 .a 0x80000000).c 0 ∧ sendDest s s.cur 0x80000000 = some (2, 0) ∧ s.cur.a = some one ∧
     (lookupD (sleeveOf s 2).ports 0 []).length < 64 ∧ sendDest s s.cur 0x8000000F = none ∧ 0 < quadCount (sleeveOf s 2) ∧
     quadCount (sleeveOf s 2) ≤ 15) ∧
    (let s := updSleeve (on (some one) none none) 2 fun v => { v with ports := [(0, [two])] }
     lookupD (sleeveOf s 2).ports 0 [] = [two]) ∧
    (let s := updSleeve (on (some one) none none) 2 fun v => { v with ports := [(0, List.replicate 64 two)] }
     64 ≤ (lookupD (sleeveOf s 2).ports 0 []).length) ∧ NoneWaits (on (some one) none none) 2 := by
  refine ⟨by unfold Clean; decide +kernel, by decide +kernel, by decide +kernel, wit_none_waits _ rfl _ (by decide +kernel)⟩


def withCounts (c : Counts) : State := updSleeve buffered 2 fun v => { v with cbc := [(0, countsWord c)] }

theorem wit_circular_buffers :
    (Clean (withCounts {}) (rec1 .i64 .ab 0).c 0 ∧ performs (withCounts {}) 3 = true ∧ NoneWaits (withCounts {}) 2) ∧
    cbinBad (sleeveOf placed 2) 0x400000000 = false ∧ cbinBad (sleeveOf placed 2) 0x8000_0400_0000_0000 = false ∧
    cbinBad (sleeveOf placed 2) 0x400400000 = true ∧
    (let c := cbCounts (sleeveOf (withCounts { free := 1, fill := 1, held := 2, pidx := 3 }) 2) 0
     c = { free := 1, fill := 1, held := 2, pidx := 3 } ∧ cbdSlots (lookupD (sleeveOf (withCounts c) 2).cbd 0 0) = 4 ∧ (sleeveOf (withCounts c) 2).fwd = []) ∧
    cbCounts (sleeveOf (withCounts {}) 2) 0 = {} := by
  refine ⟨⟨by unfold Clean; decide +kernel, by decide +kernel, wit_none_waits _ rfl _ (by decide +kernel)⟩, ?_⟩
  decide +kernel

/-! ## Tokens, activations and images -/

def recWord (i : Instr) : Nat := ((encodeRecord i).getD 0).toNat
/-- The placed state with an ADD of two operands, whose tokens have not come, and this network. -/
def adding (l : List NetToken) : State := { placeRecord State.reset (recWord (.add (rec1 .i32 .ab 0))) with entries := [], net := l }
def tokA (tag : Word) (dest : Dest) : NetToken :=
  let t : Token := { tag := tag, blk := 0x4000, node := 0, port := .a, v := one }
  { tok := t, par := parityOf t, kept := t, keptPar := parityOf t, dest := dest, sleeve := 2, part := 0 }

theorem wit_matchable (s : State) (h : s.entries = []) (n : NetToken)
    (hn : n.tok.node < imgNcnt (actOf s 3).image ∧ (actOf s 3).fired.getLsbD n.tok.node = false)
    (hp : consumes (imgRec (actOf s 3).image n.tok.node) n.tok.port = true)
    (hq : recOpc (imgRec (actOf s 3).image n.tok.node) ≠ 0x05 ∧ recOpc (imgRec (actOf s 3).image n.tok.node) ≠ 0x79)
    (hm : n.tok.port ≠ .c) : Matchable s 3 n :=
  ⟨hn, hp, hq, fun hc => absurd hc hm, by intro e he; simp [findEntry, h] at he⟩

theorem wit_token_delivery :
    (let n := tokA (tagA 0) (.node 3)
     let s := adding [n]
     s.net[0]? = some n ∧ n.ret = false ∧ parityOf n.tok = n.par ∧ live s (colourKey n.part (tagColour n.tok.tag)) = true ∧
     actLive (actOf s 3) = true ∧ (actOf s 3).twin = 0 ∧ spilledFor s 3 0 = [] ∧ quadEntries s 0 + 1 ≤ 2048 ∧ quadBytes s 0 + 512 ≤ 262144) ∧
    (let n := tokA (tagA 0) (.slot 3 0)
     let s := updAct (adding [n]) 3 fun x => { x with image := BitVec.ofNat 16384 (imgNcnt x.image * 2 ^ 32) ||| x.image ||| (BitVec.ofNat 16384 1 <<< 40) }
     s.net[0]? = some n ∧ n.ret = false ∧ parityOf n.tok = n.par ∧ live s (colourKey n.part (tagColour n.tok.tag)) = true ∧ actLive (actOf s 3) = true ∧ n.tok.v.poi = false ∧ 0 < imgWcnt (actOf s 3).image ∧
     (actOf s 3).slots = [] ∧ n.both = false) ∧
    (let n := { tokA (tagA 0) .far with tok := { (tokA (tagA 0) .far).tok with blk := 0x8000 } }
     let s := adding [n]
     s.net[0]? = some n ∧ n.made = .keep ∧ live s (colourKey n.part (tagColour n.tok.tag)) = true ∧ farReceiver s n = none ∧
     toModePort s n = false ∧ mayBeMode s n = false ∧
     (let q := homeQuad (sleeveOf s n.sleeve) (tagColour n.tok.tag)
      quadEntries s q + 1 ≤ 2048 ∧ quadBytes s q + 128 ≤ 262144)) := by
  decide +kernel

theorem wit_token_matchable : Matchable (adding [tokA (tagA 0) (.node 3)]) 3 (tokA (tagA 0) (.node 3)) := by
  apply wit_matchable <;> decide +kernel

/-- A state whose placed node holds this record, with one token to it on its way. -/
def counting (i : Instr) (n : NetToken) (l : List Entry) : State := { placeRecord State.reset (recWord i) with entries := l, net := [n] }
theorem wit_reaches (s : State) (i : Nat) (n : NetToken) (h : s.net[i]? = some n ∧ retHeld s n = false ∧ parityOf n.tok = n.par ∧ n.dest = .node 3)
    (ha : live s (colourKey n.part (tagColour n.tok.tag)) = true ∧ actLive (actOf s 3) = true ∧ (actOf s 3).twin = 0) (hs : s.spilled = []) :
    ReachesNode s i 3 n := ⟨h, ha, by simp [spilledFor, hs]⟩

theorem wit_counting :
    (let n := tokA (tagA 0) (.node 3)
     let s := counting (.join (rec1 .i64 .a 2)) n []
     ReachesNode s 0 3 n ∧ recOpc (imgRec (actOf s 3).image 0) = 0x05 ∧ ((imgRec (actOf s 3).image 0).extractLsb' 0 16).toNat = 2 ∧
     0 < imgNcnt (actOf s 3).image ∧ (actOf s 3).fired.getLsbD 0 = false ∧ consumes (imgRec (actOf s 3).image 0) .a = true ∧ findEntry s 3 0 = none ∧
     quadEntries s (enOf (actOf s 3) 0 / 4) + 1 ≤ 2048 ∧ quadBytes s (enOf (actOf s 3) 0 / 4) + 512 ≤ 262144) ∧
    (let t : Token := { tag := tagA 0, blk := 0x4000, node := 0, port := .a, v := { one with eos := true } }
     let n := { tokA (tagA 0) (.node 3) with tok := t, par := parityOf t }
     let e : Entry := { quad := 0, en := 0, act := 3, node := 0, a := some two, count := 1, parts := [(3, two)] }
     let s := counting (.comb (rec1 .i64 .a 0)) n [e]
     ReachesNode s 0 3 n ∧ recOpc (imgRec (actOf s 3).image 0) = 0x79 ∧ ((imgRec (actOf s 3).image 0).extractLsb' 0 16).toNat = 0 ∧
     findEntry s 3 0 = some e ∧ e.stamp = none ∧ (∀ y ∈ e.parts, y.2.eos = false) ∧ consumes (imgRec (actOf s 3).image 0) .a = true ∧
     quadEntries s (enOf (actOf s 3) 0 / 4) + 1 ≤ 2048 ∧ quadBytes s (enOf (actOf s 3) 0 / 4) + 512 ≤ 262144) := by
  refine ⟨⟨wit_reaches _ _ _ ?_ ?_ rfl, ?_⟩, wit_reaches _ _ _ ?_ ?_ rfl, ?_⟩ <;> decide +kernel

/-- A token to port C of a CVT, of a producer that is alive and of one that has committed; and the values of Table 4.5 at its ends. -/
def modeTok : NetToken :=
  let t : Token := { tag := tagA 0, blk := 0x4000, node := 0, port := .c, v := scalarOf 0x15 }
  { tokA (tagA 0) (.node 3) with tok := t, par := parityOf t, prod := 3 }
theorem wit_modes :
    (let s := counting (.cvt (cvtRec .i8 8 .none)) modeTok []
     ReachesNode s 0 3 modeTok ∧ modeForm (recOpc (imgRec (actOf s 3).image 0)) = true ∧ consumes (imgRec (actOf s 3).image 0) .c = true ∧
     0 < imgNcnt (actOf s 3).image ∧ (actOf s modeTok.prod).st ≠ .committed ∧ (actOf s 9).st = .committed ∧ (lookup s.sleeves 2).isSome = true) ∧
    (0x15 / 128 % 2 = 0 ∧ 0x15 / 8 % 4 ≠ 3 ∧ 0x15 % 8 < 6) ∧ (0x18 / 8 % 4 = 3 ∧ 6 ≤ 6 % 8 ∧ 0x9F / 128 % 2 = 1) ∧ nullTok.kind = .null ∧
    ({ one with poi := true } : TokVal).kind ≠ .null := by
  refine ⟨⟨wit_reaches _ _ _ ?_ ?_ rfl, ?_⟩, ?_⟩ <;> decide +kernel

/-- The quad of the placed activation is full of another activation's entries; a spill area of 2^10 entries at 0x100000, or none. -/
def crowded (log : Nat) : State :=
  let n := { tokA (tagA 0) (.node 3) with prod := 3 }
  let s := updPart (adding [n]) 0 fun x => { x with tksn := log, tksb := 0x100000 }
  { s with entries := (List.range 2048).map fun k => { quad := enOf (actOf s 3) 0 / 4, act := 100 + k, bytes := 8 } }
theorem crowded_none (log : Nat) : findEntry (crowded log) 3 0 = none := by
  rw [findEntry, List.find?_eq_none]
  intro e he
  simp only [crowded, List.mem_map] at he
  obtain ⟨k, -, rfl⟩ := he
  simp; omega
theorem wit_spill :
    (let n := { tokA (tagA 0) (.node 3) with prod := 3 }
     ReachesNode (crowded 10) 0 3 n ∧ Matchable (crowded 10) 3 n ∧ Quiet (crowded 10)) ∧
    (requires (imgRec (actOf (crowded 10) 3).image 0) .b = true ∧
     quadRoom (crowded 10) (enOf (actOf (crowded 10) 3) 0 / 4) (partnerNeed (crowded 10) 3 0 [{ tokA (tagA 0) (.node 3) with prod := 3 }]) = false) ∧
    (partOf (crowded 10) 0).tksn ≠ 0 ∧ (crowded 10).spilled = [] ∧ (0x100000 : Nat) + 1536 * 2 ^ 10 ≤ 8 * deviceBytes ∧ (partOf (crowded 0) 0).tksn = 0 ∧
    actLive (actOf (crowded 0) 3) = true := by
  refine ⟨⟨wit_reaches _ _ _ ?_ ?_ rfl, ⟨?_, ?_, ?_, fun hc => absurd hc (by decide), fun e he => ?_⟩, by unfold Quiet; decide +kernel⟩, ?_⟩
  case refine_6 => rw [show ({ tokA (tagA 0) (.node 3) with prod := 3 } : NetToken).tok.node = 0 by rfl, crowded_none] at he; cases he
  all_goals decide +kernel

theorem wit_parity :
    (let n := { tokA (tagA 0) .far with par := 0xFF }
     parityOf n.tok ≠ n.par ∧ parityOf n.kept = n.keptPar) ∧
    (let n := { tokA (tagA 0) .far with par := 0xFF, keptPar := 0xFF, unit := enCoord 2047 }
     parityOf n.tok ≠ n.par ∧ parityOf n.kept ≠ n.keptPar ∧ n.unit = enCoord 2047) := by decide +kernel

/-- The same state with the token spilled, its quad empty. -/
def spilledA : State := { adding [] with spilled := [{ t := tokA (tagA 0) (.node 3) }] }
theorem wit_refill : Quiet spilledA ∧ mayRefill spilledA 0 { t := tokA (tagA 0) (.node 3) } = true ∧ Matchable spilledA 3 (tokA (tagA 0) (.node 3)) := by
  refine ⟨by unfold Quiet; decide +kernel, by decide +kernel, ?_⟩
  apply wit_matchable <;> decide +kernel

/-- An activation that has been created and not started, of the placed block with one start trigger. -/
def unstarted (w : Nat) : State :=
  updSleeve (updAct { placeRecord State.reset w with entries := [] } 3 fun x => { x with st := .predicted, started := false, place := [] }) 2
    fun v => { v with maps := [], images := [(sleeveQuad v 0, [(placedBlock, oneNode w)])] }

theorem wit_start :
    let s := unstarted (recWord (.add (rec1 .i32 .start 0)))
    let img := oneNode (recWord (.add (rec1 .i32 .start 0)))
    let x := actOf s 3
    mayStart s x = true ∧ turnOver s x = false ∧ x.st = .predicted ∧ imageFor s x.sleeve x.blk = some img ∧ imgLine img = false ∧ x.loop = 0 ∧
    imgNcnt img ≤ ((freeSlots (sleeveOf s x.sleeve)).filter fun k => cacheTakes s x.sleeve (k / 64) (x.blk, img)).length ∧
    (freeSlots (sleeveOf s x.sleeve)).Nodup ∧ (sleeveOf s x.sleeve).maps = [] ∧ lookup s.acts 0 = none ∧
    s.far = [] ∧ (lookup s.sleeves x.sleeve).isSome = true ∧ recAr (imgRec img 0) = 0 ∧ recPm (imgRec img 0) = 0 := by
  decide +kernel

/-- A block that reads G1, F1 and W1 and has each value sent to port A of node 0; the activation is Running. -/
def reading : State :=
  let w : BitVec 96 := BitVec.ofNat 96 (recWord (.add (rec1 .i32 .a 5)))
  let e (space reg : Nat) : Nat := space * 2 ^ 30 + reg * 2 ^ 24 + 0x400 * 2 ^ 12
  let img : Image := oneNode w.toNat ||| BitVec.ofNat 16384 ((e 2 1 + e 0 1 * 2 ^ 32 + e 1 1 * 2 ^ 64) * 2 ^ 256) ||| BitVec.ofNat 16384 (3 * 2 ^ 42)
  updSleeve (updCfg (updAct { placeRecord State.reset w.toNat with entries := [] } 3 fun x => { x with started := false, place := [] }) 1
    fun c => { c with images := [] }) 2 fun v => { v with maps := [], images := [(sleeveQuad v 0, [(placedBlock, img)])] }
theorem wit_reading :
    let s := reading
    let x := actOf s 3
    (∃ img, imageFor s x.sleeve x.blk = some img ∧ imgRcnt img = 3 ∧ bits (imgRead img 0) 30 2 = 2 ∧ bits (imgRead img 1) 30 2 = 0 ∧
      bits (imgRead img 2) 30 2 = 1 ∧ Target.ofCode (BitVec.ofNat 12 (bits (imgRead img 2) 12 12)) = some (.node 0 .a false) ∧ imgLine img = false ∧
      imgNcnt img ≤ ((freeSlots (sleeveOf s x.sleeve)).filter fun k => cacheTakes s x.sleeve (k / 64) (x.blk, img)).length) ∧
    mayStart s x = true ∧ turnOver s x = false ∧ x.st = .running ∧ x.reads = false ∧ (threadOf s x.part x.tag).inner = [] ∧ x.loop = 0 ∧
    lookup s.acts 0 = none := ⟨⟨_, rfl, by decide +kernel⟩, by decide +kernel⟩

theorem wit_prediction :
    let s := adding []
    let x := actOf s 3
    let h := threadOf s x.part x.tag
    entersNoLoop s x = true ∧ actLive x = true ∧ x.isTwin = false ∧ h.acts.getLast? = some 3 ∧ h.acts.length ≤ 3 ∧ x.exits = [] ∧ x.pushed = none ∧ x.st ≠ .held ∧
    (partOf s x.part).pstate = .running ∧ (colourOf s x.colour).held = false := by decide +kernel

def loopA : Loop := { part := 0, sleeve := 2, colour := 1, serial := 1, parent := tagA 0, head := 0x8000, window := some 2, entry := 3 }
def looped (x : Loop) : State := { adding [] with loops := [(9, x)] }

theorem wit_loop_events :
    (let n := { tokA (tagA 0) .far with prod := 3, tok := { (tokA (iterTag loopA 0) .far).tok with blk := 0x8000 } }
     let x := { loopA with waiting := [(0, n)] }
     let s := looped x
     lookup s.loops 9 = some x ∧ (partOf s x.part).pstate = .running ∧ x.next = 0 ∧ x.counted = none ∧ n.prod ≠ 0 ∧ admits x 0 = true ∧
     headQuad s x n.tok.node = none ∧ (colourOf s (colourKey x.part (tagColour x.parent))).held = false ∧
     (∀ a ∈ (threadOf s x.part (iterTag x 0)).acts, (actOf s a).st ≠ .held) ∧ n.tok.port ≠ .c ∧ n.tok.tag = iterTag x 0 ∧ n.part = x.part ∧ (∀ y ∈ s.acts, y.2.tag ≠ iterTag x 0 ∨ y.2.part ≠ x.part) ∧
     (let q := homeQuad (sleeveOf s n.sleeve) (tagColour n.tok.tag)
      quadEntries s q + 1 ≤ 2048 ∧ quadBytes s q + 128 ≤ 262144)) ∧
    (let x := { loopA with counted := some 2, genNext := 1, gen := { act := 3, com := { (rec1 .i64 .a 0).c with t0 := .far 0 .a false } } }
     let s := looped x
     x.genNext < 2 ∧ admits x x.genNext = true ∧ x.quad ∉ s.throttled ∧ x.gen.com.t0 = .far 0 .a false ∧ actLive (actOf s x.gen.act) = true) := by
  decide +kernel

/-- The smallest valid image: one EXIT.EOC without operands, under its check code (R88). -/
def eocWord : Nat := recWord (.exitEoc { crec 0 0 with c := { (crec 0 0).c with ar := .start, t0 := .none, fn := 3, ty := .i64 } })
def smallest : Image := oneNode eocWord ||| BitVec.ofNat 16384 (9534583733880519837 * 2 ^ 14592)

/-- The page of 0x80000 holds this image at a byte offset, and the placed sleeve's grid has its translation; activation 3 is to start at 0x80000. -/
def fetchingAt (o : Nat) (img : Image) : State :=
  let put (m : List Host.Cell) (k : Nat) : List Host.Cell := cellWrite m (cdaOf 0 (0x10000 + o + k)) (BitVec.ofNat 8 (img.toNat / 2 ^ (8 * k)))
  updAct { mapped with tlbGrid := [(0, [{ part := 0, va := 0x80000, big := false, leaf := leafA }])],
                       mem := ([1824, 1825, 1826, 1827, 1828, 1829, 1830, 1831] ++ List.range 8 ++ (List.range 12).map (· + 224)).foldl put mapped.mem } 3
    fun x => { x with blk := 0x80000, started := false, st := .predicted }
def fetching (img : Image) : State := fetchingAt 0 img
/-- The 64 sectors at an address read well, as this image, and the read changes nothing that the statements ask about. -/
def fetchedOk (s : State) (blk : Word) (counts : Bool) (img : Option Image) : Bool :=
  match agentSectors s (sleeveTlb s 2) 0 (supervisor s 0) .fetch blk counts 64 with
  | .ok v poi t => poi.all (fun b => !b) && img.all (fun i => BitVec.ofNat 16384 v == i) && t.acts == s.acts && (prefetchedOf t 2 blk).isNone &&
      t.loops == [] && t.far == [] && t.unsorted == [] && (lookup t.sleeves 2).isSome && (imageFor t 2 blk).isNone && usable t 0 == usable s 0 &&
      match fetchQuad t 2 (blk, BitVec.ofNat 16384 v) with
      | some q => decide ((lookupD (sleeveOf t 2).images q []).length + (aheadOn t 2 q).length < 32)
      | none => false
  | _ => false

/-- The check code with each intermediate value computed before the next, as the kernel evaluates it without deep recursion. -/
def crcStrict : Nat → Nat → Nat → Nat
  | 0, _, c => c
  | n + 1, x, c => if x + c = 0 then crcStrict n (x / 256) (crcByte c (x % 256)) else crcStrict n (x / 256) (crcByte c (x % 256))

theorem crc_strict (n x c : Nat) : crcBytes n x c = crcStrict n x c := by
  induction n generalizing x c with
  | zero => rfl
  | succ k ih => rw [crcBytes, crcStrict, ite_self, ih]

/-- The image without its check code, as a number. -/
def eocNat : Nat := 2533908517912262750184144896 <<< 1792 + 0x101000100000000

theorem eoc_crc : crcStrict 2048 eocNat 18446744073709551615 = 8912160339829031778 := by decide +kernel

theorem crc_number (img : Image) (n : Nat) (h : img.toNat - imgBits img 14592 64 * 2 ^ 14592 = n) :
    imgCrc img = crcStrict 2048 n 18446744073709551615 ^^^ 18446744073709551615 := by
  subst h; rw [← crc_strict]; rfl

theorem smallest_crc : imgCrc smallest = 9534583733880519837 :=
  (crc_number _ eocNat (by decide +kernel)).trans (by rw [eoc_crc]; decide)
theorem unsealed_crc : imgCrc (oneNode eocWord) = 9534583733880519837 :=
  (crc_number _ eocNat (by decide +kernel)).trans (by rw [eoc_crc]; decide)

theorem wit_verify : (∀ a : Word, a.toNat % 16384 = 0 → verify smallest a true = none) ∧ verify (oneNode eocWord) 0x80000 true = some 0x500 := by
  constructor
  · intro a ha
    unfold verify
    rw [if_neg (by omega), if_neg (by rw [smallest_crc]; decide +kernel)]
    decide +kernel
  · unfold verify
    rw [if_neg (by decide), if_pos (by rw [unsealed_crc]; decide +kernel)]

theorem wit_block_fetch :
    let s := fetching smallest
    let x := actOf s 3
    actLive x = true ∧ x.started = false ∧ x.isTwin = false ∧ x.st ≠ .held ∧ x.st ≠ .parked ∧ x.deferred = [] ∧ imageFor s x.sleeve x.blk = none ∧
    (partOf s x.part).pstate = .running ∧ x.blk.toNat % 16384 = 0 ∧ prefetchedOf s x.sleeve x.blk = none ∧
    fetchedOk s 0x80000 true (some smallest) = true ∧ fetchedOk (fetching (oneNode eocWord)) 0x80000 true (some (oneNode eocWord)) = true := by decide +kernel

theorem wit_prefetch :
    let s := updSleeve (fetchingAt 2048 smallest) 2 fun v => { v with maps := [{ blk := 0x80000 }] }
    prefetchable s 2 0x84000 = true ∧ (partOf s (sleeveOf s 2).part).pstate = .running ∧ fetchedOk s 0x84000 false (some smallest) = true := by decide +kernel

/-! ## Commit, colours and faults -/

/-- Activation 3 Complete with one exit and nothing else to let take effect. -/
def complete (x : ExitTo) : State := updAct (adding []) 3 fun a => { a with st := .complete, exits := [(0, 0, x)], fired := 1 }

theorem wit_plain_commit (x : ExitTo) (h : x = .block 0x8000 ∨ x = .endColour) : PlainCommit (complete x) 3 := by
  rcases h with rfl | rfl <;> constructor <;> decide +kernel

theorem wit_commit : (actOf (complete (.block 0x8000)) 3).exits = [(0, 0, .block 0x8000)] ∧ (threadOf (complete (.block 0x8000)) 0 (tagA 0)).acts = [3] ∧
    (complete (.block 0x8000)).ids ≠ 3 ∧ (lookup (complete (.block 0x8000)).sleeves 2).isSome = true ∧ (colourOf (complete .endColour) 1).st = .resident ∧
    (∀ y ∈ (complete .endColour).acts, y.2.colour = 1 → y.1 = 3) ∧ (complete .endColour).parked = [] := by decide +kernel

/-- Colour 1 Ending with nothing left to run; with a root, under the cookie of its launch. -/
def ending (r : Option Root) : State := updColour (updAct (adding []) 3 fun a => { a with st := .committed }) 1 fun c => { c with st := .ending, root := r }

theorem wit_colour_ends :
    (∃ c, lookup (ending none).colours 1 = some c ∧ colourKey 0 1 = 1 ∧ c.part = 0 ∧ c.num = 1 ∧ colourOver (ending none) 1 c = true ∧ c.root = none) ∧
    (partOf (ending none) 0).pstate ≠ .frozen ∧ (ending none).ops = [] ∧
    (∃ c, lookup (ending (some {})).colours 1 = some c ∧ colourOver (ending (some {})) 1 c = true ∧ c.root = some {}) ∧
    egressFull (ending (some {})) 0 = false := by
  refine ⟨⟨_, rfl, ?_⟩, by decide +kernel, rfl, ⟨_, rfl, ?_⟩, by decide +kernel⟩ <;> decide +kernel

theorem wit_placement :
    (let c : Colour := { part := 0, num := 2, st := .spilled, sleeve := 2 }
     let s := { adding [] with colours := [(2, c)] }
     lookup s.colours (colourKey 0 2) = some c ∧ ((waitingColours s 2 (homeQuad (sleeveOf s 2) 2)).head?.map (·.1)) = some (colourKey 0 2) ∧
     (partOf s 0).pstate = .running ∧
     (residents s c.sleeve (homeQuad (sleeveOf s c.sleeve) c.num)).length < 64) ∧
    (let c : Colour := { part := 0, num := 2, sleeve := 2, retry := true, sblk := 0x8000 }
     let s := { adding [] with retries := [c] }
     s.retries[0]? = some c ∧ mayCreate s c.sleeve = true ∧ (partOf s 0).pstate = .running ∧ (s.colours.filter fun x => x.2.part == c.part).length < 65535) ∧
    ∀ q, (residents (adding []) 2 q).length < 64 ∧ waitingColours (adding []) 2 q = [] := by
  refine ⟨by decide +kernel, by decide +kernel, fun q => ⟨lt_of_le_of_lt (residents_few _ 2 q) ?_, none_wait _ ?_ 2 q⟩⟩ <;> decide +kernel

theorem wit_fault_taken :
    let s := adding []
    let x := actOf s 3
    actLive x = true ∧ x.isTwin = false ∧ x.st ≠ .predicted ∧ x.st ≠ .held ∧ (lookup s.colours x.colour).isSome = true ∧
    (lookup s.sleeves x.sleeve).isSome = true ∧ (∀ c ∈ s.colours, c.1 = x.colour → c.2.creator = 0 ∨ (actOf s c.2.creator).st = .committed) ∧
    FaultClass.freezes .protection = true ∧ FaultClass.freezes .heavyWithoutLeave = true ∧ FaultClass.freezes .blockShape = false ∧
    x.st = .running ∧ sharedRecord s x.part (faultAt s 3 0 { cls := .translation, va := 0x80000 }) = none ∧
    (actOf (unstarted 0) 3).st = .predicted ∧ (actOf (unstarted 0) 3).isTwin = false := by decide +kernel

theorem wit_fault_room (q : Nat) : (let s := adding []
    let n := (s.acts.map fun y => y.2.inbox.length).sum
    quadEntries s q + n ≤ 2048 ∧ quadBytes s q + 128 * n ≤ 262144) := by
  have h : ((adding []).acts.map fun y => y.2.inbox.length).sum = 0 := by decide +kernel
  have w : waitingAt (adding []) q = [] := rfl
  simp only [h, quadEntries, quadBytes, w, show (adding []).entries = [] from rfl]
  simp

theorem wit_fault_record :
    Quiet (updPart placed 0 fun x => { x with fqn := 16, fqb := 0x100000, fseq := 0xFFFFFFFF, fack := 0xFFFFFFFE }) ∧
    let x := partOf (updPart placed 0 fun x => { x with fqn := 16, fqb := 0x100000, fseq := 0xFFFFFFFF, fack := 0xFFFFFFFE }) 0
    x.fqn ≠ 0 ∧ x.fqn ≤ 16 ∧ x.frecs = [] ∧ (x.fseq.toNat + 2 ^ 32 - x.fack.toNat - 1 + 2 ^ 32) % 2 ^ 32 < 2 ^ x.fqn ∧
    x.fqb.toNat + 512 * 2 ^ x.fqn ≤ 8 * deviceBytes := by unfold Quiet; decide +kernel

def sup (s : State) : State := updPart s 0 fun x => { x with sup := true }
def asking (s : State) (v : Word) : State := { s with cur := { (on (some (scalarOf v)) (some one) none).cur with com := s.cur.com } }

theorem wit_system :
    (Clean (on (some one) none none) (rec1 .i64 .a 0).c 0 ∧ supervisor (on (some one) none none) 0 = false) ∧
    (Clean (sup (on (some one) none none)) (rec1 .i64 .a 0).c 0 ∧ supervisor (sup (on (some one) none none)) 0 = true ∧
     ∀ x ∈ (sup (on (some one) none none)).stores, x.2.committed = true) := by unfold Clean; decide +kernel

theorem wit_eret :
    (let o : Op := { f := {}, w := .eret 7, order := 4 }
     let s := { placed with ops := [(4, o)] }
     lookup s.ops 4 = some o ∧ (partOf s 0).replays = [] ∧ (partOf s 0).rply = []) ∧
    (let s := { updPart placed 0 fun x => { x with replays := [(6, [.form { act := 3 }])] } with parked := [{ part := 0, what := .form { act := 3 } }] }
     ∀ k ∈ [ParkedKind.form { act := 3 }], carriedOut s 0 k = true) ∧
    (let s := { updPart placed 0 fun x => { x with replays := [(6, [.form { act := 3 }])] } with entries := [{ act := 3, stamp := some 0 }] }
     carriedOut s 0 (.form { act := 3 }) = false) := by decide +kernel

theorem wit_budget :
    (let s := { placed with cfgs := [(1, { part := 0, budget := 8, sleeves := [2] })], parts := [(0, { partOf placed 0 with hvcap := 8 })] }
     Clean (withOps s (some one) none none none) (rec1 .i64 .a 0).c 0 ∧ (cfgOf s (sleeveOf s 2).cfg).budget = 8 ∧ (partOf s 0).hvcap = 8 ∧
     (colourOf s 1).holding + 8 ≤ 65535) ∧
    (let o : Op := { f := { act := 3, sleeve := 2 }, w := .hvya 8, order := 4 }
     let s := { placed with cfgs := [(1, { part := 0, budget := 8, sleeves := [2] })], ops := [(4, o)],
                            parts := [(0, { partOf placed 0 with hvcap := 8, regulator := [4] })] }
     (partOf s 0).regulator = [4] ∧ lookup s.ops 4 = some o ∧ (partOf s 0).pstate = .running ∧ configUnits s 1 + 8 ≤ (cfgOf s 1).budget ∧
     unitsHeld s 0 + 8 ≤ (partOf s 0).hvcap ∧ (lookup s.colours 1).isSome = true ∧ (cfgOf s 1).budget < configUnits s 1 + 9) := by
  unfold Clean; decide +kernel

theorem wit_tlbi :
    (let o : Op := { f := { act := 3 }, w := .tlbi (some 0x80000) [9], order := 4 }
     lookup [(4, o)] 4 = some o ∧ tlbiHeld { mapped with ops := [(4, o)] } 4 0 (some 0x80000) [9] = false ∧
     tlbiHeld { mapped with ops := [(4, o)], stores := [(9, storeA .plain)] } 4 0 (some 0x80000) [9] = true) := by decide +kernel

theorem wit_registers : userReads 0x440 = true ∧ userReads 0x700 = false ∧ swrWrites 0 0x441 = true ∧ swrWrites 0 0x464 = true ∧ swrWrites 0 0x80F = true ∧
    swrWrites 0 0x900 = false ∧ swrWrites 0 0x702 = true ∧ swrWrites 1 0x702 = false := by decide +kernel

theorem wit_pointer : operandsOf (rec1 .i64 .ab 0) 2 (on (some at80) (some one) none).cur = [at80, one] ∧
    Clean (on (some at80) (some one) none) (rec1 .i64 .ab 0).c 0 := by unfold Clean; decide +kernel

/-- Activation 3 with a twin that has compared nothing. -/
def twinned : State := withOps (updAct placed2 3 fun x => { x with twin := 4 }) (some one) (some two) none none

theorem wit_lining :
    (let s := on (some one) (some two) none
     anyPoisoned s.cur = false ∧ isNull s.cur.p = false ∧ s.cur.a = some one ∧ s.cur.b = some two ∧ (actOf s s.cur.act).isTwin = false ∧
     (actOf s s.cur.act).twin = 0 ∧ actLive (actOf s s.cur.act) = true) ∧
    (actOf (updAct placed 3 fun x => { x with isTwin := true }) 3).isTwin = true ∧ isNull (withOps placed none none none (some nullTok)).cur.p = true ∧ anyPoisoned (withOps placed none none none (some nullTok)).cur = false ∧
    (actOf twinned 3).twin = 4 ∧ (actOf twinned 4).lcmps = [] ∧ anyPoisoned twinned.cur = false ∧ twinned.cur.act = 3 := by decide +kernel

def oldLeaf : Word := 0xC000000000008138
def newLeaf : Word := 0xC00000000000C138
/-- The page of address 0 is mapped by a table of four levels at byte 0; the descriptor at bit 0x80000 names it and its new entry. -/
def paged : State :=
  let s := sup (memOps none none)
  writeDev (writeDev (writeDev (writeDev (writeDev s 0 0 64 0x8000000000004000) 0 0x20000 64 0x8000000000008000) 0 0x40000 64 0x800000000000C000)
    0 0x60000 64 oldLeaf.toNat) 0 0x80040 64 newLeaf.toNat
def lockedPage : State := { paged with locks := [{ part := 0, va := 0, old := oldLeaf, new := newLeaf }] }

theorem wit_page_lock :
    let b := begin paged (rec1 .i64 .a 0).c 0
    Clean paged (rec1 .i64 .a 0).c 0 ∧ Quiet paged ∧ supervisor paged 0 = true ∧ (opWord paged.cur.a).toNat % 64 = 0 ∧
    resolve b b.cur { use := .read, width := 64, unnamed := true } [opWord b.cur.a, opWord b.cur.a + 64]
      = .ok [partA 64, { partA 64 with elem := 1, va := 0x80040 }] ∧
    poisonLoc paged (.dev 0 0x80000) = false ∧ poisonLoc paged (.dev 0 0x80040) = false ∧
    partLoc paged (partA 64) = .dev 0 0x80000 ∧ partLoc paged { partA 64 with elem := 1, va := 0x80040 } = .dev 0 0x80040 ∧
    BitVec.ofNat 64 (readDev paged 0 0x80040 64) = newLeaf ∧ readDev paged 0 0x80000 64 = 0 ∧ canonical 0 = true ∧
    walkTables paged 0 0 = ([0, 0x4000, 0x8000, 0xC000], .leaf oldLeaf false 0xC000) ∧ migrateBad paged oldLeaf newLeaf false = false ∧
    lockedLoc paged oldLeaf false 0 = false ∧ lockedLoc lockedPage oldLeaf false 0 = true := by unfold Clean Quiet; decide +kernel

/-- Entries of two pages of the bank-private aperture, for a switch. -/
def bankOld : Word := 0xC000000000006138
def bankNew : Word := 0xC00000000000A138

theorem wit_sector (s : State) (n k : Nat) (hk : k < 2048) (e : Word) (hr : leafRemote s e = false) (ha : leafApr e = 2) (hd : leafDr e = false)
    (hc : leafCpt e = false) (hp : leafPpn e = n) : sectorLoc s e 0x80000 k = .dev 2 (n * 2 ^ 19 + 256 * k) := by
  have h : bits ((0x80000 : Word) + BitVec.ofNat 64 (256 * k)).toNat 0 19 = 256 * k := by
    rw [bits, BitVec.toNat_add, BitVec.toNat_ofNat, show (0x80000 : Word).toNat = 2 ^ 19 by rfl]; omega
  simp only [sectorLoc, locOf, hr, ha, hd, hc, frameAddr, hp, Bool.false_eq_true, if_false, h]; rfl

theorem wit_page_switch :
    (∀ k < 2048, sectorLoc placed bankOld 0x80000 k = .dev 2 (1 * 2 ^ 19 + 256 * k) ∧ sectorLoc placed bankNew 0x80000 k = .dev 2 (2 * 2 ^ 19 + 256 * k) ∧
      Exists 2 (1 * 2 ^ 19 + 256 * k) 256 ∧ Exists 2 (2 * 2 ^ 19 + 256 * k) 256) ∧
    (∀ j < 2048, ∀ k < 2048, ∀ m < 32, ∀ n < 32,
      cdaOf 2 ((1 * 2 ^ 19 + 256 * j) / 8 + m) ≠ cdaOf 2 ((2 * 2 ^ 19 + 256 * k) / 8 + n) ∧
      (cdaOf 2 ((2 * 2 ^ 19 + 256 * j) / 8 + m) = cdaOf 2 ((2 * 2 ^ 19 + 256 * k) / 8 + n) → j = k ∧ m = n)) ∧
    (∀ k < 2048, ∀ n < 32, ∀ i < 8, cdaOf 2 ((2 * 2 ^ 19 + 256 * k) / 8 + n) ≠ cdaOf 0 (256 + i) ∧ cdaOf 2 ((1 * 2 ^ 19 + 256 * k) / 8 + n) ≠ cdaOf 0 (256 + i)) ∧
    Exists 0 (8 * 256) 64 := by
  have ex (n k : Nat) (hn : n ≤ 2) (hk : k < 2048) : Exists 2 (n * 2 ^ 19 + 256 * k) 256 := by
    intro o h1 h2
    have ho : o < 2 ^ 18 := by omega
    have h30 : o / 2 ^ 30 = 0 := Nat.div_eq_of_lt (by omega)
    have h10 : o / 2 ^ 10 % 2 ^ 16 < 40960 := by omega
    simp only [apertureExists, cdaExists, bits, if_true, Bool.and_eq_true, decide_eq_true_eq, h30]
    exact ⟨⟨by omega, by decide⟩, decide_eq_true h10⟩
  have ci (i : Nat) (hi : i < 8) : 2 ^ 37 ≤ cdaOf 0 (256 + i) := by
    simp only [cdaOf, linearToCda, unitToCda, if_true]; omega
  refine ⟨fun k hk => ⟨wit_sector _ 1 k hk _ (by decide +kernel) (by decide) (by decide) (by decide) (by decide),
    wit_sector _ 2 k hk _ (by decide +kernel) (by decide) (by decide) (by decide) (by decide), ex 1 k (by omega) hk, ex 2 k (by omega) hk⟩,
    fun j hj k hk m hm n hn => ?_, fun k hk n hn i hi => ?_, exists_linear _ _ (by decide +kernel)⟩
  · simp only [cdaOf]; constructor
    · simp; omega
    · simp; omega
  · have := ci i hi
    constructor <;> (intro h; rw [← h] at this; simp [cdaOf] at this; omega)

theorem wit_page_switch_state :
    let o : Op := { f := { act := 3 }, w := .pmig 0x80000 256 bankNew bankOld 0, order := 4 }
    let s := { placed with ops := [(4, o)] }
    Quiet s ∧ lookup s.ops 4 = some o ∧ (partOf s 0).pstate ≠ .frozen ∧ pageLost s bankOld 0x80000 = none ∧ pageOwned s bankOld 0x80000 = none ∧
    pageLost s bankNew 0x80000 = none ∧ pageOwned s bankNew 0x80000 = none ∧ leafProt bankNew = false ∧ (∀ x ∈ s.stores, x.2.committed = true) ∧
    (∀ k < 2048, heldWrite { s with locks := s.locks.filter fun l => !(l.part == 0 && l.va == 0x80000) } bankNew false
      (0x80000 + BitVec.ofNat 64 (256 * k)) = false) := by
  unfold Quiet; refine ⟨?_, ?_, ?_, ?_, ?_, ?_, ?_, ?_, ?_, fun k _ => ?_⟩
  case refine_10 => rfl
  all_goals decide +kernel

theorem wit_reclaim :
    let s := sup (withOps mapped (some at80) (some (scalarOf 0)) none none)
    let b := begin s (rec1 .i64 .ab 0).c 0
    Clean s (rec1 .i64 .ab 0).c 0 ∧ Quiet s ∧ supervisor s 0 = true ∧ (opWord b.cur.b).toNat % 512 = 0 ∧
    resolve b b.cur { use := .atomic, unnamed := true } [opWord b.cur.a] = .ok [partA 0] ∧ partLoc s (partA 0) = .dev 0 0x80000 ∧
    s.ownerLost.contains 0x400 = false ∧ ({ s with ownerLost := [0x400] } : State).ownerLost.contains (0x80000 / 512) = true ∧
    Passes b (formAt b.cur) (spotsOf [partA 0]) := by unfold Clean Quiet Passes; decide +kernel

/-! ## Matrix islands, transfers, batches and collectives -/

def trec (ty : Ty) (ar : Arity) (all : Bool) (isl : BitVec 5) (aux : BitVec 8) (row nrow : BitVec 12) : TRec :=
  { c := (rec1 ty ar 0).c, isl := isl, all := all, slot := 0, aux := aux, row := row, nrow := nrow, col := 0 }
/-- The placed sleeve with a ring segment of islands 4 and 5 and a transfer island, and this many units held. -/
def hemmed (units : Nat) (a b : TokVal) : State :=
  withOps (updColour (updSleeve placed 2 fun v => { v with seg := some (4, 2), xisl := some 3 }) 1 fun c => { c with holding := units }) (some a) (some b) none none

theorem wit_hem_issue :
    let s := hemmed 8 one (vectorOf [1, 2])
    Clean s (trec .e4m3 .ab true 0 0 0 4).c 0 ∧ (sleeveOf s 2).seg = some (4, 2) ∧ (sleeveOf placed 2).seg = none ∧ (1#5).toNat < 2 ∧ 2 ≤ (2#5).toNat ∧
    4 * (islandsNamed (4, 2) (trec .e4m3 .ab true 0 0 0 4)).length ≤ (colourOf s (actOf s 3).colour).holding ∧
    (colourOf (hemmed 7 one one) (actOf s 3).colour).holding < 4 * (islandsNamed (4, 2) (trec .e4m3 .ab true 0 0 0 4)).length ∧
    1024 * 4095 + 0 + 8 * (tldaElems (trec .e4m3 .ab true 0 0 4095 0) (opA s.cur)).length ≤ 2 ^ 22 ∧
    (3968 : Nat) + 16 * Ty.width .e4m3 ≤ 4096 ∧ (62 : Nat) + (tsclLanes (s.cur.b.getD nullTok)).length ≤ 64 ∧ (opWord (hemmed 8 one at80).cur.b).toNat % 32 = 0 ∧
    (4032 : Nat) + (8 * 64 + 7) / 8 ≤ 4096 ∧ (511#12).toNat + rowsOf (trec .i64 .start true 0 0 511 1) ≤ 512 ∧ (126 : Nat) + (tsclLanes (s.cur.b.getD nullTok)).length ≤ 128 ∧
    (opWord s.cur.a).toNat % 4096 + 4 * rowsOf (trec .f32 .a true 0 0 0 512) ≤ 4096 ∧ (lookup s.acts 3).isSome = true ∧
    512 < (511#12).toNat + rowsOf (trec .i64 .start true 0 0 511 2) ∧ 512 < (0#12).toNat + rowsOf (trec .i64 .start true 0 0 0 0) := by
  unfold Clean; decide +kernel

/-- The conditions under which the hem forms complete, one form or two at a time, at the ends of their ranges. -/
theorem wit_hem_forms :
    let s := hemmed 8 one (vectorOf [1, 2])
    let seg := (4, 2)
    (let r := trec .e4m3 .ab true 0 0 4095 4
     Clean s r.c 0 ∧ (sleeveOf s s.cur.sleeve).seg = some seg ∧ 1024 * r.row.toNat + 8 * r.col.toNat + (islFmt r).ty.width * (tldaElems r (opA s.cur)).length ≤ 2 ^ 22) ∧
    (let r := trec .e4m3 .a false 1 0 3968 0
     Clean s r.c 0 ∧ r.isl.toNat < seg.2 ∧ r.row.toNat + 16 * (islFmt r).ty.width ≤ 4096) ∧
    (let r := trec .f32 .ab false 1 0 62 0
     Clean s r.c 0 ∧ r.isl.toNat < seg.2 ∧ r.aux.getLsbD 0 = false ∧ r.aux.getLsbD 1 = false ∧ r.row.toNat + (tsclLanes (s.cur.b.getD nullTok)).length ≤ 64) ∧
    (let r := trec .f32 .ab true 0 3 0 64
     let s := hemmed 8 one at80
     Clean s r.c 0 ∧ r.aux.getLsbD 0 = true ∧ r.aux.getLsbD 1 = true ∧ (opWord s.cur.b).toNat % 32 = 0) ∧
    (let r := trec .e4m3 .a true 0 0 4032 64
     Clean s r.c 0 ∧ r.row.toNat + ((islFmt r).ty.width * r.nrow.toNat + 7) / 8 ≤ 4096 ∧
     4 * (islandsNamed seg r).length ≤ (colourOf s (actOf s s.cur.act).colour).holding) ∧
    (let r := trec .i64 .start true 0 0 511 1
     Clean s r.c 0 ∧ r.row.toNat + rowsOf r ≤ 512) ∧
    (let r := { trec .f32 .start false 1 0 511 1 with col := 96 }
     Clean s r.c 0 ∧ r.col.toNat % 32 = 0 ∧ r.col.toNat ≤ 96 ∧ r.nrow.toNat = 1 ∧ r.row.toNat < 512) ∧
    (let r := { trec .f32 .ab false 1 1 511 1 with col := 126 }
     Clean s r.c 0 ∧ r.col.toNat + (tsclLanes (s.cur.b.getD nullTok)).length ≤ 128 ∧ r.row.toNat < 512) ∧
    (let r := trec .f32 .a false 1 2 0 512
     Clean s r.c 0 ∧ r.col = 0 ∧ r.row.toNat + rowsOf r ≤ 512 ∧ (opWord s.cur.a).toNat % 4096 + 4 * rowsOf r ≤ 4096) ∧
    (let r := trec .e4m3 .a false 1 0 0 64
     Clean s r.c 0 ∧ r.row.toNat + r.nrow.toNat ≤ 64 ∧ (opWord s.cur.a).toNat % 4096 + (r.c.ty.width * r.nrow.toNat + 7) / 8 ≤ 4096) := by
  unfold Clean; decide +kernel

def flightTok (v : TokVal) : NetToken := let t : Token := { v := v }; { tok := t, par := parityOf t, kept := t, keptPar := parityOf t }
/-- A command on its way to island 4, which waits for nothing. -/
def flying (i : Instr) (a b : TokVal) (x : Island) : State :=
  { hemmed 8 a b with islands := [(4, x)], flights := [{ isl := 4, cmd := { id := 20, instr := i, a := a, b := b }, a := flightTok a, b := flightTok b }],
                      hemOps := [(20, { f := { act := 3 }, left := [4], result := scalarOf 0 })] }

theorem wit_arrives (i : Instr) (a b : TokVal) (ha : a.poi = false) (hb : b.poi = false) (x : Island) (hx : x.queue = []) :
    Arrives (flying i a b x) 0 4 { id := 20, instr := i, a := a, b := b } a b :=
  ⟨⟨_, rfl, rfl, rfl, rfl, rfl, rfl, rfl, rfl, by show parityOf ({} : NetToken).tok = ({} : NetToken).par; decide +kernel, rfl,
    by show (partOf placed 0).pstate ≠ .frozen; decide +kernel, rfl⟩, ⟨ha, hb⟩, hx, rfl⟩

theorem wit_hem_commands :
    (scaleEntry {} (blockTag one)).bind (·.sb) = none ∧ (tsclLanes (vectorOf [1, 2])).length + 126 ≤ 128 ∧ one.word.toNat % 4096 + 4 * 512 ≤ 4096 ∧
    accPoi { poi := [3] } 3 = true ∧ accPoi {} 3 = false ∧
    (scaleEntry { scales := [{ tag := 1 }] } (blockTag one)).isSome = true ∧ holdsTag { present := true, tag := 1 } (blockTag one) = true ∧
    (let x : Island := { scales := [{ tag := 2 }, { tag := 3 }, { tag := 4 }, { tag := 5 }] }
     scaleEntry x (blockTag one) = none ∧ holdsTag x.l0 (blockTag one) = false ∧ holdsTag x.l1 (blockTag one) = false ∧ 4 ≤ x.scales.length) := by
  decide +kernel

/-- A B scale by address: the scale at 0x80000 is read for island 4. -/
theorem wit_scale_read :
    (match readScale { mapped with tlbGrid := [(0, [{ part := 0, va := 0x80000, big := false, leaf := leafA }])] } 4 0 0x80000 with
     | .ok v q _ => v == 0 && !q
     | _ => false) = true ∧ (0#8).getLsbD 0 = false ∧ (1#8).getLsbD 0 = true ∧ (3#8).getLsbD 1 = true ∧ (2#8).getLsbD 1 = true ∧
    0 < (64#12).toNat ∧ (64#12).toNat ≤ 64 := by decide +kernel

def tmma : TRec := trec .e4m3 .a false 0 0 0 2
def tmmaCmd : HemCmd := { id := 20, instr := .tmma tmma, a := one, b := nullTok }
/-- Island 4 with a TMMA of two rows at its head, and with the latch and the scales that it needs. -/
def multiplying (l : Latch) (e : ScaleEntry) : State :=
  { hemmed 8 one one with islands := [(4, { queue := [tmmaCmd], l0 := l, scales := [e] })], hemOps := [(20, { f := { act := 3 }, left := [4], result := scalarOf 0 })] }

theorem wit_multiply :
    (let l : Latch := { present := true, tag := 1, scale := some 0x3F800000 }
     let e : ScaleEntry := { tag := 1, sa := [(0, 0x3F800000), (1, 0x3F800000)] }
     let s := multiplying l e
     let x := islandOf s 4
     x.queue = [tmmaCmd] ∧ commandHeld s 4 tmmaCmd = false ∧ (partOf s (cmdFiring s 20).part).pstate = .running ∧ tmmaLatch x (blockTag one) = some l ∧
     tmmaEntry x (blockTag one) 2 = some e ∧ (islFmt tmma).cls = l.fmt.cls ∧ lookup s.hemOps 20 = some { f := { act := 3 }, left := [4], result := scalarOf 0 }) ∧
    tmmaLatch (islandOf (multiplying {} {}) 4) (blockTag one) = none := by decide +kernel

theorem wit_rotate :
    (let r := trec .e4m3 .start true 0 0 0 0
     let c : HemCmd := { id := 20, instr := .trot r }
     let s := { hemmed 8 one one with islands := [(4, { queue := [c] }), (5, { queue := [c] })] }
     (sleeveOf s 2).seg = some (4, 2) ∧ (partOf s (sleeveOf s 2).part).pstate = .running ∧
     ∀ k < 2, (islandOf s (4 + k)).queue = [c] ∧ commandHeld s (4 + k) c = false ∧ (islandOf s (4 + k)).scales = []) ∧
    (let s := { placed with hemOps := [(20, { f := { act := 3 }, left := [], result := one }), (21, { f := { act := 3 }, left := [4] })],
                            ops := [(20, { f := { act := 3 }, w := .hem 20 }), (21, { f := { act := 3 }, w := .hem 21 })] }
     (lookup s.hemOps 20).isSome = true ∧ (lookup s.ops 20).isSome = true ∧ (partOf s 0).pstate ≠ .frozen ∧
     unitCredits s (islCoord 0) { act := 3 } = true) := by decide +kernel

def xrec (ty : Ty) (ar : Arity) (lit : BitVec 32) : XRec := { c := (rec1 ty ar 0).c, hslot := 5, full := false, ha := false, hb := false, lit := lit }
theorem wit_no_batch (s : State) (h : s.ops = []) (k : Nat) (hk : (lookup s.colours k).isSome = true) : NoBatchWaits s k := by
  refine ⟨by rw [h]; rfl, hk, ?_⟩
  rw [h]; intro o ho; cases ho
def batched (l : List Batch) : State := updColour (hemmed 8 at80 one) 1 fun c => { c with batches := l }
/-- 15 closed batches with a transfer left in each. -/
def backlog : List Batch := (List.range 15).map fun n => { num := n, closed := true, left := 1 }

theorem wit_transfers :
    (Clean (hemmed 8 at80 one) (xrec .i64 .ab 64).c 64 ∧ (sleeveOf (hemmed 8 at80 one) 2).xisl = some 3 ∧ NoBatchWaits (hemmed 8 at80 one) 1) ∧
    (let x : Xfer := { f := { act := 3, a := some one, b := some two }, instr := .xfil (xrec .i64 .ab 64), xisl := 3, st := .flying }
     let s := { hemmed 8 one two with xfers := [(30, x)], flights := [{ isl := 3, xfer := 30, a := flightTok one, b := flightTok two, c := flightTok nullTok }] }
     ∃ fl, s.flights[0]? = some fl ∧ fl.xfer ≠ 0 ∧ lookup s.xfers fl.xfer = some x ∧ (partOf s fl.a.part).pstate ≠ .frozen ∧ flightBehind s 0 fl = false ∧
      (∀ n ∈ [fl.a, fl.b, fl.c], parityOf n.tok = n.par ∧ n.tok.v.poi = false) ∧ fl.a.tok.v = one ∧ fl.b.tok.v = two ∧ x.f.c = none) ∧
    (hemmed 8 at80 one).ops = [] ∧ (openBatch (colourOf (hemmed 8 at80 one) 1)).nxfr < 64 ∧ (sleeveOf placed 2).xisl = none ∧
    (let c := colourOf (batched [{ num := 2 ^ 32 - 1, nxfr := 64 }]) 1
     64 ≤ (openBatch c).nxfr ∧ closeHeld c = false) ∧
    (let c := colourOf (batched (backlog ++ [{ num := 15, nxfr := 64 }])) 1
     64 ≤ (openBatch c).nxfr ∧ closeHeld c = true ∧ 14 < (uncounted (closeBatch c)).length) ∧
    (let c := colourOf (batched [{ num := 3, closed := true, stale := true }, { num := 4 }]) 1
     (opA (hemmed 8 (scalarOf 3) one).cur).lane 0 ≠ (openBatch c).num ∧ ((closedBatches c).find? fun z => z.num == 3) = some { num := 3, closed := true, stale := true } ∧
     (∀ y ∈ closedBatches c, y.num ≠ 9) ∧ (openBatch c).nxfr < 128 ∧ (uncounted (closeBatch c)).length ≤ 15) := by
  refine ⟨⟨by unfold Clean; decide +kernel, by decide +kernel, wit_no_batch _ rfl _ (by decide +kernel)⟩, ⟨_, rfl, ?_⟩, ?_⟩ <;> decide +kernel

/-- An XFIL of 512 bits at 0x80000 as transfer 30, and its form waiting as op 31. -/
def fill (st : XferState) (next : Nat) : Xfer :=
  { f := (hemmed 8 at80 one).cur, instr := .xfil (xrec .i64 .ab 512), xisl := 3, colour := 1, serial := 1, st := st, next := next }
def filling (x : Xfer) : State :=
  { hemmed 8 at80 one with xfers := [(30, x)], ops := [(31, { f := x.f, w := .xferAccept 30, order := 31 })],
                           parts := mapped.parts, tlbGrid := [(0, [{ part := 0, va := 0x80000, big := false, leaf := leafA }])] }

theorem wit_acceptance :
    (let s := filling (fill .queued 0)
     NextQueued s 3 30 (fill .queued 0) 31 { f := (fill .queued 0).f, w := .xferAccept 30, order := 31 } ∧ rejects s (fill .queued 0) = none ∧
     fullWaits s (fill .queued 0) = none ∧ (∀ o ∈ s.ops, o.2.w ≠ .xferJoin) ∧ 0 < unitCount s (fill .queued 0)) ∧
    (let x := { fill .queued 0 with instr := .xfil { xrec .i64 .ab 512 with ha := true } }
     let s := { filling x with ids := 40 }
     NextQueued s 3 30 x 31 { f := x.f, w := .xferAccept 30, order := 31 } ∧ ((rejects s x).isSome = true ∧ (rejectsFirst s x).isSome = true ∧ fullWaits s x = none ∧ awaitsRemote s 30 = false) ∧ NoBatchWaits s x.colour) := by
  refine ⟨⟨?_, ?_⟩, ?_, ?_, ?_, ?_, fun o ho => ?_⟩
  case refine_1 | refine_3 => constructor <;> decide +kernel
  case refine_2 | refine_4 | refine_5 | refine_6 => decide +kernel
  have : o = (31, { f := (fill .queued 0).f, w := .xferAccept 30, order := 31 }) := List.mem_singleton.mp ho
  subst this
  exact ⟨by decide, by decide, fun _ _ => by simp, by decide⟩

theorem wit_units :
    let x := fill .running 0
    let s := filling x
    Quiet s ∧ lookup s.xfers 30 = some x ∧ (partOf s 0).pstate = .running ∧ xferReady s x = true ∧ x.st = .running ∧ x.slot = 0 ∧ x.redo = [] ∧ x.next + 1 < unitCount s x ∧
    unitSpan s x 0 = (0, 256) ∧ (dstSpace s x).at (pitch? x) 0 = .mem 0x80000 ∧ canonical 0x80000 = true ∧
    tlbLookup s (xferTlb x) 0 0x80000 = some { part := 0, va := 0x80000, big := false, leaf := leafA } ∧ permission (supervisor s 0) .write leafA = none ∧
    apertureBad s .write leafA false 0x80000 256 = false ∧ leafProt leafA = false ∧ Passes s (.xfer 30) [{ va := 0x80000, leaf := leafA }] ∧
    overflowed s leafA false 0x80000 = false ∧ locOf s leafA false 0x80000 = .dev 0 0x80000 ∧ lostLoc s (.dev 0 0x80000) = false ∧
    ownedLoc s (.dev 0 0x80000) = none := by unfold Quiet Passes; decide +kernel

theorem wit_unit_stream (s : State) : ∃ v, readStream s (fill .running 0) 0 256 = .ok v false s ∧ Exists 0 0x80000 256 :=
  ⟨_, rfl, exists_linear _ _ (by decide +kernel)⟩
theorem wit_unit_kind (r : XRec) : (fill .running 0).instr ≠ .xsct r ∧ ∀ r', dataRec (fill .running 0).instr = some r' → r'.full = false :=
  by constructor <;> simp [fill, dataRec, xrec]

theorem wit_handles :
    (let s := hemmed 8 at80 (scalarOf 0x1000)
     Clean s (xrec .i64 .ab 3).c 3 ∧ SlotUnused s 5 ∧ bits 0x1000 40 22 = 0 ∧ bits 0x1000 62 2 = 0) ∧
    bits (2 ^ 40) 40 22 ≠ 0 ∧
    (let v := scalarOf (BitVec.ofNat 64 (7 * 2 ^ 40 + 5 * 2 ^ 31))
     let s := updPart (hemmed 8 v one) 0 fun x => { x with handles := [(5, { valid := true, gen := 7 })] }
     Clean s (xrec .i64 .a 3).c 3 ∧ (handleOf s 0 (hvSlot (opWord s.cur.a))).valid = true ∧
     (handleOf s 0 (hvSlot (opWord s.cur.a))).gen = hvGen (opWord s.cur.a) ∧ SlotUnused s 5 ∧ (handleOf placed 0 5).valid = false) := by
  unfold Clean SlotUnused; decide +kernel

/-- Slot 5 lists the group of devices 0 and 1 at 0x80000. -/
def grouped (units : Nat) : State :=
  let s := updPart (filling (fill .running 0)) 0 fun x => { x with handles := [(5, { valid := true, kind := 3, len := 64, base := 0x80000 })] }
  let s := updColour { s with tlbColl := [{ part := 0, va := 0x80000, big := false, leaf := leafA }] } 1 fun c => { c with holding := units }
  writeDev s 0 0x80000 64 0x100000000
def memberOk (s : State) (l : List Nat) : Bool := match groupOf { begin s (xrec .i64 .ab 1).c 1 with free := s.free + 1 } 0 5 with | .ok g => g == l | _ => false
def memberBad (s : State) : Bool := match groupOf { begin s (xrec .i64 .ab 1).c 1 with free := s.free + 1 } 0 5 with | .bad => true | _ => false

def collA : Coll := { f := {}, instr := .kard (xrec .i64 .ab 1), colour := 1, serial := 1, group := [0, 1], rank := 0 }

theorem wit_collectives :
    (Clean (grouped 8) (xrec .i64 .ab 1).c 1 ∧ (colourOf (grouped 8) 1).holding = 8 ∧ memberOk (grouped 8) [0, 1] = true ∧ collCount (xrec .i64 .ab 1) = 1 ∧
     collCount (xrec .i64 .ab 0) = 0 ∧ memberBad (hemmed 8 at80 one) = true ∧ (colourOf (grouped 7) 1).holding < 8) ∧
    (let s := { placed with colls := [(40, collA)] }
     (s.colls.find? fun y => y.2.isl == 0 && !y.2.begun && y.2.status == 0) = some (40, collA) ∧ lookup s.colls 40 = some collA ∧
     collRec collA.instr = some (xrec .i64 .ab 1, 2) ∧ (partOf s 0).pstate = .running ∧ lookup s.acts collA.f.act = none ∧
     issueEdge s collA.edges = true ∧ (∀ d ∈ collA.group, lostMember s d = false) ∧ collA.rank < 2 ∧ (∀ y ∈ s.collBox, concerns collA y.1 y.2 = false)) := by unfold Clean; decide +kernel

theorem wit_reduction : ∀ y ∈ [2 ^ 64 - 1, 1, 2 ^ 63], y < 2 ^ 64 := by decide

theorem wit_collective_ends :
    (let x := { collA with status := 1 }
     let s := { placed with colls := [(40, x)] }
     lookup s.colls 40 = some x ∧ s.ops = [] ∧ (lookup s.colours x.colour).isSome = true ∧ (colourOf s x.colour).serial = x.serial ∧ x.status ≠ 0) ∧
    (let x := { collA with begun := true, sent := 2, next := 1, got := [(0, 0, 1, false), (1, 0, 1, false)] }
     let s := { placed with colls := [(40, x)] }
     collWritten x = true ∧ awaitsRemote s 40 = false ∧ collSources x (xrec .i64 .ab 1) 2 ≤ x.sent) ∧
    (let s := updColour (hemmed 8 at80 one) 1 fun c => { c with colls := [40] }
     Clean s (xrec .i64 .start 0).c 0 ∧ s.ops = [] ∧ (actOf s 3).serial = (colourOf s 1).serial ∧ 0 < (colourOf s 1).colls.length ∧
     (colourOf s 1).colls.length ≤ 1) := by unfold Clean; decide +kernel

/-! ## Cuffs, configurations and freezes -/

def tokenHi (kind : BitVec 4) (param : BitVec 16) : Word := Ingress.hi { kind := kind, rsv := 0, param := param, seq := 7, payload := 0 }
/-- The placed state with one token in cuff 0. -/
def cuffed (kind : BitVec 4) (param : BitVec 16) (lo : Word) (f : Queue → Queue) : State :=
  { placed with queues := [(0, f { en := true, fifo := [{ hi := tokenHi kind param, lo := lo }] })] }

theorem wit_turn (s : State) (q : Queue) (a : Accepted) (l : List Accepted) (hq : s.queues = [(0, q)]) (hp : partOfCuff s 0 = some 0)
    (he : egressFull s 0 = false) (hx : ∀ d ∈ partCuffs s 0, (queueOf s d).extra = []) (hn : q.pend = none) (hf : q.fifo = a :: l) : Turn s 0 0 a := by
  have h0 : queueOf s 0 = q := by simp [queueOf, hq, lookupD, lookup]
  refine ⟨⟨by decide, hp, he, hx⟩, ⟨by rw [h0]; exact hn, l, by rw [h0]; exact hf⟩, fun d hd => ?_⟩
  have h1 : queueOf s d = {} := by simp [queueOf, hq, lookupD, lookup, Ne.symm hd]
  simp only [headToken, h1]
  split <;> (try split) <;> rfl

theorem wit_turns (kind : BitVec 4) (param : BitVec 16) (lo : Word) (f : Queue → Queue)
    (hf : ∀ q, (f q).fifo = q.fifo ∧ (f q).pend = q.pend ∧ (f q).extra = q.extra ∧ (f q).hold = q.hold) :
    Turn (cuffed kind param lo f) 0 0 { hi := tokenHi kind param, lo := lo } := by
  refine wit_turn _ _ _ [] rfl ?_ ?_ ?_ ?_ ?_
  · show partOfCuff placed 0 = some 0; decide +kernel
  · show decide (56 ≤ (f _).hold.length) = false; rw [(hf _).2.2.2]; rfl
  · intro d hd
    simp only [queueOf, cuffed, lookupD, lookup]
    split
    · exact (hf _).2.2.1
    · rfl
  · exact (hf _).2.1
  · rw [(hf _).1]

theorem wit_cuff_writes :
    (let s := cuffed 3 0 0 fun q => { q with next := 7, fifo := [] }
     let t := Ingress.ofWords (tokenHi 3 0) (queueOf s 0).toklo
     t.kind ≠ 5 ∧ (queueOf s 0).en = true ∧ cuffBad s 0 = false ∧ (queueOf s 0).fifo.length < 256 ∧ t.seq = (queueOf s 0).next ∧ egressFull s 0 = false ∧
     (queueOf s 0).hold = [] ∧ (queueOf placed 63).en = false) ∧
    bits (0x800000000100_00FF : Word).toNat 16 9 = 256 ∧ bits (0x800000000100_00FF : Word).toNat 0 9 = 255 ∧
    bits (0x01000100 : Word).toNat 16 9 ≤ bits (0x01000100 : Word).toNat 0 9 := by decide +kernel

theorem wit_egress :
    Quiet placed ∧ partOfCuff placed 0 = some 0 ∧
    let x := queueOf { placed with queues := [(63, { qegn := 16, qegb := 0x200000, eseq := 0xFFFFFFFF, ack := 0xFFFFFFFE })] } 63
    x.qegn ≠ 0 ∧ x.qegn ≤ 16 ∧ x.hold = [] ∧ x.extra = [] ∧ (x.eseq.toNat + 2 ^ 32 - x.ack.toNat - 1 + 2 ^ 32) % 2 ^ 32 < 2 ^ x.qegn ∧
    x.qegb.toNat + 512 * 2 ^ x.qegn ≤ 8 * deviceBytes := by unfold Quiet; decide +kernel

theorem wit_arg :
    Turn (cuffed 2 63 5 fun q => { q with cfg := 1 }) 0 0 { hi := tokenHi 2 63, lo := 5 } ∧ (Ingress.ofWords (tokenHi 2 63) 5).malformed = false ∧
    (partOf (cuffed 2 63 5 id) 0).pstate = .running ∧ (Ingress.ofWords (tokenHi 2 63) 5).kind = 2 ∧
    (queueOf (cuffed 2 63 5 fun q => { q with cfg := 1 }) 0).cfg ≠ 0 ∧ (queueOf (cuffed 2 63 5 id) 0).cfg = 0 ∧ Turn (cuffed 2 63 5 id) 0 0 { hi := tokenHi 2 63, lo := 5 } :=
  by
  refine ⟨wit_turns _ _ _ _ fun _ => ⟨rfl, rfl, rfl, rfl⟩, ?_, ?_, ?_, ?_, ?_, wit_turns _ _ _ _ fun _ => ⟨rfl, rfl, rfl, rfl⟩⟩ <;> decide +kernel

/-- Cuff 0 has selected the placed configuration, which has been started before. -/
def launching : State := updCfg (cuffed 3 0 9 fun q => { q with cfg := 1 }) 1 fun c => { c with started := 1, entry := 0x4000 }

theorem wit_start_token :
    Turn launching 0 0 { hi := tokenHi 3 0, lo := 9 } ∧
    ((Ingress.ofWords (tokenHi 3 0) 9).malformed = false ∧ (Ingress.ofWords (tokenHi 3 0) 9).kind = 3 ∧ (queueOf launching 0).cfg = 1 ∧
     (cfgOf launching 1).started ≠ 0 ∧ mayCreate launching ((cfgOf launching 1).sleeves.headD 0) = true ∧
     (launching.colours.filter fun x => x.2.part == (cfgOf launching 1).part).length < 65535 ∧ (partOf launching 0).pstate = .running) ∧
    ∀ k, (residents launching ((cfgOf launching 1).sleeves.headD 0) k).length < 64 ∧ waitingColours launching ((cfgOf launching 1).sleeves.headD 0) k = [] := by
  refine ⟨wit_turn _ { en := true, cfg := 1, fifo := [{ hi := tokenHi 3 0, lo := 9 }] } _ [] ?_ ?_ ?_ ?_ rfl rfl, ?_,
    fun _ => ⟨lt_of_le_of_lt (residents_few _ _ _) ?_, none_wait _ ?_ _ _⟩⟩ <;> decide +kernel

/-- Partition 0 maps the first 32 MiB to themselves; a record of one pinned sleeve at 0x200000 names `smallest` at 0x280000. -/
def loadable (c : Map Configuration) : State :=
  let s := updPart { cuffed 1 0 0x200000 id with cfgs := c, sleeves := [], colours := [], acts := [], threads := [] } 0 fun x => { x with ptbr := 0x8000000000000000 }
  let s := writeDev (writeDev (writeDev s 0 0 64 0x8000000000004000) 0 0x20000 64 0x8000000000008000) 0 0x40000 64 0xC000000000000038
  let s := writeDev s 0 0x200000 320 (2 ^ 48 + 2 ^ 32 + 2 ^ 24 + 2 ^ 8 + 9 + 0x11 * 2 ^ 64 + 3 * 2 ^ 160 + 4 * 2 ^ 256 * 2 ^ 16)
  let s := writeDev s 0 0x200800 64 0x280000
  writeDev (writeDev s 0 0x280000 2048 (smallest.toNat % 2 ^ 2048)) 0 (0x280000 + 14592) 64 9534583733880519837

def imageAt : Word := 0x280000
/-- The load of `loadable`: the record and the image read well, nothing is resident, and a place is found whatever the free choice. -/
def loadsOk (s : State) : Bool :=
  match readHead (wakePart (popped { s with loading := s.loading ++ [{ cuff := 0, part := 0 }] } 0) 0) 0 0x200000 with
  | .ok r u => (residentCfg (noteSeeded (writeSeed u 0 r) 0) 0 0x200000 r.gen).isNone && (r.nver == 7 || r.nver == 9) &&
    match readRecord (noteSeeded (writeSeed u 0 r) 0) 0 0x200000 r with
    | .ok r' u' => r'.imgs == [imageAt] && !r'.floor && r'.pins.all (fun d => descShape d == r'.shape) &&
      match loaderRead u' 0 .fetch imageAt 16384 with
      | .ok (v, poi) w => !poi && BitVec.ofNat 16384 v == smallest && usable w 0 &&
        let (i, z) := choose w 4096
        match findPlace w 0 r' [(imageAt, smallest)] i 9 (partCfgs w 0) [] with
        | some (gone, l, m) => gone.isEmpty && l.length == 1 && m.isEmpty && !egressFull z 0
        | none => false
      | _ => false
    | _ => false
  | _ => false

theorem images_read (s w : State) (v : Nat) (a : Word) (img : Image) (h : loaderRead s 0 .fetch a 16384 = .ok (v, false) w) (hv : BitVec.ofNat 16384 v = img)
    (hg : verify img a (usable w 0) = none) : readImages 0 [a] s = .ok [(a, img)] w := by
  subst hv
  simp only [readImages, h, hg, Bool.false_eq_true, if_false]

theorem wit_config_images (s w : State) (v : Nat) (h : loaderRead s 0 .fetch imageAt 16384 = .ok (v, false) w) (hv : BitVec.ofNat 16384 v = smallest)
    (hu : usable w 0 = true) : readImages 0 [imageAt] s = .ok [(imageAt, smallest)] w :=
  images_read s w v imageAt smallest h hv (by rw [hu]; exact wit_verify.1 imageAt (by decide))

theorem wit_config : loadsOk (loadable []) = true ∧ loadingAt (loadable []) 0 = none ∧ earlierLoad (loadable []) 0 0 { hi := tokenHi 1 0, lo := 0x200000 } = false ∧
    (partOf (loadable []) 0).pstate = .running ∧ (Ingress.ofWords (tokenHi 1 0) 0x200000).malformed = false ∧ (Ingress.ofWords (tokenHi 1 0) 0x200000).kind = 1 := by
  decide +kernel

theorem wit_config_turn : Turn (loadable []) 0 0 { hi := tokenHi 1 0, lo := 0x200000 } :=
  wit_turn _ { en := true, fifo := [{ hi := tokenHi 1 0, lo := 0x200000 }] } _ [] rfl (by decide +kernel) (by decide +kernel) (by decide +kernel) rfl rfl

/-- The record's configuration is resident; and in the placed state its address is not mapped. -/
def residentOk (s : State) : Bool :=
  match readHead (wakePart (popped { s with loading := s.loading ++ [{ cuff := 0, part := 0 }] } 0) 0) 0 0x200000 with
  | .ok r u => residentCfg (noteSeeded (writeSeed u 0 r) 0) 0 0x200000 r.gen == some 5
  | _ => false
def headBad (s : State) : Bool := match readHead (wakePart (popped { s with loading := s.loading ++ [{ cuff := 0, part := 0 }] } 0) 0) 0 0x200000 with | .bad _ _ _ => true | _ => false

theorem wit_config_other :
    residentOk (loadable [(5, { part := 0, addr := 0x200000, gen := 3 })]) = true ∧ headBad (cuffed 1 0 0x200000 id) = true ∧
    needsLoad (loadable [(5, { part := 0, addr := 0x200000, gen := 3 })]) 0 (Ingress.ofWords (tokenHi 1 0) 0x200000) = false := by decide +kernel

theorem wit_unload :
    Turn (cuffed 4 0 0 id) 0 0 { hi := tokenHi 4 0, lo := 0 } ∧ namedCfgs (cuffed 4 0 0 id) 0 0 = [1] ∧ namedCfgs (cuffed 4 0 8 id) 0 8 = [] ∧
    cfgBusy (cuffed 4 0 0 id) 1 = true ∧ cfgBusy { cuffed 4 0 0 id with acts := [], colours := [] } 1 = false ∧
    (Ingress.ofWords (tokenHi 4 0) 0).malformed = false :=
  ⟨wit_turns _ _ _ _ fun _ => ⟨rfl, rfl, rfl, rfl⟩, by decide +kernel⟩

theorem wit_freeze_tokens :
    (∀ k ∈ [(6 : BitVec 4), 7, 8], (Ingress.ofWords (tokenHi k 0) 0).malformed = false ∧ (Ingress.ofWords (tokenHi k 0) 0).kind = k) ∧
    (∀ k, Turn (cuffed k 0 0 id) 0 0 { hi := tokenHi k 0, lo := 0 }) ∧ (partOf (cuffed 6 0 0 id) 0).pstate = .running ∧ ((∀ x ∈ (cuffed 6 0 0 id).acts, x.2.part = 0 → x.2.frz = none) ∧ (cuffed 7 0 0 id).ops = []) ∧
    (partOf (updPart (cuffed 7 0 0 id) 0 fun x => { x with pstate := .frozen }) 0).pstate = .frozen :=
  ⟨by decide +kernel, fun k => wit_turns _ _ _ _ fun _ => ⟨rfl, rfl, rfl, rfl⟩, by decide +kernel, by decide +kernel, by decide +kernel⟩

theorem wit_watchdog :
    (let s := updColour { placed with queues := [(0, { en := true, qwdt := 2, qwdc := 131072 })] } 1 fun c => { c with root := some {} }
     partOfCuff s 0 = some 0 ∧ (partOf s 0).pstate = .running ∧ expired s 0 = [(0, 2)] ∧ (∀ x ∈ s.acts, x.2.part = 0 → x.2.frz = none) ∧ (∀ n, (1, n) ∉ expired s 0)) ∧
    (let s := updPart placed 0 fun x => { x with pstate := .freezing, freeze := some (.token 0 7, none) }
     (partOf s 0).frozen = none ∧ freezeSettled s 0 = true ∧ s.loading = [] ∧ frozenRoom s (.token 0 7) = true ∧ s.remotes = [] ∧
     freezeSettled { s with stores := [(9, storeA .plain)] } 0 = false) := by
  refine ⟨⟨by decide +kernel, by decide +kernel, by decide +kernel, by decide +kernel, fun n => ?_⟩, by decide +kernel⟩
  have h : expired (updColour { placed with queues := [(0, { en := true, qwdt := 2, qwdc := 131072 })] } 1 fun c => { c with root := some {} }) 0 = [(0, 2)] := by
    decide +kernel
  rw [h]; simp

/-! ## Replay, groups, homes and management -/

def recA (cls : FaultClass) (frozen : Bool) : Outstanding := { part := 0, fseq := 5, info := { cls := cls }, colour := 1, serial := 1, act := 3, sleeve := 2, frozen := frozen }
def parkedForm : Parked := { part := 0, fseq := 5, act := 3, what := .form { act := 3 } }
/-- A record with one form parked under it, or with none. -/
def recorded (cls : FaultClass) (frozen : Bool) (l : List Parked) : State := { placed with records := [recA cls frozen], parked := l }

theorem wit_replay :
    (let s := recorded .translation false [parkedForm]
     (partOf s 0).rply = [] ∧ (partOf s 0).pstate = .running ∧ recordOf s 0 5 = some (recA .translation false) ∧
     (∀ q ∈ s.parked, q.part = 0 → q.what = .form { act := 3 }) ∧ parksUnder s (recA .translation false) = true ∧
     (∀ r ∈ s.records, r.part = 0 → r.holds = false ∧ r.frozen = false ∧ r.info.cls ≠ .compressOverflow) ∧
     actLive (actOf s 3) = true ∧ recordOf s 0 6 = none ∧ (s.parked.filter fun q => q.part == 0 && q.fseq == 5) = [parkedForm]) ∧
    (let s := recorded .protection true []
     recordOf s 0 5 = some (recA .protection true) ∧ (lookup s.colours 1).isSome = true ∧ (colourOf s 1).st = .resident ∧ (colourOf s 1).creator = 0 ∧
     (colourOf s 1).serial = 1 ∧ thawHeld s (recA .protection true) = false ∧ (lookup s.sleeves 2).isSome = true ∧
     (s.parked.filter fun q => q.part == 0 && q.fseq == 5) = [] ∧ (∀ q ∈ s.records, q.part = 0 → q.fseq = 5 → q = recA .protection true) ∧
     (partOf s 0).pstate = .running ∧ (partOf s 0).rply = []) ∧
    (∀ q ∈ (recorded .translation false [parkedForm]).records, q.part = 0 → q.fseq = 5 → q = recA .translation false) ∧
    (partOf (updPart placed 0 fun x => { x with pstate := .freezing }) 0).pstate = .freezing ∧
    (partOf State.reset 0).pstate = .empty ∧ (partOf State.reset 0).rply = [] := by decide +kernel

theorem wit_registers_host : (12#64).toNat % 16 ≤ 12 ∧ 12 < (13#64).toNat % 16 ∧ (1#64).getLsbD 0 = true ∧ usable placed 3 = true ∧
    placed.regs.cmbas.getLsbD 0 = false ∧ ({ placed.regs with cmbas := 1 } : Regs).cmbas.getLsbD 0 = true ∧ (0#64).getLsbD 0 = false ∧ (partOf placed 15).frecs = [] ∧ placed.olrecs = [] := by decide +kernel

def eight : Map Word := (List.range 8).map fun k => (k, BitVec.ofNat 64 (2 ^ 63 + k))
/-- This device, number 0, has rank 0 of eight members; one protected stripe of 8 units at the start of memory. -/
def group (gen : Bool) (st : Nat) : State := { placed with regs := { placed.regs with gmem := eight, gen := gen, gstate := st, gpn := 8, gpb := 0 } }

theorem wit_group :
    (group false 0).regs.gstate ≠ 3 ∧ (0x8000000000000000#64).getLsbD 63 = true ∧ (∀ j < 8, memberValid (group false 0) j = true) ∧
    memberDev (group false 0) 0 = (group false 0).regs.devn.toNat ∧ usable (group false 0) 1 = true ∧ memberValid placed 7 = false ∧
    memberDev (group false 0) 1 ≠ 0 ∧ (group true 2).regs.gstate = 2 ∧ (group true 3).regs.gstate = 3 ∧
    (∀ j ∈ otherRanks (group true 2), memberValid (group true 2) j = true ∧ memberLost (group true 2) j = false) ∧
    (∃ j ∈ otherRanks { placed with regs := { placed.regs with gstate := 2 } }, memberValid { placed with regs := { placed.regs with gstate := 2 } } j = false) ∧
    (let s := { group true 3 with rbHeld := [1, 2, 3, 4, 5, 6, 7], rebuilt := regionSectors (group true 3) }
     s.rbHeld.length = 7 ∧ regionSectors s ≤ s.rebuilt) ∧
    (rebuildWhole (group true 3) = false ∧ cutOff (group true 3) = true ∧ (group true 3).regs.rberr = false) := by decide +kernel

/-- The held group with every route through port 0, which is up. -/
def routed : State := writeDev { group true 2 with helup := [(0, { up := true })], regs := { (group true 2).regs with hrtb := 0x200000 } }
  0 (0x200000 + 32 * 16385) 224 (1 + 2 ^ 32 + 2 ^ 64 + 2 ^ 96 + 2 ^ 128 + 2 ^ 160 + 2 ^ 192)
theorem wit_ports_to : (∀ j ∈ otherRanks routed, routePorts routed (memberDev routed j) = [0]) ∧ 0 ∈ collPorts 0 ∧ 0 ∉ collPorts 1 := by decide +kernel
theorem wit_routes : ∀ j ∈ otherRanks routed, routePort routed (memberDev routed j) 0 ≠ none := by
  intro j hj
  simp [routePort, routeFrom, hashPort, wit_ports_to.1 j hj, Nat.mod_one]
/-- A collective of devices 0 and 1 begins where the route to device 1 exists. -/
theorem wit_collective_start :
    let s := { routed with colls := [(40, collA)] }
    lookup s.colls 40 = some collA ∧ (s.colls.find? fun y => y.2.isl == 0 && !y.2.begun && y.2.status == 0) = some (40, collA) ∧
    collRec collA.instr = some (xrec .i64 .ab 1, 2) ∧ (partOf s 0).pstate = .running ∧ issueEdge s collA.edges = true ∧
    (∀ d ∈ collA.group, lostMember s d = false) ∧ collA.agreed = [] ∧ collA.rank < collA.group.length ∧ 2 ≤ collA.group.length ∧
    (∀ y ∈ s.collBox, concerns collA y.1 y.2 = false) ∧ ∀ d ∈ collA.group.filter fun d => d != s.regs.devn.toNat, routePorts s d ≠ [] := by decide +kernel

theorem wit_delta :
    (let m : DeltaMsg := { sector := 2047, dseq := 0, delta := 1 }
     let s := group true 1
     Quiet s ∧ rankOf s 3 = some 3 ∧ takesPart s = true ∧ takesPart (group false 0) = false ∧ m.sector.toNat / 2048 < s.regs.gpn ∧ m.sector.toNat / 2048 % 8 = s.regs.rank ∧ s.early = [] ∧
     poisonLoc s (.dev 0 (sectorAddr s 2047)) = false ∧ m.dseq.toNat = (lookupD s.dseqFrom 3 0).toNat % 2 ^ 26 ∧
     (1#26).toNat = ((lookupD s.dseqFrom 3 0).toNat + 1) % 2 ^ 26 ∧ s.regs.gpn ≤ (16384#34).toNat / 2048 ∧ (2048#34).toNat / 2048 % 8 ≠ s.regs.rank) := by
  unfold Quiet; decide +kernel
theorem wit_delta_exists : Exists 0 (sectorAddr (group true 1) 2047) 256 := exists_linear _ _ (by decide +kernel)

theorem wit_member :
    (let s := { group true 1 with deltas := [{ rank := 3, sent := 1 }], cycle := 80000001 }
     s.regs.glto ≠ 0 ∧ memberLost s 3 = false ∧ (∃ d ∈ deltasTo s 3, d.sent + cyclesOf s s.regs.glto ≤ s.cycle) ∧
     (∀ d ∈ deltasTo { s with cycle := 80000000 } 3, 80000000 < d.sent + cyclesOf s s.regs.glto) ∧ rankOf s 3 = some 3 ∧ 16383 < regionSectors s ∧
     s.colls = []) ∧
    (takesPart routed = true ∧ (askerRank routed 3).isSome = true ∧ routePorts routed 3 ≠ [] ∧ Quiet routed ∧ askerRank (group true 1) 9 = none) := by
  unfold Quiet; decide +kernel

/-- The export window covers the first 64 KiB. -/
def exporting : State := { placed with regs := { placed.regs with hxen := true, hxwb := 0, hxwn := 1 } }
def getMsg (a : Nat) (n : Nat) : AccessMsg := { len := BitVec.ofNat 8 n, addr := BitVec.ofNat 42 a, data := 5, rid := 9 }

theorem wit_exported (i : Instr) (a n : Nat) (wr : Bool) (h : 0 < n ∧ n ≤ 192 ∧ exported exporting a n = true ∧ a < 2 ^ 42)
    (hl : ∀ p ∈ linearParts a n, lostLoc exporting (linearLoc p) = false ∧ ownedLoc exporting (linearLoc p) = none)
    (hp : mayPass exporting (.inbound exporting.ids) ((linearParts a n).map fun p => { va := p.va, leaf := exportLeaf exporting p.va.toNat }) = true) :
    Exported exporting i a n wr :=
  ⟨fun _ _ hj => by simp [show exporting.inbound = [] by decide +kernel] at hj, h, hl, fun _ => ⟨by decide +kernel, hp⟩⟩

theorem wit_home :
    Exported exporting (.read 3 (getMsg 524096 192)) 524096 192 false ∧ Exported exporting (.write 3 (getMsg 200 192)) 200 192 true ∧ Exists 0 200 192 ∧
    exported exporting 524097 192 = false ∧ Quiet exporting ∧ exporting.inbound = [] :=
  by
  refine ⟨wit_exported _ _ _ _ ?_ ?_ ?_, wit_exported _ _ _ _ ?_ ?_ ?_, exists_linear _ _ ?_, ?_, ?_, ?_⟩ <;> (try unfold Quiet) <;> decide +kernel

theorem wit_home_atomic :
    let m : AtomicMsg := { op := 8, ty := 1, u := true, addr := 224, b := 1, c := 2, rid := 9 }
    Exported exporting (.atomic 3 m) 224 32 true ∧ atomicTy m.op m.ty = some .i32 ∧ m.op.toNat ≤ 8 ∧ 224 % 256 + Ty.width .i32 ≤ 256 ∧ Exists 0 224 32 ∧
    poisonLoc exporting (.dev 0 224) = false :=
  by refine ⟨wit_exported _ _ _ _ ?_ ?_ ?_, ?_, ?_, ?_, exists_linear _ _ ?_, ?_⟩ <;> decide +kernel

theorem wit_requester :
    (let r : Remote := { dst := 3, what := .load 4 0, len := 32, sent := 0 }
     let o : Op := { f := { act := 3 }, w := .remote [(0, 0, 32, none)] .i32 true false, order := 4 }
     let s := { placed with remotes := [(9, r)], ops := [(4, o)], cycle := 16000000 }
     lookup s.remotes (9#32).toNat = some r ∧ r.dst = 3 ∧ r.mask = 0 ∧ r.given = 0 ∧ lookup s.ops 4 = some o ∧ r.len = Ty.width .i32 ∧ lookup s.remotes (8#32).toNat = none ∧
     r.sent + cyclesOf s s.regs.hxto ≤ s.cycle ∧ 15999999 < r.sent + cyclesOf s s.regs.hxto) ∧
    (let r : Remote := { dst := 3, what := .store 9 }
     let s := { withStore .plain placed with remotes := [(9, r)] }
     lookup s.remotes 9 = some r ∧ lookup s.stores 9 = some (storeA .plain) ∧ (storeA .plain).elems = [elemA] ∧
     (lookup s.colours (storeA .plain).colour).isSome = true ∧ (colourOf s (storeA .plain).colour).serial = (storeA .plain).serial) ∧
    (let r : Remote := { dst := 3, what := .xfer 30 }
     let s := { placed with remotes := [(9, r)], xfers := [(30, fill .running 0)] }
     lookup s.remotes 9 = some r ∧ lookup s.xfers 30 = some (fill .running 0) ∧ (fill .running 0).st ≠ .stopped ∧ s.ops = [] ∧
     (lookup s.colours (fill .running 0).colour).isSome = true) ∧
    (let r : Remote := { dst := 3, what := .atomic 4 }
     let o : Op := { f := { act := 3 }, w := .remoteAtomic 9 .i64 false, order := 4 }
     let s := { placed with remotes := [(9, r)], ops := [(4, o)] }
     lookup s.remotes 9 = some r ∧ lookup s.ops 4 = some o) := by decide +kernel

/-- An offer of a host that Table 11.1 supports, with this link width. -/
def offer (width : BitVec 5) : CxlOffer :=
  { partner := .host, restricted := false, type2 := true, io := true, cache := true, mem := true, flit256 := true, gts64 := false, gts32 := true, width := width,
    hdmDb := true, pbr := false, hbr := true, code := 0 }

def emptyFlit : Flit := sealFlit { dst := 0, src := 3, lseq := 1, lack := 0, fk := 0, rsv := 0, slots := 0, crc := 0 }

theorem wit_links :
    (portOf placed 23).out = false ∧ (portOf placed 23).acked = 0 ∧ (portOf placed 23).rx = 0 ∧ emptyFlit.fk = 0 ∧ emptyFlit.lack = 0 ∧
    emptyFlit.lseq = (portOf placed 23).rx + 1 ∧ emptyFlit.rsv = 0 ∧ emptyFlit.slots = 0 ∧
    (let s := { placed with helup := [(23, { up := true, buf := [(emptyFlit, 8)] })] }
     (portOf s 23).up = true ∧ (0#12) = (portOf s 23).acked ∧ (portOf s 23).buf.length ≤ 2048 ∧ ∃ f ∈ (portOf s 23).buf, 8 ≤ f.2) ∧
    (3 ≤ (3#4).toNat ∧ ({ emptyFlit with rsv := 1 } : Flit).rsv ≠ 0 ∧ (1#4) ≠ 0 ∧ (2#12) ≠ (portOf placed 23).rx + 1) ∧
    (portOf placed 23).up = false ∧ emptyFlit.dst = placed.regs.devn ∧ offerOk (offer 16) = true ∧ offerOk (offer 17) = false ∧
    offerOk { offer 16 with hbr := false } = false ∧ offerOk { offer 16 with hdmDb := false } = false := by decide +kernel
theorem flit_body (f : Flit) (c : BitVec 32) : flitBody { f with crc := c } = flitBody f := rfl
theorem flit_sealed (f : Flit) : ∃ c, sealFlit f = { f with crc := c } := ⟨_, rfl⟩
theorem flit_crc (f g : Flit) (h : flitBody g = flitBody f) : (sealFlit g).crc = (sealFlit f).crc := by unfold sealFlit; rw [h]
theorem flit_good (f : Flit) : flitGood f = (f.crc == (sealFlit f).crc) := rfl
theorem wit_flits (f : Flit) : flitGood (sealFlit f) = true ∧ flitGood { f with crc := (sealFlit f).crc + 1 } = false := by
  constructor
  · obtain ⟨c, h⟩ := flit_sealed f
    rw [flit_good, flit_crc f (sealFlit f) (by rw [h, flit_body]), beq_self_eq_true]
  · rw [flit_good, flit_crc f { f with crc := (sealFlit f).crc + 1 } (flit_body f _), beq_eq_false_iff_ne]
    generalize (sealFlit f).crc = x
    bv_omega

theorem wit_pod :
    (Quiet placed ∧ placed.inbound = [] ∧ placed.ownerLost.contains 7 = false ∧ (dirOf placed 7).owner = none ∧ (dirOf placed 7).asked = none ∧
     Passes placed (.inbound placed.ids) (lineSpots placed (.inbound placed.ids) 7) ∧ heldSpots placed (lineSpots placed (.inbound placed.ids) 7) = false) ∧
    (let s := { placed with dir := [(7, { owner := some 2, asked := some 0 })], cycle := 3200000 }
     (dirOf s 7).owner = some 2 ∧ (2 : Nat) ≠ 1 ∧ (dirOf s 7).waiting = [] ∧ (dirOf s 7).asked = some 0 ∧ 0 + cyclesOf s s.regs.ownto ≤ s.cycle ∧
     s.regs.oln = 0 ∧ s.ownerLost.contains 7 = false ∧ (dirOf { placed with dir := [(7, { owner := some 2 })] } 7).asked = none) ∧
    ({ placed with ownerLost := [7] } : State).ownerLost.contains 7 = true ∧
    (lookupD ({ placed with l2 := [(podLine0 + 7, { s0 := true, d0 := true })] } : State).l2 (podLine0 + 7) {}).dirty = true ∧
    (lookupD placed.l2 (podLine0 + 7) {}).dirty = false ∧
    (let m : PodAtomic := { op := 8, ty := 1, u := true, ofs := 480, b := 1, c := 2 }
     atomicTy m.op m.ty = some .i32 ∧ m.op.toNat ≤ 8 ∧ m.ofs.toNat % 256 + Ty.width .i32 ≤ 256 ∧ poisonLoc placed (.dev 0 (512 * 7 + 480)) = false) := by
  unfold Quiet Passes; decide +kernel
theorem wit_pod_exists : Exists 0 (512 * 7 + 480) 32 := exists_linear _ _ (by decide +kernel)
theorem wit_line : LineExists 7 ∧ LineExists (deviceBytes / 64 - 1) := by unfold LineExists; decide +kernel

/-- A walk of `paged`'s page with one access that waits. -/
def waiterA (va : Word) (use : Use) : Waiter := { e := { act := 3 }, va := va, width := 32, part := 32, use := use, parts := [(va, 32)] }
def walkA (va : Word) (use : Use) : Walk := { part := 0, va := va, waiting := [waiterA va use] }
def walking (va : Word) (use : Use) : State := { paged with walks := [(9, walkA va use)] }

theorem wit_walks :
    Quiet (walking 0 .read) ∧ lookup (walking 0 .read).walks 9 = some (walkA 0 .read) ∧ hasWalker (walking 0 .read) 9 (walkA 0 .read) = true ∧
    waitsAt (walking 0 .read) (.form (waiterA 0 .read).e.act (waiterA 0 .read).e.node) = none ∧
    hasWalker { paged with walks := (List.range 64).map (fun k => (k, walkA 0 .read)) ++ [(64, walkA 0 .read)] } 64 (walkA 0 .read) = false ∧
    (walkTables (walking 0 .read) 0 0).2 = .leaf oldLeaf false 0xC000 ∧ permission (supervisor (walking 0 .read) 0) .read oldLeaf = none ∧
    apertureBad (walking 0 .read) .read oldLeaf false 0 32 = false ∧ tlbLookup (walking 0 .read) (.quad 0) 0 0 = none ∧
    (walkTables (walking 0x100000 .read) 0 0x100000).2 = .stop 1 3 0 ∧ permission true .write (oldLeaf &&& ~~~0x10#64) = some 3 ∧ (waiterA 0 .read).leaves = [] ∧
    (pageBase 0x80000 false ≠ pageBase 0 false ∧ tlbLookup (walking 0 .read) (.quad 0) 0 0x180000 = none ∧ pageBase 0x180000 false ≠ pageBase 0 false) := by
  unfold Quiet; decide +kernel

theorem wit_safe : State.reset.Safe ∧ placed.Safe ∧ (writeDev placed 0 0 8 1).Safe := by unfold State.Safe; decide +kernel

theorem wit_write_back :
    (lineState placed 7).dirty = false ∧
    (let s := { placed with l2 := [(0x4000000, { s0 := true, d0 := true, cmark := true })] }
     (lineState s 0x4000000).dirty = true ∧ 0x4000000 < compactLine0 ∧ s.regs.cmbas.getLsbD 0 = false ∧ s.packed = []) ∧
    (let s := { placed with victim := [(0x40000000, { s0 := true, d0 := true, cmark := true })], regs := { placed.regs with cmbas := 0x200000001 } }
     let u := cdaToLinear (64 * 0x40000000) / 256
     let base := bits s.regs.cmbas.toNat 33 27 * 2 ^ 30
     (lineState s 0x40000000).dirty = true ∧ 0x40000000 < compactLine0 ∧ s.regs.cmbas.getLsbD 0 = true ∧ ¬(base ≤ 256 * u ∧ 256 * u < base + 960 * 2 ^ 20) ∧
     s.poison = [] ∧ blockState s u ≤ 8 ∧ lookupD s.packed u 0 = blockState s u ∧
     9 ≤ blockState (writeDev s 0 (metaAddr s u / 8 * 8) 8 0x99) u) := by decide +kernel

theorem wit_scrub : cdaExists (32 * 7) = true ∧ cdaExists (32 * (40960 * 32)) = false ∧
    sectorHeld { placed with l2 := [(3, { s1 := true, d1 := true })] } 7 = (true, true) ∧
    sectorHeld { placed with l2 := [(3, { s1 := true })] } 7 = (true, false) ∧ sectorHeld placed 7 ≠ (true, true) ∧
    (let s := { placed with regs := { placed.regs with ecsel := 0x5F0 }, mc := { placed.mc with mirror := [(0x5F0, (65535, 1))] } }
     bits s.regs.ecsel.toNat 4 7 < 96 ∧ lookupD s.mc.mirror s.regs.ecsel.toNat (0, 0) = (65535, 1)) := by decide +kernel

theorem wit_management :
    placed.regs.heatRun = false ∧ gridLoaded placed (bitGrid 0x401 63) = true ∧ gridLoaded placed (bitGrid 0x429 63) = false ∧ gridLoaded placed (bitGrid 0x400 0) = true ∧
    placed.mc.clock = 1600 ∧ placed.mc.powered = true ∧ placed.agenda.head? ≠ some (.event .deviceReset) := by decide +kernel

theorem wit_assigned : assigned 0x15 = true ∧ assigned 0x1C = false ∧ assigned 0x98 = true ∧ assigned 0x99 = false ∧ assigned 0 = false ∧ assigned 0xFF = false := by decide

theorem wit_steps :
    placed.mc.powered = true ∧ placed.agenda = [.issue 0] ∧ (headEligible { placed with agenda := [] } 0).isSome = true ∧
    headEligible { placed with agenda := [], entries := [] } 0 = none ∧ ({ placed with agenda := [.event .hold] } : State).agenda = [.event .hold] := by decide +kernel

theorem wit_throttle : partOfQuad placed 31 = some 0 ∧ 1 ≤ (partOf placed 0).on ∧ (partOf placed 0).off < (partOf placed 0).on ∧
    31 ∉ placed.throttled ∧ 31 ∈ ({ placed with throttled := [31] } : State).throttled ∧
    live placed (colourKey 0 (tagColour (tokA 0x0002000000000000 .far).tok.tag)) = false ∧ retHeld placed (tokA 0x0002000000000000 .far) = false ∧ retHeld placed { tokA 0x0002000000000000 (.slot 3 0) with ret := true } = false ∧
    bits (0x4000 : Word).toNat 8 7 = 64 ∧ bits (0x100 : Word).toNat 8 7 = 1 ∧ bits (0x100 : Word).toNat 0 7 = 0 ∧ bits (0x4100 : Word).toNat 8 7 = 65 ∧
    bits (0x3838 : Word).toNat 8 7 ≤ bits (0x3838 : Word).toNat 0 7 := by decide +kernel

/-! ## Decoding of words of the spec's examples -/

/-- A record without targets or operands, to change. -/
def bare : GRec := plainG .i64 .start .none .none .scalar 0

theorem test_decode_integer : decodeRecord 0x200110875000000000000005 = .ok (.add (plainG .i32 .a (.node 7 .b false) (.slot 0 false) .scalar 5)) := by decide +kernel
theorem test_decode_float : decodeRecord 0x430830890000000000000000 = .ok (.ffma (plainG .f32 .abc (.node 9 .a false) .none .scalar 0)) := by decide +kernel
theorem test_decode_convert : decodeRecord 0x500F10840000020900000000 =
    .ok (.cvt { plainG .e2m1 .a (.node 4 .a false) .none .packed 0 with aux := 9 }) := by decide +kernel
theorem test_decode_lanes : decodeRecord 0x520C10850860020000000000 = .ok (.qblk (plainG .e4m3 .a (.node 5 .a false) (.node 6 .a false) .packed 0)) := by decide +kernel
theorem test_decode_wave : decodeRecord 0x100012802000000000000000 =
    .ok (.wave { bare with c := { bare.c with ar := .a, tg := .wave, t0 := .node 0 .a true } }) := by decide +kernel
theorem test_decode_loop : decodeRecord 0x130012802850000000000005 =
    .ok (.lbnd { bare with c := { bare.c with ar := .a, tg := .wave, t0 := .node 0 .a true, t1 := .node 5 .a false }, lit := 5 }) := by decide +kernel
theorem test_decode_select : decodeRecord 0x3800B2802000000000000000 =
    .ok (.sel { bare with c := { bare.c with pm := .onFalse, ar := .abc, tg := .wave, t0 := .node 0 .a true } }) := by decide +kernel
theorem test_decode_exit : decodeRecord 0x083000000000000000000000 = .ok (.exitEoc { c := { bare.c with fn := 3 }, exn := 0, bofs := 0 }) := by decide +kernel
theorem test_decode_fence : decodeRecord 0x6EB000870000317C00000000 =
    .ok (.fence { c := { bare.c with fn := 11, t0 := .node 7 .a false }, own := 3, pred := 2, succ := 31, ordr := .relaxed, ofs := 0 }) := by decide +kernel
theorem test_decode_atomic : decodeRecord 0x7230200000002FFC00000000 =
    .ok (.amin { c := { bare.c with fn := 3, ar := .ab }, own := 2, pred := 31, succ := 31, ordr := .relaxed, ofs := 0 }) := by decide +kernel
theorem test_decode_transfer : decodeRecord 0x820030870880004018000005 =
    .ok (.xgat { c := { bare.c with ar := .abc, t0 := .node 7 .a false, t1 := .node 8 .a false }, hslot := 0, full := false, ha := true, hb := false, lit := 0x18000005 }) := by
  decide +kernel
theorem test_decode_hem : decodeRecord 0x970C10890000310000000200 =
    .ok (.tcvq { c := { bare.c with ty := .e4m3, ar := .a, t0 := .node 9 .a false }, isl := 3, all := false, slot := 1, aux := 0, row := 0, nrow := 2, col := 0 }) := by
  decide +kernel
theorem test_decode_stream : decodeRecord 0xA80010840000000000000003 =
    .ok (.send { bare with c := { bare.c with ar := .a, t0 := .node 4 .a false }, lit := 3 }) := by decide +kernel
theorem test_decode_budget : decodeRecord 0xAA0000850000000000000010 = .ok (.hvya { bare with c := { bare.c with t0 := .node 5 .a false }, lit := 16 }) := by decide +kernel
theorem test_decode_register : decodeRecord 0xB30010000000000000000451 = .ok (.swr { bare with c := { bare.c with ar := .a }, lit := 0x451 }) := by decide +kernel
theorem test_decode_lining : decodeRecord 0xB900208C1000000000000000 =
    .ok (.lcmp { bare with c := { bare.c with ar := .ab, t0 := .node 12 .a false, t1 := .slot 0 false } }) := by decide +kernel
/-- PM 11 fails verification (the example of the spec). -/
theorem test_decode_pm : decodeRecord 0x2001D0875000000000000005 = .error .reservedField := by decide +kernel
/-- A table word: the bytes of the record, least significant first. -/
theorem test_decode_table_word : decodeTableWord 96 0x200110875000000000000005 = some (.add (plainG .i32 .a (.node 7 .b false) (.slot 0 false) .scalar 5)) := by decide +kernel

/-! ## Ill-formed terms -/

/-- One term that each rule of WellFormed refuses. -/
theorem test_ill_formed : ∀ i ∈ ([
    .add { bare with c := { bare.c with fn := 8 } },                                    -- FN beyond its bits
    .add { bare with c := { bare.c with ar := .abc } },                                 -- an arity that the form does not have
    .add { bare with c := { bare.c with ar := .ab, ty := .f32 } },                      -- a float type on an integer form
    .add { bare with c := { bare.c with ar := .ab }, rnd := .rdn },                     -- a rounding mode on it
    .add { bare with c := { bare.c with ar := .ab }, lm := .packed },                   -- packed elements of 64 bits
    .add { bare with c := { bare.c with ar := .ab }, lit := 1 },                        -- a literal that is no operand
    .add { bare with c := { bare.c with ar := .a, t0 := .far 0 .a false }, lit := 1 },  -- a far target beside a literal operand
    .fadd { bare with c := { bare.c with ar := .ab, ty := .f32 }, rnd := .rsr },        -- stochastic rounding of an arithmetic form
    .fadd { bare with c := { bare.c with ar := .a, ty := .bf16 }, lit := 0x10000 },     -- a literal wider than its type
    .cvt { bare with c := { bare.c with ar := .a, ty := .f32 }, aux := 7 },             -- the reserved type code as source
    .cvt { bare with c := { bare.c with ar := .a, ty := .f32 }, aux := 0x40 },          -- reserved bits of AUX
    .redl { bare with c := { bare.c with ar := .a, fn := 6 } },                         -- a reduction code that is none
    .wave { bare with c := { bare.c with ar := .a, t0 := .node 0 .a true } },           -- WAVE without its tag operation
    .exitEoc { c := { bare.c with fn := 3 }, exn := 0, bofs := 1 },                     -- a block offset where none is used
    .ld { c := { bare.c with ar := .a, fn := 6 }, own := 0, pred := 31, succ := 31, ordr := .relaxed, ofs := 0 },  -- scope 6
    .st { c := { bare.c with ar := .ab, fn := 9 }, own := 0, pred := 31, succ := 31, ordr := .relaxed, ofs := 0 }, -- a bit that stores lack
    .ld { c := { bare.c with ar := .a }, own := 31, pred := 31, succ := 31, ordr := .relaxed, ofs := 0 },          -- no LSID
    .ld { c := { bare.c with ar := .a }, own := 2, pred := 3, succ := 31, ordr := .relaxed, ofs := 0 },            -- PRED not below OWN
    .twait { trec .i64 .start true 1 0 0 0 with col := 0 },                             -- ALL beside an island number
    .xcpy { xrec .i64 .ab 1 with full := true, c := { bare.c with ar := .ab, fn := 1 } },
    .hvya { bare with c := { bare.c with ar := .start, t0 := .far 0 .a false }, lit := 1 },
    .swr { bare with c := { bare.c with ar := .a, ty := .i32 }, lit := 0x451 },
    .tlbiPage { bare with c := { bare.c with ar := .a, t0 := .far 3 .a false }, lit := 1 },                        -- TLBI, LCMP and DRCL with LIT
    .lcmp { bare with c := { bare.c with ar := .ab, t0 := .far 3 .a false }, lit := 1 },
    .drcl { bare with c := { bare.c with ar := .ab, t0 := .far 3 .a false }, lit := 1 },
    .tokloWrite 64 0, .fqseqWrite 16 0, .tmmaStart 512, .helupPortOut 24, .badBitSet 0x42A 0,
    .predictSuccessor 3 0x4001, .writeAck 0x400000 0] : List Instr), i.wf = false := by decide +kernel

/-! ## Results of the spec's examples -/

/-- The value of the first token that a state sends. -/
def sends (o : Host.Outcome State Fault Refusal) : Option (Nat × Nat) :=
  match o with
  | .next t => t.net.head?.map fun n => (n.tok.v.ln, n.tok.v.val.toNat)
  | .fault _ | .refused _ => none

def f32s (l : List Nat) (i : Nat) : Option TokVal := l[i]?.map fun x => scalarOf (BitVec.ofNat 64 x)
def three (l : List Nat) : State := on (f32s l 0) (f32s l 1) (f32s l 2)

theorem test_ffma : sends (exec (.ffma (f32 .abc)) (three [0x3F800800, 0x3F800800, 0xBF801000])) = some (1, 0x33800000) := by decide +kernel
theorem test_fmul_tie : sends (exec (.fmul (f32 .ab)) (three [0x3F800800, 0x3F800800])) = some (1, 0x3F801000) := by decide +kernel
theorem test_fmul_rup : sends (exec (.fmul { f32 .ab with rnd := .rup }) (three [0x3F800800, 0x3F800800])) = some (1, 0x3F801001) := by decide +kernel
theorem test_cvt_e4m3 : sends (exec (.cvt (cvtRec .e4m3 8 .none)) (three [0x43960000])) = some (1, 0x79) := by decide +kernel
theorem test_cvt_overflow : sends (exec (.cvt (cvtRec .e4m3 8 .none)) (three [0x43EB0000])) = some (1, 0x7F) := by decide +kernel
theorem test_qblk : sends (exec (.qblk { plainG .e4m3 .a (.node 5 .a false) (.node 6 .a false) .packed 0 with rnd := .rne })
    (on (some (vectorOf [0x40400000, 0xC1280000, 0x3E4CCCCD, 0x442F0000])) none none)) = some (1, 0x7E20CD3F) := by decide +kernel
theorem test_unpk : (match exec (.unpk (vrec .i3 .a .packed 8)) (on (some (vectorOf [0x1CE88, 0x31])) none none) with
    | .next t => t.net.head?.map fun n => (List.range 12).map n.tok.v.lane
    | _ => none) = some [0, 0, 1, 0xFFFFFFFE, 0, 0, 0, 0, 0, 0, 0, 0] := by decide +kernel
theorem test_wave_tag : applyTag .wave 0x002A02000000FF03 0 0 = some 0x002A020000000003 ∧ applyTag .pop 0x002A02000000FF03 0 0 = some 0x002A010000000003 := by
  decide +kernel

/-- A P-521 signature of the digest of "abc", made and verified by another implementation of FIPS 186. -/
theorem test_ecdsa : ecdsaVerify
    0x0104394fe3b29f53fd647b20926cf303a3b1bd8c2d85831344c8ffb231598c51589361dd3c1f0153b014e3c8f45d66629c4141ba560f8053af3577ded52ce774b3fa01803082fe112b12684d28f36b3e140ac64088a8571f5f6803163f8c6a257538467da713beedbc915576b3b1fc783db41f14f0b95bb1e8bb057a6b94998473f3405c
    0xddaf35a193617abacc417349ae20413112e6fa4e89a97ea20a9eeee64b55d39a2192992a274fc1a836ba3c23a3feebbd454d4423643ce80e2a9ac94fa54ca49f
    0x5C834C7064848F0DA701CCE328B1BFAEAD412222C5B629DE477559A03432C4FA474F7B431303350975E0092CA37C860F7D7F4401DC10A60B9EFEEF4A9B63A946C8
    0x01E3DF2626C6C4D635080F26CF840CD1A1FE82BF6B0780D12A48E5168168DFA766D861105572E4CEE254D626EA2EBBA37AB4B8291C23225B5A6A7B764EE28ADF6843 = true := by
  decide +kernel

def promoteA : List Nat := [0x7B, 0x01, 0x01, 0xFB] ++ List.replicate 124 0
def promoteB : List Nat := [0x7B, 0x3D, 0x3C, 0x7B] ++ List.replicate 124 0
theorem test_promote :
    promote 9 (promoteA.map (readFloat (fmtOf .e5m2))) (promoteB.map (readFloat (fmtOf .e5m2))) 0x40400000 0x3DCCCCCD 0x3F800000 = 0x3F800060 ∧
    promote 7 (promoteA.map (readFloat (fmtOf .e5m2))) (promoteB.map (readFloat (fmtOf .e5m2))) 0x40400000 0x3DCCCCCD 0x3F800000 = 0x3F800000 := by
  decide +kernel
end Sys2Proof.Tests
end

section
/-! PROOFS. What an update of one table entry does to the entries that are read back, and what the mapper (R21) and the start of an activation
(R43, R45, R85) leave of the state. -/

namespace Sys2Proof.Machine

open Sys2Proof

/-! ## Reading an entry after an update -/

theorem actOf_updAct_same {s : State} {a : Nat} (h : (lookup s.acts a).isSome = true) (f : Act → Act) :
    actOf (updAct s a f) a = f (actOf s a) := by
  obtain ⟨x, hx⟩ := Option.isSome_iff_exists.mp h
  simp [updAct, actOf, lookupD, hx]

theorem lookup_updAct_other {s : State} {a b : Nat} (h : b ≠ a) (f : Act → Act) : lookup (updAct s a f).acts b = lookup s.acts b := by
  unfold updAct
  split
  · exact lookup_insertAt_other _ _ h
  · rfl

theorem actOf_updAct_other {s : State} {a b : Nat} (h : b ≠ a) (f : Act → Act) : actOf (updAct s a f) b = actOf s b := by
  simp only [actOf, lookupD, lookup_updAct_other h]

theorem updAct_unlisted {s : State} {a : Nat} (h : lookup s.acts a = none) (f : Act → Act) : updAct s a f = s := by
  simp [updAct, h]

theorem updAct_listed {s : State} {a : Nat} (h : (lookup s.acts a).isSome = true) (f : Act → Act) :
    updAct s a f = { s with acts := insertAt s.acts a (f (actOf s a)) } := by
  obtain ⟨x, hx⟩ := Option.isSome_iff_exists.mp h
  simp [updAct, actOf, lookupD, hx]

theorem actOf_congr {s t : State} (h : t.acts = s.acts) (a : Nat) : actOf t a = actOf s a := by simp [actOf, h]

/-- An activation that has not ended is listed. -/
theorem listed_of_st {s : State} {a : Nat} (h : (actOf s a).st ≠ .committed) : (lookup s.acts a).isSome = true := by
  cases e : lookup s.acts a with
  | none => simp [actOf, lookupD, e] at h
  | some x => rfl

theorem lookup_updSleeve_isSome (s : State) (v u : Nat) (f : Sleeve → Sleeve) :
    (lookup (updSleeve s v f).sleeves u).isSome = (lookup s.sleeves u).isSome := by
  unfold updSleeve
  split
  · rename_i x hx
    by_cases e : u = v
    · simp [e, hx]
    · simp [lookup_insertAt_other _ _ e]
  · rfl

theorem sleeveOf_updSleeve_same {s : State} {v : Nat} (h : (lookup s.sleeves v).isSome = true) (f : Sleeve → Sleeve) :
    sleeveOf (updSleeve s v f) v = f (sleeveOf s v) := by
  obtain ⟨x, hx⟩ := Option.isSome_iff_exists.mp h
  simp [updSleeve, sleeveOf, lookupD, hx]

/-- What an update keeps of every sleeve, it keeps of each sleeve that is read back. -/
theorem sleeveOf_updSleeve_keeps {β : Type} (g : Sleeve → β) {f : Sleeve → Sleeve} (h : ∀ y, g (f y) = g y) (s : State) (v u : Nat) :
    g (sleeveOf (updSleeve s v f) u) = g (sleeveOf s u) := by
  unfold updSleeve
  split
  · rename_i x hx
    by_cases e : u = v
    · simp [sleeveOf, lookupD, e, hx, h]
    · simp [sleeveOf, lookupD_insertAt_other, e]
  · rfl

theorem lookup_mem {α : Type} {m : Map α} {k : Nat} {v : α} (h : lookup m k = some v) : (k, v) ∈ m := by
  induction m with
  | nil => cases h
  | cons e m ih =>
    simp only [lookup] at h
    split at h
    · rename_i hk
      exact List.mem_cons.mpr (.inl (by rw [← hk, ← Option.some.inj h]))
    · exact List.mem_cons_of_mem _ (ih h)

theorem mem_insertAt {α : Type} {m : Map α} {k : Nat} {v : α} {e : Nat × α} (h : e ∈ insertAt m k v) : e = (k, v) ∨ e ∈ m := by
  induction m with
  | nil => simpa [insertAt] using h
  | cons y m ih =>
    simp only [insertAt] at h
    split at h
    · simpa using h
    · split at h
      · rcases List.mem_cons.mp h with h | h
        · exact .inl h
        · exact .inr (List.mem_cons_of_mem _ h)
      · rcases List.mem_cons.mp h with h | h
        · exact .inr (h ▸ List.mem_cons_self)
        · exact (ih h).imp_right (List.mem_cons_of_mem _)

/-- A fold whose steps change nothing changes nothing. -/
theorem foldl_fixed {σ α : Type} {f : σ → α → σ} {s : σ} {l : List α} (h : ∀ x ∈ l, f s x = s) : l.foldl f s = s := by
  induction l with
  | nil => rfl
  | cons x l ih =>
    rw [List.foldl_cons, h x List.mem_cons_self]
    exact ih fun y hy => h y (List.mem_cons_of_mem _ hy)

/-! ## Placing a block (R21) -/

/-- `t` is `s` after the mapper has placed blocks and cached their images: only free choices, images read ahead and the mappings and images of
sleeves may differ. -/
structure MapsFrom (s t : State) : Prop where
  rest    : t = { s with free := t.free, prefetched := t.prefetched, sleeves := t.sleeves }
  sleeves : ∀ v, sleeveOf t v = { sleeveOf s v with maps := (sleeveOf t v).maps, images := (sleeveOf t v).images }
  listed  : ∀ v, (lookup t.sleeves v).isSome = (lookup s.sleeves v).isSome

theorem MapsFrom.acts {s t : State} (h : MapsFrom s t) : t.acts = s.acts := by rw [h.rest]

theorem MapsFrom.actOf {s t : State} (h : MapsFrom s t) (a : Nat) : Machine.actOf t a = Machine.actOf s a := actOf_congr h.acts a

theorem MapsFrom.colourOf {s t : State} (h : MapsFrom s t) (k : Nat) : colourOf t k = Machine.colourOf s k := by
  rw [h.rest]
  rfl

theorem MapsFrom.refl (s : State) : MapsFrom s s := ⟨rfl, fun _ => rfl, fun _ => rfl⟩

theorem MapsFrom.trans {s t u : State} (h : MapsFrom s t) (k : MapsFrom t u) : MapsFrom s u where
  rest := by rw [k.rest, h.rest]
  sleeves v := by rw [k.sleeves v, h.sleeves v]
  listed v := (k.listed v).trans (h.listed v)

theorem MapsFrom.updSleeve {s t : State} (h : MapsFrom s t) (v : Nat) {f : Sleeve → Sleeve}
    (k : ∀ y, f y = { y with maps := (f y).maps, images := (f y).images }) : MapsFrom s (updSleeve t v f) := by
  refine h.trans ⟨?_, fun u => ?_, fun u => lookup_updSleeve_isSome t v u f⟩
  · unfold Machine.updSleeve
    split <;> rfl
  · unfold Machine.updSleeve
    split
    · rename_i x hx
      by_cases e : u = v
      · subst e
        simpa [sleeveOf, lookupD, hx] using k x
      · simp [sleeveOf, lookupD_insertAt_other, e]
    · rfl

theorem MapsFrom.cachePlace {s t : State} (h : MapsFrom s t) (v q : Nat) : MapsFrom s (cachePlace t v q) := by
  unfold Machine.cachePlace
  dsimp only
  split
  · exact h
  · split
    · exact h.trans ⟨rfl, fun _ => rfl, fun _ => rfl⟩
    · split
      · exact h
      · exact h.updSleeve v fun _ => rfl

theorem MapsFrom.cacheImage {s t : State} (h : MapsFrom s t) (v q : Nat) (blk : Word) (img : Image) :
    MapsFrom s (cacheImage t v q blk img) := by
  unfold Machine.cacheImage
  split
  · exact h
  · exact (h.cachePlace v q).updSleeve v fun _ => rfl

theorem MapsFrom.cacheImages {s t : State} (h : MapsFrom s t) (v : Nat) (blk : Word) (img : Image) (l : List Nat) :
    MapsFrom s (l.foldl (fun s q => Machine.cacheImage s v q blk img) t) := by
  induction l generalizing t with
  | nil => exact h
  | cons q l ih => exact ih (h.cacheImage v q blk img)

theorem rotate_perm {α : Type} (l : List α) (i : Nat) : (rotate l i).Perm l := by
  unfold rotate
  exact List.perm_append_comm.trans (.of_eq (List.take_append_drop _ l))

/-- Good free node slots for a block's nodes, no two the same (R21). -/
structure GoodPlace (v : Sleeve) (img : Image) (place : List Nat) : Prop where
  length : place.length = imgNcnt img
  nodup  : (freeSlots v).Nodup → place.Nodup
  free   : ∀ k ∈ place, k ∈ freeSlots v

/-- The slots of a sleeve that may take a node of a block: free ones, of quads whose caches take its image. -/
def slotsFor (s : State) (v : Nat) (blk : Word) (img : Image) : List Nat :=
  (freeSlots (sleeveOf s v)).filter fun k => cacheTakes s v (k / 64) (blk, img)

theorem goodPlace_rotate (s : State) (v : Nat) (blk : Word) (img : Image) (i : Nat) (h : imgNcnt img ≤ (slotsFor s v blk img).length) :
    GoodPlace (sleeveOf s v) img ((rotate (slotsFor s v blk img) i).take (imgNcnt img)) where
  length := by rw [List.length_take, (rotate_perm _ i).length_eq, Nat.min_eq_left h]
  nodup n := (((rotate_perm _ i).nodup_iff.mpr (n.filter _)).sublist (List.take_sublist _ _))
  free k hk := (List.mem_filter.mp ((rotate_perm _ i).mem_iff.mp ((List.take_sublist _ _).subset hk))).1

/-- A block with enough slots is placed on some of them, and its mapping is listed. -/
theorem placeBlock_fits {s : State} {v : Nat} {blk : Word} {img : Image} (h : imgNcnt img ≤ (slotsFor s v blk img).length)
    (hv : (lookup s.sleeves v).isSome = true) :
    ∃ place t, placeBlock s v blk img = some (place, t) ∧ GoodPlace (sleeveOf s v) img place ∧ MapsFrom s t ∧
      ∃ m ∈ (sleeveOf t v).maps, m.blk = blk ∧ m.place = place ∧ m.img = img := by
  have chosen : MapsFrom s (choose s (max (slotsFor s v blk img).length 1)).2 := ⟨rfl, fun _ => rfl, fun _ => rfl⟩
  refine ⟨_, _, if_neg (Nat.not_lt.mpr h), goodPlace_rotate s v blk img _ h, ?_, ?_⟩
  · exact (chosen.cacheImages v blk img _).updSleeve v fun _ => rfl
  · rw [sleeveOf_updSleeve_same ((chosen.cacheImages v blk img _).listed v ▸ hv)]
    exact ⟨_, List.mem_append_right _ List.mem_cons_self, rfl, rfl, rfl⟩

/-- A block that the sleeve has not mapped is placed anew. -/
theorem mapBlock_unmapped {s : State} {v p : Nat} {tag blk : Word} {img : Image} {r : List Nat × State}
    (h : ∀ m ∈ (sleeveOf s v).maps, m.blk ≠ blk) (hr : placeBlock s v blk img = some r) : mapBlock s v p tag blk img = some r := by
  unfold mapBlock
  dsimp only
  split
  · rename_i m hm
    have blkEq := List.find?_some hm
    simp only [Bool.and_eq_true, beq_iff_eq] at blkEq
    exact absurd blkEq.1.1 (h m (List.mem_of_find?_eq_some hm))
  · simp [hr]

/-! ## ACTIVATION_START up to the tokens that it sends -/

/-- An activation whose turn it is, outside loops, whose verified image needs no lining and finds slots on a sleeve that has not mapped its block
(R21, R43, R79). -/
structure MayMap (s : State) (a : Nat) (img : Image) : Prop where
  may      : mayStart s (actOf s a) = true
  turn     : turnOver s (actOf s a) = false
  image    : imageFor s (actOf s a).sleeve (actOf s a).blk = some img
  unlined  : imgLine img = false
  flat     : (actOf s a).loop = 0
  room     : imgNcnt img ≤ (slotsFor s (actOf s a).sleeve (actOf s a).blk img).length
  unmapped : ∀ m ∈ (sleeveOf s (actOf s a).sleeve).maps, m.blk ≠ (actOf s a).blk
  sleeve   : (lookup s.sleeves (actOf s a).sleeve).isSome = true

/-- Such an activation begins on a good place. -/
theorem MayMap.startAct {s : State} {a : Nat} {img : Image} (h : MayMap s a img) :
    ∃ place t, GoodPlace (sleeveOf s (actOf s a).sleeve) img place ∧ MapsFrom s t ∧
      (∃ m ∈ (sleeveOf t (actOf s a).sleeve).maps, m.blk = (actOf s a).blk ∧ m.place = place ∧ m.img = img) ∧
      startAct s a = updSleeve (beginAct t a place img none) (actOf s a).sleeve
        fun v => { v with lastColour := (actOf s a).colour % 65536 } := by
  obtain ⟨place, t, placed, good, from_s, mapped⟩ := placeBlock_fits h.room h.sleeve
  refine ⟨place, t, good, from_s, mapped, ?_⟩
  have begun : tryStart s a = some (beginAct t a place img none) := by
    simp [tryStart, h.may, h.image, mapBlock_unmapped h.unmapped placed, startThrottled, h.flat, h.unlined]
  simp [Machine.startAct, begun, h.turn]

end Sys2Proof.Machine
end

section
/-! PROOFS. The start of a mapped activation: its start triggers, the tokens of its read table (R45, R85), and the far tokens that wait for it
(R46). -/

namespace Sys2Proof.Machine

open Sys2Proof

/-! ## Tokens of the read table -/

/-- The token that brings a register's value to a node target. -/
def readToken (x : Act) (a : Nat) (k : BitVec 7) (port : Port) (v : TokVal) : NetToken :=
  let tok : Token := { tag := x.tag, blk := x.blk, node := k.toNat, port := port, v := v }
  { tok := tok, par := parityOf tok, kept := tok, keptPar := parityOf tok, dest := .node a, part := x.part, sleeve := x.sleeve,
    unit := enCoord (enOf x k.toNat) }

/-- The tokens that one entry of the read table sends with a value, one to each node target (Table 3.3). -/
def readTokens (x : Act) (a e : Nat) (v : TokVal) : List NetToken :=
  [bits e 12 12, bits e 0 12].flatMap fun c =>
    match Target.ofCode (BitVec.ofNat 12 c) with
    | some (.node k port _) => [readToken x a k port v]
    | _ => []

theorem sendRead_eq (s : State) (a e : Nat) (v : TokVal) :
    sendRead s a e v = { s with net := s.net ++ readTokens (actOf s a) a e v } := by
  unfold sendRead readTokens launch readToken
  simp only [List.flatMap_cons, List.flatMap_nil, List.append_nil]
  cases Target.ofCode (BitVec.ofNat 12 (bits e 12 12)) with
  | none => cases Target.ofCode (BitVec.ofNat 12 (bits e 0 12)) with
    | none => simp
    | some t => cases t <;> simp
  | some t => cases Target.ofCode (BitVec.ofNat 12 (bits e 0 12)) with
    | none => cases t <;> simp
    | some u => cases t <;> cases u <;> simp

/-- Each node target of an entry gets a token with the value. -/
theorem readToken_mem (x : Act) (a e : Nat) (v : TokVal) {c : Nat} (hc : c ∈ [bits e 12 12, bits e 0 12]) {k : BitVec 7} {port : Port} {g : Bool}
    (ht : Target.ofCode (BitVec.ofNat 12 c) = some (.node k port g)) : readToken x a k port v ∈ readTokens x a e v :=
  List.mem_flatMap.mpr ⟨c, hc, by simp [ht]⟩

/-- A fold of sends adds what each of them sends. -/
theorem foldl_sends {f : State → Nat → State} {g : Nat → List NetToken} {s : State}
    (h : ∀ l i, f { s with net := l } i = { s with net := l ++ g i }) (is : List Nat) :
    is.foldl f s = { s with net := s.net ++ is.flatMap g } := by
  have general : ∀ l, is.foldl f { s with net := l } = { s with net := l ++ is.flatMap g } := by
    induction is with
    | nil => simp
    | cons i is ih => intro l; simp [h, ih]
  exact general s.net

/-- The tokens of the G registers of a read table. -/
def readsG (g : Map Word) (x : Act) (a : Nat) : List NetToken :=
  (List.range (imgRcnt x.image)).flatMap fun i =>
    let e := imgRead x.image i
    if bits e 30 2 = 2 then readTokens x a e (scalarOf (lookupD g (bits e 24 6) 0)) else []

theorem deliverG_eq (s : State) (a v : Nat) :
    deliverG s a v = { s with net := s.net ++ readsG (sleeveOf s v).g (actOf s a) a } := by
  unfold deliverG readsG
  refine foldl_sends (fun l i => ?_) _
  dsimp only
  split
  · rw [sendRead_eq]
    rfl
  · simp

/-- The value that an entry of the read table takes from a frame. -/
def frameValue (fw : Map Word × Map Value) (x : Act) (e : Nat) : Option TokVal :=
  match bits e 30 2 with
  | 0 => some (scalarOf (lookupD fw.1 (bits e 24 6) 0))
  | 1 => some ((wideToken (lookupD fw.2 (bits e 24 6) 0)).cut x.grant)
  | _ => none

/-- The tokens of the F and W registers of a read table. -/
def readsFrame (fw : Map Word × Map Value) (x : Act) (a : Nat) : List NetToken :=
  (List.range (imgRcnt x.image)).flatMap fun i =>
    let e := imgRead x.image i
    match frameValue fw x e with
    | some v => readTokens x a e v
    | none => []

/-- An update of an activation and of its twin, when it has none. -/
theorem updAct_untwinned {s : State} {a : Nat} (listed : (lookup s.acts a).isSome = true) (zero : lookup s.acts 0 = none) (f g : Act → Act) :
    updAct (updAct s a f) 0 g = { s with acts := insertAt s.acts a (f (actOf s a)) } := by
  have apart : 0 ≠ a := fun e => by simp [← e, zero] at listed
  rw [updAct_unlisted ((lookup_updAct_other apart f).trans zero), updAct_listed listed]

/-- An activation without a twin that has started and has not read its frame reads it. -/
theorem deliverFrame_eq {s : State} {a : Nat} (started : (actOf s a).started = true) (unread : (actOf s a).reads = false)
    (alone : (actOf s a).twin = 0) (zero : lookup s.acts 0 = none) (listed : (lookup s.acts a).isSome = true) :
    deliverFrame s a =
      { s with acts := insertAt s.acts a { actOf s a with reads := true }
               net := s.net ++ readsFrame (frameOf s (actOf s a)) (actOf s a) a } := by
  let one (t : State) (i : Nat) : State :=
    match frameValue (frameOf s (actOf s a)) (actOf s a) (imgRead (actOf s a).image i) with
    | some v => sendRead t a (imgRead (actOf s a).image i) v
    | none => t
  have sent : (List.range (imgRcnt (actOf s a).image)).foldl one s =
      { s with net := s.net ++ readsFrame (frameOf s (actOf s a)) (actOf s a) a } := by
    refine foldl_sends (fun l i => ?_) _
    dsimp only [one]
    split
    · rw [sendRead_eq]
      rfl
    · simp
  have steps : deliverFrame s a = updAct (updAct ((List.range (imgRcnt (actOf s a).image)).foldl one s) a
      fun x => { x with reads := true }) 0 fun y => { y with reads := true } := by
    unfold deliverFrame
    simp only [started, unread, alone, Bool.not_true, Bool.or_self, Bool.false_eq_true, if_false, if_true]
    rfl
  rw [steps, sent]
  exact updAct_untwinned (s := { s with net := s.net ++ readsFrame (frameOf s (actOf s a)) (actOf s a) a }) listed zero _ _

/-! ## Beginning an activation -/

/-- An activation mapped on a place with an image, and with no twin. -/
def startedAct (s : State) (a : Nat) (place : List Nat) (img : Image) : Act :=
  { actOf s a with started := true, place := place, image := img, grant := (colourOf s (actOf s a).colour).grant, twin := 0 }

/-- The state once a mapped activation has its start triggers and its G registers. -/
def readied (s : State) (a : Nat) (place : List Nat) (img : Image) : State :=
  { s with acts := insertAt s.acts a (startedAct s a place img)
           entries := s.entries ++ triggers s a place img
           net := s.net ++ readsG (sleeveOf s (actOf s a).sleeve).g (startedAct s a place img) a }

/-- The state once a Running activation has its frame too. -/
def framed (s : State) (a : Nat) (place : List Nat) (img : Image) : State :=
  if (actOf s a).st = .running then deliverFrame (readied s a place img) a else readied s a place img

/-- The state once its colour has taken note of the activity; only the far tokens that wait are left to give. -/
def begun (s : State) (a : Nat) (place : List Nat) (img : Image) : State :=
  updColour (framed s a place img) (actOf s a).colour fun c => { c with active := (framed s a place img).cycle }

theorem beginAct_eq {s : State} {a : Nat} (listed : (lookup s.acts a).isSome = true) (place : List Nat) (img : Image) :
    beginAct s a place img none = giveFar (begun s a place img) a := by
  unfold beginAct
  dsimp only [Option.map_none, Option.getD_none]
  rw [updAct_listed listed, if_pos rfl, deliverG_eq]
  have ready : { s with
      acts := insertAt s.acts a (startedAct s a place img)
      entries := s.entries ++ triggers { s with acts := insertAt s.acts a (startedAct s a place img) } a place img
      net := s.net ++ readsG (sleeveOf s (actOf s a).sleeve).g (actOf { s with acts := insertAt s.acts a (startedAct s a place img) } a) a }
      = readied s a place img := by
    simp [readied, actOf, triggers]
  exact congrArg (fun t => giveFar (updColour (if (actOf s a).st = .running then deliverFrame t a else t) (actOf s a).colour
    fun c => { c with active := (if (actOf s a).st = .running then deliverFrame t a else t).cycle }) a) ready

theorem giveFar_none {s : State} {a : Nat} (h : ∀ w ∈ s.far, farReceiver s w.t ≠ some a) : giveFar s a = s :=
  foldl_fixed fun w hw => if_neg (h w hw)

end Sys2Proof.Machine
end

section
/-! PROOFS. What ACTIVATION_START does where its activation is listed once (R21, R43, R45, R79, R85). -/

namespace Sys2Proof.Machine

open Sys2Proof

/-! ## The receiver of a far token -/

/-- The older of what has been chosen and an activation, by their places in the thread: number and place (R46). -/
def older (b : Option (Nat × Nat)) (x : Nat × Act) : Option (Nat × Nat) :=
  match b with
  | none => some (x.1, x.2.seq)
  | some (i, q) => if x.2.seq < q then some (x.1, x.2.seq) else some (i, q)

theorem older_number {b : Option (Nat × Nat)} {x : Nat × Act} {r : Nat × Nat} (h : older b x = some r) : b = some r ∨ x.1 = r.1 := by
  cases b with
  | none => exact .inr (congrArg Prod.fst (Option.some.inj h))
  | some p =>
    unfold older at h
    dsimp only at h
    split at h
    · exact .inr (congrArg Prod.fst (Option.some.inj h))
    · exact .inl h

/-- The oldest of some activations is one of them. -/
theorem oldest_mem {l : List (Nat × Act)} {b : Option (Nat × Nat)} {r : Nat × Nat} (h : l.foldl older b = some r) :
    b = some r ∨ ∃ x ∈ l, x.1 = r.1 := by
  induction l generalizing b with
  | nil => exact .inl h
  | cons x l ih =>
    rcases ih h with step | ⟨y, hy, number⟩
    · exact (older_number step).imp_right fun number => ⟨x, List.mem_cons_self, number⟩
    · exact .inr ⟨y, List.mem_cons_of_mem _ hy, number⟩

/-- R46 names an activation that is listed with the token's tag and block. -/
theorem farReceiver_listed {s : State} {n : NetToken} {a : Nat} (h : farReceiver s n = some a) :
    ∃ y, (a, y) ∈ s.acts ∧ y.tag = n.tok.tag ∧ y.blk = n.tok.blk := by
  unfold farReceiver at h
  dsimp only at h
  obtain ⟨r, oldest, rfl⟩ := Option.map_eq_some_iff.mp h
  rcases oldest_mem oldest with none | ⟨x, hx, number⟩
  · cases none
  · obtain ⟨listed, matched⟩ := List.mem_filter.mp hx
    simp only [Bool.and_eq_true, beq_iff_eq] at matched
    obtain ⟨⟨⟨⟨⟨-, tag⟩, blk⟩, -⟩, -⟩, -⟩ := matched
    exact ⟨x.2, number ▸ listed, tag, blk⟩

/-! ## The frame of an activation that begins -/

theorem deliverFrame_read {s : State} {a : Nat} (h : (actOf s a).reads = true) : deliverFrame s a = s := by
  simp [deliverFrame, h]

theorem frameOf_plain {s : State} {x : Act} (flat : x.loop = 0) (inner : (threadOf s x.part x.tag).inner = []) :
    frameOf s x = ((colourOf s x.colour).f, (colourOf s x.colour).w) := by
  simp [frameOf, flat, inner]

theorem readied_act (s : State) (a : Nat) (place : List Nat) (img : Image) : actOf (readied s a place img) a = startedAct s a place img := by
  simp [readied, actOf]

theorem readied_others {s : State} {a b : Nat} (h : b ≠ a) (place : List Nat) (img : Image) :
    actOf (readied s a place img) b = actOf s b := by
  simp [readied, actOf, lookupD_insertAt_other _ _ _ h]

/-- The state of an activation that reads its frame as it begins. -/
def framedRunning (s : State) (a : Nat) (place : List Nat) (img : Image) : State :=
  let x := startedAct s a place img
  { readied s a place img with
    acts := insertAt (readied s a place img).acts a { x with reads := true }
    net := (readied s a place img).net ++ readsFrame (frameOf (readied s a place img) x) x a }

/-- An activation reads its frame as it begins when it is Running and has not read it. -/
theorem framed_running {s : State} {a : Nat} (running : (actOf s a).st = .running) (unread : (actOf s a).reads = false)
    (zero : lookup s.acts 0 = none) (apart : 0 ≠ a) (place : List Nat) (img : Image) :
    framed s a place img = framedRunning s a place img := by
  have act := readied_act s a place img
  rw [framed, if_pos running, deliverFrame_eq, act]
  · rfl
  · rw [act]; rfl
  · rw [act]; exact unread
  · rw [act]; rfl
  · exact (lookup_insertAt_other _ _ apart).trans zero
  · simp [readied]

theorem framed_ready {s : State} {a : Nat} (h : ¬((actOf s a).st = .running ∧ (actOf s a).reads = false)) (place : List Nat) (img : Image) :
    framed s a place img = readied s a place img := by
  unfold framed
  split
  · rename_i running
    have read : (actOf s a).reads = true := by simpa using fun unread => h ⟨running, unread⟩
    exact deliverFrame_read (by rw [readied_act]; exact read)
  · rfl

/-- What the start of an activation leaves, whether or not it reads its frame. -/
structure Framed (s u : State) (a : Nat) (place : List Nat) (img : Image) : Prop where
  rest   : u = { readied s a place img with acts := u.acts, net := u.net }
  act    : actOf u a = { startedAct s a place img with reads := (actOf u a).reads }
  others : ∀ b, b ≠ a → actOf u b = actOf s b
  sent   : ∀ n ∈ (readied s a place img).net, n ∈ u.net
  listed : ∀ y, (a, y) ∈ u.acts → (a, y) ∈ s.acts ∨ y.tag = (actOf s a).tag ∧ y.blk = (actOf s a).blk

theorem Framed.ready (s : State) (a : Nat) (place : List Nat) (img : Image) : Framed s (readied s a place img) a place img where
  rest := rfl
  act := by rw [readied_act]
  others b h := readied_others h place img
  sent n h := h
  listed y h := by
    rcases mem_insertAt h with e | h
    · exact .inr (by rw [(Prod.mk.inj e).2]; exact ⟨rfl, rfl⟩)
    · exact .inl h

theorem Framed.running (s : State) (a : Nat) (place : List Nat) (img : Image) : Framed s (framedRunning s a place img) a place img where
  rest := rfl
  act := by simp [framedRunning, actOf]
  others b h := (lookupD_insertAt_other _ _ _ h).trans (readied_others h place img)
  sent n h := List.mem_append_left _ h
  listed y h := by
    rcases mem_insertAt h with e | h
    · exact .inr (by rw [(Prod.mk.inj e).2]; exact ⟨rfl, rfl⟩)
    · exact (Framed.ready s a place img).listed y h

theorem framed_framed {s : State} {a : Nat} (zero : lookup s.acts 0 = none) (apart : 0 ≠ a) (place : List Nat) (img : Image) :
    Framed s (framed s a place img) a place img := by
  by_cases h : (actOf s a).st = .running ∧ (actOf s a).reads = false
  · rw [framed_running h.1 h.2 zero apart]
    exact .running s a place img
  · rw [framed_ready h]
    exact .ready s a place img

/-! ## ACTIVATION_START -/

/-- An activation is listed under its number only once. -/
def UniquelyListed (s : State) (a : Nat) : Prop := ∀ y, (a, y) ∈ s.acts → y = actOf s a

/-- An entry of a read table sends a value at the start: a G register always, an F or W register to a Running activation (R45, R85). -/
def Reads (s : State) (x : Act) (e : Nat) (v : TokVal) : Prop :=
  let r := bits e 24 6
  (bits e 30 2 = 2 ∧ v = scalarOf (lookupD (sleeveOf s x.sleeve).g r 0)) ∨
    (x.st = .running ∧ x.reads = false ∧ (threadOf s x.part x.tag).inner = [] ∧
      (bits e 30 2 = 0 ∧ v = scalarOf (lookupD (colourOf s x.colour).f r 0) ∨
       bits e 30 2 = 1 ∧ v = (wideToken (lookupD (colourOf s x.colour).w r 0)).cut (colourOf s x.colour).grant))

theorem MapsFrom.reads {s t : State} (h : MapsFrom s t) {x : Act} {e : Nat} {v : TokVal} (r : Reads s x e v) : Reads t x e v := by
  have threads : threadOf t x.part x.tag = threadOf s x.part x.tag := by rw [h.rest]; rfl
  unfold Reads
  rw [h.sleeves, h.colourOf, threads]
  exact r

/-- The values that the read table sends are in the network once the activation has begun. -/
theorem framed_sends {s : State} {a : Nat} (flat : (actOf s a).loop = 0) (zero : lookup s.acts 0 = none) (apart : 0 ≠ a) (place : List Nat)
    {img : Image} {i : Nat} (hi : i < imgRcnt img) {v : TokVal} (reads : Reads s (actOf s a) (imgRead img i) v) :
    ∀ n ∈ readTokens (startedAct s a place img) a (imgRead img i) v, n ∈ (framed s a place img).net := by
  intro n hn
  have row : i ∈ List.range (imgRcnt (startedAct s a place img).image) := List.mem_range.mpr hi
  rcases reads with ⟨space, rfl⟩ | ⟨running, unread, inner, fromFrame⟩
  · refine (framed_framed zero apart place img).sent n (List.mem_append_right _ (List.mem_flatMap.mpr ⟨i, row, ?_⟩))
    simpa [startedAct, space] using hn
  · rw [framed_running running unread zero apart]
    refine List.mem_append_right _ (List.mem_flatMap.mpr ⟨i, row, ?_⟩)
    have plain : frameOf (readied s a place img) (startedAct s a place img) =
        ((colourOf s (actOf s a).colour).f, (colourOf s (actOf s a).colour).w) := frameOf_plain flat inner
    have value : frameValue (frameOf (readied s a place img) (startedAct s a place img)) (startedAct s a place img)
        (imgRead (startedAct s a place img).image i) = some v := by
      rw [plain]
      rcases fromFrame with ⟨space, rfl⟩ | ⟨space, rfl⟩ <;> simp [frameValue, startedAct, space]
    simp only [value]
    exact hn

/-- What ACTIVATION_START of activation `a` with image `img` does between `s` and `t` (R21, R43, R45, R85). -/
structure Begins (s t : State) (a : Nat) (img : Image) : Prop where
  act      : (actOf t a).started = true ∧ (actOf t a).image = img ∧ (actOf t a).st = (actOf s a).st ∧
             (actOf t a).grant = (colourOf s (actOf s a).colour).grant
  place    : GoodPlace (sleeveOf s (actOf s a).sleeve) img (actOf t a).place
  triggers : ∀ k, k < imgNcnt img → recAr (imgRec img k) = 0 → recPm (imgRec img k) = 0 →
             ∃ e ∈ t.entries, e.act = a ∧ e.node = k ∧ e.en = (actOf t a).place.getD k 0 / 16 ∧ e.stamp = some s.cycle
  sends    : ∀ i, i < imgRcnt img → ∀ v, Reads s (actOf s a) (imgRead img i) v →
             ∀ c ∈ [bits (imgRead img i) 12 12, bits (imgRead img i) 0 12], ∀ k port g,
             Target.ofCode (BitVec.ofNat 12 c) = some (.node k port g) → ∃ n ∈ t.net, n.dest = .node a ∧
               n.tok = { tag := (actOf s a).tag, blk := (actOf s a).blk, node := k.toNat, port := port, v := v } ∧ n.par = parityOf n.tok
  mapped   : ∃ m ∈ (sleeveOf t (actOf s a).sleeve).maps, m.blk = (actOf s a).blk ∧ m.place = (actOf t a).place ∧ m.img = img
  memory   : Claims.SameMemory s t
  others   : ∀ b, b ≠ a → actOf t b = actOf s b

theorem triggers_mem (s : State) (a : Nat) (place : List Nat) {img : Image} {k : Nat} (hk : k < imgNcnt img) (ar : recAr (imgRec img k) = 0)
    (pm : recPm (imgRec img k) = 0) :
    ∃ e ∈ triggers s a place img, e.act = a ∧ e.node = k ∧ e.en = place.getD k 0 / 16 ∧ e.stamp = some s.cycle := by
  refine ⟨_, List.mem_map.mpr ⟨k, List.mem_filter.mpr ⟨List.mem_range.mpr hk, ?_⟩, rfl⟩, rfl, rfl, rfl, rfl⟩
  simp [ar, pm]

/-- Of an activation that is listed once, no far token that waits for another block is given away by its start. -/
theorem giveFar_begun {s : State} {a : Nat} (once : UniquelyListed s a) (zero : lookup s.acts 0 = none) (apart : 0 ≠ a)
    (far : ∀ w ∈ s.far, w.t.tok.tag ≠ (actOf s a).tag ∨ w.t.tok.blk ≠ (actOf s a).blk) (place : List Nat) (img : Image) :
    giveFar (begun s a place img) a = begun s a place img := by
  have f := framed_framed zero apart place img
  refine giveFar_none fun w hw named => ?_
  have waits : w ∈ s.far := by
    rw [begun, updColour_far, f.rest] at hw
    exact hw
  obtain ⟨y, listed, tag, blk⟩ := farReceiver_listed named
  rw [begun, updColour_acts] at listed
  have own : y.tag = (actOf s a).tag ∧ y.blk = (actOf s a).blk := by
    rcases f.listed y listed with h | h
    · rw [once y h]; exact ⟨rfl, rfl⟩
    · exact h
  rcases far w waits with h | h
  · exact h (tag.symm.trans own.1)
  · exact h (blk.symm.trans own.2)

/-- ACTIVATION_START of an activation that is listed once does all that R21, R43, R45 and R85 say. -/
theorem MayMap.begins {s : State} {a : Nat} {img : Image} (h : MayMap s a img) (st : (actOf s a).st = .predicted ∨ (actOf s a).st = .running)
    (once : UniquelyListed s a) (zero : lookup s.acts 0 = none)
    (far : ∀ w ∈ s.far, w.t.tok.tag ≠ (actOf s a).tag ∨ w.t.tok.blk ≠ (actOf s a).blk) :
    ∃ t, exec (.activationStart a) s = .next t ∧ Begins s t a img := by
  obtain ⟨place, r, good, from_s, mapped, starts⟩ := h.startAct
  have listed : (lookup s.acts a).isSome = true := listed_of_st (by rcases st with e | e <;> simp [e])
  have apart : 0 ≠ a := fun e => by simp [← e, zero] at listed
  have zero' : lookup r.acts 0 = none := from_s.acts ▸ zero
  have far' : r.far = s.far := by rw [from_s.rest]
  have same : actOf r a = actOf s a := from_s.actOf a
  have f := framed_framed zero' apart place img
  have quiet : giveFar (begun r a place img) a = begun r a place img := by
    refine giveFar_begun (fun y hy => ?_) zero' apart (far' ▸ same ▸ far) place img
    rw [same]
    exact once y (from_s.acts ▸ hy)
  rw [beginAct_eq (from_s.acts ▸ listed), quiet] at starts
  refine ⟨Machine.startAct s a, rfl, ?_⟩
  generalize Machine.startAct s a = t at starts
  have acts (b : Nat) : actOf t b = actOf (framed r a place img) b := by
    refine actOf_congr ?_ b
    rw [starts, updSleeve_acts, begun, updColour_acts]
  have entries : t.entries = s.entries ++ triggers s a place img := by
    rw [starts, updSleeve_entries, begun, updColour_entries, f.rest, from_s.rest]
    rfl
  have net : t.net = (framed r a place img).net := by rw [starts, updSleeve_net, begun, updColour_net]
  have began : actOf t a = { startedAct r a place img with reads := (actOf t a).reads } := by rw [acts]; exact f.act
  have onPlace : (actOf t a).place = place := by rw [began]; rfl
  have kept {β : Type} (g : Sleeve → β) (hg : ∀ y n, g { y with lastColour := n } = g y) (v : Nat) :
      g (sleeveOf t v) = g (sleeveOf r v) := by
    rw [starts, sleeveOf_updSleeve_keeps g fun y => hg y _, sleeveOf, begun, updColour_sleeves, f.rest]
    rfl
  constructor
  case act =>
    rw [began]
    exact ⟨rfl, rfl, show (actOf r a).st = _ by rw [same],
      show (colourOf r (actOf r a).colour).grant = _ by rw [same, from_s.colourOf]⟩
  case place => rw [onPlace]; exact good
  case triggers =>
    intro k hk ar pm
    obtain ⟨e, he, facts⟩ := triggers_mem s a place hk ar pm
    exact ⟨e, entries ▸ List.mem_append_right _ he, onPlace ▸ facts⟩
  case sends =>
    intro i hi v reads c hc k port g target
    have sent := framed_sends (same ▸ h.flat) zero' apart place hi (same ▸ from_s.reads reads) _ (readToken_mem _ a _ v hc target)
    refine ⟨_, net ▸ sent, rfl, ?_, rfl⟩
    rw [← same]
    rfl
  case mapped =>
    obtain ⟨m, hm, facts⟩ := mapped
    exact ⟨m, kept Sleeve.maps (fun _ _ => rfl) _ ▸ hm, onPlace ▸ facts⟩
  case memory =>
    have mem : t.mem = s.mem := by rw [starts, updSleeve_mem, begun, updColour_mem, f.rest, readied, from_s.rest]
    have pod : t.podMem = s.podMem := by rw [starts, updSleeve_podMem, begun, updColour_podMem, f.rest, readied, from_s.rest]
    exact ⟨fun apr o => by rw [devByte, devByte, mem], fun b => by rw [pod], fun v b => by
      rw [kept Sleeve.scratch (fun _ _ => rfl), from_s.sleeves v]⟩
  case others =>
    intro b hb
    rw [acts, f.others b hb, from_s.actOf]

end Sys2Proof.Machine
end

section
/-! PROOFS. BLOCK_FETCH_VERIFY of a block whose sectors read well (R11, R102, R103): the image is kept, or the fault is taken. -/

namespace Sys2Proof.Machine

open Sys2Proof

/-! ## Keeping an image that nothing waits for -/

theorem learnLoops_none {s : State} {v : Nat} {blk : Word} (h : ∀ y ∈ s.loops, y.2.head ≠ blk) (img : Image) (a : Nat) :
    learnLoops s v blk img a = s :=
  foldl_fixed fun x hx => if_neg fun c => h x hx c.2.1

theorem giveModes_none {s : State} {v : Nat} {blk : Word} (far : ∀ w ∈ s.far, w.t.tok.blk ≠ blk)
    (unsorted : ∀ n ∈ s.unsorted, n.tok.blk ≠ blk) : giveModes s v blk = s := by
  have mine {n : NetToken} (h : n.tok.blk ≠ blk) : (n.sleeve == v && n.tok.blk == blk) = false := by simp [h]
  have waiting : s.unsorted.filter (fun n => n.sleeve == v && n.tok.blk == blk) = [] :=
    List.filter_eq_nil_iff.mpr fun n hn => by simp [mine (unsorted n hn)]
  have others : s.unsorted.filter (fun n => !(n.sleeve == v && n.tok.blk == blk)) = s.unsorted :=
    List.filter_eq_self.mpr fun n hn => by simp [mine (unsorted n hn)]
  unfold giveModes
  dsimp only
  rw [foldl_fixed (l := s.far) (s := s), waiting, others]
  · rfl
  · exact fun w hw => if_neg (by simp [mine (far w hw)])

/-- A block without a verified image is in no cache of the sleeve. -/
theorem images_lack {s : State} {v : Nat} {blk : Word} (h : imageFor s v blk = none) (q : Nat) (img : Image) :
    (lookupD (sleeveOf s v).images q []).contains (blk, img) = false := by
  have lacks : ∀ i ∈ (sleeveOf s v).images.flatMap (·.2), i.1 ≠ blk := by
    unfold imageFor at h
    dsimp only at h
    split at h
    · cases h
    · exact fun i hi => by simpa using List.find?_eq_none.mp (Option.map_eq_none_iff.mp h) i hi
  cases e : lookup (sleeveOf s v).images q with
  | none => simp [lookupD, e]
  | some l =>
    have absent : (blk, img) ∉ l := fun hm => lacks _ (List.mem_flatMap.mpr ⟨(q, l), lookup_mem e, hm⟩) rfl
    simpa [lookupD, e] using absent

/-- An image that is new to a cache with a free place is put at its end. -/
theorem cacheImage_room {s : State} {v q : Nat} {blk : Word} {img : Image} (new : imageFor s v blk = none)
    (takes : cacheTakes s v q (blk, img) = true) (room : (lookupD (sleeveOf s v).images q []).length + (aheadOn s v q).length < 32) :
    cacheImage s v q blk img =
      updSleeve s v fun y => { y with images := insertAt y.images q (lookupD y.images q [] ++ [(blk, img)]) } := by
  have placed : cachePlace s v q = s := if_pos room
  unfold cacheImage
  rw [images_lack new, takes, placed]
  rfl

/-- A kept image that was not read ahead, heads no loop, and that no token waits for goes into the cache and does nothing else. -/
theorem keepImage_plain {s : State} {a v q : Nat} {blk : Word} {img : Image} (new : imageFor s v blk = none)
    (takes : cacheTakes s v q (blk, img) = true) (room : (lookupD (sleeveOf s v).images q []).length + (aheadOn s v q).length < 32)
    (unread : prefetchedOf s v blk = none) (loops : ∀ y ∈ s.loops, y.2.head ≠ blk) (far : ∀ w ∈ s.far, w.t.tok.blk ≠ blk)
    (unsorted : ∀ n ∈ s.unsorted, n.tok.blk ≠ blk) :
    keepImage s a v q blk img =
      updSleeve s v fun y => { y with images := insertAt y.images q (lookupD y.images q [] ++ [(blk, img)]) } := by
  have ahead : { s with prefetched := s.prefetched.filter fun x => !(x.1 == v && x.2.1 == blk) } = s := by
    have rest : s.prefetched.filter (fun x => !(x.1 == v && x.2.1 == blk)) = s.prefetched := by
      refine List.filter_eq_self.mpr fun x hx => ?_
      rw [Bool.not_eq_true']
      exact eq_false_of_ne_true (List.find?_eq_none.mp (Option.map_eq_none_iff.mp unread) x hx)
    rw [rest]
  unfold keepImage
  rw [ahead]
  dsimp only
  rw [cacheImage_room new takes room, learnLoops_none, giveModes_none]
  · simpa using far
  · simpa using unsorted
  · simpa using loops

theorem fetchQuad_takes {s : State} {v q : Nat} {i : Word × Image} (h : fetchQuad s v i = some q) : cacheTakes s v q i = true :=
  List.find?_some (p := fun q => cacheTakes s v q i) h

/-- What BLOCK_FETCH_VERIFY does with an image that it has read well. -/
def verified (s : State) (a : Nat) (x : Act) (img : Image) : State :=
  match verify img x.blk (usable s 0) with
  | some loc => badImage s a loc
  | none => match fetchQuad s x.sleeve (x.blk, img) with
    | some q => keepImage s a x.sleeve q x.blk img
    | none => s

/-- The fetch of the image of a live activation that has not started, of a block that is aligned and not yet verified, and that reads well. -/
theorem fetchBlock_reads {s t : State} {a v : Nat} {poi : List Bool} (live : actLive (actOf s a) = true)
    (unstarted : (actOf s a).started = false) (original : (actOf s a).isTwin = false) (unheld : (actOf s a).st ≠ .held)
    (unparked : (actOf s a).st ≠ .parked) (quiet : (actOf s a).deferred = [])
    (new : imageFor s (actOf s a).sleeve (actOf s a).blk = none) (running : (partOf s (actOf s a).part).pstate = .running)
    (aligned : (actOf s a).blk.toNat % 16384 = 0)
    (got : agentSectors s (sleeveTlb s (actOf s a).sleeve) (actOf s a).part (supervisor s (actOf s a).part) .fetch (actOf s a).blk true 64
      = .ok v poi t) (clean : ∀ b ∈ poi, b = false) (unread : prefetchedOf t (actOf s a).sleeve (actOf s a).blk = none) :
    fetchBlock s a = verified t a (actOf s a) (BitVec.ofNat 16384 v) := by
  have allClean : poi.any id = false := by simpa using clean
  unfold fetchBlock
  simp only [live, unstarted, original, quiet, new, running, aligned, got, allClean, unread]
  simp [unheld, unparked, verified] <;> rfl

/-- The fetch of an image that reads well: it is kept when it passes verification, and else the fault names what fails first (R11, R102,
R103). -/
theorem blockFetch : Claims.BlockFetch := by
  unfold Claims.BlockFetch
  intro s t a v poi x live unstarted original unheld unparked quiet new running aligned _ got clean unread acts loops far unsorted _ new'
  have fetched : exec (.blockFetchVerify a) s = .next (verified t a x (BitVec.ofNat 16384 v)) :=
    congrArg Host.Outcome.next
      (fetchBlock_reads live unstarted original unheld unparked quiet new running aligned got clean unread)
  constructor
  · intro good q room free
    rw [fetched, verified, good]
    dsimp only
    rw [room]
    dsimp only
    rw [keepImage_plain new' (fetchQuad_takes room) free unread loops far unsorted]
  · intro loc bad
    have same : actOf t a = x := actOf_congr acts a
    rw [fetched, verified, bad]
    dsimp only
    rw [badImage, same]
    exact ⟨_, rfl, rfl, rfl⟩

end Sys2Proof.Machine
end

section
/-! PROOFS. O27 fails: nothing in its statement keeps a table from listing an activation's number twice. Such an activation is read at its first
entry (`actOf`), while R46 looks for the receiver of a far token among all entries, so its start gives it a token that waits for another
block. Where the activation is listed once, all that the statement says of its start holds (`MayMap.begins`); its second part holds (`blockFetch`). -/

namespace Sys2Proof.Machine

open Sys2Proof

/-! ## A far token for a node that the block does not have -/

/-- A token of right parity passes every check. -/
theorem parityCheck_good {s : State} {n : NetToken} (h : parityOf n.tok = n.par) : parityCheck s n = fun _ => (n, s) := by
  funext u
  unfold parityCheck
  exact if_pos h

/-- The one far token that waits is given to the activation that R46 names. -/
theorem giveFar_one {s : State} {a : Nat} {w : FarToken} (far : s.far = [w]) (receiver : farReceiver s w.t = some a)
    (good : parityOf w.t.tok = w.t.par) :
    giveFar s a = deliverTo combineVals (updAct { s with far := [] } a fun x => { x with inbox := x.inbox ++ [w.t] }) a w.t := by
  have hop (p : Prop) [Decidable p] (t : State) : (if p then (w.t, t) else parityCheck t w.t (some w.t.unit)) = (w.t, t) := by
    simp only [parityCheck_good good, ite_self]
  unfold giveFar
  rw [far, List.foldl_cons, List.foldl_nil, if_pos receiver]
  simp only [far, List.erase_cons_head, hop]

/-- A token for a node beyond the block's last is a fault of the token (R48). -/
theorem matchToken_absent {comb : RecordWord → CombStep} {s : State} {a : Nat} {n : NetToken}
    (absent : imgNcnt (actOf s a).image ≤ n.tok.node) (room : Bool) : matchToken comb s a n room = tokenFault s n a n.tok.node := by
  unfold matchToken
  exact if_pos (.inl absent)

theorem arrive_unspilled {comb : RecordWord → CombStep} {s : State} {a : Nat} {n : NetToken} (unspilled : s.spilled = []) :
    arrive comb s a n = matchToken comb s a n false := by
  have none : (spilledFor s a n.tok.node).isEmpty = true := by simp [spilledFor, unspilled]
  unfold arrive
  exact if_pos none

/-- The check is replaced in the body as it stands: the kernel would compute the parity of the token, a variable, to reduce the match on it. -/
theorem deliverTo_untwinned {comb : RecordWord → CombStep} {s : State} {a : Nat} {n : NetToken} (good : parityOf n.tok = n.par)
    (alone : (actOf s a).twin = 0) : deliverTo comb s a n = arrive comb s a n := by
  obtain ⟨body, unfolded⟩ : ∃ body, @deliverTo = body := ⟨_, rfl⟩
  rw [unfolded]
  delta deliverTo at unfolded
  rw [← unfolded]
  beta_reduce
  rw [parityCheck_good good]
  simp [alone]

/-- The fault of a token whose producer is Predicted is kept with the producer (R48, R69). -/
theorem tokenFault_predicted {s : State} {n : NetToken} (st : (actOf s n.prod).st = .predicted) (original : (actOf s n.prod).isTwin = false)
    (kept : n.ret = false) (a k : Nat) :
    ∃ d, tokenFault s n a k = updAct s n.prod fun x => { x with deferred := x.deferred ++ [d] } := by
  have alive : actLive (actOf s n.prod) = true := by simp [actLive, st]
  exact ⟨_, by simp only [tokenFault, raise, alive, st, original, kept, Bool.not_false, Bool.and_self, if_true, Bool.not_true,
    Bool.false_eq_true, if_false, true_or]; rfl⟩

/-! ## The state -/

/-- A Predicted activation of colour 1 that has not started. -/
def waitingAct (blk : Word) : Act :=
  { sleeve := 2, colour := 1, serial := 1, tag := 0x0001000000000000, blk := blk, st := .predicted, seq := 1 }

/-- A token for node 1 of the block at 0x8000, made by activation 4. -/
def strayToken : NetToken :=
  let tok : Token := { tag := 0x0001000000000000, blk := 0x8000, node := 1 }
  { tok := tok, par := parityOf tok, kept := tok, keptPar := parityOf tok, prod := 4, sleeve := 2 }

/-- The placed block of one node, mapped nowhere, with a list of activations, and a far token that waits for the block at 0x8000. -/
def waitingState (acts : Map Act) : State :=
  { updSleeve (placeRecord State.reset 0) 2 fun v => { v with maps := [] } with
    entries := []
    acts := acts
    far := [{ t := strayToken }] }

/-- Activation 3 of the placed block, and activation 4, which made the far token. -/
def listedOnce : State := waitingState [(3, waitingAct placedBlock), (4, waitingAct 0xC000)]

/-- The same, with number 3 listed a second time, for the block at 0x8000. -/
def listedTwice : State := waitingState [(3, waitingAct placedBlock), (3, waitingAct 0x8000), (4, waitingAct 0xC000)]

/-- Listed once, activation 3 begins as R21, R43 and R45 say, and the far token waits on. -/
theorem listedOnce_begins : ∃ t, exec (.activationStart 3) listedOnce = .next t ∧ Begins listedOnce t 3 (oneNode 0) := by
  have fits : MayMap listedOnce 3 (oneNode 0) := by constructor <;> decide +kernel
  refine fits.begins (.inl rfl) (fun y hy => ?_) rfl (by decide +kernel)
  rcases List.mem_cons.mp hy with e | e
  · exact (Prod.mk.inj e).2
  · exact absurd (congrArg Prod.fst (List.mem_singleton.mp e)) (by simp)

theorem listedTwice_mayMap : MayMap listedTwice 3 (oneNode 0) := by
  constructor <;> decide +kernel

/-- The token that waits for the second entry of number 3 is given to its first, and activation 4, which made it, keeps its fault. -/
theorem giveFar_stray {u : State} {x : Act} (acts : u.acts = [(3, x), (3, waitingAct 0x8000), (4, waitingAct 0xC000)])
    (far : u.far = [{ t := strayToken }]) (unspilled : u.spilled = []) (own : x.blk = placedBlock) (image : x.image = oneNode 0)
    (alone : x.twin = 0) : (actOf (giveFar u 3) 4).deferred ≠ [] := by
  have receiver : farReceiver u strayToken = some 3 := by
    simp [farReceiver, acts, own, waitingAct, strayToken, actLive, placedBlock]
  have good : parityOf strayToken.tok = strayToken.par := by decide +kernel
  have absent : imgNcnt (oneNode 0) ≤ strayToken.tok.node := by decide +kernel
  rw [giveFar_one far receiver good]
  generalize given : updAct { u with far := [] } 3 (fun x => { x with inbox := x.inbox ++ [strayToken] }) = v
  have first : actOf v 3 = { x with inbox := x.inbox ++ [strayToken] } := by
    rw [← given, actOf_updAct_same (by simp [acts, lookup])]
    simp [actOf, acts, lookupD, lookup]
  have listed : lookup v.acts strayToken.prod = some (waitingAct 0xC000) := by
    rw [← given, lookup_updAct_other (by decide)]
    simp [acts, lookup, strayToken]
  have producer : actOf v strayToken.prod = waitingAct 0xC000 := by simp [actOf, lookupD, listed]
  rw [deliverTo_untwinned good (by rw [first]; exact alone), arrive_unspilled (by rw [← given, updAct_spilled]; exact unspilled),
    matchToken_absent (by rw [first, image]; exact absent)]
  obtain ⟨d, kept⟩ := tokenFault_predicted (n := strayToken) (by rw [producer]; rfl) (by rw [producer]; rfl) rfl 3 strayToken.tok.node
  rw [kept, show 4 = strayToken.prod from rfl, actOf_updAct_same (by rw [listed]; rfl)]
  simp

/-- Whatever place activation 3 gets, activation 4 keeps a fault as it starts. -/
theorem listedTwice_faults {t : State} (h : MapsFrom listedTwice t) (place : List Nat) :
    (actOf (beginAct t 3 place (oneNode 0) none) 4).deferred ≠ [] := by
  have listed : (lookup t.acts 3).isSome = true := by rw [h.acts]; rfl
  have predicted : (actOf t 3).st = .predicted := by rw [h.actOf]; rfl
  have unframed : framed t 3 place (oneNode 0) = readied t 3 place (oneNode 0) := if_neg (by rw [predicted]; decide)
  rw [beginAct_eq listed]
  refine giveFar_stray (x := startedAct t 3 place (oneNode 0)) ?acts ?far ?spilled ?own rfl rfl
  case acts =>
    rw [begun, updColour_acts, unframed, readied, h.acts]
    rfl
  case far =>
    rw [begun, updColour_far, unframed, readied, h.rest]
    rfl
  case spilled =>
    rw [begun, updColour_spilled, unframed, readied, h.rest]
    rfl
  case own =>
    rw [startedAct, h.actOf]
    rfl

/-- Refutes O27: in `listedTwice` the start of activation 3 changes activation 4, which keeps the fault of the token that activation 3 is given
for a node its block does not have. -/
theorem not_activationStart : ¬ Obligations.ActivationStart := by
  unfold Obligations.ActivationStart Claims.ActivationStart
  rintro ⟨h, -⟩
  have fits := listedTwice_mayMap
  obtain ⟨u, ran, -, -, -, -, -, -, -, -, -, -, -, others⟩ := h listedTwice 3 (oneNode 0) fits.may fits.turn (.inl rfl) fits.image
    fits.unlined fits.flat fits.room (by decide +kernel) rfl fits.unmapped (by decide +kernel) fits.sleeve
  obtain ⟨place, t, -, from_s, -, starts⟩ := fits.startAct
  have same : actOf u 4 = actOf (beginAct t 3 place (oneNode 0) none) 4 := by
    have : startAct listedTwice 3 = u := by simpa [exec, execActivationStart] using ran
    rw [← this, starts]
    exact actOf_congr (updSleeve_acts _ _ _) 4
  apply listedTwice_faults from_s place
  rw [← same, others 4 (by decide)]
  rfl

end Sys2Proof.Machine
end

section
/-! PROOFS. What the device's own memory traffic and the cuffs' records can change at all of a state (R171, R259), for every proof in which they
take part. -/

namespace Sys2Proof.Machine

open Sys2Proof

/-! ## The device's own memory traffic -/

/-- `t` is `s` after memory traffic of the device itself: only memory, poison, caches, heat and compression records, and free choices may differ. -/
structure LevelFrom (s t : State) : Prop where
  rest : t = { s with free := t.free, mem := t.mem, podMem := t.podMem, poison := t.poison, podPoison := t.podPoison, l2 := t.l2,
                      victim := t.victim, misses := t.misses, mdLines := t.mdLines, packed := t.packed, regs := t.regs }

namespace LevelFrom

variable {s t u : State}

theorem refl (s : State) : LevelFrom s s := ⟨rfl⟩

theorem trans (h : LevelFrom s t) (k : LevelFrom t u) : LevelFrom s u := ⟨by rw [k.rest, h.rest]⟩

theorem ite {p : Prop} [Decidable p] (h : LevelFrom s t) (k : LevelFrom s u) : LevelFrom s (if p then t else u) := by
  split
  · exact h
  · exact k

theorem foldl {α : Type} {f : State → α → State} (h : LevelFrom s t) (step : ∀ {t} x, LevelFrom s t → LevelFrom s (f t x)) (l : List α) :
    LevelFrom s (l.foldl f t) := by
  induction l generalizing t with
  | nil => exact h
  | cons x l ih => exact ih (step x h)

theorem updRegs (h : LevelFrom s t) (f : Regs → Regs) : LevelFrom s (updRegs t f) := h.trans ⟨rfl⟩

theorem setPoison (h : LevelFrom s t) (n : Nat) (on : Bool) : LevelFrom s (setPoison t n on) := h.trans ⟨rfl⟩

theorem writeDev (h : LevelFrom s t) (apr a n v : Nat) : LevelFrom s (writeDev t apr a n v) := h.trans ⟨rfl⟩

theorem writeArea (h : LevelFrom s t) (a n v : Nat) : LevelFrom s (writeArea t a n v) := .ite (h.trans ⟨rfl⟩) (h.trans ⟨rfl⟩)

theorem countMiss (h : LevelFrom s t) (line region page : Nat) : LevelFrom s (countMiss t line region page) := by
  unfold Machine.countMiss
  dsimp only
  generalize Nat.min _ _ = v
  have counted : LevelFrom s { t with misses := insertAt t.misses (bankOf line) (lookupD t.misses (bankOf line) 0 + 1) } := h.trans ⟨rfl⟩
  exact .ite ((counted.writeArea _ _ _).updRegs _) counted

theorem freeSector (h : LevelFrom s t) (sec : Nat) : LevelFrom s (freeSector t sec) :=
  h.foldl (fun _ k => k.trans ⟨rfl⟩) _

theorem respell (h : LevelFrom s t) (u c : Nat) : LevelFrom s (respell t u c) := by
  unfold Machine.respell
  generalize List.filter _ _ = l
  dsimp only
  have wiped : LevelFrom s (if c = 8 then l.foldl (fun t x => Machine.writeDev t 2 (256 * x) 256 0) t else l.foldl Machine.freeSector t) :=
    .ite (h.foldl (fun _ k => k.writeDev _ _ _ _) l) (h.foldl (fun _ k => k.freeSector _) l)
  exact .ite h (wiped.trans ⟨rfl⟩)

theorem readMeta (h : LevelFrom s t) (u : Nat) : LevelFrom s (readMeta t u) := by
  unfold Machine.readMeta
  generalize List.range 128 = l
  dsimp only
  have blocks {t} (h : LevelFrom s t) : LevelFrom s (l.foldl (fun t i => setBlockState t (u / 128 * 128 + i) 9) t) :=
    h.foldl (fun _ k => k.writeDev _ _ _ _) l
  split
  all_goals split
  · exact (((blocks h).setPoison _ _).setPoison _ _).updRegs _
  · exact h
  · exact (((blocks (h.trans ⟨rfl⟩)).setPoison _ _).setPoison _ _).updRegs _
  · exact h.trans ⟨rfl⟩

theorem fillState (h : LevelFrom s t) (cda : Nat) : LevelFrom s (fillState t cda).2 := by
  have m := h.readMeta (cdaToLinear cda / 256)
  unfold Machine.fillState
  dsimp only
  generalize Machine.readMeta t (cdaToLinear cda / 256) = u at m
  split
  · exact h
  · split
    · exact .ite h (h.setPoison _ _)
    · generalize (if inMetadata u _ then 0 else blockState u _) = c
      split
      · exact m.respell _ _
      · exact .ite (m.setPoison _ _) (((m.setPoison _ _).writeDev _ _ _ _).updRegs _)

theorem fromVictim (h : LevelFrom s t) (line : Nat) : LevelFrom s (fromVictim t line) := by
  unfold Machine.fromVictim
  split
  · exact h.trans ⟨rfl⟩
  · exact h

theorem touch (h : LevelFrom s t) (loc : Loc) (counts : Bool) : LevelFrom s (touch t loc counts) := by
  unfold Machine.touch
  split
  · exact h
  · exact h
  · exact h
  · rename_i line region page _ _ _
    have moved : LevelFrom s (Machine.fromVictim (if counts then Machine.countMiss t line region page else t) line) :=
      fromVictim (.ite (h.countMiss line region page) h) line
    refine .ite h (.ite moved (.trans (t := Prod.snd _) ?filled ⟨rfl⟩))
    case filled =>
      split
      · exact moved.fillState _
      · exact moved

theorem soilAt (h : LevelFrom s t) (loc : Loc) (cmark big : Bool) : LevelFrom s (soilAt t loc cmark big) := by
  unfold Machine.soilAt
  split
  · exact h.trans ⟨rfl⟩
  · exact h.trans ⟨rfl⟩
  · exact h

theorem touchArea (h : LevelFrom s t) (a n : Nat) : LevelFrom s (touchArea t a n) := h.foldl (fun _ k => k.touch _ _) _

theorem soilArea (h : LevelFrom s t) (a n : Nat) : LevelFrom s (soilArea t a n) := (h.touchArea a n).foldl (fun _ k => k.soilAt _ _ _) _

theorem putAreaWords (h : LevelFrom s t) (a : Nat) (ws : List Word) : LevelFrom s (putAreaWords t a ws) := by
  induction ws generalizing t a with
  | nil => exact h
  | cons w ws ih => exact ih (h.writeArea _ _ _) _

theorem writeAreaWords (h : LevelFrom s t) (a : Nat) (ws : List Word) : LevelFrom s (writeAreaWords t a ws) :=
  (h.soilArea a _).putAreaWords a ws

theorem writeRecord (h : LevelFrom s t) (a : Nat) (ws : List Word) : LevelFrom s (writeRecord t a ws) := by
  cases ws with
  | nil => exact h.soilArea a _
  | cons w ws => exact ((h.soilArea a _).putAreaWords _ ws).writeArea _ _ _

end LevelFrom

/-! ## Cuffs -/

/-- `t` is `s` after traffic at the cuffs: beside memory traffic only queues may differ. -/
structure CuffFrom (s t : State) : Prop where
  level : LevelFrom { s with queues := t.queues } t

namespace CuffFrom

variable {s t u : State}

theorem refl (s : State) : CuffFrom s s := ⟨.refl s⟩

theorem rest (h : CuffFrom s t) :
    t = { s with free := t.free, mem := t.mem, podMem := t.podMem, poison := t.poison, podPoison := t.podPoison, l2 := t.l2,
                 victim := t.victim, misses := t.misses, mdLines := t.mdLines, packed := t.packed, regs := t.regs, queues := t.queues } :=
  h.level.rest

theorem trans (h : CuffFrom s t) (k : CuffFrom t u) : CuffFrom s u := ⟨⟨by rw [k.rest, h.rest]⟩⟩

theorem ite {p : Prop} [Decidable p] (h : CuffFrom s t) (k : CuffFrom s u) : CuffFrom s (if p then t else u) := by
  split
  · exact h
  · exact k

theorem foldl {α : Type} {f : State → α → State} (h : CuffFrom s t) (step : ∀ {t} x, CuffFrom s t → CuffFrom s (f t x)) (l : List α) :
    CuffFrom s (l.foldl f t) := by
  induction l generalizing t with
  | nil => exact h
  | cons x l ih => exact ih (step x h)

theorem updQueue (h : CuffFrom s t) (q : Nat) (f : Queue → Queue) : CuffFrom s (updQueue t q f) := h.trans ⟨⟨rfl⟩⟩

theorem writeRecord (h : CuffFrom s t) (a : Nat) (ws : List Word) : CuffFrom s (writeRecord t a ws) :=
  h.trans ⟨⟨by rw [((LevelFrom.refl t).writeRecord a ws).rest]⟩⟩

theorem flushEgress (h : CuffFrom s t) (n q : Nat) : CuffFrom s (flushEgress n t q) := by
  induction n generalizing t with
  | zero => exact h
  | succ n ih =>
    unfold Machine.flushEgress
    dsimp only
    split
    · exact h
    · exact .ite (ih ((h.writeRecord _ _).updQueue q _)) h

theorem drainEgress (h : CuffFrom s t) (q : Nat) : CuffFrom s (drainEgress t q) := .ite (h.updQueue q _) (h.flushEgress _ q)

theorem egress (h : CuffFrom s t) (q type status : Nat) (iseq : BitVec 32) (ws : List Word) : CuffFrom s (egress t q type status iseq ws) :=
  .ite (h.updQueue q _) (.ite (((h.updQueue q _).updQueue q _).drainEgress q) ((h.updQueue q _).updQueue q _))

theorem cuffState (h : CuffFrom s t) (c : Nat) : CuffFrom s (cuffState t c) := by
  have sent {u : State} (k : CuffFrom s u) (n : Nat) (w : List Word) : CuffFrom s (if egressFull u c then u else Machine.egress u c n 0 0 w) :=
    .ite k (k.egress c n 0 0 w)
  exact .ite (sent (h.updQueue c _) 7 _) (.ite (sent (h.updQueue c _) 8 _) h)

theorem watchdogCount (h : CuffFrom s t) (old : State) (q : Nat) : CuffFrom s (watchdogCount old t q) := by
  unfold Machine.watchdogCount
  split
  · exact h
  · exact .ite h (.ite (h.updQueue q _) (.ite (h.updQueue q _) h))

end CuffFrom

/-! ## Reading a partition after an update -/

@[simp] theorem partOf_updPart_same (s : State) (p : Nat) (f : Partition → Partition) : partOf (updPart s p f) p = f (partOf s p) := by
  simp [partOf]

theorem partOf_updPart_other {s : State} {p q : Nat} (h : q ≠ p) (f : Partition → Partition) : partOf (updPart s p f) q = partOf s q := by
  simp [partOf, lookupD_insertAt_other _ _ _ h]

end Sys2Proof.Machine
end

section
/-! PROOFS. The throttle states of the quads (R73, R74, Table 2.10): what the end of a cycle makes of each. -/

namespace Sys2Proof.Machine

open Sys2Proof

/-! ## The occupancy of a quad -/

/-- What a quad's occupancy and its limits are computed from is the same in two states: all but throttle states and the counts of partitions. -/
structure SameLoad (s t : State) : Prop where
  rest : t = { s with parts := t.parts, throttled := t.throttled }
  part : ∀ p, partOf t p = { partOf s p with mshw := (partOf t p).mshw, thrc := (partOf t p).thrc }

namespace SameLoad

variable {s t u : State}

theorem refl (s : State) : SameLoad s s := ⟨rfl, fun _ => rfl⟩

theorem trans (h : SameLoad s t) (k : SameLoad t u) : SameLoad s u where
  rest := by rw [k.rest, h.rest]
  part p := by rw [k.part p, h.part p]

theorem occupancy (h : SameLoad s t) (q : Nat) : occupancy t q = Machine.occupancy s q := by
  rw [h.rest]
  rfl

theorem on (h : SameLoad s t) (p : Nat) : (partOf t p).on = (partOf s p).on := by rw [h.part]

theorem off (h : SameLoad s t) (p : Nat) : (partOf t p).off = (partOf s p).off := by rw [h.part]

theorem partOfQuad (h : SameLoad s t) (q : Nat) : partOfQuad t q = Machine.partOfQuad s q := by
  unfold Machine.partOfQuad partOfGrid
  congr 1
  funext p
  rw [h.part]

end SameLoad

/-- A list without its repetitions: each element where it first stands. -/
theorem foldl_fresh {l acc : List Nat} (nodup : acc.Nodup) :
    (l.foldl (fun l q => if l.contains q then l else l ++ [q]) acc).Nodup ∧
      ∀ k, k ∈ l.foldl (fun l q => if l.contains q then l else l ++ [q]) acc ↔ k ∈ acc ∨ k ∈ l := by
  induction l generalizing acc with
  | nil => simpa using nodup
  | cons q l ih =>
    rw [List.foldl_cons]
    by_cases h : q ∈ acc
    · rw [if_pos (List.contains_iff_mem.mpr h)]
      refine ⟨(ih nodup).1, fun k => ?_⟩
      rw [(ih nodup).2, List.mem_cons]
      constructor
      · rintro (k | k)
        · exact .inl k
        · exact .inr (.inr k)
      · rintro (k | rfl | k)
        · exact .inl k
        · exact .inl h
        · exact .inr k
    · rw [if_neg (fun c => h (List.contains_iff_mem.mp c))]
      have longer : (acc ++ [q]).Nodup := List.nodup_append.mpr ⟨nodup, List.nodup_singleton q, fun x hx y hy e => h (List.mem_singleton.mp hy ▸ e ▸ hx)⟩
      exact ⟨(ih longer).1, fun k => by rw [(ih longer).2]; simp [or_assoc]⟩

theorem busyQuads_nodup (s : State) : (busyQuads s).Nodup := (foldl_fresh List.nodup_nil).1

theorem mem_busyQuads (s : State) (q : Nat) : q ∈ busyQuads s ↔
    q ∈ s.throttled ++ s.entries.map (·.quad) ++ s.far.map (·.quad) ++ s.loops.map fun x => homeQuad (sleeveOf s x.2.sleeve) (tagColour x.2.parent) := by
  unfold busyQuads
  rw [(foldl_fresh List.nodup_nil).2]
  simp

/-- Nothing waits at a quad that holds no tokens. -/
theorem waitingAt_unbusy {s : State} {q : Nat} (h : q ∉ busyQuads s) :
    (s.entries.filter fun e => e.quad == q) = [] ∧ waitingAt s q = [] := by
  simp only [mem_busyQuads, List.mem_append, List.mem_map, not_or, not_exists, not_and] at h
  obtain ⟨⟨⟨-, entries⟩, far⟩, loops⟩ := h
  refine ⟨List.filter_eq_nil_iff.mpr fun e he => by simpa using entries e he, ?_⟩
  unfold waitingAt
  rw [List.append_eq_nil_iff]
  constructor
  · simpa using fun w hw => far w hw
  · exact List.flatMap_eq_nil_iff.mpr fun x hx => if_neg (loops x hx)

theorem occupancy_unbusy {s : State} {q : Nat} (h : q ∉ busyQuads s) : occupancy s q = 0 := by
  obtain ⟨entries, waiting⟩ := waitingAt_unbusy h
  simp [occupancy, quadEntries, quadBytes, entries, waiting]

theorem not_throttled_unbusy {s : State} {q : Nat} (h : q ∉ busyQuads s) : q ∉ s.throttled := fun k =>
  h ((mem_busyQuads s q).mpr (by simp [k]))

/-! ## One quad -/

/-- Table 2.10: a quad of a partition is Throttled at the end of a cycle when it was and holds OFF or more, or was not and holds ON or more. -/
def Throttles (s : State) (q : Nat) : Prop :=
  match partOfQuad s q with
  | none => q ∈ s.throttled
  | some p => if q ∈ s.throttled then (partOf s p).off ≤ occupancy s q else (partOf s p).on ≤ occupancy s q

theorem mem_insertNat (l : List Nat) (x k : Nat) : k ∈ insertNat l x ↔ k = x ∨ k ∈ l := by
  induction l with
  | nil => simp [insertNat]
  | cons y l ih =>
    unfold insertNat
    split
    · simp
    · split
      · rename_i e
        simp [e]
      · simp only [List.mem_cons, ih]
        tauto

/-- What one quad's turn does. -/
structure QuadTurn (s t : State) (q : Nat) : Prop where
  load    : SameLoad s t
  own     : q ∈ t.throttled ↔ Throttles s q
  others  : ∀ k, k ≠ q → (k ∈ t.throttled ↔ k ∈ s.throttled)
  counted : ∀ p, (partOf t p).thrc = (partOf s p).thrc + if partOfQuad s q = some p ∧ q ∉ s.throttled ∧ q ∈ t.throttled then 1 else 0

theorem sameLoad_updPart {f : Partition → Partition} (h : ∀ x, f x = { x with mshw := (f x).mshw, thrc := (f x).thrc }) (s : State) (p : Nat) :
    SameLoad s (updPart s p f) where
  rest := rfl
  part k := by
    by_cases e : k = p
    · subst e
      simpa using h (partOf s k)
    · simp [partOf_updPart_other e]

theorem SameLoad.throttle {s t : State} (h : SameLoad s t) (l : List Nat) : SameLoad s { t with throttled := l } :=
  ⟨by rw [h.rest], h.part⟩

theorem thrc_updPart {f : Partition → Partition} {d : Word} (h : ∀ x, (f x).thrc = x.thrc + d) (s : State) (p k : Nat) :
    (partOf (updPart s p f) k).thrc = (partOf s k).thrc + if p = k then d else 0 := by
  by_cases e : k = p
  · subst e
    simp [h]
  · simp [partOf_updPart_other e, Ne.symm e]

/-- MSHW has taken note of a quad's entries. -/
def highWater (s : State) (p q : Nat) : State := updPart s p fun x => { x with mshw := max x.mshw (quadEntries s q) }

theorem throttleQuad_partitioned {s : State} {q p : Nat} (hp : partOfQuad s q = some p) : throttleQuad s q =
    if q ∈ s.throttled then
      if occupancy s q < (partOf s p).off then { highWater s p q with throttled := s.throttled.filter (· != q) } else highWater s p q
    else if (partOf s p).on ≤ occupancy s q then
      updPart { highWater s p q with throttled := insertNat s.throttled q } p fun x => { x with thrc := x.thrc + 1 }
    else highWater s p q := by
  simp only [throttleQuad, hp, List.contains_iff_mem, updPart_throttled, highWater]

theorem throttleQuad_turn (s : State) (q : Nat) : QuadTurn s (throttleQuad s q) q := by
  cases hp : partOfQuad s q with
  | none =>
    have same : throttleQuad s q = s := by simp [throttleQuad, hp]
    rw [same]
    exact ⟨.refl s, by simp [Throttles, hp], fun _ _ => Iff.rfl, by simp [hp]⟩
  | some p =>
    have load : SameLoad s (highWater s p q) := sameLoad_updPart (fun _ => rfl) s p
    have throttled : (highWater s p q).throttled = s.throttled := rfl
    have uncounted (k : Nat) : (partOf (highWater s p q) k).thrc = (partOf s k).thrc := by
      simp [highWater, thrc_updPart (d := 0)]
    rw [throttleQuad_partitioned hp]
    generalize highWater s p q = u at load throttled uncounted
    have reread (l : List Nat) (k : Nat) : (partOf { u with throttled := l } k).thrc = (partOf s k).thrc := uncounted k
    split
    next hq =>
      split
      next ho => exact ⟨load.throttle _, by simp [Throttles, hp, hq, ho], fun k hk => by simp [hk], fun k => by simp [hq, reread]⟩
      next ho => exact ⟨load, by simpa [Throttles, hp, hq, throttled] using ho, fun k _ => by rw [throttled], fun k => by simp [hq, uncounted]⟩
    next hq =>
      split
      next ho =>
        refine ⟨(load.throttle _).trans (sameLoad_updPart (fun _ => rfl) _ p), by simp [Throttles, hp, hq, ho, mem_insertNat],
          fun k hk => by simp [hk, mem_insertNat], fun k => ?_⟩
        rw [thrc_updPart (d := 1) (fun _ => rfl), reread]
        simp [hp, hq, mem_insertNat]
      next ho =>
        exact ⟨load, by simpa [Throttles, hp, hq, throttled] using ho, fun k _ => by rw [throttled], fun k => by simp [hq, throttled, uncounted]⟩

/-! ## All quads -/

/-- The quads of a partition that become Throttled between two states. -/
def newlyThrottled (s t : State) (p : Nat) (k : Nat) : Bool := decide (partOfQuad s k = some p ∧ k ∉ s.throttled ∧ k ∈ t.throttled)

/-- What the turns of some quads do. -/
structure QuadTurns (s t : State) (l : List Nat) : Prop where
  load    : SameLoad s t
  own     : ∀ k ∈ l, k ∈ t.throttled ↔ Throttles s k
  others  : ∀ k, k ∉ l → (k ∈ t.throttled ↔ k ∈ s.throttled)
  counted : ∀ p, (partOf t p).thrc = (partOf s p).thrc + BitVec.ofNat 64 (l.filter (newlyThrottled s t p)).length

/-- The throttle state that a quad gets rests on its load and on its own throttle state only. -/
theorem throttles_congr {s t : State} (h : SameLoad s t) {k : Nat} (same : k ∈ t.throttled ↔ k ∈ s.throttled) : Throttles t k ↔ Throttles s k := by
  unfold Throttles
  rw [h.partOfQuad]
  cases partOfQuad s k <;> simp [same, h.on, h.off, h.occupancy]

theorem throttleQuads_turns (s : State) {l : List Nat} (nodup : l.Nodup) : QuadTurns s (l.foldl throttleQuad s) l := by
  induction l using List.reverseRecOn with
  | nil => exact ⟨.refl s, by simp, fun _ _ => Iff.rfl, by simp⟩
  | append_singleton l q ih =>
    obtain ⟨first, -, new⟩ := List.nodup_append.mp nodup
    have fresh : q ∉ l := fun h => new q h q (List.mem_singleton_self q) rfl
    have before := ih first
    rw [List.foldl_append]
    generalize l.foldl throttleQuad s = t at before
    have turn := throttleQuad_turn t q
    rw [List.foldl_cons, List.foldl_nil]
    generalize throttleQuad t q = u at turn
    have unturned : q ∈ t.throttled ↔ q ∈ s.throttled := before.others q fresh
    have kept (k : Nat) (hk : k ∈ l) : k ∈ u.throttled ↔ k ∈ t.throttled := turn.others k fun e => fresh (e ▸ hk)
    refine ⟨before.load.trans turn.load, fun k hk => ?_, fun k hk => ?_, fun p => ?_⟩
    · rcases List.mem_append.mp hk with hk | hk
      · exact (kept k hk).trans (before.own k hk)
      · rw [List.mem_singleton.mp hk]
        exact turn.own.trans (throttles_congr before.load unturned)
    · simp only [List.mem_append, List.mem_singleton, not_or] at hk
      exact (turn.others k hk.2).trans (before.others k hk.1)
    · have earlier : l.filter (newlyThrottled s u p) = l.filter (newlyThrottled s t p) :=
        List.filter_congr fun k hk => by simp [newlyThrottled, kept k hk]
      rw [turn.counted, before.counted, List.filter_append, List.length_append, earlier, BitVec.ofNat_add, ← BitVec.add_assoc]
      congr 1
      simp only [before.load.partOfQuad, unturned]
      by_cases h : partOfQuad s q = some p ∧ q ∉ s.throttled ∧ q ∈ u.throttled
      · simp [newlyThrottled, h]
      · rw [if_neg h]
        simp [newlyThrottled, h]

/-! ## The end of a cycle -/

/-- What the end of a cycle does to quads and partitions. -/
structure CycleEnd (s t : State) : Prop where
  load      : ∀ q, occupancy t q = occupancy s q
  part      : ∀ p, partOf t p = { partOf s p with mshw := (partOf t p).mshw, thrc := (partOf t p).thrc }
  grids     : ∀ q, partOfQuad t q = partOfQuad s q
  throttled : ∀ q, q ∈ t.throttled ↔ if q ∈ busyQuads s then Throttles s q else q ∈ s.throttled
  counted   : ∀ p, (partOf t p).thrc = (partOf s p).thrc + BitVec.ofNat 64 ((busyQuads s).filter (newlyThrottled s t p)).length

theorem endCycle_cycleEnd (old s : State) : CycleEnd s (endCycle old s) := by
  have cuffs : CuffFrom s ((s.queues.map (·.1)).foldl (watchdogCount old) ((s.queues.map (·.1)).foldl cuffState s)) :=
    ((CuffFrom.refl s).foldl (fun c h => h.cuffState c) _).foldl (fun c h => h.watchdogCount old c) _
  unfold endCycle
  dsimp only
  generalize (s.queues.map (·.1)).foldl (watchdogCount old) ((s.queues.map (·.1)).foldl cuffState s) = u at cuffs
  have busy : busyQuads u = busyQuads s := by rw [cuffs.rest]; rfl
  have turns := throttleQuads_turns u (busyQuads_nodup u)
  have parts (p : Nat) : partOf u p = partOf s p := by rw [cuffs.rest]; rfl
  have occ (q : Nat) : occupancy u q = occupancy s q := by rw [cuffs.rest]; rfl
  have quads (q : Nat) : partOfQuad u q = partOfQuad s q := by rw [cuffs.rest]; rfl
  have throttled : u.throttled = s.throttled := by rw [cuffs.rest]
  have throttles (q : Nat) : Throttles u q ↔ Throttles s q := by
    unfold Throttles
    simp only [quads, throttled, parts, occ]
  generalize (busyQuads u).foldl throttleQuad u = t at turns
  rw [busy] at turns
  constructor
  case load => exact fun q => (turns.load.occupancy q).trans (occ q)
  case part => exact fun p => (turns.load.part p).trans (by rw [parts]; rfl)
  case grids => exact fun q => (turns.load.partOfQuad q).trans (quads q)
  case throttled =>
    intro q
    show q ∈ t.throttled ↔ _
    split
    next h => rw [turns.own q h, throttles]
    next h => rw [turns.others q h, throttled]
  case counted =>
    intro p
    have same : newlyThrottled u t p = newlyThrottled s { t with cycle := t.cycle + 1 } p := by
      funext k
      simp only [newlyThrottled, quads, throttled]
    rw [← same, ← parts]
    exact turns.counted p

/-- Every quad that becomes Throttled has a number below 512 and holds tokens. -/
theorem newlyThrottled_count {s t : State} (h : CycleEnd s t) (p : Nat) :
    ((busyQuads s).filter (newlyThrottled s t p)).length = ((List.range 512).filter (newlyThrottled s t p)).length := by
  refine ((List.perm_ext_iff_of_nodup ((busyQuads_nodup s).filter _) (List.nodup_range.filter _)).mpr fun k => ?_).length_eq
  simp only [List.mem_filter, List.mem_range, and_congr_left_iff, newlyThrottled, decide_eq_true_eq]
  rintro ⟨quad, old, new⟩
  refine iff_of_true ?busy ?small
  case busy =>
    by_contra unbusy
    exact old (by simpa [unbusy] using (h.throttled k).mp new)
  case small =>
    have grid := List.find?_some quad
    have : k / 32 < 16 := by
      by_contra big
      rw [BitVec.getLsbD_of_ge _ _ (by omega)] at grid
      cases grid
    omega

/-- A quad of a partition that holds no tokens stays Open, as one below ON does. -/
theorem CycleEnd.table {s t : State} (h : CycleEnd s t) {q p : Nat} (quad : partOfQuad s q = some p) (limit : 1 ≤ (partOf s p).on) :
    q ∈ t.throttled ↔ if q ∈ s.throttled then (partOf s p).off ≤ occupancy t q else (partOf s p).on ≤ occupancy t q := by
  rw [h.throttled, h.load]
  by_cases busy : q ∈ busyQuads s
  · simp [busy, Throttles, quad]
  · have opened : q ∉ s.throttled := not_throttled_unbusy busy
    rw [if_neg busy, if_neg opened, occupancy_unbusy busy]
    exact iff_of_false opened (by omega)

/-- R73 holds of every state that the end of a cycle gives. -/
theorem CycleEnd.settled {s t : State} (h : CycleEnd s t) : Claims.ThrottleSettled t := by
  intro q p quad limit hysteresis
  rw [h.grids] at quad
  have table := h.table quad (by rw [h.part p] at limit; exact limit)
  have on : (partOf t p).on = (partOf s p).on := by rw [h.part p]
  have off : (partOf t p).off = (partOf s p).off := by rw [h.part p]
  rw [on] at hysteresis ⊢
  rw [off] at hysteresis ⊢
  by_cases old : q ∈ s.throttled
  · rw [if_pos old] at table
    exact ⟨table.mp, fun open' => by have := mt table.mpr open'; omega⟩
  · rw [if_neg old] at table
    exact ⟨fun closed => by have := table.mp closed; omega, fun open' => by have := mt table.mpr open'; omega⟩

/-! ## Every step ends a cycle -/

theorem finish_next {old s' : State} {o : Host.Outcome State Fault Refusal} (h : finish old o = .next s') :
    ∃ t, o = .next t ∧ s' = endStep old t := by
  cases o with
  | next t => exact ⟨t, rfl, (Host.Outcome.next.inj h).symm⟩
  | fault f => cases h
  | refused r => cases h

/-- A step that gives a next state ends the cycle of some state. -/
theorem step_endStep {s s' : State} (h : step s = .next s') : ∃ t, s' = endStep s t := by
  have moved {t : State} {m : Move} (h : perform s t m = .next s') : ∃ t, s' = endStep s t := by
    unfold perform at h
    split at h
    · obtain ⟨u, -, e⟩ := finish_next h
      exact ⟨u, e⟩
    · split at h
      · exact ⟨_, (Host.Outcome.next.inj h).symm⟩
      · exact ⟨_, (Host.Outcome.next.inj h).symm⟩
      · obtain ⟨u, -, e⟩ := finish_next h
        exact ⟨u, e⟩
      · cases h
  unfold step at h
  split at h
  · split at h
    · cases h
    · exact ⟨_, (Host.Outcome.next.inj h).symm⟩
  · split at h
    · cases h
    · exact moved h

theorem partOfQuad_reset (q : Nat) : partOfQuad State.reset q = none := by
  unfold partOfQuad partOfGrid
  refine List.find?_eq_none.mpr fun p _ => ?_
  show ¬(0 : BitVec 16).getLsbD _ = true
  simp

/-- Settles O54: `throttleQuad` gives each busy quad its turn once, which counts it and decides it by Table 2.10, a quad without tokens is Open,
and every step ends with that. -/
theorem throttleStates : Obligations.ThrottleStates := by
  unfold Obligations.ThrottleStates
  refine ⟨fun old s q p quad limit _ => ?_, fun s s' h => ?_, fun q p quad => ?_, rfl⟩
  · have h := endCycle_cycleEnd old s
    have table := h.table quad limit
    refine ⟨fun k => by rw [table, if_neg k], fun k => by rw [table, if_pos k], ?_, fun e at' closed form => ?_⟩
    · rw [h.counted, newlyThrottled_count h]
      rfl
    · simp [held, at', closed, form]
  · obtain ⟨t, rfl⟩ := step_endStep h
    exact (endCycle_cycleEnd _ _).settled
  · simp [partOfQuad_reset] at quad

end Sys2Proof.Machine
end

section
/-! PROOFS. Every meaning answers a next state; and what the registers read after device reset (R71, R124, R175, R268, R281, R317, R332, R333). -/

namespace Sys2Proof.Machine

open Sys2Proof

/-! ## Registers after device reset, table by table -/

theorem readPartReg_reset {k : Nat} (h : k < 32) : readPartReg {} (0x440 + k) = Claims.resetValue (0x440 + k) := by
  revert k
  decide +kernel

theorem readMemReg_reset {k : Nat} (h : k < 32) : readMemReg State.reset (0x460 + k) = Claims.resetValue (0x460 + k) := by
  revert k
  decide +kernel

theorem readRelReg_reset {k : Nat} (h : k < 32) : readRelReg State.reset k = Claims.resetValue (0x800 + k) := by
  revert k
  decide +kernel

theorem readIdReg_reset {k : Nat} (h : k < 64) (feat : k ≠ 1) (boot : k ≠ 3) : readIdReg State.reset (0x900 + k) = Claims.resetValue (0x900 + k) := by
  revert k
  decide +kernel

/-- Every queue reads alike: QCFG by Table 8.10, the rest zero. -/
theorem readQueueReg_reset {k : Nat} (h : k < 8) :
    readQueueReg {} k = if k = 0 then BitVec.ofNat 64 (16 * 2 ^ 40 + 192 * 2 ^ 16 + 64) else 0 := by
  revert k
  decide +kernel

theorem resetValue_queue {num : Nat} (lo : 0x500 ≤ num) (hi : num < 0x700) :
    Claims.resetValue num = if num % 8 = 0 then BitVec.ofNat 64 (16 * 2 ^ 40 + 192 * 2 ^ 16 + 64) else 0 := by
  by_cases h : num % 8 = 0 <;> simp (disch := omega) only [Claims.resetValue, if_pos, if_neg]

/-- Every partition's translation and fault registers read alike: FACK all ones, FSTAT empty, the rest zero (Table 9.3). -/
theorem readFaultReg_reset (p : Nat) {k : Nat} (h : k < 16) :
    readFaultReg State.reset p k = if k = 4 then 0xFFFFFFFF else if k = 6 then BitVec.ofNat 64 (3 * 2 ^ 62) else 0 := by
  have same : readFaultReg State.reset p k = readFaultReg State.reset 0 k := rfl
  rw [same]
  clear same
  revert k
  decide +kernel

theorem resetValue_fault {num : Nat} (lo : 0x700 ≤ num) (hi : num < 0x800) :
    Claims.resetValue num = if num % 16 = 4 then 0xFFFFFFFF else if num % 16 = 6 then BitVec.ofNat 64 (3 * 2 ^ 62) else 0 := by
  by_cases h : num % 16 = 4
  · simp (disch := omega) only [Claims.resetValue, if_pos, if_neg]
  · by_cases k : num % 16 = 6
    · simp (disch := omega) only [Claims.resetValue, if_pos, if_neg]
    · simp (disch := omega) only [Claims.resetValue, if_neg]

/-- Outside the tables whose registers have a reset value of their own, a register reads zero. -/
theorem resetValue_zero {num : Nat} (h : num < 0x440 ∨ 0x480 ≤ num ∧ num < 0x500 ∨ 0x820 ≤ num ∧ num < 0x900 ∨ 0x940 ≤ num) :
    Claims.resetValue num = 0 := by
  unfold Claims.resetValue
  rw [if_neg, if_neg, if_neg, if_neg, if_neg, if_neg, if_neg, if_neg, if_neg, if_neg, if_neg] <;> omega

theorem readReg_reset (p v : Nat) {num : Nat} (feat : num ≠ 0x901) (boot : num ≠ 0x903) :
    readReg State.reset (some (p, v)) num = Claims.resetValue num := by
  unfold readReg
  by_cases badn : 0x400 ≤ num ∧ num ≤ 0x41F
  · rw [if_pos badn]
    exact (resetValue_zero (by omega)).symm
  rw [if_neg badn]
  by_cases badi : 0x420 ≤ num ∧ num ≤ 0x427
  · rw [if_pos badi]
    exact (resetValue_zero (by omega)).symm
  rw [if_neg badi]
  by_cases badx : num = 0x428
  · rw [if_pos badx]
    exact (resetValue_zero (by omega)).symm
  rw [if_neg badx]
  by_cases badc : num = 0x429
  · rw [if_pos badc]
    exact (resetValue_zero (by omega)).symm
  rw [if_neg badc]
  by_cases part : 0x440 ≤ num ∧ num < 0x460
  · rw [if_pos part]
    obtain ⟨k, rfl⟩ := Nat.exists_eq_add_of_le part.1
    exact readPartReg_reset (by omega)
  rw [if_neg part]
  by_cases mem : 0x460 ≤ num ∧ num < 0x480
  · rw [if_pos mem]
    obtain ⟨k, rfl⟩ := Nat.exists_eq_add_of_le mem.1
    exact readMemReg_reset (by omega)
  rw [if_neg mem]
  by_cases cbd : 0x480 ≤ num ∧ num < 0x490
  · rw [if_pos cbd]
    exact (resetValue_zero (by omega)).symm
  rw [if_neg cbd]
  by_cases cbc : 0x490 ≤ num ∧ num < 0x4A0
  · rw [if_pos cbc]
    exact (resetValue_zero (by omega)).symm
  rw [if_neg cbc]
  by_cases grids : 0x4A0 ≤ num ∧ num < 0x4B0
  · rw [if_pos grids]
    exact (resetValue_zero (by omega)).symm
  rw [if_neg grids]
  by_cases hvcap : 0x4B0 ≤ num ∧ num < 0x4C0
  · rw [if_pos hvcap]
    exact (resetValue_zero (by omega)).symm
  rw [if_neg hvcap]
  by_cases units : 0x4C0 ≤ num ∧ num < 0x4D0
  · rw [if_pos units]
    exact (resetValue_zero (by omega)).symm
  rw [if_neg units]
  by_cases queue : 0x500 ≤ num ∧ num < 0x700
  · rw [if_pos queue]
    rw [resetValue_queue queue.1 queue.2]
    exact readQueueReg_reset (Nat.mod_lt _ (by decide))
  rw [if_neg queue]
  by_cases fault : 0x700 ≤ num ∧ num < 0x800
  · rw [if_pos fault]
    rw [resetValue_fault fault.1 fault.2]
    exact readFaultReg_reset _ (Nat.mod_lt _ (by decide))
  rw [if_neg fault]
  by_cases rel : 0x800 ≤ num ∧ num < 0x820
  · rw [if_pos rel]
    obtain ⟨k, rfl⟩ := Nat.exists_eq_add_of_le rel.1
    rw [Nat.add_sub_cancel_left]
    exact readRelReg_reset (by omega)
  rw [if_neg rel]
  by_cases ident : 0x900 ≤ num ∧ num < 0x940
  · rw [if_pos ident]
    obtain ⟨k, rfl⟩ := Nat.exists_eq_add_of_le ident.1
    exact readIdReg_reset (by omega) (by omega) (by omega)
  rw [if_neg ident]
  exact (resetValue_zero (by omega)).symm

/-! ## Every meaning answers -/

theorem exec_next (i : Instr) (s : State) : ∃ t, exec i s = .next t := by
  cases i <;> exact ⟨_, rfl⟩

/-- Settles O60: each constructor's meaning is a next state as its definition stands, and the reset values are read table by table. -/
theorem execCompletes : Obligations.ExecCompletes := by
  unfold Obligations.ExecCompletes
  exact ⟨exec_next, fun p v num feat boot => readReg_reset p v feat boot, fun _ => rfl, reset_canonical.1, reset_canonical.2, rfl⟩

end Sys2Proof.Machine
end

section
/-! PROOFS. The limits of the throttle, as MSLIM holds them (R72, Table 2.9). -/

namespace Sys2Proof.Machine

open Sys2Proof

/-- MSLIM shows the two fields that a write gives and zero elsewhere. -/
theorem mslim_fields (v : Word) : BitVec.ofNat 64 (bits v.toNat 8 7 * 256 + bits v.toNat 0 7) = v &&& 0x7F7F := by
  have fields : bits v.toNat 8 7 * 256 + bits v.toNat 0 7 = bits v.toNat 8 7 <<< 8 ||| bits v.toNat 0 7 := by
    rw [← Nat.shiftLeft_add_eq_or_of_lt (by unfold bits; omega), Nat.shiftLeft_eq]
  rw [fields]
  apply BitVec.eq_of_getLsbD_eq
  intro i hi
  simp only [bits, BitVec.getLsbD_ofNat, Nat.testBit_or, Nat.testBit_shiftLeft, Nat.testBit_mod_two_pow, Nat.testBit_div_two_pow,
    BitVec.getLsbD_and, BitVec.testBit_toNat]
  interval_cases i <;> simp

/-- Settles O53: a write of MSLIM is one test and one update of its partition. -/
theorem throttleLimits : Obligations.ThrottleLimits := by
  unfold Obligations.ThrottleLimits Claims.ThrottleLimits
  intro s p v on off
  refine ⟨fun low high order => ?_, fun ignored => if_pos ignored, rfl⟩
  have legal : ¬(on = 0 ∨ 64 < on ∨ on ≤ off) := by omega
  have written : writePartReg s p 0x440 v = updPart s p fun x => { x with on := on, off := off } := if_neg legal
  rw [written]
  refine ⟨_, rfl, rfl, fun q h => partOf_updPart_other h _, partOf_updPart_same s p _, ?_⟩
  rw [partOf_updPart_same]
  exact mslim_fields v

end Sys2Proof.Machine
end

section
/-! PROOFS. What a step issues and runs (R50, R51): the order of a ready queue, and the record that is decoded. -/

namespace Sys2Proof.Machine

open Sys2Proof

/-! ## The order of a ready queue -/

/-- One set does not come after another by the cycle in which it completed. -/
def NotLater (x y : Entry) : Prop := x.stamp.getD 0 ≤ y.stamp.getD 0

theorem notLater_of_readyBefore {s : State} {x y : Entry} (h : readyBefore s x y = true) : NotLater x y := by
  unfold readyBefore at h
  unfold NotLater
  dsimp only at h
  split at h
  · exact (of_decide_eq_true h).le
  · omega

theorem notLater_of_not_readyBefore {s : State} {x y : Entry} (h : ¬readyBefore s x y = true) : NotLater y x := by
  unfold readyBefore at h
  unfold NotLater
  dsimp only at h
  split at h
  · exact Nat.le_of_not_lt fun k => h (decide_eq_true k)
  · omega

theorem insertReady_perm (s : State) (e : Entry) (l : List Entry) : (insertReady s e l).Perm (e :: l) := by
  induction l with
  | nil => exact .refl _
  | cons y l ih =>
    unfold insertReady
    split
    · exact .refl _
    · exact (ih.cons y).trans (.swap e y l)

theorem insertReady_sorted {s : State} {e : Entry} {l : List Entry} (h : l.Pairwise NotLater) : (insertReady s e l).Pairwise NotLater := by
  induction l with
  | nil => exact List.pairwise_singleton _ e
  | cons y l ih =>
    obtain ⟨first, rest⟩ := List.pairwise_cons.mp h
    unfold insertReady
    split
    next before =>
      have ey := notLater_of_readyBefore before
      refine List.pairwise_cons.mpr ⟨fun z hz => ?_, h⟩
      rcases List.mem_cons.mp hz with rfl | hz
      · exact ey
      · exact Nat.le_trans ey (first z hz)
    next after =>
      refine List.pairwise_cons.mpr ⟨fun z hz => ?_, ih rest⟩
      rcases List.mem_cons.mp ((insertReady_perm s e l).mem_iff.mp hz) with rfl | hz
      · exact notLater_of_not_readyBefore after
      · exact first z hz

/-- The sets of an EN that were completed before a cycle. -/
def readyAt (s : State) (en : Nat) (e : Entry) : Bool := e.en == en && match e.stamp with | some c => decide (c < s.cycle) | none => false

theorem readyAt_iff {s : State} {en : Nat} {e : Entry} : readyAt s en e = true ↔ e.en = en ∧ ∃ c, e.stamp = some c ∧ c < s.cycle := by
  unfold readyAt
  cases e.stamp <;> simp

/-- The ready sets of an EN in the order of R50, before the queue's 64 are taken. -/
def readyOrder (s : State) (en : Nat) : List Entry := (s.entries.filter (readyAt s en)).foldl (fun l e => insertReady s e l) []

theorem readyQueue_eq (s : State) (en : Nat) : readyQueue s en = (readyOrder s en).take 64 := rfl

theorem foldl_insertReady (s : State) (m : List Entry) {l : List Entry} (h : l.Pairwise NotLater) :
    (m.foldl (fun l e => insertReady s e l) l).Perm (m ++ l) ∧ (m.foldl (fun l e => insertReady s e l) l).Pairwise NotLater := by
  induction m generalizing l with
  | nil => exact ⟨.refl _, h⟩
  | cons e m ih =>
    obtain ⟨perm, sorted⟩ := ih (insertReady_sorted (s := s) (e := e) h)
    exact ⟨perm.trans (((insertReady_perm s e l).append_left m).trans List.perm_middle), sorted⟩

theorem readyOrder_perm (s : State) (en : Nat) : (readyOrder s en).Perm (s.entries.filter (readyAt s en)) := by
  simpa [readyOrder] using (foldl_insertReady s (s.entries.filter (readyAt s en)) List.Pairwise.nil).1

theorem readyOrder_sorted (s : State) (en : Nat) : (readyOrder s en).Pairwise NotLater := (foldl_insertReady s _ List.Pairwise.nil).2

/-- The head eligible set, what stands before it in its queue, and what comes after it in the order. -/
theorem headEligible_split {s : State} {en : Nat} {e : Entry} (h : headEligible s en = some e) :
    held s e = false ∧ ∃ before after, readyOrder s en = before ++ e :: after ∧ before.length < 64 ∧ ∀ y ∈ before, held s y = true := by
  obtain ⟨free, before, rest, queue, blocked⟩ := List.find?_eq_some_iff_append.mp h
  refine ⟨by simpa using free, before, rest ++ (readyOrder s en).drop 64, ?_, ?_, fun y hy => by simpa using blocked y hy⟩
  · have whole := List.take_append_drop 64 (readyOrder s en)
    rw [← readyQueue_eq, queue] at whole
    simpa using whole.symm
  · have short : (readyQueue s en).length ≤ 64 := List.length_take_le _ _
    rw [queue] at short
    simp at short
    omega

/-- Sets that completed before one of a sorted order stand before it. -/
theorem earlier_before {before after : List Entry} {e y : Entry} (sorted : (before ++ e :: after).Pairwise NotLater)
    (hy : y ∈ before ++ e :: after) (earlier : ¬NotLater e y) : y ∈ before := by
  rcases List.mem_append.mp hy with hy | hy
  · exact hy
  · rcases List.mem_cons.mp hy with rfl | hy
    · exact absurd (Nat.le_refl _) earlier
    · exact absurd ((List.pairwise_cons.mp (List.pairwise_append.mp sorted).2.1).1 y hy) earlier

/-- The sets of an EN that completed before a cycle. -/
def completedBefore (en c : Nat) (y : Entry) : Bool := y.en == en && match y.stamp with | some d => decide (d < c) | none => false

theorem completedBefore_iff {en c : Nat} {y : Entry} : completedBefore en c y = true ↔ y.en = en ∧ ∃ d, y.stamp = some d ∧ d < c := by
  unfold completedBefore
  cases y.stamp <;> simp

theorem count_completedBefore {s : State} {en c : Nat} {e : Entry} {before after : List Entry} (stamp : e.stamp = some c) (past : c < s.cycle)
    (sorted : (before ++ e :: after).Pairwise NotLater) (perm : (before ++ e :: after).Perm (s.entries.filter (readyAt s en))) :
    (s.entries.filter (completedBefore en c)).length ≤ before.length := by
  have ready : s.entries.filter (completedBefore en c) = (s.entries.filter (readyAt s en)).filter (completedBefore en c) := by
    rw [List.filter_filter]
    refine List.filter_congr fun y _ => ?_
    cases h : completedBefore en c y with
    | false => simp
    | true =>
      obtain ⟨own, d, hd, old⟩ := completedBefore_iff.mp h
      simp [readyAt_iff.mpr ⟨own, d, hd, old.trans past⟩]
  have none : (e :: after).filter (completedBefore en c) = [] := by
    refine List.filter_eq_nil_iff.mpr fun y hy h => ?_
    obtain ⟨-, d, hd, old⟩ := completedBefore_iff.mp h
    have later : NotLater e y := by
      rcases List.mem_cons.mp hy with rfl | hy
      · exact Nat.le_refl _
      · exact (List.pairwise_cons.mp (List.pairwise_append.mp sorted).2.1).1 y hy
    simp [NotLater, stamp, hd] at later
    omega
  rw [ready, ← (perm.filter _).length_eq, List.filter_append, none, List.append_nil]
  exact List.length_filter_le _ _

theorem headEligible_spec {s : State} {en : Nat} {e : Entry} (h : headEligible s en = some e) :
    e ∈ s.entries ∧ e.en = en ∧ held s e = false ∧ ∃ c, e.stamp = some c ∧ c < s.cycle ∧
      (s.entries.filter fun y => y.en == en && match y.stamp with | some d => decide (d < c) | none => false).length < 64 ∧
      ∀ y ∈ s.entries, ∀ d, y.en = en → y.stamp = some d → d < s.cycle → held s y = false → c ≤ d := by
  obtain ⟨free, before, after, order, short, blocked⟩ := headEligible_split h
  have sorted := readyOrder_sorted s en
  have perm := readyOrder_perm s en
  rw [order] at sorted perm
  obtain ⟨listed, ready⟩ := List.mem_filter.mp (perm.mem_iff.mp (List.mem_append_right before List.mem_cons_self))
  obtain ⟨own, c, stamp, past⟩ := readyAt_iff.mp ready
  have stands {y : Entry} {d : Nat} (hy : y ∈ s.entries) (en' : y.en = en) (hd : y.stamp = some d) (old : d < c) : y ∈ before :=
    earlier_before sorted (perm.mem_iff.mpr (List.mem_filter.mpr ⟨hy, readyAt_iff.mpr ⟨en', d, hd, old.trans past⟩⟩))
      (by simp [NotLater, stamp, hd, old])
  refine ⟨listed, own, free, c, stamp, past, ?_, fun y hy d en' hd _ unheld => ?_⟩
  · exact (count_completedBefore stamp past sorted perm).trans_lt short
  · by_contra old
    have := blocked y (stands hy en' hd (by omega))
    simp [unheld] at this

/-! ## The record that is decoded -/

theorem natOfBytes_bytesOfNat (n x : Nat) : natOfBytes (bytesOfNat n x) = x % 256 ^ n := by
  induction n generalizing x with
  | zero => simp [bytesOfNat, natOfBytes, Nat.mod_one]
  | succ n ih =>
    have low : (BitVec.ofNat 8 x).toNat = x % 256 := rfl
    rw [bytesOfNat, natOfBytes, ih, low, Nat.pow_succ', Nat.mod_mul]

theorem length_bytesOfNat (n x : Nat) : (bytesOfNat n x).length = n := by
  induction n generalizing x with
  | zero => rfl
  | succ n ih => simp [bytesOfNat, ih]

/-- What a record's bytes decode to is what its word does. -/
theorem decode_bytes (w : RecordWord) : decode (bytesOfNat 12 w.toNat) = decodeRecord w := by
  have whole : (bytesOfNat 12 w.toNat).take 12 = bytesOfNat 12 w.toNat := List.take_of_length_le (length_bytesOfNat 12 _).le
  unfold decode
  have fits : w.toNat % 256 ^ 12 = w.toNat := Nat.mod_eq_of_lt w.isLt
  rw [if_neg (by simp [length_bytesOfNat]), whole, natOfBytes_bytesOfNat, fits, BitVec.ofNat_toNat, BitVec.setWidth_eq]

/-! ## Steps -/

theorem step_agenda {s : State} {m : Move} {rest : List Move} (powered : s.mc.powered = true) (h : s.agenda = m :: rest) :
    step s = perform s { s with agenda := rest } m := by
  unfold step nextMove
  rw [h]
  simp [powerStop, powered]

theorem fetch_head {t : State} {en : Nat} {e : Entry} (h : headEligible t en = some e) : fetch t en =
    if !selected (imgRec (actOf t e.act).image e.node) e then .consumed (Claims.issued t e)
    else match decodeRecord (imgRec (actOf t e.act).image e.node) with
      | .ok i => .run i (Claims.issued t e)
      | .error _ => .undecoded := by
  unfold fetch
  rw [h]
  simp only [decode_bytes]
  rfl

/-- Settles O59: the queue is sorted by the cycle of completion, and a step makes the move that its agenda names. -/
theorem stepRunsDecoded : Obligations.StepRunsDecoded := by
  unfold Obligations.StepRunsDecoded Claims.StepRunsDecoded
  intro s powered
  refine ⟨fun en e h => headEligible_spec h, fun en rest agenda => ?_, fun i rest agenda => step_agenda powered agenda, fun t => rfl⟩
  have moves := step_agenda powered agenda
  refine ⟨fun idle => ?_, fun e head => ⟨fun unselected => ?_, fun i chosen decoded => ?_⟩⟩
  · rw [moves]
    simp only [perform, fetch, idle]
  · rw [moves]
    simp only [perform, fetch_head head, unselected, Bool.not_false, if_true]
  · rw [moves]
    simp [perform, fetch_head head, chosen, decoded]

end Sys2Proof.Machine
end

section
/-! PROOFS. Delivery of a token of right parity (R31, R47), and the tokens of colours that are not live (R41). -/

namespace Sys2Proof.Machine

open Sys2Proof

/-- TOKEN_DELIVERY of a token of right parity takes it from the network and delivers it, whatever hops it makes. -/
theorem tokenDelivery_good {s : State} {i : Nat} {n : NetToken} (flight : s.net[i]? = some n) (free : retHeld s n = false)
    (good : parityOf n.tok = n.par) :
    exec (.tokenDelivery i) s = .next (deliver combineVals { s with net := s.net.eraseIdx i } n) := by
  show execTokenDelivery i s = _
  unfold execTokenDelivery
  rw [flight]
  congr 1
  show (if retHeld s n then s else _) = _
  rw [if_neg (by simp [free])]
  extract_lets t
  rw [parityCheck_good good]
  exact ite_self _

theorem live_zero (s : State) (p : Nat) : live s (colourKey p 0) = false := by
  simp [live, colourKey]

theorem live_unlisted {s : State} {k : Nat} (h : (lookup s.colours k).isSome = false) : live s k = false := by
  rw [Option.isSome_eq_false_iff, Option.isNone_iff_eq_none] at h
  simp [live, h]

/-- R41: a token whose colour is not live is discarded and counted, whatever its destination. -/
theorem deliver_dead {comb : RecordWord → CombStep} {s : State} {n : NetToken} (h : live s (colourKey n.part (tagColour n.tok.tag)) = false) :
    deliver comb s n = dead s n.part 1 := by
  unfold deliver
  cases n.dest <;> simp [h]

/-- Settles O52: delivery asks first, for each kind of destination, whether the colour is live. -/
theorem deadTokens : Obligations.DeadTokens := by
  unfold Obligations.DeadTokens
  refine ⟨live_zero, fun s p n h => live_unlisted h, fun s i n flight free good gone => ?_⟩
  rw [tokenDelivery_good flight free good, deliver_dead (by exact gone)]
  rfl

end Sys2Proof.Machine
end

section
/-! PROOFS. The forms that only compute (R32, R33, R36, R341): all are one firing, and what they send is all that they change. -/

namespace Sys2Proof.Machine

open Sys2Proof

/-! ## Every computing form is one firing -/

/-- A form fires its record with some value. -/
structure Fires (mk : GRec → Instr) : Prop where
  fires : ∀ (r : GRec) (s : State), ∃ val, exec (mk r) s = .next (fireG s r val)

theorem minMaxForm_fires (r : GRec) (s : State) (max : Bool) : ∃ val, minMaxForm s r max = fireG s r val := by
  unfold minMaxForm floatPat
  exact ⟨_, rfl⟩

theorem fires_fmin : Fires .fmin :=
  ⟨fun r s => let ⟨val, h⟩ := minMaxForm_fires r s false; ⟨val, congrArg Host.Outcome.next h⟩⟩

theorem fires_fmax : Fires .fmax :=
  ⟨fun r s => let ⟨val, h⟩ := minMaxForm_fires r s true; ⟨val, congrArg Host.Outcome.next h⟩⟩

theorem pureForms_fire : ∀ mk ∈ Claims.pureForms, Fires mk := by
  unfold Claims.pureForms
  simp only [List.forall_mem_cons, List.not_mem_nil, false_implies, implies_true, and_true]
  repeat' apply And.intro
  any_goals exact fires_fmin
  any_goals exact fires_fmax
  all_goals exact ⟨fun r s => ⟨_, rfl⟩⟩

/-- Settles O3: the outcomes of a firing (R32, R33, R36), for each of the computing forms. -/
theorem operandMarks : Obligations.OperandMarks := by
  unfold Obligations.OperandMarks
  refine ⟨fun mk form r s poisoned => ?_, fun mk form r s clean null => ?_, fun mk form r s clean full faults => ?_⟩
  all_goals
    obtain ⟨val, fires⟩ := (pureForms_fire mk form).fires r s
    rw [fires, fireG, firePure]
  · rw [fire_poisoned poisoned]
    rfl
  · rw [fire_null clean null]
    rfl
  · rw [fire_tagDepth clean full faults]

/-! ## What sending changes -/

/-- A target is made by the record's tag operation or by none. -/
theorem targetTag_made {f : Firing} {t : Target} {u : Word} {made : TagOp} (h : targetTag f t = some (u, made)) :
    made = f.com.tg ∨ made = .keep := by
  unfold targetTag at h
  split at h
  · obtain ⟨u', -, e⟩ := Option.map_eq_some_iff.mp h
    rw [← (Prod.mk.inj e).2]
    cases f.com.tg <;> simp
  · exact .inr (Prod.mk.inj (Option.some.inj h)).2.symm

end Sys2Proof.Machine

namespace Sys2Proof.Claims

open Sys2Proof Sys2Proof.Machine

namespace OnlySent

variable {s t u : State}

theorem refl (s : State) : OnlySent s s := ⟨rfl, fun _ => rfl, fun _ => rfl, fun _ => rfl⟩

theorem trans (h : OnlySent s t) (k : OnlySent t u) : OnlySent s u where
  rest := by rw [k.rest, h.rest]
  parts p := by rw [k.parts p, h.parts p]
  acts a := by rw [k.acts a, h.acts a]
  sleeves v := by rw [k.sleeves v, h.sleeves v]

theorem ite {p : Prop} [Decidable p] (h : OnlySent s t) (k : OnlySent s u) : OnlySent s (if p then t else u) := by
  split
  · exact h
  · exact k

/-- Device memory, pod memory and the scratchpads are no part of what sending changes. -/
theorem sameMemory (h : OnlySent s t) : SameMemory s t where
  device apr o := by rw [h.rest]; rfl
  pod b := by rw [h.rest]
  scratch v b := by rw [h.sleeves v]

theorem begin (s : State) (c : Common) (ofs : BitVec 32) : OnlySent s (begin s c ofs) := ⟨rfl, fun _ => rfl, fun _ => rfl, fun _ => rfl⟩

theorem dead (s : State) (p n : Nat) : OnlySent s (dead s p n) where
  rest := rfl
  parts k := by
    by_cases e : k = p
    · subst e
      simp [Machine.dead]
    · simp [Machine.dead, partOf_updPart_other e]
  acts _ := rfl
  sleeves _ := rfl

theorem launch (s : State) (n : NetToken) : OnlySent s (launch s n) := ⟨rfl, fun _ => rfl, fun _ => rfl, fun _ => rfl⟩

/-- An update of mode tokens and of the mark of a popped token. -/
theorem updAct {f : Act → Act} (h : ∀ x, f x = { x with modes := (f x).modes, popped := (f x).popped }) (s : State) (a : Nat) :
    OnlySent s (updAct s a f) where
  rest := by
    unfold Machine.updAct
    split <;> rfl
  parts p := by rw [partOf, updAct_parts, ← partOf]
  acts b := by
    cases listed : lookup s.acts a with
    | none => rw [updAct_unlisted listed]
    | some x =>
      by_cases e : b = a
      · rw [e, actOf_updAct_same (by simp [listed])]
        exact h _
      · rw [actOf_updAct_other e]
  sleeves v := by rw [sleeveOf, updAct_sleeves, ← sleeveOf]

/-- An update of a sleeve's current modes. -/
theorem updSleeve {f : Sleeve → Sleeve} (h : ∀ y, f y = { y with modes := (f y).modes, badModes := (f y).badModes }) (s : State) (v : Nat) :
    OnlySent s (updSleeve s v f) where
  rest := by
    unfold Machine.updSleeve
    split <;> rfl
  parts p := by rw [partOf, updSleeve_parts, ← partOf]
  acts a := by rw [actOf, updSleeve_acts, ← actOf]
  sleeves w := by
    unfold Machine.updSleeve
    split
    next x hx =>
      by_cases e : w = v
      · subst e
        simpa [sleeveOf, lookupD, hx] using h x
      · simp [sleeveOf, lookupD_insertAt_other, e]
    next => rfl

theorem modeEffect (s : State) (v : Nat) (blk : Word) (node : Nat) (t : TokVal) : OnlySent s (modeEffect s v blk node t) := by
  have both {f : Sleeve → Sleeve} (h : ∀ y, f y = { y with modes := (f y).modes, badModes := (f y).badModes }) :
      OnlySent s (Machine.updSleeve (Machine.updSleeve s v f) (sleeveOf s v).liner f) := (updSleeve h s v).trans (updSleeve h _ _)
  exact .ite (refl s) (.ite (both fun _ => rfl) (.ite (both fun _ => rfl) (.ite (dead s _ 1) (both fun _ => rfl))))

theorem modeToken (s : State) (v a : Nat) (blk : Word) (node : Nat) (t : TokVal) : OnlySent s (modeToken s v a blk node t) :=
  .ite (modeEffect s v blk node _) (updAct (fun _ => rfl) s a)

theorem sendUnder (s : State) (f : Firing) (t : Target) (blk u : Word) (made : TagOp) (v : TokVal) :
    OnlySent s (sendUnder s f t blk u made v) := by
  unfold Machine.sendUnder
  dsimp only
  split
  next => exact dead s _ 1
  next => exact dead s _ 1
  next => exact dead s _ 1
  all_goals
    split
    · exact refl s
    · exact .ite (dead s _ 1) (launch s _)
    all_goals
      refine .ite (refl s) ?_
      split
      · exact .ite (modeToken s _ _ _ _ _) (launch s _)
      · exact launch s _

/-- The loop rules of a target made by no iteration: a popped token marks its activation. -/
theorem loopRules (s : State) (f : Firing) (t : Target) (blk : Word) {made : TagOp} (wave : made ≠ .wave) (push : made ≠ .push)
    (counted : Option Nat) : OnlySent s (loopRules s f t blk made counted).2 := by
  cases made
  case wave => exact absurd rfl wave
  case push => exact absurd rfl push
  case pop => exact updAct (fun _ => rfl) s f.act
  all_goals exact refl s

theorem sendTarget (s : State) {f : Firing} (t : Target) (v : TokVal) (wave : f.com.tg ≠ .wave) (push : f.com.tg ≠ .push) :
    OnlySent s (sendTarget s f t v) := by
  unfold Machine.sendTarget
  split
  · exact refl s
  · cases target : targetTag f t with
    | none => exact refl s
    | some r =>
      obtain ⟨u, made⟩ := r
      have unlooped {op : TagOp} (other : f.com.tg ≠ op) (kept : op ≠ .keep) : made ≠ op := by
        rcases targetTag_made target with rfl | rfl
        · exact other
        · exact kept.symm
      have rules := loopRules s f t (farBlock f.blk f.ofs) (unlooped wave (by decide)) (unlooped push (by decide)) none
      exact .ite (rules.trans (sendUnder _ _ _ _ _ _ _)) rules

theorem sendBoth (s : State) {f : Firing} (v : TokVal) (wave : f.com.tg ≠ .wave) (push : f.com.tg ≠ .push) :
    OnlySent s (sendBoth s f v) :=
  .ite (sendTarget s _ v wave push) ((sendTarget s _ v wave push).trans (sendTarget _ _ v wave push))

end OnlySent

end Sys2Proof.Claims

namespace Sys2Proof.Machine

open Sys2Proof

/-- Settles O5: a form that computes ends in sending its value, which changes nothing else. -/
theorem pureFrame : Obligations.PureFrame := by
  unfold Obligations.PureFrame Claims.PureFrame
  rintro mk form r s ⟨unpoisoned, full, legal⟩ wave push
  obtain ⟨val, fires⟩ := (pureForms_fire mk form).fires r s
  have sent : Claims.OnlySent s (fireG s r val) := by
    rw [fireG_acts unpoisoned full legal]
    exact (Claims.OnlySent.begin s r.c r.lit).trans (.sendBoth _ _ wave push)
  exact ⟨_, fires, sent, sent.sameMemory⟩

end Sys2Proof.Machine
end

section
/-! PROOFS. The dataflow forms (R33, R359, R385, R387, R403 to R405, R442, R443). -/

namespace Sys2Proof.Machine

open Sys2Proof

/-- A copying form without poison or null beside A sends A, which may itself be poisoned (R33). -/
theorem copyForm_copies {s : State} {r : GRec} {x : TokVal} {kills void : Firing → Bool} (a : s.cur.a = some x)
    (unkilled : kills (begin s r.c r.lit).cur = false) (full : void (begin s r.c r.lit).cur = false) (carries : x.poi = true ∨ x.kind ≠ .null)
    (legal : tagFaults (begin s r.c r.lit).cur = false) : copyForm s r kills void = Claims.sent s r.c r.lit x := by
  have opA : opA (begin s r.c r.lit).cur = x := by simp [Machine.opA, begin, a]
  have sends : (!x.poi && (x.kind == .null || void (begin s r.c r.lit).cur)) = false := by
    rcases carries with h | h <;> simp [h, full]
  unfold copyForm
  simp only [unkilled, opA, sends, legal]
  rfl

/-- A firing of a clean set of operands sends its value. -/
theorem firePure_clean {s : State} {c : Common} {ofs : BitVec 32} (clean : Claims.Clean s c ofs) (val : Firing → TokVal) :
    firePure s c ofs val = Claims.sent s c ofs (val (begin s c ofs).cur) :=
  fire_acts clean.1 clean.2.1 clean.2.2

theorem tags_clean {s : State} {r : GRec} {x y : TokVal} (clean : Claims.Clean s r.c r.lit) (a : s.cur.a = some x) (b : s.cur.b = some y) :
    exec (.tags r) s = .next (if 6 ≤ tagDepth y.word then raise (begin s r.c r.lit) s.cur.act s.cur.node { cls := .tagDepth }
      else sendTagged (sendTagged (begin s r.c r.lit) (begin s r.c r.lit).cur r.c.t0 (cleanTag y.word) x)
        (begin s r.c r.lit).cur r.c.t1 (cleanTag y.word) x) := by
  obtain ⟨unpoisoned, full, -⟩ := clean
  have named : isNull (begin s r.c r.lit).cur.b = false := by
    simp only [anyNull, Bool.or_eq_false_iff] at full
    exact full.1.1.2
  have tag : opWord (begin s r.c r.lit).cur.b = y.word := by simp [begin, b, opWord]
  have value : opA (begin s r.c r.lit).cur = x := by simp [opA, begin, a]
  show Host.Outcome.next _ = _
  simp only [anyPoisoned_begin, anyNull_begin, unpoisoned, full, named, tag, value]
  rfl

/-- Settles O6: each form is a firing or a copy, and TAGS a firing with two targets of its own. -/
theorem dataflowForms : Obligations.DataflowForms := by
  unfold Obligations.DataflowForms Claims.DataflowForms
  intro r s x
  refine ⟨fun a unpoisoned full carries legal => ⟨?mov, fun unpoisonedB fullB => ?gate⟩, fun clean => ⟨?null, ?tagr, ?tags, ?tagsFault⟩,
    fun clean => ⟨?movi, ?join, fun a => ?comb⟩⟩
  case mov => exact congrArg _ (copyForm_copies a unpoisoned full carries legal)
  case gate =>
    refine congrArg _ (copyForm_copies a ?_ ?_ carries legal)
    · show (isPoisoned s.cur.b || isPoisoned s.cur.p) = false
      simp [unpoisoned, unpoisonedB]
    · show (isNull s.cur.b || isNull s.cur.p) = false
      simp [full, fullB]
  case null => exact congrArg _ (firePure_clean clean _)
  case tagr => exact congrArg _ (firePure_clean clean _)
  case tags =>
    intro y a b legal
    rw [tags_clean clean a b, if_neg (by omega)]
  case tagsFault =>
    intro y a b deep
    rw [tags_clean clean a b, if_pos deep]
  case movi => exact congrArg _ (firePure_clean clean _)
  case join =>
    refine congrArg _ ((firePure_clean clean _).trans ?_)
    have count : BitVec.ofNat 64 (r.lit.toNat % 65536) = (r.lit.setWidth 16).setWidth 64 := by
      apply BitVec.eq_of_toNat_eq
      simp
    rw [count]
  case comb =>
    refine congrArg _ ((firePure_clean clean _).trans ?_)
    simp [opA, begin, a]

end Sys2Proof.Machine
end

section
/-! PROOFS. The exit forms (R64, R68, R70, R373, R375): the exit that is produced, its faults, and what a wrong prediction squashes. -/

namespace Sys2Proof.Machine

open Sys2Proof

/-- What an update keeps of every activation, it keeps of each that is read back. -/
theorem actOf_updAct_keeps {β : Type} (g : Act → β) {f : Act → Act} (h : ∀ x, g (f x) = g x) (s : State) (a b : Nat) :
    g (actOf (updAct s a f) b) = g (actOf s b) := by
  cases listed : lookup s.acts a with
  | none => rw [updAct_unlisted listed]
  | some x =>
    by_cases e : b = a
    · rw [e, actOf_updAct_same (by simp [listed]), h]
    · rw [actOf_updAct_other e]

theorem fireExit_poisoned {s : State} {r : CRec} {body : Firing → State → State} (h : anyPoisoned s.cur = true) :
    fireExit s r body = raise (begin s r.c r.bofs) s.cur.act s.cur.node { cls := .poison } := by
  simp only [fireExit, anyPoisoned_begin, h]
  rfl

theorem fireExit_null {s : State} {r : CRec} {body : Firing → State → State} (unpoisoned : anyPoisoned s.cur = false)
    (null : anyNull s.cur = true) : fireExit s r body = begin s r.c r.bofs := by
  simp [fireExit, unpoisoned, null]

theorem fireExit_acts {s : State} {r : CRec} {body : Firing → State → State} (unpoisoned : anyPoisoned s.cur = false)
    (full : anyNull s.cur = false) : fireExit s r body = body (begin s r.c r.bofs).cur (begin s r.c r.bofs) := by
  simp [fireExit, unpoisoned, full]

/-- A second exit, or a number at or above the header's count (R64, R373). -/
theorem takeExit_faults {s : State} {f : Firing} {exn : Nat} (dst : ExitTo)
    (h : (actOf s f.act).exits ≠ [] ∨ imgXcnt (actOf s f.act).image ≤ exn) :
    takeExit s f exn dst = raise s f.act f.node { cls := .blockShape } := by
  have wrong : (!(actOf s f.act).exits.isEmpty || decide (imgXcnt (actOf s f.act).image ≤ exn)) = true := by
    rcases h with h | h <;> simp [h]
  unfold takeExit
  dsimp only
  rw [if_pos wrong]

/-- The state once an activation has produced an exit. -/
def withExit (s : State) (f : Firing) (exn : Nat) (dst : ExitTo) : State :=
  updAct s f.act fun x => { x with exits := [(exn, f.node, dst)] }

theorem laterInThread_withExit (s : State) (f : Firing) (exn : Nat) (dst : ExitTo) (x : Act) :
    laterInThread (withExit s f exn dst) x = laterInThread s x := by
  have threads : threadOf (withExit s f exn dst) x.part x.tag = threadOf s x.part x.tag := by
    simp [threadOf, withExit]
  have seq (b : Nat) : (actOf (withExit s f exn dst) b).seq = (actOf s b).seq := actOf_updAct_keeps Act.seq (fun _ => by rfl) _ _ _
  unfold laterInThread
  rw [threads]
  exact List.filter_congr fun b _ => by rw [seq]

section FirstExit

variable {s : State} {f : Firing} {exn : Nat} (first : (actOf s f.act).exits = []) (fits : exn < imgXcnt (actOf s f.act).image)

include first fits

theorem firstExit_right : ¬(!(actOf s f.act).exits.isEmpty || decide (imgXcnt (actOf s f.act).image ≤ exn)) = true := by
  simp [first, fits]

/-- A first exit while nothing later has started is kept. -/
theorem takeExit_alone (dst : ExitTo) (alone : laterInThread s (actOf s f.act) = []) : takeExit s f exn dst = withExit s f exn dst := by
  have later := (laterInThread_withExit s f exn dst (actOf s f.act)).trans alone
  unfold takeExit
  dsimp only
  rw [if_neg (firstExit_right first fits)]
  unfold withExit at later ⊢
  simp only [later, ite_self]

variable {b : Nat} {l : List Nat} (original : (actOf s f.act).isTwin = false) (later : laterInThread s (actOf s f.act) = b :: l)

include original later

/-- A first exit to the block of the successor that was predicted, from an activation that has entered no loop, is kept (R70). -/
theorem takeExit_predicted {k : Word} (unpushed : (actOf s f.act).pushed = none) (right : (actOf s b).blk = k) :
    takeExit s f exn (.block k) = withExit s f exn (.block k) := by
  have still := (laterInThread_withExit s f exn (.block k) (actOf s f.act)).trans later
  have blk : (actOf (withExit s f exn (.block k)) b).blk = k := (actOf_updAct_keeps Act.blk (fun _ => by rfl) _ _ _).trans right
  unfold takeExit
  dsimp only
  rw [if_neg (firstExit_right first fits)]
  unfold withExit at still blk ⊢
  simp only [still, original, blk, unpushed]
  simp

/-- A first exit to anywhere but the block of the successor that was predicted squashes it and all later ones (R70). -/
theorem takeExit_mispredicted (dst : ExitTo) (wrong : dst ≠ .block (actOf s b).blk) :
    takeExit s f exn dst = squash (withExit s f exn dst) (b :: l) (actOf s f.act).part := by
  have still := (laterInThread_withExit s f exn dst (actOf s f.act)).trans later
  have blk : (actOf (withExit s f exn dst) b).blk = (actOf s b).blk := actOf_updAct_keeps Act.blk (fun _ => by rfl) _ _ _
  unfold takeExit
  dsimp only
  rw [if_neg (firstExit_right first fits)]
  unfold withExit at still blk ⊢
  simp only [still, original]
  cases dst with
  | block k =>
    have other : ((actOf s b).blk == k) = false := by simpa using fun e => wrong (by rw [e])
    simp [blk, other]
  | endIteration => simp
  | leave => simp
  | endColour => simp
  | ret => simp

end FirstExit

/-! ## Each form -/

/-- A firing of an exit form that has a check of its own, and else produces the exit of its number. -/
def exitFiring (s : State) (r : CRec) (bad : Firing → Bool) (dst : Firing → ExitTo) : State :=
  fireExit s r fun f s => if bad f then raise s f.act f.node { cls := .blockShape } else takeExit s f r.exn.toNat (dst f)

/-- An address that is no multiple of 16,384 (R375). -/
def unaligned (f : Firing) : Bool := decide ((opWord f.a).toNat % 16384 ≠ 0)

theorem exec_exitB (r : CRec) (s : State) : exec (.exitB r) s = .next (exitFiring s r (fun _ => false) fun f => .block (farBlock f.blk r.bofs)) := rfl
theorem exec_exitEoi (r : CRec) (s : State) : exec (.exitEoi r) s = .next (exitFiring s r (fun _ => false) fun _ => .endIteration) := rfl
theorem exec_exitLeave (r : CRec) (s : State) : exec (.exitLeave r) s = .next (exitFiring s r (fun _ => false) fun _ => .leave) := rfl
theorem exec_exitEoc (r : CRec) (s : State) : exec (.exitEoc r) s = .next (exitFiring s r (fun _ => false) fun _ => .endColour) := rfl
theorem exec_exitx (r : CRec) (s : State) : exec (.exitx r) s = .next (exitFiring s r unaligned fun f => .block (opWord f.a)) := by
  simp only [exitFiring, unaligned, decide_eq_true_eq]
  rfl

theorem exit_fires : ∀ mk ∈ [Instr.exitB, .exitEoi, .exitLeave, .exitEoc, .exitx], ∀ (r : CRec) (s : State),
    ∃ bad dst, exec (mk r) s = .next (exitFiring s r bad dst) := by
  simp only [List.forall_mem_cons, List.not_mem_nil, false_implies, implies_true, and_true]
  exact ⟨fun r s => ⟨_, _, exec_exitB r s⟩, fun r s => ⟨_, _, exec_exitEoi r s⟩, fun r s => ⟨_, _, exec_exitLeave r s⟩,
    fun r s => ⟨_, _, exec_exitEoc r s⟩, fun r s => ⟨_, _, exec_exitx r s⟩⟩

theorem exited_eq (s : State) (r : CRec) (dst : ExitTo) :
    Claims.exited s r dst = withExit (begin s r.c r.bofs) (begin s r.c r.bofs).cur r.exn.toNat dst := by
  rfl

/-- A begun firing is of the same activation, which reads the same. -/
theorem actOf_begun (s : State) (c : Common) (ofs : BitVec 32) : actOf (begin s c ofs) (begin s c ofs).cur.act = actOf s s.cur.act := by
  rfl

section Acts

variable {s : State} {r : CRec} {bad : Firing → Bool} {dst : Firing → ExitTo} (unpoisoned : anyPoisoned s.cur = false) (full : anyNull s.cur = false)

include unpoisoned full

theorem exitFiring_acts (fine : bad (begin s r.c r.bofs).cur = false) : exitFiring s r bad dst =
    takeExit (begin s r.c r.bofs) (begin s r.c r.bofs).cur r.exn.toNat (dst (begin s r.c r.bofs).cur) := by
  rw [exitFiring, fireExit_acts unpoisoned full, fine]
  rfl

theorem exitFiring_bad (wrong : bad (begin s r.c r.bofs).cur = true) :
    exitFiring s r bad dst = raise (begin s r.c r.bofs) s.cur.act s.cur.node { cls := .blockShape } := by
  rw [exitFiring, fireExit_acts unpoisoned full, wrong]
  rfl

/-- A form that produces the first exit of an activation whose thread has no later one. -/
theorem exitFiring_alone (first : (actOf s s.cur.act).exits = []) (fits : r.exn.toNat < imgXcnt (actOf s s.cur.act).image)
    (alone : laterInThread s (actOf s s.cur.act) = []) (fine : bad (begin s r.c r.bofs).cur = false) :
    exitFiring s r bad dst = Claims.exited s r (dst (begin s r.c r.bofs).cur) := by
  rw [exitFiring_acts unpoisoned full fine, exited_eq]
  rw [← actOf_begun] at first fits alone
  exact takeExit_alone first fits _ alone

/-- A second exit, or a number at or above the header's count. -/
theorem exitFiring_faults (wrong : (actOf s s.cur.act).exits ≠ [] ∨ imgXcnt (actOf s s.cur.act).image ≤ r.exn.toNat) :
    exitFiring s r bad dst = raise (begin s r.c r.bofs) s.cur.act s.cur.node { cls := .blockShape } := by
  cases h : bad (begin s r.c r.bofs).cur with
  | true => exact exitFiring_bad unpoisoned full h
  | false =>
    rw [exitFiring_acts unpoisoned full h]
    exact takeExit_faults _ wrong

end Acts

/-- Settles O12: the exit forms differ in where their exit goes, and EXITX has one check of its own. -/
theorem exitForms : Obligations.ExitForms := by
  unfold Obligations.ExitForms Claims.ExitForms Claims.ExitFaults
  refine ⟨?forms, ?faults⟩
  case forms =>
    intro r s unpoisoned full x first fits alone
    rw [exec_exitB, exec_exitEoi, exec_exitLeave, exec_exitEoc, exec_exitx]
    refine ⟨congrArg _ ?_, congrArg _ ?_, congrArg _ ?_, congrArg _ ?_, fun aligned => congrArg _ ?_⟩
    · exact exitFiring_alone unpoisoned full first fits alone rfl
    · exact exitFiring_alone unpoisoned full first fits alone rfl
    · exact exitFiring_alone unpoisoned full first fits alone rfl
    · exact exitFiring_alone unpoisoned full first fits alone rfl
    · exact exitFiring_alone unpoisoned full first fits alone (decide_eq_false (not_not_intro aligned))
  case faults =>
    intro mk form r s b
    obtain ⟨bad, dst, fires⟩ := exit_fires mk form r s
    rw [fires, exec_exitx]
    refine ⟨fun poisoned => congrArg _ ?_, fun unpoisoned null => congrArg _ ?_, fun unpoisoned full wrong => congrArg _ ?_,
      fun unpoisoned full skew => congrArg _ ?_⟩
    · exact fireExit_poisoned poisoned
    · exact fireExit_null unpoisoned null
    · exact exitFiring_faults unpoisoned full wrong
    · exact exitFiring_bad unpoisoned full (decide_eq_true skew)

/-- R70: what the exit of an activation does to a successor that has started. -/
theorem mispredict : Claims.Mispredict := by
  unfold Claims.Mispredict
  intro r s b l unpoisoned full x dst first fits original _ later
  rw [exec_exitB, exec_exitEoc, exitFiring_acts unpoisoned full rfl, exitFiring_acts unpoisoned full rfl, exited_eq, exited_eq]
  simp only [x] at first fits original later ⊢
  rw [← actOf_begun s r.c r.bofs] at first fits original later ⊢
  refine ⟨fun right unpushed => congrArg _ ?_, fun wrong => congrArg _ ?_, congrArg _ ?_⟩
  · exact takeExit_predicted first fits original later unpushed right
  · exact takeExit_mispredicted first fits original later _ fun e => wrong (ExitTo.block.inj e).symm
  · exact takeExit_mispredicted first fits original later _ (by simp)

end Sys2Proof.Machine
end

section
/-! PROOFS. Threads and the activations that come into being in them (R43, R44, R67, R68), and the predictor (R68, R104). -/

namespace Sys2Proof.Machine

open Sys2Proof

/-! ## Threads -/

theorem threadOf_putThread_same {s : State} {h : Thread} (open' : h.ended = false) : threadOf (putThread s h) h.part h.tag = h := by
  simp [threadOf, putThread, open']

/-- The thread of a tag has that tag and has not ended. -/
theorem threadOf_keyed (s : State) (p : Nat) (tag : Word) :
    (threadOf s p tag).part = p ∧ (threadOf s p tag).tag = tag ∧ (threadOf s p tag).ended = false := by
  unfold threadOf
  cases found : s.threads.find? fun h => h.part == p && h.tag == tag && !h.ended with
  | none => exact ⟨rfl, rfl, rfl⟩
  | some h => simpa [and_assoc] using List.find?_some found

/-! ## Activations that come into being -/

/-- The activation that a thread gains at its end. -/
def newAct (s : State) (p : Nat) (tag blk : Word) (st : ActState) (creator awaits : Nat) : Act :=
  let h := threadOf s p tag
  let k := colourKey p (tagColour tag)
  let c := colourOf s k
  { part := p, sleeve := c.sleeve, colour := k, serial := c.serial, tag := tag, blk := blk, st := st, seq := h.next,
    loop := h.loop, iter := h.iter, pred := h.acts.getLastD 0, creator := creator, awaits := awaits }

/-- A thread with one more activation at its end. -/
def grown (s : State) (p : Nat) (tag : Word) : Thread :=
  { threadOf s p tag with acts := (threadOf s p tag).acts ++ [s.ids], next := (threadOf s p tag).next + 1 }

section AddAct

variable {s : State} {p : Nat} {tag blk : Word} {st : ActState} {creator awaits : Nat}

theorem addAct_eq : addAct s p tag blk st creator awaits = (s.ids, putThread
    { s with ids := s.ids + 1, acts := insertAt s.acts s.ids (newAct s p tag blk st creator awaits) } (grown s p tag)) := by
  rfl

theorem addAct_actOf_same : actOf (addAct s p tag blk st creator awaits).2 s.ids = newAct s p tag blk st creator awaits := by
  simp [addAct_eq, actOf]

theorem addAct_actOf_other {b : Nat} (other : b ≠ s.ids) : actOf (addAct s p tag blk st creator awaits).2 b = actOf s b := by
  simp [addAct_eq, actOf, lookupD_insertAt_other, other]

theorem addAct_threadOf_same : threadOf (addAct s p tag blk st creator awaits).2 p tag = grown s p tag := by
  obtain ⟨part, tag', open'⟩ := threadOf_keyed s p tag
  rw [addAct_eq]
  have := threadOf_putThread_same (s := { s with ids := s.ids + 1, acts := insertAt s.acts s.ids (newAct s p tag blk st creator awaits) })
    (h := grown s p tag) open'
  simpa [grown, part, tag'] using this

theorem addAct_rest : (addAct s p tag blk st creator awaits).2 = { s with
    ids := s.ids + 1, acts := (addAct s p tag blk st creator awaits).2.acts, threads := (addAct s p tag blk st creator awaits).2.threads } := by
  simp [addAct_eq, putThread]

end AddAct

/-! ## The predictor -/

/-- R53, R68: the predictor starts one successor at the end of a thread that no exit has ended yet. -/
theorem predictSuccessor_adds {s : State} {a : Nat} {blk : Word} (alive : actLive (actOf s a) = true) (original : (actOf s a).isTwin = false)
    (last : (threadOf s (actOf s a).part (actOf s a).tag).acts.getLast? = some a)
    (few : (threadOf s (actOf s a).part (actOf s a).tag).acts.length ≤ 3) (exitless : (actOf s a).exits = []) (unpushed : (actOf s a).pushed = none)
    (flat : entersNoLoop s (actOf s a) = true) (unheld : (actOf s a).st ≠ .held) (running : (partOf s (actOf s a).part).pstate = .running)
    (free : (colourOf s (actOf s a).colour).held = false) :
    exec (.predictSuccessor a blk) s = .next (addAct s (actOf s a).part (actOf s a).tag blk .predicted 0 0).2 := by
  refine congrArg Host.Outcome.next ?_
  have waits : ((actOf s a).st == .held) = false := by simpa using unheld
  simp [alive, original, last, few, exitless, unpushed, flat, waits, running, free]

/-- R104, R284: an image that reads well and passes verification is kept. -/
theorem imagePrefetch_keeps {s t : State} {v n : Nat} {blk : Word} {poi : List Bool} (may : prefetchable s v blk = true)
    (running : (partOf s (sleeveOf s v).part).pstate = .running)
    (got : agentSectors s (sleeveTlb s v) (sleeveOf s v).part (supervisor s (sleeveOf s v).part) .fetch blk false 64 = .ok n poi t)
    (clean : ∀ b ∈ poi, b = false) (fine : verify (BitVec.ofNat 16384 n) blk (usable s 0) = none) :
    exec (.imagePrefetch v blk) s = .next { t with prefetched := t.prefetched ++ [(v, blk, BitVec.ofNat 16384 n)] } := by
  refine congrArg Host.Outcome.next ?_
  have allClean : poi.any id = false := by simpa using clean
  simp [may, running, got, allClean, fine]

theorem prediction : Claims.Prediction := by
  unfold Claims.Prediction
  constructor
  · intro s a blk x h alive original last few exitless unpushed flat unheld running free
    refine ⟨_, predictSuccessor_adds alive original last few exitless unpushed flat unheld running free, ?_⟩
    rw [addAct_threadOf_same, addAct_actOf_same]
    refine ⟨rfl, rfl, rfl, rfl, ?_, rfl, fun b => addAct_actOf_other, addAct_rest⟩
    simp [newAct, h, x, last]
  · intro s t v n blk poi p may running got clean fine
    exact imagePrefetch_keeps may running got clean fine

/-- Settles O13: the predictor's two events, and the exit that meets a successor which has started. -/
theorem predictionAndMispredict : Obligations.PredictionAndMispredict :=
  ⟨prediction, mispredict⟩

end Sys2Proof.Machine
end

section
/-! PROOFS. A far token of a twin (R304). -/

namespace Sys2Proof.Machine

open Sys2Proof

/-- A live twin sends to its own block alone: nothing leaves it for another block (R304). -/
theorem sendTarget_far_twin {s : State} {f : Firing} (alive : actLive (actOf s f.act) = true) (twin : (actOf s f.act).isTwin = true)
    (keeps : f.com.tg = .keep) (k : BitVec 7) (p : Port) (g : Bool) (v : TokVal) : sendTarget s f (.far k p g) v = s := by
  have tag : targetTag f (.far k p g) = some (f.tag, .keep) := by
    cases g <;> simp [targetTag, Target.tga, keeps, applyTag]
  unfold sendTarget
  rw [tag]
  cases st : (actOf s f.act).st with
  | held | predicted | running | parked | complete => simp [loopRules, sendUnder, st, twin]
  | committed | squashed | killed | faulted => simp [actLive, st] at alive

/-- A state with one activation, a twin that runs. -/
def oneTwin : State := { acts := [(1, { st := .running, isTwin := true })] }

/-- Refutes O4: the far token that the twin of `oneTwin` sends to a live block does not enter the network, for a twin sends nothing out of its
block (R304), and the statement leaves twins in. -/
theorem not_tagsAndTargets : ¬ Obligations.TagsAndTargets := by
  unfold Obligations.TagsAndTargets Claims.TokenSent
  rintro ⟨-, h⟩
  obtain ⟨-, -, far, -⟩ := h oneTwin { act := 1 } nullTok 0 .a 0 rfl rfl (by decide) rfl
  obtain ⟨n, sent, -⟩ := far false
  have grew := congrArg (fun s : State => s.net.length) ((sendTarget_far_twin (by rfl) (by rfl) rfl 0 .a false nullTok).symm.trans sent)
  simp at grew

end Sys2Proof.Machine
end

section
/-! PROOFS. The creation of colours (R37 to R40, R353, R361, R422): a free number, a place in the home quad, and the root thread. -/

namespace Sys2Proof.Machine

open Sys2Proof

/-! ## A free number -/

/-- Of more candidates than are in use, all different, one is free. -/
theorem find?_unused {used l : List Nat} (distinct : l.Nodup) (more : used.length < l.length) :
    ∃ n, (l.find? fun n => !used.contains n) = some n ∧ n ∈ l ∧ n ∉ used := by
  cases found : l.find? fun n => !used.contains n with
  | some n => exact ⟨n, rfl, List.mem_of_find?_eq_some found, by simpa using List.find?_some found⟩
  | none =>
    have inUse : l ⊆ used := fun n hn => by simpa using List.find?_eq_none.mp found n hn
    exact absurd (List.subperm_of_subset distinct inUse).length_le (not_le.mpr more)

/-- Up to `m` numbers that follow one another modulo `m` are all different. -/
theorem nodup_cyclic (i m n : Nat) (fits : n ≤ m) : ((List.range n).map fun j => (i + j) % m).Nodup := by
  refine List.Nodup.map_on (fun j hj k hk same => ?_) List.nodup_range
  rw [List.mem_range] at hj hk
  have same' : j ≡ k [MOD m] := Nat.ModEq.add_left_cancel' i same
  rwa [Nat.ModEq, Nat.mod_eq_of_lt (by omega), Nat.mod_eq_of_lt (by omega)] at same'

/-- R37: while a partition has a number left, one is taken, and nothing but a free choice is spent. -/
theorem takeNumber_some {s : State} {p : Nat} (left : (s.colours.filter fun x => x.2.part == p).length < 65535) :
    ∃ n, takeNumber s p = (some n, { s with free := s.free + 1 }) ∧ (1 ≤ n ∧ n ≤ 65535) ∧ ∀ x ∈ s.colours, x.2.part = p → x.2.num ≠ n := by
  unfold takeNumber
  dsimp only [choose]
  generalize Config.pick s.free % 65535 = i
  generalize inUse : (s.colours.filter fun x => x.2.part == p).map (·.2.num) = used
  have few : used.length < 65535 := by rw [← inUse, List.length_map]; exact left
  have distinct : ((List.range (used.length + 1)).map fun j => (i + j) % 65535 + 1).Nodup := by
    have := (nodup_cyclic i 65535 (used.length + 1) few).map (f := (· + 1)) (fun _ _ => Nat.succ.inj)
    rwa [List.map_map] at this
  obtain ⟨n, found, among, unused⟩ := find?_unused (used := used) distinct (by simp)
  refine ⟨n, by rw [found], ?_, fun x hx hp e => unused ?_⟩
  · obtain ⟨j, -, rfl⟩ := List.mem_map.mp among
    omega
  · rw [← inUse]
    exact List.mem_map.mpr ⟨x, List.mem_filter.mpr ⟨hx, by simpa using hp⟩, e⟩

/-! ## A place -/

/-- A filter that a new entry does not pass keeps no more entries than before. -/
theorem filter_insertAt_sublist {α : Type} {q : Nat × α → Bool} {k : Nat} {v : α} (off : q (k, v) = false) (m : Map α) :
    ((insertAt m k v).filter q).Sublist (m.filter q) := by
  induction m with
  | nil => simp [insertAt, off]
  | cons e m ih =>
    obtain ⟨j, u⟩ := e
    unfold insertAt
    split
    · rw [List.filter_cons_of_neg (by simp [off])]
    · split
      · rw [List.filter_cons_of_neg (by simp [off])]
        exact (List.sublist_cons_self _ _).filter _
      · by_cases h : q (j, u) = true
        · rw [List.filter_cons_of_pos h, List.filter_cons_of_pos h]
          exact ih.cons_cons _
        · rw [List.filter_cons_of_neg h, List.filter_cons_of_neg h]
          exact ih

/-- The colours of a home quad that wait. -/
theorem waitingColours_nil {s : State} {v q : Nat} : waitingColours s v q = [] ↔
    (s.colours.filter fun x => (x.2.st == .spilled || x.2.st == .queued) && x.2.sleeve == v && homeQuad (sleeveOf s v) x.2.num == q) = [] := by
  unfold waitingColours
  generalize s.colours.filter _ = l
  refine ⟨fun h => ?_, fun h => by rw [h]; rfl⟩
  rcases List.eq_nil_or_concat l with e | ⟨l, x, e⟩
  · exact e
  · rw [e, List.concat_eq_append, List.foldl_append] at h
    simp at h

/-- A colour whose home quad has a free entry, for which nothing waits, becomes resident and changes nothing else (R39). -/
theorem placeColour_room {s : State} {k : Nat} {c : Colour} {waits : ColourState} (listed : lookup s.colours k = some c) (new : c.inArea = false)
    (few : (residents s c.sleeve (homeQuad (sleeveOf s c.sleeve) c.num)).length < 64)
    (none' : waitingColours s c.sleeve (homeQuad (sleeveOf s c.sleeve) c.num) = []) :
    placeColour s k waits = some { s with colours := insertAt s.colours k { c with st := .resident, active := s.cycle, slot := 0, inArea := false } } := by
  have read : colourOf s k = c := by simp [colourOf, lookupD, listed]
  have fits : ((residents s c.sleeve (homeQuad (sleeveOf s c.sleeve) c.num)).filter fun x => x.1 != k).length < 64 :=
    (List.length_filter_le _ _).trans_lt few
  unfold placeColour
  simp only [read, fillEntries, none', List.take_nil, List.foldl_nil]
  rw [if_pos fits]
  simp [makeResident, read, new, updColour, listed]

/-- The colour that a creation gives its number. -/
def newColour (s : State) (p n : Nat) (c : Colour) : Colour :=
  { c with part := p, num := n, serial := s.ids, st := .resident, active := s.cycle, slot := 0, inArea := false }

/-- A new colour resident, with one choice and one identifier spent. -/
def withColour (s : State) (p n : Nat) (c : Colour) : State :=
  { s with free := s.free + 1, ids := s.ids + 1,
           colours := insertAt (insertAt s.colours (colourKey p n) { c with part := p, num := n, serial := s.ids, active := s.cycle })
             (colourKey p n) (newColour s p n c) }

theorem colourOf_withColour_same (s : State) (p n : Nat) (c : Colour) : colourOf (withColour s p n c) (colourKey p n) = newColour s p n c := by
  simp [colourOf, withColour]

theorem colourOf_withColour_other {s : State} {p n k : Nat} {c : Colour} (other : k ≠ colourKey p n) :
    colourOf (withColour s p n c) k = colourOf s k := by
  simp [colourOf, withColour, lookupD_insertAt_other, other]

/-- R38, R39, R40: a colour created while its home quad has a free entry, for which nothing waits, is resident. -/
theorem createColour_placed {s : State} {p n : Nat} {c : Colour} {waits : ColourState} (unplaced : c.st = .free) (new : c.inArea = false)
    (room : ∀ q, (residents s c.sleeve q).length < 64 ∧ waitingColours s c.sleeve q = []) :
    placeColour (createColour { s with free := s.free + 1 } p n c) (colourKey p n) waits = some (withColour s p n c) := by
  have few (q : Nat) := (filter_insertAt_sublist (q := fun x : Nat × Colour =>
    (x.2.st == .resident || x.2.st == .ending) && !x.2.inArea && x.2.sleeve == c.sleeve && homeQuad (sleeveOf s c.sleeve) x.2.num == q)
    (k := colourKey p n) (v := { c with part := p, num := n, serial := s.ids, active := s.cycle }) (by simp [unplaced]) s.colours).length_le
  have none' (q : Nat) := filter_insertAt_sublist (q := fun x : Nat × Colour =>
    (x.2.st == .spilled || x.2.st == .queued) && x.2.sleeve == c.sleeve && homeQuad (sleeveOf s c.sleeve) x.2.num == q)
    (k := colourKey p n) (v := { c with part := p, num := n, serial := s.ids, active := s.cycle }) (by simp [unplaced]) s.colours
  exact placeColour_room (c := { c with part := p, num := n, serial := s.ids, active := s.cycle }) (by simp [createColour, fresh]) new
    ((few _).trans_lt (room _).1)
    (waitingColours_nil.mpr (List.sublist_nil.mp (waitingColours_nil.mp (room _).2 ▸ none' _)))

/-! ## The root thread -/

theorem tagColour_rootTag {n : Nat} (small : n ≤ 65535) : tagColour (rootTag n) = n := by
  have shifted : n * 2 ^ 48 < 2 ^ 64 := by omega
  rw [tagColour, rootTag, BitVec.extractLsb'_toNat, BitVec.toNat_ofNat, Nat.mod_eq_of_lt shifted, Nat.shiftRight_eq_div_pow,
    Nat.mul_div_cancel _ (by positivity), Nat.mod_eq_of_lt (by omega)]

section StartThread

variable {s : State} {p : Nat} {tag blk : Word} {creator loop iter : Nat}

/-- The first activation of a new thread: Running when nothing created it, and else Predicted. -/
def firstAct (s : State) (p : Nat) (tag blk : Word) (creator loop iter : Nat) : Act :=
  { part := p, sleeve := (colourOf s (colourKey p (tagColour tag))).sleeve, colour := colourKey p (tagColour tag),
    serial := (colourOf s (colourKey p (tagColour tag))).serial, tag := tag, blk := blk, st := if creator = 0 then .running else .predicted,
    seq := 1, loop := loop, iter := iter, pred := 0, creator := creator }

theorem threadOf_started (s : State) (p : Nat) (tag : Word) (creator loop iter : Nat) :
    threadOf (putThread s { part := p, tag := tag, loop := loop, iter := iter, creator := creator }) p tag =
      { part := p, tag := tag, loop := loop, iter := iter, creator := creator } :=
  threadOf_putThread_same (h := { part := p, tag := tag, loop := loop, iter := iter, creator := creator }) rfl

theorem startThread_threadOf : threadOf (startThread s p tag blk creator loop iter) p tag =
    { part := p, tag := tag, acts := [s.ids], next := 2, loop := loop, iter := iter, creator := creator } := by
  unfold startThread
  rw [addAct_threadOf_same, grown, threadOf_started]
  rfl

theorem startThread_actOf_same : actOf (startThread s p tag blk creator loop iter) s.ids = firstAct s p tag blk creator loop iter := by
  refine Eq.trans (addAct_actOf_same (s := putThread s { part := p, tag := tag, loop := loop, iter := iter, creator := creator })) ?_
  rw [newAct, threadOf_started]
  rfl

theorem startThread_actOf_other {b : Nat} (other : b ≠ s.ids) : actOf (startThread s p tag blk creator loop iter) b = actOf s b :=
  addAct_actOf_other (s := putThread s { part := p, tag := tag, loop := loop, iter := iter, creator := creator }) other

theorem startThread_rest : startThread s p tag blk creator loop iter =
    { s with ids := s.ids + 1, acts := (startThread s p tag blk creator loop iter).acts,
             threads := (startThread s p tag blk creator loop iter).threads } := by
  simp [startThread, addAct_eq, putThread]

theorem startThread_colourOf (k : Nat) : colourOf (startThread s p tag blk creator loop iter) k = colourOf s k := by
  rw [startThread_rest]
  rfl

end StartThread

/-! ## The forms -/

/-- What a form adds to the colour it creates. -/
def childOf (s : State) (f : Firing) (blk : Word) (c : Colour) : Colour :=
  { c with grant := f.grant, creator := f.act, edges := edgesOf { s with free := s.free + 1 } f.act, sblk := blk, args := c.f,
           key := drawKeyOf (colourOf s (actOf s f.act).colour).key f.tag f.node (BitVec.ofNat 32 (threadOf s f.part f.tag).committed) }

/-- The colour of a form before it is created: its frame and sleeve, and no state yet. -/
structure Unmade (c : Colour) : Prop where
  unplaced : c.st = .free
  outside  : c.inArea = false
  bare     : c.w = [] ∧ c.held = false ∧ c.root = none

/-- R37, R38, R40, R44, R353: with a number left and a free entry in every home quad of the sleeve, a form creates its colour and the first
activation of its root thread, and sends the number to both targets. -/
theorem createChild_creates {s : State} {f : Firing} {blk : Word} {c : Colour} {waits : ColourState} (made : Unmade c) (acts : f.act ≠ 0)
    (left : (s.colours.filter fun x => x.2.part == f.part).length < 65535)
    (room : ∀ q, (residents s c.sleeve q).length < 64 ∧ waitingColours s c.sleeve q = []) :
    ∃ n u, createChild s f blk c waits = sendBoth u f (scalarOf (BitVec.ofNat 64 n)) ∧ Claims.Created s u f n c.sleeve blk c.f ∧
      colourOf u (colourKey f.part n) = newColour s f.part n (childOf s f blk c) := by
  obtain ⟨n, taken, range, unused⟩ := takeNumber_some left
  have placed : placeColour (createColour { s with free := s.free + 1 } f.part n (childOf s f blk c)) (colourKey f.part n) waits =
      some (withColour s f.part n (childOf s f blk c)) := createColour_placed made.unplaced made.outside room
  generalize away : withColour s f.part n (childOf s f blk c) = w at placed
  have colour : colourOf w (colourKey f.part n) = newColour s f.part n (childOf s f blk c) := by rw [← away]; exact colourOf_withColour_same ..
  have ran : createChild s f blk c waits =
      sendBoth (startThread w f.part (rootTag n) blk f.act 0 0) f (scalarOf (BitVec.ofNat 64 n)) := by
    unfold createChild
    rw [taken]
    dsimp only
    split
    next t same => rw [Option.some.inj (same.symm.trans placed)]
    next none' => exact absurd (none'.symm.trans placed) (by simp)
  have ids : w.ids = s.ids + 1 := by rw [← away]; rfl
  have key : colourKey f.part (tagColour (rootTag n)) = colourKey f.part n := by rw [tagColour_rootTag range.2]
  have acts' : w.acts = s.acts := by rw [← away]; rfl
  refine ⟨n, _, ran, ⟨range, unused, ?colour, ⟨w.ids, ?thread⟩, ?colours, ?rest⟩, ?new⟩
  case new => exact (startThread_colourOf _).trans colour
  case colour =>
    obtain ⟨empty, free, rootless⟩ := made.bare
    rw [startThread_colourOf, colour]
    exact ⟨rfl, rfl, rfl, rfl, empty, rfl, rfl, rfl, rfl, rfl, free, rootless, rfl⟩
  case thread =>
    rw [startThread_threadOf, startThread_actOf_same, firstAct, key, colour, if_neg acts]
    exact ⟨rfl, rfl, rfl, rfl, rfl, rfl, rfl, rfl, fun b other =>
      (startThread_actOf_other other).trans (congrArg (fun m => lookupD m b _) acts')⟩
  case colours =>
    intro k other
    rw [startThread_colourOf, ← away]
    exact colourOf_withColour_other other
  case rest =>
    rw [startThread_rest, ← away]
    rfl

theorem created_ofBegin {s u : State} {c : Common} {ofs : BitVec 32} {f : Firing} {n v : Nat} {blk : Word} {frame : Map Word}
    (h : Claims.Created (begin s c ofs) u f n v blk frame) : Claims.Created s u f n v blk frame :=
  ⟨h.range, h.unused, h.colour, h.thread, h.colours, h.rest⟩

/-- Settles O15: each form begins a colour that differs in its frame, its sleeve and what it keeps for its end. -/
theorem colourCreation : Obligations.ColourCreation := by
  unfold Obligations.ColourCreation Claims.ColourCreation
  intro r s clean acts left f blk room
  obtain ⟨unpoisoned, full, deep⟩ := clean
  refine ⟨fun free => ⟨?ctxa, ?call⟩, fun v named free => ?spawn⟩
  case ctxa =>
    obtain ⟨n, u, ran, made, colour⟩ := createChild_creates (s := begin s r.c r.bofs) (f := f) (blk := blk)
      (c := { f := argFrame [f.a, f.b, f.c], sleeve := f.sleeve }) (waits := .spilled) ⟨rfl, rfl, rfl, rfl, rfl⟩ acts left free
    exact ⟨n, u, congrArg _ ((fire_acts unpoisoned full deep).trans ran), created_ofBegin made, by rw [colour]; rfl⟩
  case call =>
    obtain ⟨n, u, ran, made, colour⟩ := createChild_creates (s := begin s r.c r.bofs) (f := f) (blk := blk)
      (c := { f := argFrame [f.a, f.b, f.c], sleeve := f.sleeve, called := true, rtag := f.tag, caller := f.act,
              callerKey := (actOf (begin s r.c r.bofs) f.act).colour, callerSerial := (actOf (begin s r.c r.bofs) f.act).serial })
      (waits := .spilled) ⟨rfl, rfl, rfl, rfl, rfl⟩ acts left free
    exact ⟨n, u, congrArg _ ((fire_acts unpoisoned full deep).trans ran), created_ofBegin made, by rw [colour]; exact ⟨rfl, rfl, rfl, rfl⟩⟩
  case spawn =>
    obtain ⟨n, u, ran, made, colour⟩ := createChild_creates (s := begin s r.c r.bofs) (f := f) (blk := blk)
      (c := { f := argFrame [f.b, f.c], sleeve := v, retry := (opWord f.a).getLsbD 63 }) (waits := .queued) ⟨rfl, rfl, rfl, rfl, rfl⟩ acts left free
    refine ⟨n, u, congrArg _ ((fire_acts unpoisoned full deep).trans ?_), created_ofBegin made, by rw [colour]; exact ⟨rfl, rfl⟩⟩
    rw [show spawnSleeve (begin s r.c r.bofs) (begin s r.c r.bofs).cur.sleeve (opWord (begin s r.c r.bofs).cur.a) = some v from named]
    exact ran

end Sys2Proof.Machine
end

section
/-! PROOFS. The commit of an exit from the colour, in a state that lists the number of its activation twice (R42, R66). -/

namespace Sys2Proof.Machine

open Sys2Proof

/-- An activation of colour 1 of partition 0 that has produced an exit from the colour. -/
def leavingAct (st : ActState) : Act := { colour := 1, tag := rootTag 1, st := st, seq := 1, exits := [(0, 0, .endColour)] }

/-- A resident colour whose one activation number is listed a second time, with an activation that runs. -/
def leavingTwice : State :=
  { acts := [(1, leavingAct .complete), (1, leavingAct .running)], colours := [(1, { num := 1, st := .resident })], sleeves := [(0, {})],
    parts := [(0, { pstate := .running })] }

theorem leavingTwice_plain : Claims.PlainCommit leavingTwice 1 where
  may := by decide +kernel
  fits := by decide +kernel
  flat := by decide +kernel
  plain := by decide +kernel
  colour := by decide +kernel

/-- The end of the colour squashes what is still live of it, and with it everything of that number. -/
theorem leavingTwice_squashes : (actOf (commitAct leavingTwice 1) 1).st = .squashed := by decide +kernel

/-- Refutes O29: in `leavingTwice` the end of the colour finds its activation live under the number that has just committed, and squashes it. -/
theorem not_colourLives : ¬ Obligations.ColourLives := by
  unfold Obligations.ColourLives Claims.ColourEnds
  rintro ⟨⟨h, -⟩, -⟩
  have alone : ∀ y ∈ leavingTwice.acts, y.2.colour = 1 → y.1 = 1 := by decide +kernel
  obtain ⟨t, ran, committed, -⟩ := h leavingTwice 1 0 0 leavingTwice_plain rfl rfl rfl alone (by simp [leavingTwice])
  have may : mayCommit leavingTwice 1 = true := leavingTwice_plain.may
  have commits : commitAct leavingTwice 1 = t := by
    have unarmed : (actOf leavingTwice 1).frz = none := rfl
    simpa [exec, execActivationCommit, may, unarmed] using ran
  rw [← commits, leavingTwice_squashes] at committed
  exact absurd committed (by decide)

end Sys2Proof.Machine
end

section
/-! PROOFS. What a commit does to the store buffer (R66, R148, R189): stores are released, and SPSTs enter the forwarding table of their sleeve. -/

namespace Sys2Proof.Machine

open Sys2Proof

/-! ## Program order within an activation -/

theorem pathBefore_self (s : State) (p : OrderPath) (i j : Nat) : pathBefore s p p i j = decide (i < j) := by
  induction p with
  | nil => rfl
  | cons x p ih => simp [pathBefore, ih]

/-- Of two records of one activation, the LSIDs decide which is the earlier (R182). -/
theorem precedes_self (s : State) (a i j : Nat) : precedes s a i a j = decide (i < j) := by
  simp [precedes, pathBefore_self]

theorem fenced_noFences {s : State} (none' : Claims.NoFences s) (kinds : List Nat) (a lo b hi : Nat) : fenced s kinds a lo b hi = false := by
  unfold fenced
  refine List.any_eq_false.mpr fun k _ => ?_
  simp [none' a k]

/-! ## SPSTs in LSID order -/

/-- The SPSTs are taken by ascending LSID, and none twice. -/
theorem pairwise_byLsid {l : List (Nat × Store)} (distinct : (l.map (·.1)).Nodup) :
    (byLsid l).Pairwise fun x y => x.2.lsid ≤ y.2.lsid ∧ x.1 ≠ y.1 := by
  have keys : l.Pairwise fun x y => x.1 ≠ y.1 := List.pairwise_map.mp distinct
  refine List.pairwise_flatMap.mpr ⟨fun i _ => ?_, List.pairwise_lt_range.imp fun {i j} less x hx y hy => ?_⟩
  · refine (keys.filter _).imp_of_mem fun {x y} hx hy ne => ⟨?_, ne⟩
    have ex : x.2.lsid = i := by simpa using (List.mem_filter.mp hx).2
    have ey : y.2.lsid = i := by simpa using (List.mem_filter.mp hy).2
    omega
  · obtain ⟨inx, ex⟩ := List.mem_filter.mp hx
    obtain ⟨iny, ey⟩ := List.mem_filter.mp hy
    rw [beq_iff_eq] at ex ey
    refine ⟨by omega, fun same => ?_⟩
    have : x = y := List.inj_on_of_nodup_map distinct inx iny same
    rw [this] at ex
    omega

theorem mem_byLsid {l : List (Nat × Store)} {x : Nat × Store} : x ∈ byLsid l ↔ x ∈ l ∧ x.2.lsid < 32 := by
  simp [byLsid, and_comm]

theorem length_byLsid_le {l : List (Nat × Store)} (distinct : (l.map (·.1)).Nodup) : (byLsid l).length ≤ l.length := by
  have nodup : (byLsid l).Nodup := (pairwise_byLsid distinct).imp fun h e => h.2 (by rw [e])
  exact (List.subperm_of_subset nodup fun x hx => (mem_byLsid.mp hx).1).length_le

/-! ## One SPST -/

/-- What the release of stores leaves as it is: all but the stores, the forwarding tables, and the records that stall at them. -/
def StoresOnly (s t : State) : Prop := t = { s with stores := t.stores, sleeves := t.sleeves, stalled := t.stalled, entries := t.entries }

theorem StoresOnly.refl (s : State) : StoresOnly s s := rfl

theorem StoresOnly.trans {s t u : State} (h : StoresOnly s t) (k : StoresOnly t u) : StoresOnly s u := by
  unfold StoresOnly at *
  rw [k, h]

theorem performSpst_storesOnly (s : State) (sid : Nat) (x : Store) : StoresOnly s (performSpst s sid x) := by
  unfold performSpst updSleeve
  split <;> rfl

/-- An SPST where it may be performed, and else nothing. -/
def releaseSpst (s : State) (y : Nat × Store) : State := if mayPerform s y.1 y.2 then performSpst s y.1 y.2 else s

theorem releaseSpst_storesOnly (s : State) (y : Nat × Store) : StoresOnly s (releaseSpst s y) := by
  unfold releaseSpst
  split
  · exact performSpst_storesOnly _ _ _
  · exact .refl s

theorem performSpst_stores (s : State) (sid : Nat) (x : Store) : (performSpst s sid x).stores = eraseAt s.stores sid := by
  simp [performSpst, wake]

theorem performSpst_fwd {s : State} {sid : Nat} {x : Store} (listed : (lookup s.sleeves x.sleeve).isSome = true) :
    (sleeveOf (performSpst s sid x) x.sleeve).fwd = (sleeveOf s x.sleeve).fwd ++ x.elems.map fun e => (e.va.toNat, e.width, e.pat) := by
  obtain ⟨v, hv⟩ := Option.isSome_iff_exists.mp listed
  simp [performSpst, wake, updSleeve, sleeveOf, lookupD, hv]

theorem performSpst_listed (s : State) (sid v : Nat) (x : Store) :
    (lookup (performSpst s sid x).sleeves v).isSome = (lookup s.sleeves v).isSome :=
  lookup_updSleeve_isSome _ _ _ _

/-- No store goes but those that are performed. -/
theorem releaseSpsts_stores (l : List (Nat × Store)) (s : State) :
    (∀ e ∈ (l.foldl releaseSpst s).stores, e ∈ s.stores) ∧
    ∀ e ∈ s.stores, (∀ x ∈ l, x.1 ≠ e.1) → e ∈ (l.foldl releaseSpst s).stores := by
  induction l generalizing s with
  | nil => exact ⟨fun e he => he, fun e he _ => he⟩
  | cons x l ih =>
    have one : (∀ e ∈ (releaseSpst s x).stores, e ∈ s.stores) ∧ ∀ e ∈ s.stores, x.1 ≠ e.1 → e ∈ (releaseSpst s x).stores := by
      unfold releaseSpst
      split
      · rw [performSpst_stores]
        exact ⟨fun e he => List.mem_of_mem_filter he, fun e he ne => List.mem_filter.mpr ⟨he, by simpa using fun same => ne same.symm⟩⟩
      · exact ⟨fun e he => he, fun e he _ => he⟩
    refine ⟨fun e he => one.1 e ((ih _).1 e he), fun e he off => ?_⟩
    exact (ih _).2 e (one.2 e he (off x (by simp))) fun y hy => off y (by simp [hy])

/-- A committed SPST that nothing can hold back, of the sleeve and the activation that commits. -/
structure FreeSpst (s : State) (a v : Nat) (x : Nat × Store) : Prop where
  scratch   : x.2.kind = .scratch
  own       : x.2.act = a ∧ x.2.sleeve = v
  committed : x.2.committed = true
  quiet     : x.2.parked = false ∧ x.2.stale = false ∧ x.2.rids = [] ∧ x.2.release = false
  single    : x.2.elems.length = 1
  running   : (partOf s x.2.part).pstate ≠ .frozen

/-- Nothing keeps the first of the SPSTs back when no fence stands and no SPST of a lower LSID is left (R189, R191). -/
theorem mayPerform_first {s : State} {a v : Nat} {x : Nat × Store} (free : FreeSpst s a v x) (none' : Claims.NoFences s)
    (room : (sleeveOf s v).fwd.length < 32)
    (first : ∀ y ∈ s.stores, y.2.kind = .scratch → y.2.act = a ∧ x.2.lsid ≤ y.2.lsid) : mayPerform s x.1 x.2 = true := by
  obtain ⟨parked, stale, rids, release⟩ := free.quiet
  obtain ⟨act, sleeve⟩ := free.own
  have stores : ∀ y ∈ s.stores, keepsBack s y.2 x.2 = false := by
    intro y hy
    unfold keepsBack
    rw [fenced_noFences none', release]
    by_cases scratch : y.2.kind = .scratch
    · obtain ⟨acty, le⟩ := first y hy scratch
      have : ¬y.2.lsid < x.2.lsid := by omega
      simp [acty, act, precedes_self, this]
    · simp [sameBits, scratch, free.scratch]
  have loads : ∀ o ∈ s.ops, loadKeepsBack s o.2 x.2 = false := by
    intro o _
    simp [loadKeepsBack, fenced_noFences none', release]
  have noStore : (s.stores.any fun y => y.1 != x.1 && keepsBack s y.2 x.2) = false :=
    List.any_eq_false.mpr fun y hy => by simp [stores y hy]
  have noLoad : (s.ops.any fun o => loadKeepsBack s o.2 x.2) = false := List.any_eq_false.mpr fun o ho => by simp [loads o ho]
  unfold mayPerform
  rw [noStore, noLoad]
  simp [free.committed, parked, stale, rids, free.running, sleeve, room]

/-- The SPSTs of an activation that nothing can hold back all enter the forwarding table, in order (R66, R148). -/
theorem releaseSpsts_free {a v : Nat} (l : List (Nat × Store)) (s : State) (none' : Claims.NoFences s)
    (listed : (lookup s.sleeves v).isSome = true) (free : ∀ x ∈ l, FreeSpst s a v x) (room : (sleeveOf s v).fwd.length + l.length ≤ 32)
    (order : l.Pairwise fun x y => x.2.lsid ≤ y.2.lsid ∧ x.1 ≠ y.1) (all : ∀ y ∈ s.stores, y.2.kind = .scratch → y ∈ l) :
    (∀ y ∈ (l.foldl releaseSpst s).stores, y.2.kind ≠ .scratch) ∧
    (sleeveOf (l.foldl releaseSpst s) v).fwd = (sleeveOf s v).fwd ++ l.flatMap fun y => y.2.elems.map fun e => (e.va.toNat, e.width, e.pat) := by
  induction l generalizing s with
  | nil => exact ⟨fun y hy scratch => by simpa using all y hy scratch, by simp⟩
  | cons x l ih =>
    have freeX := free x (by simp)
    obtain ⟨lowest, order⟩ := List.pairwise_cons.mp order
    rw [List.length_cons] at room
    have first : ∀ y ∈ s.stores, y.2.kind = .scratch → y.2.act = a ∧ x.2.lsid ≤ y.2.lsid := by
      intro y hy scratch
      have among := all y hy scratch
      refine ⟨(free y among).own.1, ?_⟩
      rcases List.mem_cons.mp among with e | e
      · rw [e]
      · exact (lowest y e).1
    have ran : releaseSpst s x = performSpst s x.1 x.2 := if_pos (mayPerform_first freeX none' (by omega) first)
    have rest := performSpst_storesOnly s x.1 x.2
    have acts : (performSpst s x.1 x.2).acts = s.acts := by rw [rest]
    have parts : (performSpst s x.1 x.2).parts = s.parts := by rw [rest]
    have fwd := performSpst_fwd (s := s) (sid := x.1) (x := x.2) (by rw [freeX.own.2]; exact listed)
    rw [freeX.own.2] at fwd
    rw [List.foldl_cons, ran]
    refine (ih _ ?_ ?_ ?_ ?_ order ?_).imp_right fun h => ?_
    · intro b k
      rw [show actOf (performSpst s x.1 x.2) b = actOf s b from congrArg (fun m => lookupD m b _) acts]
      exact none' b k
    · rw [performSpst_listed]
      exact listed
    · intro y hy
      have freeY := free y (by simp [hy])
      exact ⟨freeY.scratch, freeY.own, freeY.committed, freeY.quiet, freeY.single, by simpa [partOf, parts] using freeY.running⟩
    · rw [fwd, List.length_append, List.length_map, freeX.single]
      omega
    · intro y hy scratch
      rw [performSpst_stores] at hy
      obtain ⟨inS, ne⟩ := List.mem_filter.mp hy
      rcases List.mem_cons.mp (all y inS scratch) with e | e
      · simp [e] at ne
      · exact e
    · rw [h, fwd, List.flatMap_cons, List.append_assoc]

/-! ## The stores of a commit -/

/-- A store as the commit of an activation leaves it. -/
def commitStore (a : Nat) (y : Nat × Store) : Nat × Store := if y.2.act = a then (y.1, { y.2 with committed := true }) else y

theorem commitStore_keeps (a : Nat) (y : Nat × Store) :
    (commitStore a y).1 = y.1 ∧ (commitStore a y).2 = { y.2 with committed := (commitStore a y).2.committed } := by
  unfold commitStore
  split <;> simp

theorem commitStores_eq (s : State) (a : Nat) : commitStores s a =
    (byLsid (ownSpsts { s with stores := s.stores.map (commitStore a) } a)).foldl releaseSpst { s with stores := s.stores.map (commitStore a) } := by
  rfl

theorem commitStores_storesOnly (s : State) (a : Nat) : StoresOnly s (commitStores s a) := by
  rw [commitStores_eq]
  generalize byLsid _ = l
  have fold (l : List (Nat × Store)) (s : State) : StoresOnly s (l.foldl releaseSpst s) := by
    induction l generalizing s with
    | nil => exact .refl s
    | cons y l ih => exact (releaseSpst_storesOnly s y).trans (ih _)
  exact StoresOnly.trans (t := { s with stores := s.stores.map (commitStore a) }) rfl (fold l _)

/-- What an activation that may commit fulfils (R44, R66, R148), as far as its commit depends on it. -/
structure Ready (s : State) (a : Nat) : Prop where
  listed  : (lookup s.acts a).isSome = true
  running : (partOf s (actOf s a).part).pstate = .running
  still   : ∀ y ∈ s.stores, y.2.act = a → y.2.parked = false ∧ y.2.stale = false
  room    : (sleeveOf s (actOf s a).sleeve).fwd.length + (ownSpsts s a).length ≤ 32

theorem ready_of_mayCommit {s : State} {a : Nat} (may : mayCommit s a = true) : Ready s a := by
  simp only [mayCommit, Bool.and_eq_true] at may
  obtain ⟨⟨⟨⟨⟨⟨⟨⟨⟨⟨⟨listed, -⟩, -⟩, running⟩, -⟩, -⟩, -⟩, -⟩, -⟩, -⟩, quiet⟩, room⟩ := may
  refine ⟨listed, by simpa using running, fun y hy own => ?_, by simpa [tableRoom] using room⟩
  simp only [quietAct, Bool.and_eq_true] at quiet
  have still := List.any_eq_false.mp ((Bool.not_eq_true' _).mp quiet.2) y hy
  simpa [own] using still

/-- The own SPSTs of an activation, once all its stores are committed. -/
theorem ownSpsts_committed (s : State) (a : Nat) :
    ownSpsts { s with stores := s.stores.map (commitStore a) } a = (ownSpsts s a).map (commitStore a) := by
  unfold ownSpsts
  rw [List.filter_map]
  congr 1
  refine List.filter_congr fun y _ => ?_
  simp only [Function.comp]
  rw [(commitStore_keeps a y).2]

theorem byLsid_committed (a : Nat) (l : List (Nat × Store)) : byLsid (l.map (commitStore a)) = (byLsid l).map (commitStore a) := by
  unfold byLsid
  rw [List.map_flatMap]
  refine List.flatMap_congr fun i _ => ?_
  rw [List.filter_map]
  congr 1
  refine List.filter_congr fun y _ => ?_
  simp only [Function.comp]
  rw [(commitStore_keeps a y).2]

section CommitStores

/- `u` is the state in which the commit of `a` reaches the store buffer of `s`, and `w` the same with the stores of `a` committed. -/
variable {s w : State} {a : Nat} (may : mayCommit s a = true) (stores : w.stores = s.stores.map (commitStore a)) (sleeves : w.sleeves = s.sleeves)
  (parts : w.parts = s.parts)

include may stores parts in
/-- Each SPST that is plain before the commit is one that nothing can hold back after it. -/
theorem freeSpst_committed (plain : Claims.PlainSpsts s a) {y : Nat × Store} (hy : y ∈ w.stores) (kind : y.2.kind = .scratch) :
    y.2.lsid < 32 ∧ FreeSpst w a (actOf s a).sleeve y := by
  obtain ⟨z, hz, rfl⟩ := List.mem_map.mp (stores ▸ hy)
  have kindz : z.2.kind = .scratch := by rwa [(commitStore_keeps a z).2] at kind
  obtain ⟨act, release, rids, single, small, sleeve, part⟩ := plain.2 z hz kindz
  have ready := ready_of_mayCommit may
  obtain ⟨parked, stale⟩ := ready.still z hz act
  have running : (partOf w z.2.part).pstate ≠ .frozen := by
    rw [show partOf w z.2.part = partOf s z.2.part from congrArg (fun m => lookupD m _ _) parts, part, ready.running]
    decide
  rw [commitStore, if_pos act]
  exact ⟨small, kindz, ⟨act, sleeve⟩, rfl, ⟨parked, stale, rids, release⟩, single, running⟩

include stores in
theorem ownSpsts_eq : ownSpsts w a = (ownSpsts s a).map (commitStore a) := by
  rw [← ownSpsts_committed s a]
  simp only [ownSpsts, stores]

include stores in
theorem keys_committed (distinct : (s.stores.map (·.1)).Nodup) : (w.stores.map (·.1)).Nodup := by
  rw [stores, List.map_map]
  have : (fun y : Nat × Store => y.1) ∘ commitStore a = fun y => y.1 := funext fun y => (commitStore_keeps a y).1
  rwa [this]

theorem mem_ownSpsts {y : Nat × Store} : y ∈ ownSpsts w a ↔ y ∈ w.stores ∧ y.2.act = a ∧ y.2.kind = .scratch := by
  simp [ownSpsts]

include may stores sleeves parts in
/-- R148, R189: SPSTs that nothing can hold back leave the store buffer for the forwarding table. -/
theorem releaseSpsts_plain (distinct : (s.stores.map (·.1)).Nodup) (table : (lookup s.sleeves (actOf s a).sleeve).isSome = true)
    (images : ∀ b, (actOf w b).image = (actOf s b).image) (plain : Claims.PlainSpsts s a) :
    (∀ y ∈ ((byLsid (ownSpsts w a)).foldl releaseSpst w).stores, y.2.kind ≠ .scratch) ∧
    (sleeveOf ((byLsid (ownSpsts w a)).foldl releaseSpst w) (actOf s a).sleeve).fwd = (sleeveOf s (actOf s a).sleeve).fwd ++
      (byLsid (ownSpsts s a)).flatMap fun y => y.2.elems.map fun e => (e.va.toNat, e.width, e.pat) := by
  have own := ownSpsts_eq stores
  have sleeve : sleeveOf w (actOf s a).sleeve = sleeveOf s (actOf s a).sleeve := congrArg (fun m => lookupD m _ _) sleeves
  have keys : ((ownSpsts w a).map (·.1)).Nodup := (keys_committed stores distinct).sublist (List.filter_sublist.map _)
  have room : (sleeveOf w (actOf s a).sleeve).fwd.length + (byLsid (ownSpsts w a)).length ≤ 32 := by
    have few := length_byLsid_le keys
    have same : (ownSpsts w a).length = (ownSpsts s a).length := by rw [own, List.length_map]
    have fits := (ready_of_mayCommit may).room
    rw [sleeve]
    omega
  have all : ∀ y ∈ w.stores, y.2.kind = .scratch → y ∈ byLsid (ownSpsts w a) := by
    intro y hy kind
    obtain ⟨small, free⟩ := freeSpst_committed may stores parts plain hy kind
    exact mem_byLsid.mpr ⟨mem_ownSpsts.mpr ⟨hy, free.own.1, kind⟩, small⟩
  have free : ∀ y ∈ byLsid (ownSpsts w a), FreeSpst w a (actOf s a).sleeve y := by
    intro y hy
    obtain ⟨inW, -, kind⟩ := mem_ownSpsts.mp (mem_byLsid.mp hy).1
    exact (freeSpst_committed may stores parts plain inW kind).2
  obtain ⟨none', fwd⟩ := releaseSpsts_free _ w (fun b k => images b ▸ plain.1 b k) (by rw [sleeves]; exact table) free room
    (pairwise_byLsid keys) all
  refine ⟨none', ?_⟩
  rw [fwd, sleeve, own, byLsid_committed, List.flatMap_map]
  congr 1
  refine List.flatMap_congr fun y _ => ?_
  rw [(commitStore_keeps a y).2]

include stores in
/-- A store that is not an SPST of the activation stays. -/
theorem mem_releaseSpsts (distinct : (s.stores.map (·.1)).Nodup) {y : Nat × Store} (hy : y ∈ w.stores)
    (other : ¬(y.2.act = a ∧ y.2.kind = .scratch)) : y ∈ ((byLsid (ownSpsts w a)).foldl releaseSpst w).stores := by
  refine (releaseSpsts_stores _ w).2 y hy fun x hx same => other ?_
  obtain ⟨inW, spst⟩ := mem_ownSpsts.mp (mem_byLsid.mp hx).1
  rwa [← List.inj_on_of_nodup_map (keys_committed stores distinct) inW hy same]

end CommitStores

/-- R66, R148, R189: the stores of the activation are released, and SPSTs that nothing can hold back enter its sleeve's forwarding table. `u` is
the state in which the commit reaches the store buffer of `s`. -/
theorem commitStores_released {s u : State} {a : Nat} (may : mayCommit s a = true) (table : (lookup s.sleeves (actOf s a).sleeve).isSome = true)
    (stores : u.stores = s.stores) (sleeves : u.sleeves = s.sleeves) (parts : u.parts = s.parts)
    (images : ∀ b, (actOf u b).image = (actOf s b).image) : Claims.StoresReleased s (commitStores u a) a := by
  intro distinct
  rw [commitStores_eq]
  generalize reached : ({ u with stores := u.stores.map (commitStore a) } : State) = w
  have wstores : w.stores = s.stores.map (commitStore a) := by rw [← reached, ← stores]
  have from_s {y : Nat × Store} (hy : y ∈ ((byLsid (ownSpsts w a)).foldl releaseSpst w).stores) : ∃ z ∈ s.stores, commitStore a z = y :=
    List.mem_map.mp (wstores ▸ (releaseSpsts_stores _ w).1 y hy)
  refine ⟨fun y hy act => ?_, fun y act => ⟨fun hy => ?_, fun hy => ?_⟩, fun y hy act kind => ?_, fun plain => ?_⟩
  · obtain ⟨z, -, rfl⟩ := from_s hy
    rw [(commitStore_keeps a z).2] at act
    rw [commitStore, if_pos act]
  · obtain ⟨z, hz, rfl⟩ := from_s hy
    rw [(commitStore_keeps a z).2] at act
    rwa [commitStore, if_neg act]
  · have inW : y ∈ w.stores := wstores ▸ List.mem_map.mpr ⟨y, hy, by rw [commitStore, if_neg act]⟩
    exact mem_releaseSpsts wstores distinct inW fun h => act h.1
  · have inW : (y.1, { y.2 with committed := true }) ∈ w.stores := wstores ▸ List.mem_map.mpr ⟨y, hy, by rw [commitStore, if_pos act]⟩
    exact mem_releaseSpsts wstores distinct inW fun h => kind h.2
  · exact releaseSpsts_plain may wstores (by rw [← reached, ← sleeves]) (by rw [← reached, ← parts]) distinct table
      (fun b => by rw [← reached]; exact images b) plain

end Sys2Proof.Machine
end

section
/-! PROOFS. The commit of an activation outside loops with an exit to a block (R43, R57, R66, R68). -/

namespace Sys2Proof.Machine

open Sys2Proof

/-! ## Frame writes (R57) -/

/-- One frame write. -/
def writeFrame (c : Colour) (y : Nat × Value) : Colour :=
  if y.1 < 64 then { c with f := insertAt c.f y.1 (y.2.extractLsb' 0 64) } else { c with w := insertAt c.w (y.1 - 64) y.2 }

/-- An F register holds the last value that is written to it. -/
theorem writeFrames_f (ws : List (Nat × Value)) (c : Colour) {r : Nat} (small : r < 64) :
    lookupD (ws.foldl writeFrame c).f r 0 =
      (((ws.filter fun y => y.1 == r).getLast?).map fun y => y.2.extractLsb' 0 64).getD (lookupD c.f r 0) := by
  induction ws using List.reverseRecOn with
  | nil => rfl
  | append_singleton ws y ih =>
    rw [List.foldl_append, List.filter_append, List.foldl_cons, List.foldl_nil, writeFrame]
    by_cases same : y.1 = r
    · simp [same, small]
    · rw [List.filter_cons_of_neg (by simpa using same), List.filter_nil, List.append_nil, ← ih]
      split
      · exact lookupD_insertAt_other _ _ _ (Ne.symm same)
      · rfl

/-- A W register holds the last value that is written to it. -/
theorem writeFrames_w (ws : List (Nat × Value)) (c : Colour) (r : Nat) :
    lookupD (ws.foldl writeFrame c).w r 0 = (((ws.filter fun y => y.1 == 64 + r).getLast?).map (·.2)).getD (lookupD c.w r 0) := by
  induction ws using List.reverseRecOn with
  | nil => rfl
  | append_singleton ws y ih =>
    rw [List.foldl_append, List.filter_append, List.foldl_cons, List.foldl_nil, writeFrame]
    by_cases same : y.1 = 64 + r
    · simp [same]
    · rw [List.filter_cons_of_neg (by simpa using same), List.filter_nil, List.append_nil, ← ih]
      split
      · rfl
      · exact lookupD_insertAt_other _ _ _ (by omega)

theorem colourOf_updColour_same {s : State} {k : Nat} {g : Colour → Colour} (listed : (lookup s.colours k).isSome = true) :
    colourOf (updColour s k g) k = g (colourOf s k) := by
  obtain ⟨c, hc⟩ := Option.isSome_iff_exists.mp listed
  simp [colourOf, updColour, lookupD, hc]

theorem lookup_updColour_isSome (s : State) (k : Nat) (g : Colour → Colour) (j : Nat) :
    (lookup (updColour s k g).colours j).isSome = (lookup s.colours j).isSome := by
  unfold updColour
  split
  · next c hc =>
    by_cases e : j = k
    · simp [e, hc]
    · simp [lookup_insertAt_other _ _ e]
  · rfl

/-! ## Threads and colours under a map -/

theorem threadOf_mapActs {s : State} {g : List Nat → List Nat} (empty : g [] = []) (p : Nat) (tag : Word) :
    threadOf { s with threads := s.threads.map fun h => { h with acts := g h.acts } } p tag =
      { threadOf s p tag with acts := g (threadOf s p tag).acts } := by
  unfold threadOf
  simp only [List.find?_map, Function.comp_def]
  cases s.threads.find? fun h => h.part == p && h.tag == tag && !h.ended with
  | none => simp [empty]
  | some h => rfl

theorem lookup_mapValues {α : Type} (m : Map α) (g : α → α) (k : Nat) :
    lookup (m.map fun e => (e.1, g e.2)) k = (lookup m k).map g := by
  induction m with
  | nil => rfl
  | cons e m ih =>
    obtain ⟨j, v⟩ := e
    by_cases same : j = k
    · simp [lookup, same]
    · simp [lookup, same, ih]

/-- A colour whose caller has committed knows its continuation block (R59). -/
def fixCall (a : Nat) (blk : Word) (c : Colour) : Colour := if c.called ∧ c.caller = a then { c with cblk := blk } else c

theorem fixCalls_colours (s : State) (a : Nat) (blk : Word) : (fixCalls s a blk).colours = s.colours.map fun e => (e.1, fixCall a blk e.2) := by
  refine List.map_congr_left fun e _ => ?_
  unfold fixCall
  split <;> rfl

/-- The frames stay as they are. -/
theorem fixCalls_frame (s : State) (a : Nat) (blk : Word) (k : Nat) :
    (colourOf (fixCalls s a blk) k).f = (colourOf s k).f ∧ (colourOf (fixCalls s a blk) k).w = (colourOf s k).w := by
  unfold colourOf lookupD
  rw [fixCalls_colours, lookup_mapValues]
  cases lookup s.colours k with
  | none => exact ⟨rfl, rfl⟩
  | some c =>
    simp only [Option.map_some, fixCall]
    split <;> exact ⟨rfl, rfl⟩

/-! ## A commit up to its exit -/

/-- The state in which an activation has committed, before any of its effects. -/
def committed (s : State) (a : Nat) : State :=
  let x := actOf s a
  let s := updAct (takeViews s a x) a fun y => { y with st := .committed }
  let s := updColour s x.colour fun c => { c with active := s.cycle }
  updThread s x.part x.tag fun h => { h with committed := h.committed + 1 }

/-- The state in which the commit of an activation reaches its stores. -/
def written (s : State) (a : Nat) : State := commitWrites (committed s a) (actOf s a)

/-- The state in which the exit of an activation takes effect. -/
def atExit (s : State) (a : Nat) : State := commitStores (written s a) a

theorem commitSwrs_none {s : State} {x : Act} (none' : x.swrs = []) : commitSwrs s x = s := by
  unfold commitSwrs
  rw [none']
  exact foldl_fixed fun _ _ => rfl

/-- A commit with nothing but writes, stores and an exit. -/
theorem commitAct_plain {s : State} {a : Nat} (plain : Claims.PlainCommit s a) :
    exec (.activationCommit a) s = .next (clearAct (commitExit (atExit s a) a (actOf s a)) a (actOf s a)) := by
  obtain ⟨-, -, modes, swrs, frz, ends, grants⟩ := plain.plain
  refine congrArg Host.Outcome.next ?_
  simp only [plain.may, frz, commitAct, plain.fits, commitColours, ends, grants, modes, commitFreeze, commitSwrs_none swrs, List.foldl_nil]
  rfl

/-! ## The state in which the exit takes effect -/

theorem threadOf_updThread_same {s : State} {p : Nat} {tag : Word} {g : Thread → Thread}
    (keyed : ∀ h, (g h).part = h.part ∧ (g h).tag = h.tag ∧ (g h).ended = h.ended) :
    threadOf (updThread s p tag g) p tag = g (threadOf s p tag) := by
  obtain ⟨part, tag', open'⟩ := threadOf_keyed s p tag
  obtain ⟨gpart, gtag, gopen⟩ := keyed (threadOf s p tag)
  have := threadOf_putThread_same (s := s) (h := g (threadOf s p tag)) (gopen.trans open')
  rwa [gpart, gtag, part, tag'] at this

theorem applyWrites_flat {s : State} {p : Nat} {tag : Word} (flat : (threadOf s p tag).loop = 0) (ws : List (Nat × Value)) :
    applyWrites s p tag ws = updColour s (colourKey p (tagColour tag)) fun c => ws.foldl writeFrame c := by
  unfold applyWrites
  rw [if_pos flat]
  rfl

theorem committed_threadOf (s : State) (a : Nat) : threadOf (committed s a) (actOf s a).part (actOf s a).tag =
    { threadOf s (actOf s a).part (actOf s a).tag with committed := (threadOf s (actOf s a).part (actOf s a).tag).committed + 1 } := by
  have seen (u : State) (same : u.threads = s.threads) :
      threadOf u (actOf s a).part (actOf s a).tag = threadOf s (actOf s a).part (actOf s a).tag := by simp only [threadOf, same]
  refine (threadOf_updThread_same (g := fun h => { h with committed := h.committed + 1 }) fun h => ⟨rfl, rfl, rfl⟩).trans ?_
  refine congrArg (fun h : Thread => { h with committed := h.committed + 1 }) (seen _ ?_)
  simp [takeViews]

theorem committed_acts (s : State) (a : Nat) : (committed s a).acts = (updAct s a fun y => { y with st := .committed }).acts := by
  unfold committed updThread
  simp only [putThread_acts, updColour_acts]
  unfold updAct takeViews
  dsimp only
  split <;> rfl

theorem committed_colours (s : State) (a : Nat) : (committed s a).colours =
    (updColour s (actOf s a).colour fun c => { c with active := s.cycle }).colours := by
  have seen : (updAct (takeViews s a (actOf s a)) a fun y => { y with st := .committed }).colours = s.colours := by simp [takeViews]
  have cycle : (updAct (takeViews s a (actOf s a)) a fun y => { y with st := .committed }).cycle = s.cycle := by simp [takeViews]
  unfold committed updThread
  simp only [putThread_colours, cycle]
  unfold updColour
  rw [seen]
  split
  · rfl
  · exact seen

section AtExit

variable {s : State} {a : Nat} (plain : Claims.PlainCommit s a)

include plain

theorem written_eq : written s a = updColour (committed s a) (actOf s a).colour fun c => (frameWrites (actOf s a)).foldl writeFrame c := by
  obtain ⟨loop, flat⟩ := plain.flat
  unfold written commitWrites
  rw [if_pos loop, applyWrites_flat (by rw [committed_threadOf]; exact flat), plain.colour.2]

theorem written_colourOf : colourOf (written s a) (actOf s a).colour =
    (frameWrites (actOf s a)).foldl writeFrame { colourOf s (actOf s a).colour with active := s.cycle } := by
  have listed := plain.colour.1
  have same : colourOf (committed s a) (actOf s a).colour = { colourOf s (actOf s a).colour with active := s.cycle } :=
    (congrArg (fun m => lookupD m _ _) (committed_colours s a)).trans (colourOf_updColour_same listed)
  rw [written_eq plain, colourOf_updColour_same, same]
  rw [committed_colours, lookup_updColour_isSome]
  exact listed

/-- The frame of the colour as the exit finds it. -/
theorem atExit_frameWritten : Claims.FrameWritten s (atExit s a) a := by
  have kept : colourOf (atExit s a) (actOf s a).colour = colourOf (written s a) (actOf s a).colour := by
    unfold atExit
    rw [show commitStores (written s a) a = _ from commitStores_storesOnly (written s a) a]
    rfl
  constructor
  · intro r small
    rw [kept, written_colourOf plain, writeFrames_f _ _ small]
    cases ((frameWrites (actOf s a)).filter fun y => y.1 == r).getLast? <;> rfl
  · intro r _
    rw [kept, written_colourOf plain, writeFrames_w]
    cases ((frameWrites (actOf s a)).filter fun y => y.1 == 64 + r).getLast? <;> rfl

theorem atExit_threadOf : threadOf (atExit s a) (actOf s a).part (actOf s a).tag =
    { threadOf s (actOf s a).part (actOf s a).tag with committed := (threadOf s (actOf s a).part (actOf s a).tag).committed + 1 } := by
  have threads : (atExit s a).threads = (committed s a).threads := by
    unfold atExit
    rw [show commitStores (written s a) a = _ from commitStores_storesOnly (written s a) a, written_eq plain]
    simp
  rw [← committed_threadOf]
  simp only [threadOf, threads]

theorem atExit_acts : (atExit s a).acts = (updAct s a fun y => { y with st := .committed }).acts := by
  unfold atExit
  rw [show commitStores (written s a) a = _ from commitStores_storesOnly (written s a) a, written_eq plain]
  simp [committed_acts]

theorem atExit_actOf_same : actOf (atExit s a) a = { actOf s a with st := .committed } :=
  (actOf_congr (atExit_acts plain) a).trans (actOf_updAct_same (ready_of_mayCommit plain.may).listed _)

theorem atExit_actOf_other {b : Nat} (other : b ≠ a) : actOf (atExit s a) b = actOf s b :=
  (actOf_congr (atExit_acts plain) b).trans (actOf_updAct_other other _)

theorem atExit_storesReleased (table : (lookup s.sleeves (actOf s a).sleeve).isSome = true) : Claims.StoresReleased s (atExit s a) a := by
  refine commitStores_released plain.may table ?_ ?_ ?_ fun b => ?_
  · rw [written_eq plain]
    simp [committed, updThread, takeViews]
  · rw [written_eq plain]
    simp [committed, updThread, takeViews]
  · rw [written_eq plain]
    simp [committed, updThread, takeViews]
  · have acts : (written s a).acts = (updAct s a fun y => { y with st := .committed }).acts := by
      rw [written_eq plain, updColour_acts, committed_acts]
    exact (congrArg Act.image (actOf_congr acts b)).trans (actOf_updAct_keeps Act.image (fun _ => by rfl) _ _ _)

/-- No byte of memory, and no identifier, is spent up to the exit. -/
theorem atExit_memory : (atExit s a).mem = s.mem ∧ (atExit s a).podMem = s.podMem ∧ (atExit s a).ids = s.ids := by
  unfold atExit
  rw [show commitStores (written s a) a = _ from commitStores_storesOnly (written s a) a, written_eq plain]
  simp [committed, updThread, takeViews]

end AtExit

/-! ## The exit to a block -/

section Continue

variable {s : State} {a b : Nat} {x : Act} {blk : Word}

/-- R43: the thread goes on at a block with one Predicted activation, when it has no later one and has entered no loop. -/
theorem continueAt_alone (flat : x.pushed = none) (last : laterInThread s x = []) :
    continueAt s a x blk = (addAct (fixCalls s a blk) x.part x.tag blk .predicted 0 0).2 := by
  have last' : laterInThread (fixCalls s a blk) x = [] := last
  unfold continueAt
  simp only [flat, last', List.isEmpty_nil, if_true]

/-- What is left of an original without a twin is cleared: it leaves its thread, its sets and its spilled tokens go, and DEADC counts these. -/
theorem clearAct_rest (original : x.twin = 0) : clearAct s a x =
    { s with parts := (clearAct s a x).parts, spilled := (clearAct s a x).spilled, entries := (clearAct s a x).entries,
             threads := s.threads.map fun h => { h with acts := h.acts.filter (· != a) } } := by
  unfold clearAct
  simp only [original, if_true]
  rfl

theorem clearAct_threadOf (original : x.twin = 0) (p : Nat) (tag : Word) : threadOf (clearAct s a x) p tag =
    { threadOf s p tag with acts := (threadOf s p tag).acts.filter (· != a) } := by
  rw [clearAct_rest original]
  exact threadOf_mapActs (s := s) (g := fun l => l.filter (· != a)) rfl p tag

end Continue

/-- The state after a commit with an exit to a block. -/
def wentOn (s : State) (a : Nat) (blk : Word) : State :=
  clearAct (addAct (fixCalls (atExit s a) a blk) (actOf s a).part (actOf s a).tag blk .predicted 0 0).2 a (actOf s a)

section WentOn

variable {s : State} {a node e : Nat} {blk : Word} (plain : Claims.PlainCommit s a)

include plain

theorem commit_wentOn (exits : (actOf s a).exits = [(e, node, .block blk)]) (alone : (threadOf s (actOf s a).part (actOf s a).tag).acts = [a]) :
    exec (.activationCommit a) s = .next (wentOn s a blk) := by
  have last : laterInThread (atExit s a) (actOf s a) = [] := by
    unfold laterInThread
    rw [atExit_threadOf plain]
    simp [alone, atExit_actOf_same plain]
  rw [commitAct_plain plain, wentOn, ← continueAt_alone plain.plain.2.1 last, commitExit, exits]

theorem wentOn_rest : wentOn s a blk = { atExit s a with
    ids := s.ids + 1, parts := (wentOn s a blk).parts, colours := (fixCalls (atExit s a) a blk).colours, acts := (wentOn s a blk).acts,
    threads := (wentOn s a blk).threads, spilled := (wentOn s a blk).spilled, entries := (wentOn s a blk).entries } := by
  have ids := (atExit_memory plain).2.2
  unfold wentOn
  rw [clearAct_rest plain.plain.1, addAct_rest]
  simp [fixCalls, ids]

theorem wentOn_threadOf : threadOf (wentOn s a blk) (actOf s a).part (actOf s a).tag =
    { threadOf s (actOf s a).part (actOf s a).tag with
      acts := ((threadOf s (actOf s a).part (actOf s a).tag).acts ++ [s.ids]).filter (· != a),
      committed := (threadOf s (actOf s a).part (actOf s a).tag).committed + 1,
      next := (threadOf s (actOf s a).part (actOf s a).tag).next + 1 } := by
  have thread : threadOf (fixCalls (atExit s a) a blk) (actOf s a).part (actOf s a).tag = _ := atExit_threadOf plain
  have ids : (fixCalls (atExit s a) a blk).ids = s.ids := (atExit_memory plain).2.2
  rw [wentOn, clearAct_threadOf plain.plain.1, addAct_threadOf_same, grown, thread, ids]

theorem wentOn_acts : (wentOn s a blk).acts =
    (addAct (fixCalls (atExit s a) a blk) (actOf s a).part (actOf s a).tag blk .predicted 0 0).2.acts := by
  rw [wentOn, clearAct_rest plain.plain.1]

theorem wentOn_actOf_other {b : Nat} (other : b ≠ s.ids) : actOf (wentOn s a blk) b = actOf (atExit s a) b := by
  have ids : (fixCalls (atExit s a) a blk).ids = s.ids := (atExit_memory plain).2.2
  exact (actOf_congr (wentOn_acts plain) b).trans (addAct_actOf_other (s := fixCalls (atExit s a) a blk) (ids ▸ other))

theorem wentOn_actOf_same : actOf (wentOn s a blk) s.ids =
    newAct (fixCalls (atExit s a) a blk) (actOf s a).part (actOf s a).tag blk .predicted 0 0 := by
  have ids : (fixCalls (atExit s a) a blk).ids = s.ids := (atExit_memory plain).2.2
  rw [actOf_congr (wentOn_acts plain), ← ids]
  exact addAct_actOf_same

end WentOn

/-- Settles O28: the commit is followed to its exit, where the frame is written and the stores are released, and then through the exit, which
adds one activation and touches neither. -/
theorem commitToBlock : Obligations.CommitToBlock := by
  unfold Obligations.CommitToBlock Claims.CommitToBlock
  intro s a node e blk x plain exits alone fresh table
  have other : a ≠ s.ids := Ne.symm fresh
  have thread := wentOn_threadOf (blk := blk) plain
  have rest := wentOn_rest (blk := blk) plain
  obtain ⟨mem, podMem, -⟩ := atExit_memory plain
  have memT : (wentOn s a blk).mem = s.mem := by rw [rest]; exact mem
  have colour (k : Nat) : colourOf (wentOn s a blk) k = colourOf (fixCalls (atExit s a) a blk) k := by rw [rest]; rfl
  refine ⟨wentOn s a blk, s.ids, commit_wentOn plain exits alone, ?st, ?acts, ?count, ?bst, ?bblk, ?btag, ?bpred, ?frame, ?stores, ?mem, ?pod, ?others⟩
  case st => rw [wentOn_actOf_other plain other, atExit_actOf_same plain]
  case acts =>
    rw [thread]
    simp [x, alone, fresh]
  case count => rw [thread]
  case bst => rw [wentOn_actOf_same plain]; rfl
  case bblk => rw [wentOn_actOf_same plain]; rfl
  case btag => rw [wentOn_actOf_same plain]; rfl
  case bpred =>
    rw [wentOn_actOf_same plain, newAct]
    have threadU : threadOf (fixCalls (atExit s a) a blk) (actOf s a).part (actOf s a).tag = _ := atExit_threadOf plain
    rw [threadU]
    simp [x, alone]
  case frame =>
    obtain ⟨f, w⟩ := atExit_frameWritten plain
    obtain ⟨sameF, sameW⟩ := fixCalls_frame (atExit s a) a blk x.colour
    refine ⟨fun r small => ?_, fun r small => ?_⟩
    · rw [colour, sameF]
      exact f r small
    · rw [colour, sameW]
      exact w r small
  case stores =>
    have released := atExit_storesReleased plain table
    unfold Claims.StoresReleased at released ⊢
    rw [show (wentOn s a blk).stores = (atExit s a).stores by rw [rest],
      show sleeveOf (wentOn s a blk) (actOf s a).sleeve = sleeveOf (atExit s a) (actOf s a).sleeve by rw [rest]; rfl]
    exact released
  case mem =>
    intro apr o
    simp only [devByte, memT]
  case pod => rw [rest]; exact podMem
  case others =>
    intro k notA notB
    rw [wentOn_actOf_other plain notB, atExit_actOf_other plain notA]

end Sys2Proof.Machine
end

section
/-! PROOFS. Tokens at the nodes of activations (R31, R46 to R49): matching, write slots, and far tokens that wait. -/

namespace Sys2Proof.Machine

open Sys2Proof

/-! ## Entries -/

theorem put_port (e : Entry) (p : Port) (v : TokVal) (q : Port) : (e.put p v).port q = if q = p then some v else e.port q := by
  cases p <;> cases q <;> rfl

theorem put_keeps (e : Entry) (p : Port) (v : TokVal) :
    (e.put p v).act = e.act ∧ (e.put p v).node = e.node ∧ (e.put p v).count = e.count ∧ (e.put p v).parts = e.parts := by
  cases p <;> exact ⟨rfl, rfl, rfl, rfl⟩

/-- An entry takes at most 512 bytes of the operand buffer (R49). -/
theorem entryBytes_le (w : RecordWord) (e : Entry) : entryBytes w e ≤ 512 := by
  have port (p : Port) (v : Option TokVal) :
      (if requires w p then 8 else 0) + (match v with | some x => if x.kind = .vector ∧ p ≠ .p then 120 else 0 | none => 0) ≤ 128 := by
    cases v with
    | none => dsimp only; split <;> omega
    | some x => dsimp only; split <;> split <;> omega
  exact Nat.add_le_add (Nat.add_le_add (Nat.add_le_add (port .a e.a) (port .b e.b)) (port .c e.c)) (port .p e.p)

/-- The entry of a node before a token, a new one where there is none. -/
def nodeEntry (s : State) (a k : Nat) : Entry :=
  (findEntry s a k).getD { quad := enOf (actOf s a) k / 4, en := enOf (actOf s a) k, act := a, node := k }

theorem nodeEntry_keyed (s : State) (a k : Nat) : (nodeEntry s a k).act = a ∧ (nodeEntry s a k).node = k := by
  unfold nodeEntry
  cases found : findEntry s a k with
  | none => exact ⟨rfl, rfl⟩
  | some e => simpa using List.find?_some found

theorem nodeEntry_port (s : State) (a k : Nat) (q : Port) : (nodeEntry s a k).port q = (findEntry s a k).bind (·.port q) := by
  unfold nodeEntry
  cases findEntry s a k with
  | none => cases q <;> rfl
  | some e => rfl

/-! ## Matching -/

/-- The entry once a token has come to a port of a node that takes one value at each. -/
def fedEntry (s : State) (a : Nat) (n : NetToken) : Entry :=
  let w := imgRec (actOf s a).image n.tok.node
  let e := (nodeEntry s a n.tok.node).put n.tok.port (Claims.arrival s a n)
  let stamp := if entryFull w e then some s.cycle else none
  { e with stamp := stamp, prods := e.prods ++ [(n.tok.port.code.toNat, n.prod)],
           bytes := if stamp.isSome then (nodeEntry s a n.tok.node).bytes else entryBytes w e }

/-- What the entry takes of its quad beside what it has. -/
def fedNeed (s : State) (a : Nat) (n : NetToken) : Nat × Nat :=
  (if (findEntry s a n.tok.node).isNone then 1 else 0, (fedEntry s a n).bytes - (nodeEntry s a n.tok.node).bytes)

/-- The quad of a node of an activation. -/
def nodeQuad (s : State) (a k : Nat) : Nat := enOf (actOf s a) k / 4

theorem fedEntry_keyed (s : State) (a : Nat) (n : NetToken) : (fedEntry s a n).act = a ∧ (fedEntry s a n).node = n.tok.node := by
  obtain ⟨act, node, -, -⟩ := put_keeps (nodeEntry s a n.tok.node) n.tok.port (Claims.arrival s a n)
  obtain ⟨act', node'⟩ := nodeEntry_keyed s a n.tok.node
  exact ⟨act.trans act', node.trans node'⟩

theorem fedEntry_port (s : State) (a : Nat) (n : NetToken) (q : Port) :
    (fedEntry s a n).port q = if q = n.tok.port then some (Claims.arrival s a n) else (findEntry s a n.tok.node).bind (·.port q) := by
  rw [← nodeEntry_port, ← put_port]
  cases q <;> rfl

theorem fedEntry_stamp (s : State) (a : Nat) (n : NetToken) : (fedEntry s a n).stamp =
    if entryFull (imgRec (actOf s a).image n.tok.node) (fedEntry s a n) then some s.cycle else none := by
  rfl

theorem matchToken_plain {comb : RecordWord → CombStep} {s : State} {a : Nat} {n : NetToken} (m : Claims.Matchable s a n) (room : Bool) :
    matchToken comb s a n room =
      if (fedEntry s a n).stamp.isSome ∨ room ∨ (quadEntries s (nodeQuad s a n.tok.node) + (fedNeed s a n).1 ≤ 2048 ∧
          quadBytes s (nodeQuad s a n.tok.node) + (fedNeed s a n).2 ≤ 262144) then
        nullLsid (putEntry s (fedEntry s a n)) a (imgRec (actOf s a).image n.tok.node) (Claims.arrival s a n)
      else spill s { n with dest := .node a } a (nodeQuad s a n.tok.node) := by
  obtain ⟨inside, unfired⟩ := m.node
  have port := m.port
  have counts : countForm (imgRec (actOf s a).image n.tok.node) = false := by simp [countForm, m.plain]
  have empty : (nodeEntry s a n.tok.node).stamp = none ∧ (nodeEntry s a n.tok.node).port n.tok.port = none := by
    unfold nodeEntry
    cases found : findEntry s a n.tok.node with
    | none => exact ⟨rfl, by cases n.tok.port <;> rfl⟩
    | some e => exact m.free e found
  have takes : ¬(imgNcnt (actOf s a).image ≤ n.tok.node ∨ (!consumes (imgRec (actOf s a).image n.tok.node) n.tok.port) = true) := by
    simp [inside, port]
  have noMode : ¬(n.tok.port = .c ∧ modeForm (recOpc (imgRec (actOf s a).image n.tok.node)) = true) := by
    rintro ⟨isC, mode⟩
    simp [m.noMode isC] at mode
  have vacant : ¬((nodeEntry s a n.tok.node).stamp.isSome = true ∨ ((nodeEntry s a n.tok.node).port n.tok.port).isSome = true) := by
    simp [empty]
  unfold matchToken
  dsimp only
  rw [if_neg takes, if_neg noMode, if_neg (by simp [unfired])]
  simp only [counts, Bool.false_and, Bool.false_eq_true, if_false]
  exact if_neg vacant

/-- Put at its node's entry, a token is matched (R47, R48). -/
theorem putEntry_matched (s : State) (a : Nat) (n : NetToken) (w : RecordWord) (v : TokVal) :
    Claims.Matched s (nullLsid (putEntry s (fedEntry s a n)) a w v) a n := by
  obtain ⟨act, node⟩ := fedEntry_keyed s a n
  have entries : (nullLsid (putEntry s (fedEntry s a n)) a w v).entries = (putEntry s (fedEntry s a n)).entries := by
    unfold nullLsid
    split
    · exact updAct_entries _ _ _
    · rfl
  refine ⟨⟨fedEntry s a n, ?_, act, node, ?_, fun q other => ?_, fedEntry_stamp s a n⟩, fun y hy other => ?_⟩
  · rw [entries]
    exact List.mem_append_right _ (List.mem_singleton_self _)
  · rw [fedEntry_port, if_pos rfl]
  · rw [fedEntry_port, if_neg other]
  · rw [entries]
    refine List.mem_append_left _ (List.mem_filter.mpr ⟨hy, ?_⟩)
    rw [act, node]
    simpa [imp_iff_not_or] using other

theorem nullLsid_rest (s : State) (a : Nat) (w : RecordWord) (v : TokVal) : nullLsid s a w v = { s with acts := (nullLsid s a w v).acts } := by
  unfold nullLsid updAct
  split
  · split <;> rfl
  · rfl

/-- R47 to R49: a token for which its quad has room, or which completes its set, is matched, and nothing but entries and the LSID of a null token
changes. -/
theorem matchToken_matched {comb : RecordWord → CombStep} {s : State} {a : Nat} {n : NetToken} {room : Bool} (m : Claims.Matchable s a n)
    (fits : (fedEntry s a n).stamp.isSome ∨ room ∨ (quadEntries s (nodeQuad s a n.tok.node) + (fedNeed s a n).1 ≤ 2048 ∧
      quadBytes s (nodeQuad s a n.tok.node) + (fedNeed s a n).2 ≤ 262144)) :
    Claims.Matched s (matchToken comb s a n room) a n ∧ matchToken comb s a n room =
      { s with entries := (matchToken comb s a n room).entries, acts := (matchToken comb s a n room).acts } := by
  rw [matchToken_plain m, if_pos fits]
  refine ⟨putEntry_matched s a n _ _, ?_⟩
  rw [nullLsid_rest]
  rfl

theorem fedNeed_le (s : State) (a : Nat) (n : NetToken) : (fedNeed s a n).1 ≤ 1 ∧ (fedNeed s a n).2 ≤ 512 := by
  constructor
  · unfold fedNeed
    dsimp only
    split <;> omega
  · have bytes : (fedEntry s a n).bytes ≤ max (nodeEntry s a n.tok.node).bytes 512 := by
      unfold fedEntry
      dsimp only
      split
      · exact le_max_left _ _
      · exact (entryBytes_le _ _).trans (le_max_right _ _)
    unfold fedNeed
    dsimp only
    omega

/-! ## Delivery -/

/-- A token of right parity and a live colour is delivered to a live activation without a twin, for whose node no token is spilled. -/
theorem deliver_node {comb : RecordWord → CombStep} {s : State} {a : Nat} {n : NetToken} (dest : n.dest = .node a) (good : parityOf n.tok = n.par)
    (colour : live s (colourKey n.part (tagColour n.tok.tag)) = true) (alive : actLive (actOf s a) = true) (untwinned : (actOf s a).twin = 0)
    (alone : spilledFor s a n.tok.node = []) : deliver comb s n = matchToken comb s a n false := by
  unfold deliver
  rw [dest]
  simp only [colour, alive, Bool.not_true, Bool.false_eq_true, if_false, if_true]
  rw [deliverTo_untwinned good untwinned, arrive]
  exact if_pos (by rw [alone]; rfl)

/-- A token reaches a node of an activation that has no twin, and no partner of it is spilled. -/
theorem tokenDelivery_node {s : State} {i a : Nat} {n : NetToken} (h : Claims.ReachesNode s i a n) :
    exec (.tokenDelivery i) s = .next (matchToken combineVals { s with net := s.net.eraseIdx i } a n false) := by
  obtain ⟨flight, free, good, dest⟩ := h.flight
  obtain ⟨colour, alive, untwinned⟩ := h.alive
  rw [tokenDelivery_good flight free good]
  exact congrArg _ (deliver_node (s := { s with net := s.net.eraseIdx i }) dest good colour alive untwinned h.alone)

/-- A token that no RET made is held for no store. -/
theorem retHeld_of_not_ret {s : State} {n : NetToken} (h : n.ret = false) : retHeld s n = false := by
  simp [retHeld, h]

/-- R63: a value that is the first at a write slot the header declares stands there. -/
theorem deliverSlot_first {s : State} {a j : Nat} {n : NetToken} (alive : actLive (actOf s a) = true) (clean : n.tok.v.poi = false)
    (declared : j < imgWcnt (actOf s a).image) (first : ∀ y ∈ (actOf s a).slots, y.1 ≠ j) (single : n.both = false ∨ (actOf s a).twin = 0) :
    deliverSlot s a j n = updAct s a fun x => { x with slots := x.slots ++ [(j, n.tok.v)] } := by
  have unused : ¬(imgWcnt (actOf s a).image ≤ j ∨ ((actOf s a).slots.any fun y => y.1 == j) = true) := by
    rintro (h | h)
    · omega
    · obtain ⟨y, hy, same⟩ := List.any_eq_true.mp h
      exact first y hy (by simpa using same)
  have arrives : arriveSlot s a j n = updAct s a fun x => { x with slots := x.slots ++ [(j, n.tok.v)] } := by
    unfold arriveSlot
    simp only [alive, clean, Bool.not_true, Bool.false_eq_true, if_false]
    exact if_neg unused
  have alone : (n.both && (actOf s a).twin != 0) = false := by
    rcases single with h | h <;> simp [h]
  unfold deliverSlot
  simp only [arrives, alone, Bool.false_and, Bool.false_eq_true, if_false]

/-- R46: a far token that no activation takes yet waits at its colour's home quad. -/
theorem deliverFar_waits {comb : RecordWord → CombStep} {s : State} {n : NetToken} (none' : farReceiver s n = none) (noMode : toModePort s n = false)
    (known : mayBeMode s n = false) : deliverFar comb s n = waitFar s n := by
  unfold deliverFar
  simp [none', noMode, known]

theorem waitFar_room {s : State} {n : NetToken} (far : n.dest = .far)
    (entries : quadEntries s (homeQuad (sleeveOf s n.sleeve) (tagColour n.tok.tag)) + 1 ≤ 2048)
    (bytes : quadBytes s (homeQuad (sleeveOf s n.sleeve) (tagColour n.tok.tag)) + 128 ≤ 262144) :
    waitFar s n = { s with far := s.far ++ [{ t := n, quad := homeQuad (sleeveOf s n.sleeve) (tagColour n.tok.tag) }] } := by
  have same : ({ n with dest := .far } : NetToken) = n := by rw [← far]
  have few : farBytes n ≤ 128 := by
    unfold farBytes
    split <;> omega
  have room : quadRoom s (homeQuad (sleeveOf s n.sleeve) (tagColour n.tok.tag)) (1, farBytes n) = true := by
    simp only [quadRoom, Bool.and_eq_true, decide_eq_true_eq]
    omega
  unfold waitFar
  simp only [same, room, if_true]

/-- R31, R41, R46 to R49, R63: a token of right parity and a live colour goes where its destination says. -/
theorem tokenDelivery : Claims.TokenDelivery := by
  unfold Claims.TokenDelivery
  intro s i n flight made good
  have free := retHeld_of_not_ret (s := s) made
  refine ⟨fun a dest colour alive untwinned m alone entries bytes => ?node, fun a j dest colour alive clean declared first single => ?slot,
    ?far⟩
  case node =>
    have reaches : Claims.ReachesNode s i a n := ⟨⟨flight, free, good, dest⟩, ⟨colour, alive, untwinned⟩, alone⟩
    obtain ⟨one, many⟩ := fedNeed_le s a n
    obtain ⟨matched, rest⟩ := matchToken_matched (comb := combineVals) (s := { s with net := s.net.eraseIdx i }) (room := false)
      (m := ⟨m.node, m.port, m.plain, m.noMode, m.free⟩)
      (.inr (.inr ⟨le_trans (Nat.add_le_add_left one _) entries, le_trans (Nat.add_le_add_left many _) bytes⟩))
    exact ⟨_, tokenDelivery_node reaches, ⟨matched.entry, matched.others⟩, rest⟩
  case slot =>
    have colour' : live { s with net := s.net.eraseIdx i } (colourKey n.part (tagColour n.tok.tag)) = true := colour
    rw [tokenDelivery_good flight free good, deliver, dest]
    simp only [colour', Bool.not_true, Bool.false_eq_true, if_false]
    exact congrArg _ (deliverSlot_first alive clean declared first single)
  case far =>
    intro dest keep colour none' noMode known q entries bytes
    have colour' : live { s with net := s.net.eraseIdx i } (colourKey n.part (tagColour n.tok.tag)) = true := colour
    rw [tokenDelivery_good flight free good, deliver, dest]
    simp only [colour', keep, Bool.not_true, Bool.false_eq_true, if_false]
    exact congrArg _ ((deliverFar_waits (s := { s with net := s.net.eraseIdx i }) none' noMode known).trans (waitFar_room dest entries bytes))

end Sys2Proof.Machine
end

section
/-! PROOFS. The tokens of JOIN and COMB (R62, R359, R387), mode tokens (R122), and the parity check (R308). -/

namespace Sys2Proof.Machine

open Sys2Proof

/-! ## JOIN and COMB -/

/-- The value that a JOIN or COMB holds once a token has come. -/
def countVal (w : RecordWord) (comb : RecordWord → CombStep) (old v : TokVal) : TokVal :=
  if old.kind = .null then { v.unmarked with poi := old.poi || v.poi }
  else if v.kind = .null then { old with poi := old.poi || v.poi }
  else { (if recOpc w = 0x05 then old else comb w old v) with poi := old.poi || v.poi }

theorem countOne_eq (w : RecordWord) (comb : RecordWord → CombStep) (e : Entry) (prod : Nat) (v : TokVal) : countOne w comb e prod v =
    { e with a := some (countVal w comb (e.a.getD nullTok) v), count := e.count + 1, parts := e.parts ++ [(prod, v)] } := by
  unfold countOne countVal
  cases e.a with
  | none => rfl
  | some old => simp

/-- A count is done with the token that makes it N, and for N 0 with the first marked EOS. -/
theorem countDone_countOne {w : RecordWord} {e : Entry} {prod : Nat} {v : TokVal} (comb : RecordWord → CombStep)
    (join : recOpc w = 0x05 → (w.extractLsb' 0 16).toNat ≠ 0) (unmarked : ∀ y ∈ e.parts, y.2.eos = false) :
    countDone w (countOne w comb e prod v) =
      if (w.extractLsb' 0 16).toNat = 0 then v.eos else decide (e.count + 1 = (w.extractLsb' 0 16).toNat) := by
  have none' : (e.parts.any fun x => x.2.eos) = false := List.any_eq_false.mpr fun y hy => by simp [unmarked y hy]
  rw [countOne_eq]
  unfold countDone
  by_cases isJoin : recOpc w = 0x05
  · simp only [isJoin, if_true, if_neg (join isJoin)]
  · simp only [isJoin, if_false, List.any_append, none', Bool.false_or, List.any_cons, List.any_nil, Bool.or_false]

theorem countDone_open {w : RecordWord} {e : Entry} (join : recOpc w = 0x05 → (w.extractLsb' 0 16).toNat ≠ 0)
    (few : (w.extractLsb' 0 16).toNat ≠ 0 → e.count < (w.extractLsb' 0 16).toNat) (unmarked : ∀ y ∈ e.parts, y.2.eos = false) :
    countDone w e = false := by
  have none' : (e.parts.any fun x => x.2.eos) = false := List.any_eq_false.mpr fun y hy => by simp [unmarked y hy]
  have short (h : (w.extractLsb' 0 16).toNat ≠ 0) : decide (e.count = (w.extractLsb' 0 16).toNat) = false := decide_eq_false (few h).ne
  unfold countDone
  by_cases isJoin : recOpc w = 0x05
  · simp only [isJoin, if_true, short (join isJoin)]
  · by_cases zero : (w.extractLsb' 0 16).toNat = 0
    · simp only [isJoin, zero, if_true, if_false, none']
    · simp only [isJoin, zero, if_false, short zero]

/-- The entry of a JOIN or COMB once a token has come to its port A. -/
def countedEntry (comb : RecordWord → CombStep) (s : State) (a : Nat) (n : NetToken) : Entry :=
  let w := imgRec (actOf s a).image n.tok.node
  let e := countToken w comb (nodeEntry s a n.tok.node) n.prod (Claims.arrival s a n) s.cycle
  { e with prods := e.prods ++ [(n.tok.port.code.toNat, n.prod)],
           bytes := if e.stamp.isSome then (nodeEntry s a n.tok.node).bytes else entryBytes w e }

/-- JOIN and COMB are no memory forms. -/
theorem nullLsid_count {s : State} {a : Nat} {w : RecordWord} {v : TokVal} (counts : recOpc w = 0x05 ∨ recOpc w = 0x79) : nullLsid s a w v = s := by
  have plain : memForm (recOpc w) = false := by rcases counts with h | h <;> rw [h] <;> rfl
  simp [nullLsid, plain]

/-- R62, R359, R387: a token at port A of a JOIN or COMB that still counts is taken into its entry. -/
theorem matchToken_counts {comb : RecordWord → CombStep} {s : State} {a : Nat} {n : NetToken} (port : n.tok.port = .a)
    (inside : n.tok.node < imgNcnt (actOf s a).image) (unfired : (actOf s a).fired.getLsbD n.tok.node = false)
    (counts : recOpc (imgRec (actOf s a).image n.tok.node) = 0x05 ∨ recOpc (imgRec (actOf s a).image n.tok.node) = 0x79)
    (takes : consumes (imgRec (actOf s a).image n.tok.node) .a = true) (unstamped : (nodeEntry s a n.tok.node).stamp = none)
    (opened : countDone (imgRec (actOf s a).image n.tok.node) (nodeEntry s a n.tok.node) = false)
    (entries : quadEntries s (nodeQuad s a n.tok.node) + 1 ≤ 2048) (bytes : quadBytes s (nodeQuad s a n.tok.node) + 512 ≤ 262144) (room : Bool) :
    matchToken comb s a n room = putEntry s (countedEntry comb s a n) := by
  have form : countForm (imgRec (actOf s a).image n.tok.node) = true := by rcases counts with h | h <;> simp [countForm, h]
  have vacant : ¬((nodeEntry s a n.tok.node).stamp.isSome = true ∨
      countDone (imgRec (actOf s a).image n.tok.node) (nodeEntry s a n.tok.node) = true) := by simp [unstamped, opened]
  have fits : quadEntries s (nodeQuad s a n.tok.node) + (if (findEntry s a n.tok.node).isNone then 1 else 0) ≤ 2048 ∧
      quadBytes s (nodeQuad s a n.tok.node) + ((countedEntry comb s a n).bytes - (nodeEntry s a n.tok.node).bytes) ≤ 262144 := by
    have le : (countedEntry comb s a n).bytes ≤ max (nodeEntry s a n.tok.node).bytes 512 := by
      unfold countedEntry
      dsimp only
      split
      · exact le_max_left _ _
      · exact (entryBytes_le _ _).trans (le_max_right _ _)
    refine ⟨?_, by omega⟩
    split <;> omega
  have counting : (countForm (imgRec (actOf s a).image n.tok.node) && n.tok.port == .a) = true := by simp [form, port]
  unfold matchToken
  dsimp only
  rw [if_neg (by simp [inside, port, takes]), if_neg (by simp [port]), if_neg (by simp [unfired])]
  simp only [counting, if_true]
  exact (if_neg vacant).trans ((if_pos (.inr (.inr fits))).trans (nullLsid_count counts))

/-- What a token leaves in the entry of a JOIN or COMB. -/
theorem countedEntry_fields (comb : RecordWord → CombStep) (s : State) (a : Nat) (n : NetToken) :
    (countedEntry comb s a n).act = a ∧ (countedEntry comb s a n).node = n.tok.node ∧
    (countedEntry comb s a n).count = (nodeEntry s a n.tok.node).count + 1 ∧ (countedEntry comb s a n).p = (nodeEntry s a n.tok.node).p ∧
    (countedEntry comb s a n).a = some (countVal (imgRec (actOf s a).image n.tok.node) comb ((nodeEntry s a n.tok.node).a.getD nullTok)
      (Claims.arrival s a n)) := by
  obtain ⟨act, node⟩ := nodeEntry_keyed s a n.tok.node
  simp only [countedEntry, countToken, countStamp, countOne_eq]
  exact ⟨act, node, trivial, trivial, trivial⟩

theorem countedEntry_stamp {comb : RecordWord → CombStep} {s : State} {a : Nat} {n : NetToken}
    (join : recOpc (imgRec (actOf s a).image n.tok.node) = 0x05 → ((imgRec (actOf s a).image n.tok.node).extractLsb' 0 16).toNat ≠ 0)
    (unmarked : ∀ y ∈ (nodeEntry s a n.tok.node).parts, y.2.eos = false) : (countedEntry comb s a n).stamp =
      if (if ((imgRec (actOf s a).image n.tok.node).extractLsb' 0 16).toNat = 0 then (Claims.arrival s a n).eos
          else decide ((nodeEntry s a n.tok.node).count + 1 = ((imgRec (actOf s a).image n.tok.node).extractLsb' 0 16).toNat)) &&
        (!requires (imgRec (actOf s a).image n.tok.node) .p || (nodeEntry s a n.tok.node).p.isSome) then some s.cycle else none := by
  rw [← countDone_countOne (prod := n.prod) comb join unmarked]
  simp only [countedEntry, countToken, countStamp, countOne_eq]

/-- The mark, the kind and, for a COMB, the value that are held. -/
theorem countVal_says (w : RecordWord) (comb : RecordWord → CombStep) (old v : TokVal) :
    (countVal w comb old v).poi = (old.poi || v.poi) ∧
    (countVal w comb old v).kind = (if old.kind = .null then v.kind else if v.kind = .null ∨ recOpc w = 0x05 then old.kind else (comb w old v).kind) ∧
    (recOpc w = 0x79 →
      (countVal w comb old v).ln = (if old.kind = .null then v.ln else if v.kind = .null then old.ln else (comb w old v).ln) ∧
      (countVal w comb old v).val = (if old.kind = .null then v.val else if v.kind = .null then old.val else (comb w old v).val)) := by
  unfold countVal
  by_cases first : old.kind = .null
  · simp [first, TokVal.unmarked]
  · by_cases null : v.kind = .null
    · simp [first, null]
    · by_cases join : recOpc w = 0x05
      · simp [first, null, join]
      · simp [first, null, join]

theorem tokenCounting : Claims.TokenCounting := by
  unfold Claims.TokenCounting
  intro s i a n e0 reaches port k w count inside unfired counts takes old unstamped _ few unmarked entries bytes join
  have node : nodeEntry s a k = e0 := by
    rcases old with found | ⟨none', new⟩
    · simp [nodeEntry, found]
    · simp [nodeEntry, none', new]
  have opened : countDone w (nodeEntry s a k) = false := countDone_open join (by rw [node]; exact few) (by rw [node]; exact unmarked)
  have ran := matchToken_counts (comb := combineVals) (s := { s with net := s.net.eraseIdx i }) (room := false) port inside unfired counts takes
    (by exact node ▸ unstamped) opened entries bytes
  obtain ⟨act, node', more, p, val⟩ := countedEntry_fields combineVals { s with net := s.net.eraseIdx i } a n
  have stamp := countedEntry_stamp (comb := combineVals) (s := { s with net := s.net.eraseIdx i }) (a := a) (n := n) join (by exact node ▸ unmarked)
  obtain ⟨poi, kind, rest⟩ := countVal_says w combineVals (e0.a.getD nullTok) (Claims.arrival s a n)
  have same : nodeEntry { s with net := s.net.eraseIdx i } a n.tok.node = e0 := node
  rw [same] at more p val stamp
  refine ⟨_, countedEntry combineVals { s with net := s.net.eraseIdx i } a n, (tokenDelivery_node reaches).trans (congrArg _ ran), rfl, ?_, act, node',
    more, p, fun y hy other => ?_, stamp, _, val, poi, kind, rest⟩
  · exact List.mem_append_right _ (List.mem_singleton_self _)
  · refine List.mem_append_left _ (List.mem_filter.mpr ⟨hy, ?_⟩)
    rw [act, node']
    simpa [imp_iff_not_or] using other

/-! ## Mode tokens -/

/-- R122: a token at the mode port of a node takes no entry. -/
theorem matchToken_mode {comb : RecordWord → CombStep} {s : State} {a : Nat} {n : NetToken} (port : n.tok.port = .c)
    (inside : n.tok.node < imgNcnt (actOf s a).image) (mode : modeForm (recOpc (imgRec (actOf s a).image n.tok.node)) = true)
    (takes : consumes (imgRec (actOf s a).image n.tok.node) .c = true) (room : Bool) :
    matchToken comb s a n room = modeToken s (actOf s a).sleeve n.prod (actOf s a).blk n.tok.node n.tok.v := by
  unfold matchToken
  dsimp only
  rw [if_neg (by simp [inside, port, takes]), if_pos ⟨port, mode⟩]

theorem modeToken_held {s : State} {v a node : Nat} {blk : Word} {t : TokVal} (h : (actOf s a).st ≠ .committed) :
    modeToken s v a blk node t = updAct s a fun x => { x with modes := x.modes ++ [(v, blk, node, modeValue s v blk node t)] } :=
  if_neg h

theorem modeToken_acts {s : State} {v a node : Nat} {blk : Word} {t : TokVal} (h : (actOf s a).st = .committed) :
    modeToken s v a blk node t = modeEffect s v blk node (modeValue s v blk node t) :=
  if_pos h

theorem sleeveOf_updSleeve_other {s : State} {v u : Nat} (f : Sleeve → Sleeve) (h : u ≠ v) : sleeveOf (updSleeve s v f) u = sleeveOf s u := by
  unfold updSleeve
  split
  · simp [sleeveOf, lookupD_insertAt_other _ _ _ h]
  · rfl

/-- A change of a sleeve and of its lining shows on either, once or twice (R304). -/
theorem sleeveOf_lined {s : State} {v u : Nat} {f : Sleeve → Sleeve} (listed : (lookup s.sleeves v).isSome = true)
    (which : u = v ∨ u = (sleeveOf s v).liner) (listed' : (lookup s.sleeves u).isSome = true) :
    sleeveOf (updSleeve (updSleeve s v f) (sleeveOf s v).liner f) u = f (sleeveOf s u) ∨
    sleeveOf (updSleeve (updSleeve s v f) (sleeveOf s v).liner f) u = f (f (sleeveOf s u)) := by
  by_cases lined : u = (sleeveOf s v).liner
  · rw [← lined, sleeveOf_updSleeve_same (by rw [lookup_updSleeve_isSome]; exact listed')]
    by_cases self : u = v
    · right
      rw [self, sleeveOf_updSleeve_same listed]
    · left
      rw [sleeveOf_updSleeve_other _ self]
  · left
    rw [sleeveOf_updSleeve_other _ lined, which.resolve_right lined, sleeveOf_updSleeve_same listed]

section ModeEffect

variable {s : State} {v k : Nat} {b : Word} {x : TokVal}

/-- The modes of a sleeve but those of one node. -/
def otherModes (b : Word) (k : Nat) (y : Sleeve) : List (Word × Nat × Nat × Nat) := y.modes.filter fun m => !(m.1 == b && m.2.1 == k)

theorem modeEffect_null (h : x.kind = .null) : modeEffect s v b k x = s := if_pos h

section Value

variable (value : x.kind ≠ .null)

include value

theorem modeEffect_poisoned (poi : x.poi = true) : modeEffect s v b k x =
    updSleeve (updSleeve s v fun y => { y with badModes := (y.badModes.filter (· != (b, k))) ++ [(b, k)] }) (sleeveOf s v).liner
      fun y => { y with badModes := (y.badModes.filter (· != (b, k))) ++ [(b, k)] } := by
  unfold modeEffect
  simp only [value, poi, if_true, if_false]

variable (clean : x.poi = false)

include clean

theorem modeEffect_rec (rec' : x.word.toNat / 128 % 2 = 1) : modeEffect s v b k x =
    updSleeve (updSleeve s v fun y => { y with modes := otherModes b k y }) (sleeveOf s v).liner fun y => { y with modes := otherModes b k y } := by
  have bit : bits x.word.toNat 7 1 = 1 := rec'
  unfold modeEffect
  simp only [value, clean, bit, if_true, if_false, Bool.false_eq_true]
  rfl

variable (set : x.word.toNat / 128 % 2 = 0)

include set

theorem modeEffect_reserved (bad : x.word.toNat / 8 % 4 = 3 ∨ 6 ≤ x.word.toNat % 8) : modeEffect s v b k x = dead s (sleeveOf s v).part 1 := by
  have bit : ¬bits x.word.toNat 7 1 = 1 := fun h => absurd (h.symm.trans set) (by decide)
  have fields : bits x.word.toNat 3 2 = 3 ∨ 6 ≤ bits x.word.toNat 0 3 := by simpa [bits] using bad
  unfold modeEffect
  simp only [value, clean, bit, fields, if_true, if_false, Bool.false_eq_true]

theorem modeEffect_sets (sat : x.word.toNat / 8 % 4 ≠ 3) (rnd : x.word.toNat % 8 < 6) : modeEffect s v b k x =
    updSleeve (updSleeve s v fun y => { y with modes := otherModes b k y ++ [(b, k, x.word.toNat % 8, x.word.toNat / 8 % 4)] }) (sleeveOf s v).liner
      fun y => { y with modes := otherModes b k y ++ [(b, k, x.word.toNat % 8, x.word.toNat / 8 % 4)] } := by
  have bit : ¬bits x.word.toNat 7 1 = 1 := fun h => absurd (h.symm.trans set) (by decide)
  have low : bits x.word.toNat 0 3 = x.word.toNat % 8 := by simp [bits]
  have mid : bits x.word.toNat 3 2 = x.word.toNat / 8 % 4 := by simp [bits]
  have fields : ¬(x.word.toNat / 8 % 4 = 3 ∨ 6 ≤ x.word.toNat % 8) := by omega
  unfold modeEffect
  simp only [value, clean, bit, low, mid, fields, if_false, Bool.false_eq_true]
  rfl

end Value

end ModeEffect

theorem modeTokens : Claims.ModeTokens := by
  unfold Claims.ModeTokens
  constructor
  · intro s i a n reaches port k w v b inside mode takes
    have ran := (tokenDelivery_node reaches).trans (congrArg _ (matchToken_mode (s := { s with net := s.net.eraseIdx i }) port inside mode takes false))
    exact ⟨fun held => ran.trans (congrArg _ (modeToken_held (s := { s with net := s.net.eraseIdx i }) held)),
      fun done => ran.trans (congrArg _ (modeToken_acts (s := { s with net := s.net.eraseIdx i }) done))⟩
  · intro s v u b k x listed which listed' y val others
    refine ⟨modeEffect_null, fun value poi => ?_, fun value clean rec' => ?_, fun value clean set bad => ?_, fun value clean set sat rnd => ?_⟩
    · simp only [y]
      rw [modeEffect_poisoned value poi]
      rcases sleeveOf_lined listed which listed' with e | e <;> rw [e] <;> simp
    · simp only [y]
      rw [modeEffect_rec value clean rec']
      rcases sleeveOf_lined listed which listed' with e | e <;> rw [e] <;> simp [otherModes, others]
    · rw [modeEffect_reserved value clean set bad]
      rfl
    · simp only [y]
      rw [modeEffect_sets value clean set sat rnd]
      rcases sleeveOf_lined listed which listed' with e | e <;> rw [e] <;> simp [otherModes, others, val]

/-! ## Parity -/

theorem unitNamed_enCoord {e : Nat} (small : e < 2048) : unitNamed (enCoord e) = some (.en e) := by
  have coord : (enCoord e).toNat = e / 128 * 4096 + e % 128 := by
    unfold enCoord
    rw [BitVec.toNat_ofNat]
    omega
  have idx : ((enCoord e).extractLsb' 0 9).toNat = e % 128 := by
    rw [BitVec.extractLsb'_toNat, coord, Nat.shiftRight_zero]
    omega
  have kind : ((enCoord e).extractLsb' 9 3).toNat = 0 := by
    rw [BitVec.extractLsb'_toNat, coord, Nat.shiftRight_eq_div_pow]
    omega
  have grid : descGrid (enCoord e) = e / 128 := by
    unfold descGrid
    rw [BitVec.extractLsb'_toNat, coord, Nat.shiftRight_eq_div_pow]
    omega
  have whole : 128 * (e / 128) + e % 128 = e := Nat.div_add_mod e 128
  unfold unitNamed
  simp only [kind, idx, grid, whole]
  exact if_pos (Nat.mod_lt _ (by decide))

/-- A lasting failure sets the bad bit of the EN named. -/
theorem setBadUnit_en {s : State} {e : Nat} (small : e < 2048) : enBad (setBadUnit s (enCoord e)) e = true := by
  unfold setBadUnit
  rw [unitNamed_enCoord small]
  have inWord : e % 64 < 64 := Nat.mod_lt _ (by decide)
  simp [enBad, badBit, updRegs, inWord]

theorem setBadUnit_counts (s : State) (c : BitVec 16) :
    (setBadUnit s c).regs.tplc = s.regs.tplc ∧ (setBadUnit s c).regs.tptc = s.regs.tptc ∧ (setBadUnit s c).regs.plog = s.regs.plog := by
  unfold setBadUnit
  split <;> exact ⟨rfl, rfl, rfl⟩

/-- The token that goes on when its producer's copy is bad too: poisoned, with the parity of what it says now. -/
def poisonedRetry (n : NetToken) : NetToken :=
  let t := { n.kept with v := { n.kept.v with poi := true } }
  { n with tok := t, par := parityOf t, kept := t, keptPar := parityOf t }

section ParityCheck

variable {s : State} {n : NetToken} {c : BitVec 16} (bad : parityOf n.tok ≠ n.par)

include bad

theorem parityCheck_retried (good : parityOf n.kept = n.keptPar) : parityCheck s n (some c) =
    ({ n with tok := n.kept, par := n.keptPar }, updRegs s fun r => { r with plog := 1#1 ++ 0#1 ++ c, tptc := r.tptc + 1 }) := by
  unfold parityCheck
  rw [if_neg bad]
  exact if_pos good

theorem parityCheck_lasting (worse : parityOf n.kept ≠ n.keptPar) : parityCheck s n (some c) =
    (poisonedRetry n, setBadUnit (updRegs s fun r => { r with plog := 1#1 ++ 1#1 ++ c, tplc := r.tplc + 1 }) c) := by
  unfold parityCheck
  rw [if_neg bad]
  exact if_neg worse

end ParityCheck

theorem parityRetry : Claims.ParityRetry := by
  unfold Claims.ParityRetry
  intro s n bad
  refine ⟨fun good => ?_, fun worse => ?_⟩
  · rw [parityCheck_retried bad good]
    exact ⟨rfl, rfl, rfl⟩
  · rw [parityCheck_lasting bad worse]
    obtain ⟨tplc, -, plog⟩ := setBadUnit_counts (updRegs s fun r => { r with plog := 1#1 ++ 1#1 ++ n.unit, tplc := r.tplc + 1 }) n.unit
    refine ⟨rfl, tplc, plog, fun e small named => ?_⟩
    rw [named]
    exact setBadUnit_en small

end Sys2Proof.Machine
end

section
/-! PROOFS. Bits of memory: what a write of bits at an address leaves at every address (R141, R154), for the areas of the device. -/

namespace Sys2Proof.Machine

open Sys2Proof

/-! ## Bits of bytes -/

/-- A bit of a memory, by its bit address. -/
def bitAt (rd : Nat → Byte) (i : Nat) : Bool := (rd (i / 8)).getLsbD (i % 8)

theorem testBit_gatherBytes (rd : Nat → Byte) (b n j : Nat) :
    (gatherBytes rd b n).testBit j = (decide (j < 8 * n) && bitAt rd (8 * b + j)) := by
  induction n generalizing b j with
  | zero => simp [gatherBytes]
  | succ n ih =>
    rw [gatherBytes, Nat.add_comm, show (256 : Nat) = 2 ^ 8 from rfl, Nat.testBit_two_pow_mul_add _ (rd b).isLt]
    by_cases low : j < 8
    · have place : (8 * b + j) / 8 = b ∧ (8 * b + j) % 8 = j := by omega
      have inside : j < 8 * (n + 1) := by omega
      simp [low, bitAt, place, inside, BitVec.getLsbD]
    · have place : 8 * (b + 1) + (j - 8) = 8 * b + j := by omega
      have inside : j - 8 < 8 * n ↔ j < 8 * (n + 1) := by omega
      simp [low, ih, place, inside]

theorem testBit_gatherBits (rd : Nat → Byte) (a w j : Nat) : (gatherBits rd a w).testBit j = (decide (j < w) && bitAt rd (a + j)) := by
  have place : 8 * (a / 8) + (a % 8 + j) = a + j := by omega
  have inside : j < w → a % 8 + j < 8 * ((a % 8 + w + 7) / 8) := by omega
  unfold gatherBits
  rw [Nat.testBit_mod_two_pow, Nat.testBit_div_two_pow, testBit_gatherBytes, Nat.add_comm j, place]
  by_cases h : j < w
  · simp [h, inside h]
  · simp [h]

/-- The bytes of a write, as one number: what was there but for the bits that are written. -/
def spreadNum (rd : Nat → Byte) (a w v : Nat) : Nat :=
  let old := gatherBytes rd (a / 8) ((a % 8 + w + 7) / 8)
  old % 2 ^ (a % 8) + (v % 2 ^ w) * 2 ^ (a % 8) + old / 2 ^ (a % 8 + w) * 2 ^ (a % 8 + w)

theorem spreadBits_eq (rd : Nat → Byte) (a w v : Nat) : spreadBits rd a w v =
    (List.range ((a % 8 + w + 7) / 8)).map fun i => (a / 8 + i, BitVec.ofNat 8 (spreadNum rd a w v / 256 ^ i)) := by
  rfl

theorem testBit_spreadNum {rd : Nat → Byte} {a w v j : Nat} (inside : j < 8 * ((a % 8 + w + 7) / 8)) : (spreadNum rd a w v).testBit j =
    if a % 8 ≤ j ∧ j < a % 8 + w then v.testBit (j - a % 8) else bitAt rd (8 * (a / 8) + j) := by
  have sum : spreadNum rd a w v = 2 ^ (a % 8) * (2 ^ w * (gatherBytes rd (a / 8) ((a % 8 + w + 7) / 8) / 2 ^ (a % 8 + w)) + v % 2 ^ w) +
      gatherBytes rd (a / 8) ((a % 8 + w + 7) / 8) % 2 ^ (a % 8) := by
    unfold spreadNum
    dsimp only
    rw [pow_add]
    ring
  rw [sum, Nat.testBit_two_pow_mul_add _ (Nat.mod_lt _ (by positivity))]
  by_cases low : j < a % 8
  · have before : ¬(a % 8 ≤ j ∧ j < a % 8 + w) := by omega
    rw [if_pos low, if_neg before, Nat.testBit_mod_two_pow, testBit_gatherBytes]
    simp [low, inside]
  · rw [if_neg low, Nat.testBit_two_pow_mul_add _ (Nat.mod_lt _ (by positivity))]
    by_cases mid : j - a % 8 < w
    · rw [if_pos mid, if_pos ⟨by omega, by omega⟩, Nat.testBit_mod_two_pow]
      simp [mid]
    · have place : j - a % 8 - w + (a % 8 + w) = j := by omega
      rw [if_neg mid, if_neg (by omega), Nat.testBit_div_two_pow, testBit_gatherBytes, place]
      simp [inside]

/-! ## Writing bytes -/

/-- Bytes written at different addresses are read back, and no other byte changes. -/
theorem cellRead_writeBytes (m : List Host.Cell) (g : Nat → Nat) (f : Nat → Byte) (n : Nat) :
    (∀ x, (∀ k < n, g k ≠ x) → cellRead (writeBytes m ((List.range n).map fun i => (g i, f i))) x = cellRead m x) ∧
    ((∀ i < n, ∀ j < n, g i = g j → i = j) → ∀ k < n, cellRead (writeBytes m ((List.range n).map fun i => (g i, f i))) (g k) = f k) := by
  induction n with
  | zero => exact ⟨fun _ _ => rfl, fun _ k hk => absurd hk (by omega)⟩
  | succ n ih =>
    obtain ⟨others, same⟩ := ih
    have last (x : Nat) : cellRead (writeBytes m ((List.range (n + 1)).map fun i => (g i, f i))) x =
        cellRead (cellWrite (writeBytes m ((List.range n).map fun i => (g i, f i))) (g n) (f n)) x := by
      simp [writeBytes, List.range_succ]
    refine ⟨fun x off => ?_, fun distinct k hk => ?_⟩
    · rw [last, cellRead_cellWrite_other _ (off n (by omega)).symm]
      exact others x fun k hk => off k (by omega)
    · rw [last]
      by_cases e : k = n
      · rw [e, cellRead_cellWrite_same]
      · rw [cellRead_cellWrite_other _ fun h => e (distinct k hk n (by omega) h)]
        exact same (fun i hi j hj => distinct i (by omega) j (by omega)) k (by omega)

/-! ## The linear aperture -/

theorem digits_inj {m a r a' r' : Nat} (hr : r < m) (hr' : r' < m) (same : a * m + r = a' * m + r') : a = a' ∧ r = r' := by
  have low := congrArg (· % m) same
  simp only [Nat.mul_add_mod_self_right, Nat.mod_eq_of_lt hr, Nat.mod_eq_of_lt hr'] at low
  refine ⟨Nat.eq_of_mul_eq_mul_right (by omega : 0 < m) ?_, low⟩
  omega

/-- The fields of a canonical address, from the highest (Table 5.6). -/
theorem unitToCda_digits (stk pc v b : Nat) :
    unitToCda stk pc v b = ((((stk * 128 + pc) * 16 + v % 16) * 65536 + v / 16 / 4) * 4 + v / 16 % 4) * 256 + b := by
  unfold unitToCda
  ring

theorem unitToCda_inj {stk pc v b stk' pc' v' b' : Nat} (hpc : pc < 128) (hpc' : pc' < 128) (hv : v < 4194304) (hv' : v' < 4194304) (hb : b < 256)
    (hb' : b' < 256) (same : unitToCda stk pc v b = unitToCda stk' pc' v' b') : stk = stk' ∧ pc = pc' ∧ v = v' ∧ b = b' := by
  rw [unitToCda_digits, unitToCda_digits] at same
  obtain ⟨same, eb⟩ := digits_inj hb hb' same
  obtain ⟨same, ew⟩ := digits_inj (Nat.mod_lt _ (by decide)) (Nat.mod_lt _ (by decide)) same
  obtain ⟨same, ew'⟩ := digits_inj (by omega) (by omega) same
  obtain ⟨same, ebank⟩ := digits_inj (Nat.mod_lt _ (by decide)) (Nat.mod_lt _ (by decide)) same
  obtain ⟨estk, epc⟩ := digits_inj hpc hpc' same
  exact ⟨estk, epc, by omega, eb⟩

theorem linearToCda_inj {o o' : Nat} (h : o < deviceBytes) (h' : o' < deviceBytes) (same : linearToCda o = linearToCda o') : o = o' := by
  have size : deviceBytes = 515396075520 := rfl
  unfold linearToCda at same
  obtain ⟨estk, epc, ev, eb⟩ := unitToCda_inj (by omega) (by omega) (by omega) (by omega) (Nat.mod_lt _ (by decide)) (Nat.mod_lt _ (by decide)) same
  omega

/-! ## Bits of the linear aperture -/

/-- A bit of device memory, by its bit address of the linear aperture. -/
def linearBit (s : State) (i : Nat) : Bool := bitAt (devByte s 0) i

theorem linearBit_writeDev {s : State} {a w v i : Nat} (fits : a + w ≤ 8 * deviceBytes) (inside : i < 8 * deviceBytes) :
    linearBit (writeDev s 0 a w v) i = if a ≤ i ∧ i < a + w then v.testBit (i - a) else linearBit s i := by
  obtain ⟨others, same⟩ := cellRead_writeBytes s.mem (fun k => cdaOf 0 (a / 8 + k)) (fun k => BitVec.ofNat 8 (spreadNum (devByte s 0) a w v / 256 ^ k))
    ((a % 8 + w + 7) / 8)
  have written : (writeDev s 0 a w v).mem = writeBytes s.mem ((List.range ((a % 8 + w + 7) / 8)).map fun k =>
      (cdaOf 0 (a / 8 + k), BitVec.ofNat 8 (spreadNum (devByte s 0) a w v / 256 ^ k))) := by
    unfold writeDev
    rw [spreadBits_eq, List.map_map]
    rfl
  unfold linearBit bitAt
  have byte (o : Nat) : devByte (writeDev s 0 a w v) 0 o = cellRead (writeDev s 0 a w v).mem (cdaOf 0 o) := rfl
  rw [byte, written]
  by_cases among : a / 8 ≤ i / 8 ∧ i / 8 < a / 8 + (a % 8 + w + 7) / 8
  · obtain ⟨k, hk⟩ : ∃ k, i / 8 = a / 8 + k := ⟨i / 8 - a / 8, by omega⟩
    have distinct : ∀ k < (a % 8 + w + 7) / 8, ∀ j < (a % 8 + w + 7) / 8, cdaOf 0 (a / 8 + k) = cdaOf 0 (a / 8 + j) → k = j := by
      intro k hk j hj e
      have : a / 8 + k = a / 8 + j := linearToCda_inj (by omega) (by omega) e
      omega
    have place : 8 * (a / 8) + (i - 8 * (a / 8)) = i := by omega
    have bit : i % 8 + 8 * k = i - 8 * (a / 8) := by omega
    have lane : i - 8 * (a / 8) - a % 8 = i - a := by omega
    have range : a % 8 ≤ i - 8 * (a / 8) ∧ i - 8 * (a / 8) < a % 8 + w ↔ a ≤ i ∧ i < a + w := by omega
    have small : i % 8 < 8 := Nat.mod_lt _ (by decide)
    rw [hk, same distinct k (by omega), BitVec.getLsbD_ofNat, show (256 : Nat) ^ k = 2 ^ (8 * k) by rw [pow_mul]; rfl, Nat.testBit_div_two_pow, bit,
      testBit_spreadNum (by omega), place, lane]
    simp only [small, decide_true, Bool.true_and, range, bitAt, hk]
  · rw [others _ fun k hk e => among ?_, if_neg (by omega)]
    · rfl
    · have : a / 8 + k = i / 8 := linearToCda_inj (by omega) (by omega) e
      omega

/-! ## The words of an area -/

/-- Words put at an area of the linear aperture, bit by bit. -/
theorem linearBit_putAreaWords (ws : List Word) {s : State} {a i : Nat} (fits : a + 64 * ws.length ≤ 8 * deviceBytes) (inside : i < 8 * deviceBytes) :
    linearBit (putAreaWords s a ws) i =
      if a ≤ i ∧ i < a + 64 * ws.length then (ws.getD ((i - a) / 64) 0).getLsbD ((i - a) % 64) else linearBit s i := by
  induction ws generalizing s a with
  | nil =>
    rw [if_neg (by simp)]
    rfl
  | cons w ws ih =>
    rw [List.length_cons] at fits ⊢
    have low : a < 8 * deviceBytes := by omega
    have put : writeArea s a 64 w.toNat = writeDev s 0 a 64 w.toNat := if_pos low
    rw [putAreaWords, ih (by omega), put, linearBit_writeDev (by omega) inside]
    by_cases here : a ≤ i ∧ i < a + 64
    · have first : (i - a) / 64 = 0 ∧ (i - a) % 64 = i - a := by omega
      rw [if_neg (by omega), if_pos here, if_pos (by omega), first.1, first.2, List.getD_cons_zero]
      rfl
    · by_cases later : a + 64 ≤ i ∧ i < a + 64 + 64 * ws.length
      · have next : (i - a) / 64 = (i - (a + 64)) / 64 + 1 ∧ (i - a) % 64 = (i - (a + 64)) % 64 := by omega
        rw [if_pos later, if_pos (by omega), next.1, next.2, List.getD_cons_succ]
      · rw [if_neg later, if_neg here, if_neg (by omega)]

/-- A word put at an area of the linear aperture is read back (R75). -/
theorem readArea_putAreaWords {ws : List Word} {s : State} {a j : Nat} (fits : a + 64 * ws.length ≤ 8 * deviceBytes) (listed : j < ws.length) :
    readArea (putAreaWords s a ws) (a + 64 * j) 64 = (ws.getD j 0).toNat := by
  have low : a + 64 * j < 8 * deviceBytes := by omega
  unfold readArea
  rw [if_pos low]
  refine Nat.eq_of_testBit_eq fun k => ?_
  rw [readDev, testBit_gatherBits]
  by_cases small : k < 64
  · have bit : bitAt (devByte (putAreaWords s a ws) 0) (a + 64 * j + k) = _ := linearBit_putAreaWords ws fits (by omega)
    have place : (a + 64 * j + k - a) / 64 = j ∧ (a + 64 * j + k - a) % 64 = k := by omega
    rw [bit, if_pos (by omega), place.1, place.2]
    simp [small, BitVec.getLsbD]
  · have high : (ws.getD j 0).toNat.testBit k = false :=
      Nat.testBit_lt_two_pow ((ws.getD j 0).isLt.trans_le (Nat.pow_le_pow_right (by decide) (by omega)))
    rw [high, decide_eq_false small, Bool.false_and]

end Sys2Proof.Machine
end

section
/-! PROOFS. Tokens that are spilled and refilled (R75, R77), and the settlement of the token traffic. -/

namespace Sys2Proof.Machine

open Sys2Proof

/-! ## The device's own areas while no access has another effect (R157, R158, R171) -/

/-- What bringing sectors into the L2 leaves as it is: all but the L2, the victim cache and the count of misses. -/
def CachesOnly (s t : State) : Prop := t = { s with l2 := t.l2, victim := t.victim, misses := t.misses }

theorem CachesOnly.refl (s : State) : CachesOnly s s := rfl

theorem CachesOnly.trans {s t u : State} (h : CachesOnly s t) (k : CachesOnly t u) : CachesOnly s u := by
  unfold CachesOnly at *
  rw [k, h]

theorem CachesOnly.ite {s t u : State} {p : Prop} [Decidable p] (h : CachesOnly s t) (k : CachesOnly s u) : CachesOnly s (if p then t else u) := by
  split
  · exact h
  · exact k

theorem CachesOnly.quiet {s t : State} (h : CachesOnly s t) (q : Claims.Quiet s) : Claims.Quiet t := by
  unfold Claims.Quiet
  rw [h]
  exact q

theorem fromVictim_cachesOnly (s : State) (line : Nat) : CachesOnly s (fromVictim s line) := by
  unfold fromVictim
  split <;> rfl

theorem countMiss_cachesOnly {s : State} (q : Claims.Quiet s) (line region page : Nat) : CachesOnly s (countMiss s line region page) := by
  unfold countMiss
  simp only [q.1, Bool.false_eq_true, false_and, if_false]
  rfl

theorem fillState_quiet {s : State} (q : Claims.Quiet s) (cda : Nat) : fillState s cda = (false, s) := by
  obtain ⟨-, off, packed⟩ := q
  unfold fillState
  simp only [off, packed, Bool.not_false, if_true, List.isEmpty_nil, Bool.true_or, ite_self]

theorem touch_cachesOnly {s : State} (q : Claims.Quiet s) (loc : Loc) (counts : Bool) : CachesOnly s (touch s loc counts) := by
  unfold touch
  split
  · exact .refl s
  · exact .refl s
  · exact .refl s
  · rename_i line region page _ _ _
    have moved : CachesOnly s (fromVictim (if counts then countMiss s line region page else s) line) :=
      (CachesOnly.ite (countMiss_cachesOnly q line region page) (.refl s)).trans (fromVictim_cachesOnly _ line)
    refine .ite (.refl s) (.ite moved (.trans (t := Prod.snd _) ?filled rfl))
    case filled =>
      split
      · rw [fillState_quiet (moved.quiet q)]
        exact moved
      · exact moved

theorem soilAt_cachesOnly (s : State) (loc : Loc) (cmark big : Bool) : CachesOnly s (soilAt s loc cmark big) := by
  unfold soilAt
  split <;> rfl

theorem touchArea_cachesOnly {s : State} (q : Claims.Quiet s) (a n : Nat) : CachesOnly s (touchArea s a n) := by
  unfold touchArea
  generalize areaSectors a n = l
  induction l generalizing s with
  | nil => exact .refl s
  | cons loc l ih =>
    have one := touch_cachesOnly q loc true
    exact one.trans (ih (one.quiet q))

theorem soilArea_cachesOnly {s : State} (q : Claims.Quiet s) (a n : Nat) : CachesOnly s (soilArea s a n) := by
  have soil (l : List Loc) (t : State) : CachesOnly t (l.foldl (fun s x => soilAt s x false false) t) := by
    induction l generalizing t with
    | nil => exact .refl t
    | cons loc l ih => exact (soilAt_cachesOnly t loc false false).trans (ih _)
  exact (touchArea_cachesOnly q a n).trans (soil _ _)

/-- What a write to an area of the device leaves as it is. -/
theorem putAreaWords_rest (ws : List Word) (s : State) (a : Nat) :
    putAreaWords s a ws = { s with mem := (putAreaWords s a ws).mem, podMem := (putAreaWords s a ws).podMem } := by
  induction ws generalizing s a with
  | nil => rfl
  | cons w ws ih =>
    have one : writeArea s a 64 w.toNat = { s with mem := (writeArea s a 64 w.toNat).mem, podMem := (writeArea s a 64 w.toNat).podMem } := by
      unfold writeArea
      split <;> rfl
    rw [putAreaWords, ih, one]

theorem writeAreaWords_rest {s : State} (q : Claims.Quiet s) (a : Nat) (ws : List Word) : writeAreaWords s a ws =
    { s with mem := (writeAreaWords s a ws).mem, podMem := (writeAreaWords s a ws).podMem, l2 := (writeAreaWords s a ws).l2,
             victim := (writeAreaWords s a ws).victim, misses := (writeAreaWords s a ws).misses } := by
  have soiled := soilArea_cachesOnly q a (64 * ws.length)
  unfold CachesOnly at soiled
  unfold writeAreaWords
  rw [putAreaWords_rest, soiled]

/-! ## Refill -/

/-- A refilled token of right parity goes on as it is. The check is replaced in the body as it stands, for the kernel would compute the parity. -/
theorem refillCheck_good {s : State} {n : NetToken} {q : Nat} (good : parityOf n.tok = n.par) : refillCheck s n q = (n, s) := by
  obtain ⟨body, unfolded⟩ : ∃ body, @refillCheck = body := ⟨_, rfl⟩
  rw [unfolded]
  delta refillCheck at unfolded
  rw [← unfolded]
  beta_reduce
  extract_lets place
  rw [parityCheck_good (n := { n with unit := place }) good]

/-- R75: what TOKEN_REFILL does with a spilled token of right parity for a node of an activation. -/
theorem tokenRefill_node {s : State} {i a : Nat} {x : Spilled} (listed : s.spilled[i]? = some x) (may : mayRefill s i x = true)
    (good : parityOf x.t.tok = x.t.par) (dest : x.t.dest = .node a) : exec (.tokenRefill i) s =
      .next (matchToken combineVals (readSpilled (updPart { s with spilled := s.spilled.eraseIdx i } x.t.part fun p => { p with tkrc := p.tkrc + 1 }) x)
        a x.t true) := by
  show execTokenRefill i s = _
  unfold execTokenRefill
  rw [listed]
  congr 1
  show (if mayRefill s i x then _ else s) = _
  rw [if_pos may]
  extract_lets t
  rw [refillCheck_good good]
  show (match x.t.dest with | .node a => _ | .slot _ _ | .far => _) = _
  rw [dest]

theorem partOf_congr {s t : State} (h : t.parts = s.parts) (p : Nat) : partOf t p = partOf s p := by simp [partOf, h]

theorem readArea_congr {s t : State} (mem : t.mem = s.mem) (podMem : t.podMem = s.podMem) (a w : Nat) : readArea t a w = readArea s a w := by
  have byte : devByte t 0 = devByte s 0 := by funext o; simp only [devByte, mem]
  simp only [readArea, readDev, readPod, byte, podMem]

theorem tokenRefill : Claims.TokenRefill := by
  unfold Claims.TokenRefill
  intro s i a x quiet listed may good dest m
  have ran := tokenRefill_node listed may good dest
  generalize refilled : updPart { s with spilled := s.spilled.eraseIdx i } x.t.part (fun p => { p with tkrc := p.tkrc + 1 }) = u at ran
  have quietU : Claims.Quiet u := by rw [← refilled]; exact quiet
  have read : CachesOnly u (readSpilled u x) := touchArea_cachesOnly quietU _ _
  generalize readSpilled u x = w at ran read
  have acts : w.acts = s.acts := by rw [read, ← refilled]; rfl
  have entries : w.entries = s.entries := by rw [read, ← refilled]; rfl
  have cycle : w.cycle = s.cycle := by rw [read, ← refilled]; rfl
  have act : actOf w a = actOf s a := actOf_congr acts a
  have found : findEntry w a x.t.tok.node = findEntry s a x.t.tok.node := by simp only [findEntry, entries]
  have value : Claims.arrival w a x.t = Claims.arrival s a x.t := by simp only [Claims.arrival, act]
  have mW : Claims.Matchable w a x.t := by
    constructor
    · rw [act]; exact m.node
    · rw [act]; exact m.port
    · rw [act]; exact m.plain
    · rw [act]; exact m.noMode
    · rw [found]; exact m.free
  obtain ⟨matched, rest⟩ := matchToken_matched (comb := combineVals) (room := true) mW (.inr (.inl rfl))
  generalize matchToken combineVals w a x.t true = t at ran matched rest
  refine ⟨t, ran, ⟨?_, ?_⟩, ?_, ?_, ?_⟩
  · have entry := matched.entry
    rwa [act, found, value, cycle] at entry
  · have others := matched.others
    rwa [entries] at others
  · rw [rest, read, ← refilled]
    rfl
  · have parts : t.parts = u.parts := by rw [rest, read]
    rw [partOf_congr parts, ← refilled, partOf_updPart_same]
    rfl
  · rw [rest, read, ← refilled]
    rfl

/-! ## Spill -/

/-- Without its last operand a set is not complete. -/
theorem fedEntry_waits {s : State} {a : Nat} {n : NetToken} {p : Port} (other : p ≠ n.tok.port)
    (required : requires (imgRec (actOf s a).image n.tok.node) p = true) (missing : (findEntry s a n.tok.node).bind (·.port p) = none) :
    (fedEntry s a n).stamp = none := by
  have open' : entryFull (imgRec (actOf s a).image n.tok.node) (fedEntry s a n) = false := by
    refine List.all_eq_false.mpr ⟨p, by cases p <;> simp, ?_⟩
    simp [required, fedEntry_port, if_neg other, missing]
  rw [fedEntry_stamp, open']
  rfl

theorem entryBytes_put {w : RecordWord} {e e' : Entry} {p : Port} {v v' : TokVal} (same : ∀ q, e.port q = e'.port q)
    (kind : p ≠ .p → v.kind = v'.kind) : entryBytes w (e.put p v) = entryBytes w (e'.put p v') := by
  have a : e.a = e'.a := same .a
  have b : e.b = e'.b := same .b
  have c : e.c = e'.c := same .c
  have pp : e.p = e'.p := same .p
  unfold entryBytes
  cases p <;> simp_all [Entry.put]

/-- What a token that waits takes of its quad is what R49 says of it and what its entry holds. -/
theorem partnerNeed_one {s : State} {a : Nat} {n : NetToken} (waits : (fedEntry s a n).stamp = none) :
    partnerNeed s a n.tok.node [n] = fedNeed s a n := by
  have ports (q : Port) : ((findEntry s a n.tok.node).getD {}).port q = (nodeEntry s a n.tok.node).port q := by
    unfold nodeEntry
    cases findEntry s a n.tok.node with
    | none => cases q <;> rfl
    | some e => rfl
  have held : ((findEntry s a n.tok.node).getD {}).bytes = (nodeEntry s a n.tok.node).bytes := by
    unfold nodeEntry
    cases findEntry s a n.tok.node <;> rfl
  have kind : n.tok.port ≠ .p → (n.tok.v.cut (actOf s a).grant).kind = (Claims.arrival s a n).kind := by
    intro other
    simp [Claims.arrival, other]
  have open' : (fedEntry s a n).stamp.isSome = false := by rw [waits]; rfl
  unfold partnerNeed fedNeed
  rw [show (fedEntry s a n).bytes = entryBytes _ ((nodeEntry s a n.tok.node).put n.tok.port (Claims.arrival s a n)) from
    if_neg (ne_true_of_eq_false open'), ← entryBytes_put ports kind, ← held]
  rfl

theorem spillRoom_iff {s : State} {p : Nat} : spillRoom s p = true ↔
    (partOf s p).tksn ≠ 0 ∧ (s.spilled.filter fun y => y.t.part == p).length < 2 ^ (partOf s p).tksn := by
  simp [spillRoom]

theorem length_spillWords (n : NetToken) (free : Word) : (spillWords n free).length = 24 := by
  simp [spillWords]

/-- The state after a token has been spilled to an entry of its partition's area. -/
def spilledState (s : State) (n : NetToken) (q slot : Nat) (free : Word) : State :=
  let t := writeAreaWords { s with free := s.free + 1 + 1 } ((partOf s n.part).tksb.toNat + 1536 * slot) (spillWords n free)
  updPart { t with spilled := t.spilled ++ [{ t := n, quad := q, slot := slot }] } n.part fun x => { x with tksc := x.tksc + 1 }

/-- R75: with room in its partition's area, a token goes to an entry that no other holds. -/
theorem spill_room {s : State} {n : NetToken} {a q : Nat} (room : spillRoom s n.part = true) : ∃ slot free,
    spill s n a q = spilledState s n q slot free ∧ slot < 2 ^ (partOf s n.part).tksn ∧ ∀ y ∈ s.spilled, y.t.part = n.part → y.slot ≠ slot := by
  obtain ⟨-, few⟩ := spillRoom_iff.mp room
  unfold spill
  rw [if_pos room]
  dsimp only [choose, freeWord]
  generalize Config.pick s.free % 2 ^ (partOf s n.part).tksn = i
  generalize inUse : (s.spilled.filter fun y => y.t.part == n.part).map (·.slot) = used
  have len : used.length < 2 ^ (partOf s n.part).tksn := by rw [← inUse, List.length_map]; exact few
  obtain ⟨slot, found, among, unused⟩ := find?_unused (used := used) (nodup_cyclic i (2 ^ (partOf s n.part).tksn) (used.length + 1) len) (by simp)
  refine ⟨slot, Config.word (s.free + 1), ?_, ?_, fun y hy part e => unused ?_⟩
  · rw [found]
    rfl
  · obtain ⟨j, -, rfl⟩ := List.mem_map.mp among
    exact Nat.mod_lt _ (by positivity)
  · rw [← inUse]
    exact List.mem_map.mpr ⟨y, List.mem_filter.mpr ⟨hy, by simpa using part⟩, e⟩

theorem spilledState_rest {s : State} (quiet : Claims.Quiet s) (n : NetToken) (q slot : Nat) (free : Word) :
    spilledState s n q slot free = { s with
      free := s.free + 1 + 1, mem := (spilledState s n q slot free).mem, podMem := (spilledState s n q slot free).podMem,
      l2 := (spilledState s n q slot free).l2, victim := (spilledState s n q slot free).victim, misses := (spilledState s n q slot free).misses,
      spilled := s.spilled ++ [{ t := n, quad := q, slot := slot }],
      parts := (updPart s n.part fun x => { x with tksc := x.tksc + 1 }).parts } := by
  have written := writeAreaWords_rest (s := { s with free := s.free + 1 + 1 }) quiet ((partOf s n.part).tksb.toNat + 1536 * slot) (spillWords n free)
  unfold spilledState
  dsimp only
  generalize writeAreaWords { s with free := s.free + 1 + 1 } ((partOf s n.part).tksb.toNat + 1536 * slot) (spillWords n free) = t at written ⊢
  rw [written]
  rfl

theorem readArea_spilledState {s : State} {n : NetToken} {q slot j : Nat} {free : Word}
    (fits : (partOf s n.part).tksb.toNat + 1536 * slot + 1536 ≤ 8 * deviceBytes) (word : j < 24) :
    readArea (spilledState s n q slot free) ((partOf s n.part).tksb.toNat + 1536 * slot + 64 * j) 64 = ((spillWords n free).getD j 0).toNat := by
  have mem : (spilledState s n q slot free).mem =
      (writeAreaWords { s with free := s.free + 1 + 1 } ((partOf s n.part).tksb.toNat + 1536 * slot) (spillWords n free)).mem := by
    unfold spilledState
    simp only [updPart_mem]
  have podMem : (spilledState s n q slot free).podMem =
      (writeAreaWords { s with free := s.free + 1 + 1 } ((partOf s n.part).tksb.toNat + 1536 * slot) (spillWords n free)).podMem := by
    unfold spilledState
    simp only [updPart_podMem]
  rw [readArea_congr mem podMem, writeAreaWords]
  refine readArea_putAreaWords ?_ ?_
  · rw [length_spillWords]
    omega
  · rw [length_spillWords]
    exact word

theorem spill_parks {s : State} {n : NetToken} {a q : Nat} (full : spillRoom s n.part = false) (made : n.prod ≠ 0)
    (alive : actLive (actOf s n.prod) = true) : spill s n a q = park s n.prod n.prodNode { cls := .tagExhaust } (.token n q) := by
  unfold spill
  rw [if_neg (ne_true_of_eq_false full)]
  simp only [if_neg made, alive, if_true]

theorem tokenSpill : Claims.TokenSpill := by
  unfold Claims.TokenSpill
  intro s i a n reaches m quiet k w q x missing crowded
  obtain ⟨p, other, required, none'⟩ := missing
  have waits : (fedEntry s a n).stamp = none := fedEntry_waits other required none'
  have dest : ({ n with dest := .node a } : NetToken) = n := by rw [← reaches.flight.2.2.2]
  have noRoom : ¬((fedEntry s a n).stamp.isSome = true ∨ false = true ∨ (quadEntries s (nodeQuad s a n.tok.node) + (fedNeed s a n).1 ≤ 2048 ∧
      quadBytes s (nodeQuad s a n.tok.node) + (fedNeed s a n).2 ≤ 262144)) := by
    have : quadRoom s (nodeQuad s a n.tok.node) (fedNeed s a n) = false := partnerNeed_one waits ▸ crowded
    simpa [waits, quadRoom] using this
  have spills : exec (.tokenDelivery i) s = .next (spill { s with net := s.net.eraseIdx i } n a q) := by
    rw [tokenDelivery_node reaches, matchToken_plain (s := { s with net := s.net.eraseIdx i }) ⟨m.node, m.port, m.plain, m.noMode, m.free⟩, dest]
    exact congrArg _ (if_neg noRoom)
  refine ⟨fun area few fits => ?_, fun full made alive => ?_⟩
  · have room : spillRoom { s with net := s.net.eraseIdx i } n.part = true := spillRoom_iff.mpr ⟨area, few⟩
    obtain ⟨slot, free, ran, small, unused⟩ := spill_room (a := a) (q := q) room
    have rest := spilledState_rest (s := { s with net := s.net.eraseIdx i }) quiet n q slot free
    refine ⟨_, slot, free, spills.trans (congrArg _ ran), small, unused, ?_, ?_, ?_, ?_, ?_, ?_, fun j word => ?_⟩
    · rw [rest]
    · rw [partOf_congr (s := updPart { s with net := s.net.eraseIdx i } n.part fun x => { x with tksc := x.tksc + 1 }) (by rw [rest]),
        partOf_updPart_same]
      rfl
    · rw [rest]
    · rw [rest]
    · rw [rest]
    · rw [rest]
    · have entry : 1536 * slot + 1536 ≤ 1536 * 2 ^ x.tksn := by
        have : slot + 1 ≤ 2 ^ x.tksn := small
        omega
      exact readArea_spilledState (s := { s with net := s.net.eraseIdx i }) (le_trans (by rw [Nat.add_assoc]; exact Nat.add_le_add_left entry _) fits) word
  · have noArea : spillRoom { s with net := s.net.eraseIdx i } n.part = false := by
      refine eq_false_of_ne_true fun room => ?_
      obtain ⟨area, few⟩ := spillRoom_iff.mp room
      exact full.elim area fun h => absurd few (not_lt.mpr h)
    rw [spills]
    exact congrArg _ (spill_parks (s := { s with net := s.net.eraseIdx i }) noArea made alive)

/-- Settles O26: delivery comes down to the match of one token, and that to its entry, its count, its mode or its spill. -/
theorem tokenTraffic : Obligations.TokenTraffic := by
  exact ⟨tokenDelivery, tokenCounting, modeTokens, parityRetry, tokenSpill, tokenRefill⟩

end Sys2Proof.Machine
end

section
/-! PROOFS. What the decoder of node records refuses (R89, R97, R98): an OPC that Table 3.13 leaves out, and a word from which the format
of its form reads no record; and what it makes of the words of the spec's examples. -/

namespace Sys2Proof

open Sys2Proof.Claims

/-! ## Reserved codes of the common fields (Tables 3.6 to 3.8) -/

theorem TagOp.ofCode_reserved {x : BitVec 3} (h : 6 ≤ x.toNat) : TagOp.ofCode x = none := by
  unfold TagOp.ofCode
  split
  on_goal -1 => rfl
  all_goals omega

/-- A non-zero field of kind 00. -/
theorem Target.ofCode_reserved {x : BitVec 12} (kind : x.extractLsb' 10 2 = 0) (h : x ≠ 0) : Target.ofCode x = Option.none := by
  unfold Target.ofCode
  rw [kind]
  exact if_neg h

/-- The codes that the common fields of a record leave reserved (R89). -/
def ReservedCode (w : RecordWord) : Prop :=
  w.extractLsb' 80 4 = 7 ∨ w.extractLsb' 78 2 = 3 ∨ 6 ≤ (w.extractLsb' 73 3).toNat ∨
    (w.extractLsb' 71 2 = 0 ∧ w.extractLsb' 61 12 ≠ 0) ∨ (w.extractLsb' 59 2 = 0 ∧ w.extractLsb' 49 12 ≠ 0)

/-- KIND of the target field at bit `a` (Table 3.7). -/
theorem target_kind (w : RecordWord) (a : Nat) : (w.extractLsb' a 12).extractLsb' 10 2 = w.extractLsb' (a + 10) 2 := by
  refine BitVec.eq_of_getLsbD_eq fun i hi => ?_
  have inside : 10 + i < 12 := by omega
  simp [hi, inside, Nat.add_assoc]

theorem Common.ofWord_reserved {w : RecordWord} (h : ReservedCode w) : Common.ofWord w = none := by
  unfold Common.ofWord
  rcases h with ty | pm | tg | ⟨kind, t0⟩ | ⟨kind, t1⟩
  · simp [ty, Ty.ofCode]
  · simp [pm, PredMode.ofCode]
  · simp [TagOp.ofCode_reserved tg]
  · simp [Target.ofCode_reserved ((target_kind w 61).trans kind) t0]
  · simp [Target.ofCode_reserved ((target_kind w 49).trans kind) t1]

/-! ## Formats -/

/-- The formats of node records (Tables 3.9 to 3.12). -/
inductive Format where
  | g | m | t | c | x

namespace Format

variable {w : RecordWord} {o : Nat}

/-- The format of the form that an assigned OPC names (Table 3.14). -/
def ofOpc (o : Nat) : Format :=
  if o ∈ [0x08, 0x09, 0x15, 0x19, 0x1A, 0x1B] then .c
  else if 0x60 ≤ o ∧ o ≤ 0x6E ∨ 0x70 ≤ o ∧ o ≤ 0x78 then .m
  else if 0x80 ≤ o ∧ o ≤ 0x89 ∨ 0xA0 ≤ o ∧ o ≤ 0xA4 then .x
  else if 0x90 ≤ o ∧ o ≤ 0x98 then .t
  else .g

theorem ofOpc_c (h : o ∈ [0x08, 0x09, 0x15, 0x19, 0x1A, 0x1B]) : ofOpc o = .c := if_pos h

/-- The C-format forms stand in the first two rows of Table 3.13. -/
theorem not_mem_c_of_le (h : 0x20 ≤ o) : o ∉ [0x08, 0x09, 0x15, 0x19, 0x1A, 0x1B] := by
  intro c
  simp only [List.mem_cons, List.not_mem_nil, or_false] at c
  omega

theorem ofOpc_x (h : 0x80 ≤ o ∧ o ≤ 0x89 ∨ 0xA0 ≤ o ∧ o ≤ 0xA4) : ofOpc o = .x := by
  unfold ofOpc
  rw [if_neg (not_mem_c_of_le (by omega)), if_neg (by omega), if_pos h]

theorem ofOpc_t (h : 0x90 ≤ o ∧ o ≤ 0x98) : ofOpc o = .t := by
  unfold ofOpc
  rw [if_neg (not_mem_c_of_le (by omega)), if_neg (by omega), if_neg (by omega), if_pos h]

/-- No record of the format is read from the word. -/
def Illegible (w : RecordWord) : Format → Prop
  | .g => GRec.ofWord w = none
  | .m => MRec.ofWord w = none
  | .t => TRec.ofWord w = none
  | .c => CRec.ofWord w = none
  | .x => XRec.ofWord w = none

/-- Every format has the common fields. -/
theorem illegible_reserved (h : ReservedCode w) (F : Format) : F.Illegible w := by
  have common := Common.ofWord_reserved h
  cases F
  · simp [Illegible, GRec.ofWord, common]
  · simp [Illegible, MRec.ofWord, common]
  · simp [Illegible, TRec.ofWord, common]
  · simp [Illegible, CRec.ofWord, common]
  · simp [Illegible, XRec.ofWord, common]

theorem illegible_t (h : w.getLsbD 7 = true) : Illegible w .t := by
  simp [Illegible, TRec.ofWord, h]

theorem illegible_c (h : w.extractLsb' 32 14 ≠ 0) : Illegible w .c := by
  simp only [Illegible, CRec.ofWord, if_neg h]
  exact Option.bind_fun_none _

theorem illegible_x (h : w.extractLsb' 32 5 ≠ 0) : Illegible w .x := by
  simp only [Illegible, XRec.ofWord, if_neg h]
  exact Option.bind_fun_none _

end Format

/-! ## The form that an OPC names -/

/-- What an assigned OPC makes of what its format reads: a form of a record, else the refusal of a reserved field. -/
inductive Reading {α : Type} (r : Option α) : Except DecodeError Instr → Prop
  | form {x : α} (read : r = some x) (i : Instr) : Reading r (.ok i)
  | refused (dark : r = none) : Reading r (.error .reservedField)

namespace Reading

variable {α : Type} {r : Option α} {e : Except DecodeError Instr}

theorem of_none (h : Reading r e) (dark : r = none) : e = .error .reservedField := by
  cases h with
  | form read => exact absurd (dark.symm.trans read) nofun
  | refused => rfl

theorem ne_reservedOpc (h : Reading r e) (x : BitVec 8) : e ≠ .error (.reservedOpc x) := by
  cases h <;> simp

end Reading

namespace Format

variable {w : RecordWord} {e : Except DecodeError Instr} {F : Format}

/-- The form that a word stands for, or its refusal, comes from the record that the format reads. -/
def Reads (w : RecordWord) (e : Except DecodeError Instr) : Format → Prop
  | .g => Reading (GRec.ofWord w) e
  | .m => Reading (MRec.ofWord w) e
  | .t => Reading (TRec.ofWord w) e
  | .c => Reading (CRec.ofWord w) e
  | .x => Reading (XRec.ofWord w) e

theorem Reads.of_illegible (h : F.Reads w e) (dark : F.Illegible w) : e = .error .reservedField := by
  cases F <;> exact Reading.of_none h dark

theorem Reads.ne_reservedOpc (h : F.Reads w e) (x : BitVec 8) : e ≠ .error (.reservedOpc x) := by
  cases F <;> exact Reading.ne_reservedOpc h x

end Format

/-- Each row of Table 3.13 reads the word in the format that Table 3.14 gives its form. -/
theorem formOf_assigned {w : RecordWord} (h : assigned (w.extractLsb' 88 8).toNat = true) :
    (Format.ofOpc (w.extractLsb' 88 8).toNat).Reads w (formOf w) := by
  unfold formOf
  dsimp only
  generalize (w.extractLsb' 88 8).toNat = o at h ⊢
  simp only [assigned, List.any_cons, List.any_nil, Bool.or_eq_true, Bool.and_eq_true, decide_eq_true_eq, Bool.or_false] at h
  rcases h with h | h | h | h | h | h | h | h | h | h | h | h <;> obtain ⟨lo, hi⟩ := h <;> interval_cases o
  -- `whnf` picks the row, where `simp` leaves a match on a numeral with this many rows as it is.
  all_goals
    conv => arg 2; whnf
    split
    next read => exact Reading.form read _
    next dark => exact Reading.refused dark

theorem formOf_unassigned {w : RecordWord} (h : assigned (w.extractLsb' 88 8).toNat = false) :
    formOf w = .error (.reservedOpc (w.extractLsb' 88 8)) := by
  unfold formOf
  dsimp only
  split
  on_goal -1 => rfl
  -- Every other row has an OPC that is assigned.
  all_goals
    rename_i row
    rw [row] at h
    cases h

/-! ## What is refused -/

theorem decodeRecord_unassigned {w : RecordWord} (h : assigned (w.extractLsb' 88 8).toNat = false) :
    decodeRecord w = .error (.reservedOpc (w.extractLsb' 88 8)) := by
  simp only [decodeRecord, formOf_unassigned h]

theorem decodeRecord_assigned {w : RecordWord} (h : assigned (w.extractLsb' 88 8).toNat = true) (x : BitVec 8) :
    decodeRecord w ≠ .error (.reservedOpc x) := by
  have other := (formOf_assigned h).ne_reservedOpc x
  unfold decodeRecord
  cases form : formOf w with
  | error e => rwa [form] at other
  | ok i => cases valid : i.wf <;> simp [valid]

theorem decodeRecord_illegible {w : RecordWord} (h : (Format.ofOpc (w.extractLsb' 88 8).toNat).Illegible w) (i : Instr) :
    decodeRecord w ≠ .ok i := by
  cases known : assigned (w.extractLsb' 88 8).toNat with
  | false => simp [decodeRecord_unassigned known]
  | true => simp [decodeRecord, (formOf_assigned known).of_illegible h]

/-- Settles O58: a reserved OPC has no row of Table 3.13, and with a reserved code or bit the format of the form reads no record. -/
theorem reservedRefused : Obligations.ReservedRefused := by
  unfold Obligations.ReservedRefused Claims.ReservedRefused
  refine ⟨fun w => ⟨decodeRecord_unassigned, decodeRecord_assigned, fun lo hi bit => ?_, fun control bits => ?_, fun transfer bits => ?_⟩,
    fun w reserved => decodeRecord_illegible (Format.illegible_reserved reserved _)⟩
  · exact decodeRecord_illegible (by rw [Format.ofOpc_t ⟨lo, hi⟩]; exact Format.illegible_t bit)
  · exact decodeRecord_illegible (by rw [Format.ofOpc_c control]; exact Format.illegible_c bits)
  · exact decodeRecord_illegible (by rw [Format.ofOpc_x transfer]; exact Format.illegible_x bits)

/-- Settles O57: each word is concrete, and so is what the decoder makes of it. -/
theorem decodedWords : Obligations.DecodedWords := by
  unfold Obligations.DecodedWords Claims.DecodedWords
  refine ⟨?_, ?_, ?_, ?_, ?_, ?_, ?_, ?_, ?_⟩ <;> decide +kernel

end Sys2Proof
end

section
/-! PROOFS. The exact operations behind the float forms, as arithmetic of rational numbers (R117, R377). -/

namespace Sys2Proof.Machine

open Sys2Proof

/-! ## Numbers as rational numbers -/

/-- The rational number of a finite number's parts. -/
def ratOf (s : Bool) (n d : Nat) (e : Int) : ℚ := signedNum s n / d * (2 : ℚ) ^ e

theorem value_eq_some {a : Num} {p : ℚ} : Claims.value a = some p ↔ ∃ s n d e, a = .fin s n d e ∧ d ≠ 0 ∧ ratOf s n d e = p := by
  constructor
  · intro h
    match a, h with
    | .fin s n d e, h =>
      by_cases zero : d = 0 <;> simp only [Claims.value, zero, if_true, if_false, reduceCtorEq, Option.some.injEq] at h
      refine ⟨s, n, d, e, rfl, zero, ?_⟩
      rw [← h]
      cases s <;> simp [ratOf, signedNum]
  · rintro ⟨s, n, d, e, rfl, den, rfl⟩
    cases s <;> simp [Claims.value, ratOf, signedNum, den]

theorem value_fin {s : Bool} {n d : Nat} {e : Int} (den : d ≠ 0) : Claims.value (.fin s n d e) = some (ratOf s n d e) :=
  value_eq_some.mpr ⟨s, n, d, e, rfl, den, rfl⟩

theorem signedNum_cast (s : Bool) (n : Nat) : ((signedNum s n : Int) : ℚ) = (if s then -1 else 1) * n := by cases s <;> simp [signedNum]

theorem signedNum_not (s : Bool) (n : Nat) : signedNum (!s) n = -signedNum s n := by cases s <;> simp [signedNum]

theorem signedNum_scaleUp (s : Bool) (n : Nat) {k : Int} (up : 0 ≤ k) :
    ((signedNum s (scaleUp n k) : Int) : ℚ) = signedNum s n * (2 : ℚ) ^ k := by
  lift k to Nat using up
  cases s <;> simp [signedNum, scaleUp]

/-- A numerator with its sign is its own sign and magnitude. -/
theorem signedNum_natAbs (x : Int) : signedNum (decide (x < 0)) x.natAbs = x := by
  by_cases neg : x < 0 <;> simp only [signedNum, neg, decide_true, decide_false, if_true, Bool.false_eq_true, if_false] <;> omega

theorem ratOf_not (s : Bool) (n d : Nat) (e : Int) : ratOf (!s) n d e = -ratOf s n d e := by
  simp only [ratOf, signedNum_not, Int.cast_neg]
  ring

theorem ratOf_zero (s : Bool) (d : Nat) (e : Int) : ratOf s 0 d e = 0 := by simp [ratOf, signedNum]

/-- The common denominator and exponent of a sum. -/
theorem sumFin_eq (s1 : Bool) (n1 : Nat) {d1 : Nat} (e1 : Int) (s2 : Bool) (n2 : Nat) {d2 : Nat} (e2 : Int) (h1 : d1 ≠ 0) (h2 : d2 ≠ 0) :
    ∃ x : Int, sumFin s1 n1 d1 e1 s2 n2 d2 e2 = (x, d1 * d2, min e1 e2) ∧
      (x : ℚ) / (d1 * d2 : Nat) * (2 : ℚ) ^ min e1 e2 = ratOf s1 n1 d1 e1 + ratOf s2 n2 d2 e2 := by
  refine ⟨_, rfl, ?_⟩
  have den1 : (d1 : ℚ) ≠ 0 := Nat.cast_ne_zero.mpr h1
  have den2 : (d2 : ℚ) ≠ 0 := Nat.cast_ne_zero.mpr h2
  have two : (2 : ℚ) ≠ 0 := two_ne_zero
  rw [Int.cast_add, signedNum_scaleUp _ _ (by omega), signedNum_scaleUp _ _ (by omega), zpow_sub₀ two, zpow_sub₀ two]
  simp only [ratOf, signedNum_cast, Nat.cast_mul]
  field_simp

/-! ## The operations -/

theorem addNum_value (m : Rnd) {a b : Num} {p q : ℚ} (ha : Claims.value a = some p) (hb : Claims.value b = some q) :
    Claims.value (addNum m a b) = some (p + q) := by
  obtain ⟨s1, n1, d1, e1, rfl, h1, rfl⟩ := value_eq_some.mp ha
  obtain ⟨s2, n2, d2, e2, rfl, h2, rfl⟩ := value_eq_some.mp hb
  obtain ⟨x, sum, value'⟩ := sumFin_eq s1 n1 e1 s2 n2 e2 h1 h2
  simp only [addNum, sum]
  split
  next zero => rw [value_fin one_ne_zero, ratOf_zero, ← value', zero, Int.cast_zero, zero_div, zero_mul]
  next => rw [value_fin (Nat.mul_ne_zero h1 h2), ratOf, signedNum_natAbs, value']

theorem subNum_value (m : Rnd) {a b : Num} {p q : ℚ} (ha : Claims.value a = some p) (hb : Claims.value b = some q) :
    Claims.value (subNum m a b) = some (p - q) := by
  obtain ⟨s, n, d, e, rfl, den, rfl⟩ := value_eq_some.mp hb
  rw [sub_eq_add_neg, ← ratOf_not]
  exact addNum_value m ha (value_fin den)

theorem mulNum_value {a b : Num} {p q : ℚ} (ha : Claims.value a = some p) (hb : Claims.value b = some q) :
    Claims.value (mulNum a b) = some (p * q) := by
  obtain ⟨s1, n1, d1, e1, rfl, h1, rfl⟩ := value_eq_some.mp ha
  obtain ⟨s2, n2, d2, e2, rfl, h2, rfl⟩ := value_eq_some.mp hb
  rw [mulNum, value_fin (Nat.mul_ne_zero h1 h2)]
  have sign : (signedNum (s1 != s2) (n1 * n2) : ℚ) = signedNum s1 n1 * signedNum s2 n2 := by cases s1 <;> cases s2 <;> simp [signedNum]
  rw [ratOf, sign, Nat.cast_mul, zpow_add₀ two_ne_zero]
  simp only [ratOf]
  ring_nf

theorem divNum_value {a b : Num} {p q : ℚ} (ha : Claims.value a = some p) (hb : Claims.value b = some q) (hq : q ≠ 0) :
    Claims.value (divNum a b) = some (p / q) := by
  obtain ⟨s1, n1, d1, e1, rfl, h1, rfl⟩ := value_eq_some.mp ha
  obtain ⟨s2, n2, d2, e2, rfl, h2, rfl⟩ := value_eq_some.mp hb
  have num : n2 ≠ 0 := fun zero => hq (by rw [zero, ratOf_zero])
  rw [divNum, if_neg num, value_fin (Nat.mul_ne_zero h1 num)]
  have den1 : (d1 : ℚ) ≠ 0 := Nat.cast_ne_zero.mpr h1
  have den2 : (d2 : ℚ) ≠ 0 := Nat.cast_ne_zero.mpr h2
  have num2 : (n2 : ℚ) ≠ 0 := Nat.cast_ne_zero.mpr num
  simp only [ratOf, signedNum_cast, Nat.cast_mul, zpow_sub₀ (two_ne_zero : (2 : ℚ) ≠ 0)]
  cases s1 <;> cases s2 <;> simp <;> field_simp

theorem fmaNum_value (m : Rnd) {a b c : Num} {p q k : ℚ} (ha : Claims.value a = some p) (hb : Claims.value b = some q)
    (hc : Claims.value c = some k) : Claims.value (fmaNum m a b c) = some (p * q + k) := by
  have noNan : firstNan [a, b, c] = none := by
    obtain ⟨s1, n1, d1, e1, rfl, -⟩ := value_eq_some.mp ha
    obtain ⟨s2, n2, d2, e2, rfl, -⟩ := value_eq_some.mp hb
    obtain ⟨s3, n3, d3, e3, rfl, -⟩ := value_eq_some.mp hc
    rfl
  rw [fmaNum, noNan]
  exact addNum_value m (mulNum_value ha hb) hc

theorem scaleNum_value {a : Num} {p : ℚ} (ha : Claims.value a = some p) {n : Int} (lo : -1000 ≤ n) (hi : n ≤ 1000) :
    Claims.value (scaleNum a n) = some (p * (2 : ℚ) ^ n) := by
  obtain ⟨s, m, d, e, rfl, den, rfl⟩ := value_eq_some.mp ha
  rw [scaleNum, min_eq_right hi, max_eq_right lo, value_fin den, ratOf, ratOf, zpow_add₀ two_ne_zero, mul_assoc]

/-- The sign of a difference is that of its numerator over the common denominator and exponent. -/
theorem compare_value {a b : Num} {p q : ℚ} (ha : Claims.value a = some p) (hb : Claims.value b = some q) :
    a.compare b = some (if p < q then -1 else if p = q then 0 else 1) := by
  obtain ⟨s1, n1, d1, e1, rfl, h1, rfl⟩ := value_eq_some.mp ha
  obtain ⟨s2, n2, d2, e2, rfl, h2, rfl⟩ := value_eq_some.mp hb
  obtain ⟨x, sum, value'⟩ := sumFin_eq s1 n1 e1 (!s2) n2 e2 h1 h2
  rw [ratOf_not, ← sub_eq_add_neg, div_mul_eq_mul_div, mul_div_assoc] at value'
  have den : 0 < ((d1 * d2 : Nat) : ℚ) := Nat.cast_pos.mpr (Nat.mul_pos (Nat.pos_of_ne_zero h1) (Nat.pos_of_ne_zero h2))
  have scale : 0 < (2 : ℚ) ^ min e1 e2 / (d1 * d2 : Nat) := div_pos (zpow_pos two_pos _) den
  have below : x < 0 ↔ ratOf s1 n1 d1 e1 < ratOf s2 n2 d2 e2 := by
    rw [← sub_neg (b := ratOf s2 n2 d2 e2), ← value', mul_neg_iff, and_iff_left scale, or_iff_right (fun h => scale.not_gt h.2), Int.cast_lt_zero]
  have same : x = 0 ↔ ratOf s1 n1 d1 e1 = ratOf s2 n2 d2 e2 := by
    rw [← sub_eq_zero (b := ratOf s2 n2 d2 e2), ← value', mul_eq_zero, or_iff_left scale.ne', Int.cast_eq_zero]
  simp only [Num.compare, diffSign, sum, ← below, ← same]
  split
  next neg => rw [Int.sign_eq_neg_one_of_neg neg]
  next =>
    split
    next zero => rw [zero, Int.sign_zero]
    next => rw [Int.sign_eq_one_of_pos (by omega)]

theorem exactArithmetic : Claims.ExactArithmetic := fun m _ _ _ _ _ _ ha hb hc =>
  ⟨addNum_value m ha hb, subNum_value m ha hb, mulNum_value ha hb, divNum_value ha hb, fmaNum_value m ha hb hc,
    fun _ => scaleNum_value ha, compare_value ha hb⟩

end Sys2Proof.Machine
end

section
/-! PROOFS. Rounding (R117, R118, R126), and patterns of the float formats read and written back (R110, R118). -/

namespace Sys2Proof.Machine

open Sys2Proof

/-! ## Rounding to the unit (Table 4.3) -/

section
variable (neg : Bool) (draw n d : Nat)

theorem roundQuot_rne : roundQuot .rne neg draw n d = if d < 2 * (n % d) ∨ 2 * (n % d) = d ∧ n / d % 2 = 1 then n / d + 1 else n / d := by
  simp [roundQuot]

theorem roundQuot_rna : roundQuot .rna neg draw n d = if d ≤ 2 * (n % d) then n / d + 1 else n / d := by simp [roundQuot]

theorem roundQuot_rtz : roundQuot .rtz neg draw n d = n / d := rfl

theorem roundQuot_away : roundQuot (if neg then .rdn else .rup) neg draw n d = if n % d = 0 then n / d else n / d + 1 := by
  cases neg <;> simp [roundQuot]

theorem roundQuot_toward : roundQuot (if neg then .rup else .rdn) neg draw n d = n / d := by cases neg <;> simp [roundQuot]

theorem roundQuot_near (m : Rnd) : roundQuot m neg draw n d = n / d ∨ roundQuot m neg draw n d = n / d + 1 := by
  unfold roundQuot
  exact (ite_eq_or_eq _ _ _).symm

end

/-- What has no remainder is not rounded: RSR's sum is its draw, below 2^32. -/
theorem roundQuot_exact {m : Rnd} {neg : Bool} {draw n d : Nat} (den : 0 < d) (small : draw < 2 ^ 32) (whole : n % d = 0) :
    roundQuot m neg draw n d = n / d := by
  cases m <;> simp [roundQuot, whole, den.ne] <;> omega

theorem roundsToUnit : Claims.RoundsToUnit := by
  intro neg draw n d den
  have parts : d * (n / d) + n % d = n := Nat.div_add_mod n d
  have below : n % d < d := Nat.mod_lt n den
  have double (q : Nat) : 2 * q * d = 2 * (d * q) := by ring
  have above : d * (n / d + 1) = d * (n / d) + d := Nat.mul_succ d _
  refine ⟨?rne, ?rna, ?rtz, ?away, roundQuot_toward neg draw n d, roundQuot_near neg draw n d .rsr,
    fun whole small m => roundQuot_exact den small whole⟩
  case rne =>
    simp only [roundQuot_rne, double]
    split
    · rw [above]
      omega
    · omega
  case rna =>
    simp only [roundQuot_rna, double]
    split
    · rw [above]
      omega
    · omega
  case rtz =>
    simp only [roundQuot_rtz, Nat.mul_comm (n / d)]
    omega
  case away =>
    simp only [roundQuot_away, Nat.mul_comm _ d]
    split
    · omega
    · rw [above]
      omega

/-! ## The formats (Table 4.1) -/

/-- Below the sign bit a pattern is its exponent and its mantissa. -/
theorem fmtOf_width (t : Ty) : (fmtOf t).width - 1 = (fmtOf t).mb + (fmtOf t).eb := by cases t <;> rfl

theorem fmtOf_width_float {t : Ty} (float : t.isFloat = true) : (fmtOf t).width = t.width := by
  revert float
  cases t <;> decide

/-- The exponent field of a pattern. -/
def Fmt.expOf (f : Fmt) (x : Nat) : Nat := bits x f.mb f.eb

/-- A pattern without its sign bit: its exponent above its mantissa. -/
theorem Fmt.magnitude_eq {f : Fmt} (parts : f.width - 1 = f.mb + f.eb) (x : Nat) :
    x % 2 ^ (f.width - 1) = f.expOf x * 2 ^ f.mb + x % 2 ^ f.mb := by
  rw [parts, Nat.pow_add, Nat.mod_mul, Nat.mul_comm, Nat.add_comm]
  rfl

/-- The number of a sign, an exponent and a mantissa that are no special code (R110). -/
def Fmt.finite (f : Fmt) (s : Bool) (e m : Nat) : Num :=
  if e = 0 then .fin s m 1 (1 - (f.bias : Int) - f.mb) else .fin s (2 ^ f.mb + m) 1 ((e : Int) - f.bias - f.mb)

/-- A pattern of no NaN and no infinity stands for the number of its parts, and its magnitude is at most the format's largest. -/
theorem readFloat_finite {f : Fmt} {x : Nat} (parts : f.width - 1 = f.mb + f.eb) (noNan : (readFloat f x).isNan = false)
    (noInf : (readFloat f x).isInf = false) :
    readFloat f x = f.finite (decide (bits x (f.width - 1) 1 = 1)) (f.expOf x) (x % 2 ^ f.mb) ∧ x % 2 ^ (f.width - 1) ≤ f.maxCode := by
  have below : x % 2 ^ (f.width - 1) < 2 ^ (f.width - 1) := Nat.mod_lt _ (Nat.two_pow_pos _)
  cases codes : f.sp with
  | ieee =>
    by_cases special : bits x f.mb f.eb = 2 ^ f.eb - 1
    · by_cases zero : x % 2 ^ f.mb = 0 <;> simp [readFloat, codes, special, zero, Num.isNan, Num.isInf] at noNan noInf
    · have exp : f.expOf x + 1 ≤ 2 ^ f.eb - 1 := by
        have : bits x f.mb f.eb < 2 ^ f.eb := Nat.mod_lt _ (Nat.two_pow_pos _)
        unfold Fmt.expOf
        omega
      have mant : x % 2 ^ f.mb < 2 ^ f.mb := Nat.mod_lt _ (Nat.two_pow_pos _)
      have most : (f.expOf x + 1) * 2 ^ f.mb ≤ (2 ^ f.eb - 1) * 2 ^ f.mb := Nat.mul_le_mul_right _ exp
      refine ⟨by simp only [readFloat, codes, if_neg special]; rfl, ?_⟩
      rw [Fmt.magnitude_eq parts, Fmt.maxCode, codes]
      rw [Nat.add_mul] at most
      dsimp only
      omega
  | nanOnly =>
    by_cases special : x % 2 ^ (f.width - 1) = 2 ^ (f.width - 1) - 1
    · simp [readFloat, codes, special, Num.isNan] at noNan
    · refine ⟨by simp only [readFloat, codes, if_neg special]; rfl, ?_⟩
      rw [Fmt.maxCode, codes]
      dsimp only
      omega
  | none =>
    refine ⟨by simp only [readFloat, codes]; rfl, ?_⟩
    rw [Fmt.maxCode, codes]
    dsimp only
    omega

/-! ## Writing back what was read (R117, R118) -/

theorem floorLog2_one {n : Nat} (pos : n ≠ 0) : floorLog2 n 1 = Nat.log2 n := by
  have least : 2 ^ Nat.log2 n ≤ n := Nat.log2_self_le pos
  simp [floorLog2, fracOf, scaleUp, Nat.log2_def 1, least]

/-- An integer whose unit is that of its place in the format is not rounded. -/
theorem roundCode_place {f : Fmt} {m : Rnd} {neg : Bool} {draw n : Nat} {ex : Int} (pos : n ≠ 0) (small : draw < 2 ^ 32)
    (place : max ((Nat.log2 n : Int) + ex) (1 - (f.bias : Int)) - f.mb = ex) :
    roundCode f m neg draw n 1 ex = (ex + f.mb + f.bias - 1).toNat * 2 ^ f.mb + n := by
  have whole : roundQuot m neg draw n 1 = n := by rw [roundQuot_exact one_pos small (Nat.mod_one n), Nat.div_one]
  simp [roundCode, floorLog2_one pos, place, fracOf, scaleUp, whole]

theorem roundCode_subnormal {f : Fmt} {m : Rnd} {neg : Bool} {draw n : Nat} (pos : n ≠ 0) (small : draw < 2 ^ 32) (mant : n < 2 ^ f.mb) :
    roundCode f m neg draw n 1 (1 - (f.bias : Int) - f.mb) = n := by
  have log : Nat.log2 n < f.mb := (Nat.log2_lt pos).mpr mant
  rw [roundCode_place pos small (by omega), show 1 - (f.bias : Int) - f.mb + f.mb + f.bias - 1 = 0 by ring]
  simp

theorem roundCode_normal {f : Fmt} {m : Rnd} {neg : Bool} {draw n e : Nat} (exp : e ≠ 0) (small : draw < 2 ^ 32) (mant : n < 2 ^ f.mb) :
    roundCode f m neg draw (2 ^ f.mb + n) 1 ((e : Int) - f.bias - f.mb) = e * 2 ^ f.mb + n := by
  have pos : 2 ^ f.mb + n ≠ 0 := by have := Nat.two_pow_pos f.mb; omega
  have log : Nat.log2 (2 ^ f.mb + n) = f.mb := by
    rw [Nat.log2_eq_iff pos, Nat.pow_succ]
    omega
  obtain ⟨k, rfl⟩ := Nat.exists_eq_succ_of_ne_zero exp
  rw [roundCode_place pos small (by rw [log]; push_cast; omega),
    show ((k.succ : Nat) : Int) - f.bias - f.mb + f.mb + f.bias - 1 = (k : Nat) by push_cast; ring,
    Int.toNat_natCast, Nat.succ_mul, Nat.add_assoc]

theorem writeFloat_finite {f : Fmt} {m : Rnd} {sc : Sat} {draw : Nat} {s : Bool} {e n : Nat} (small : draw < 2 ^ 32) (mant : n < 2 ^ f.mb)
    (fits : e * 2 ^ f.mb + n ≤ f.maxCode) : writeFloat f m sc false draw (f.finite s e n) = f.code s (e * 2 ^ f.mb + n) := by
  by_cases exp : e = 0
  · subst exp
    by_cases zero : n = 0
    · simp [Fmt.finite, writeFloat, zero]
    · simp only [zero_mul, zero_add] at fits
      simp [Fmt.finite, writeFloat, zero, roundCode_subnormal zero small mant, Nat.not_lt.mpr fits]
  · simp [Fmt.finite, writeFloat, exp, roundCode_normal exp small mant, Nat.not_lt.mpr fits]

/-- A pattern is its sign bit and its magnitude. -/
theorem Fmt.code_bits {f : Fmt} {x : Nat} (width : 0 < f.width) (fits : x < 2 ^ f.width) :
    f.code (decide (bits x (f.width - 1) 1 = 1)) (x % 2 ^ (f.width - 1)) = x := by
  obtain ⟨w, width⟩ := Nat.exists_eq_succ_of_ne_zero width.ne'
  rw [width, Nat.pow_succ] at fits
  have sign : x / 2 ^ w < 2 := Nat.div_lt_of_lt_mul fits
  have parts : 2 ^ w * (x / 2 ^ w) + x % 2 ^ w = x := Nat.div_add_mod x _
  simp only [Fmt.code, bits, width, Nat.succ_sub_one, pow_one, decide_eq_true_eq]
  obtain high | high : x / 2 ^ w = 0 ∨ x / 2 ^ w = 1 := Nat.le_one_iff_eq_zero_or_eq_one.mp (Nat.lt_succ_iff.mp sign)
  · simpa [high] using parts
  · simpa [high] using parts

theorem floatRoundTrip : Claims.FloatRoundTrip := by
  intro t m sc draw x float fits small noNan noInf
  have parts := fmtOf_width t
  obtain ⟨reads, most⟩ := readFloat_finite parts noNan noInf
  have width : 0 < (fmtOf t).width := by cases t <;> decide
  rw [Fmt.magnitude_eq parts] at most
  rw [reads, writeFloat_finite small (Nat.mod_lt _ (Nat.two_pow_pos _)) most, ← Fmt.magnitude_eq parts,
    Fmt.code_bits width (fmtOf_width_float float ▸ fits)]

/-- Settles O9: the operations as arithmetic of ℚ, each rounding mode by its remainder, and a pattern's number in the unit of its own exponent. -/
theorem floatArithmetic : Obligations.FloatArithmetic := ⟨exactArithmetic, roundsToUnit, floatRoundTrip⟩

end Sys2Proof.Machine
end

section
/-! PROOFS. The fixed tree of a reduction (R133) and one step of it (R120, R359, R417). -/

namespace Sys2Proof.Machine

open Sys2Proof

/-! ## The tree by halves -/

section
variable (op : Nat → Nat → Nat)

theorem treeLevel_pair (x y : Option Nat) (l : List (Option Nat)) : treeLevel op (x :: y :: l) = Option.merge op x y :: treeLevel op l := by
  cases x <;> cases y <;> rfl

theorem treeLevel_append {n : Nat} {l : List (Option Nat)} (even : l.length = 2 * n) (l' : List (Option Nat)) :
    treeLevel op (l ++ l') = treeLevel op l ++ treeLevel op l' ∧ (treeLevel op l).length = n := by
  induction n generalizing l with
  | zero =>
    obtain rfl := List.length_eq_zero_iff.mp even
    exact ⟨rfl, rfl⟩
  | succ n ih =>
    match l, even with
    | x :: y :: l, even =>
      obtain ⟨joins, long⟩ := ih (l := l) (by simpa [Nat.mul_succ] using even)
      simp [treeLevel_pair, joins, long]

/-- The pairwise tree over twice as many positions joins the trees of its halves. -/
theorem treeReduce_append {k : Nat} {l l' : List (Option Nat)} (low : l.length = 2 ^ k) (high : l'.length = 2 ^ k) :
    treeReduce op (k + 1) (l ++ l') = Option.merge op (treeReduce op k l) (treeReduce op k l') := by
  induction k generalizing l l' with
  | zero =>
    obtain ⟨x, rfl⟩ := List.length_eq_one_iff.mp low
    obtain ⟨y, rfl⟩ := List.length_eq_one_iff.mp high
    simp [treeReduce, treeLevel_pair]
  | succ k ih =>
    have joins := treeLevel_append op (low.trans (Nat.pow_succ' ..)) l'
    have long := (treeLevel_append op (high.trans (Nat.pow_succ' ..)) []).2
    rw [treeReduce, joins.1, ih joins.2 long, treeReduce, treeReduce]

/-- Elements in the first of 2^k positions. -/
def padded (k : Nat) (l : List Nat) : List (Option Nat) := l.map some ++ List.replicate (2 ^ k - l.length) none

theorem length_padded {k : Nat} {l : List Nat} (fits : l.length ≤ 2 ^ k) : (padded k l).length = 2 ^ k := by
  simp only [padded, List.length_append, List.length_map, List.length_replicate]
  omega

theorem padded_halves (k : Nat) (l : List Nat) : padded (k + 1) l = padded k (l.take (2 ^ k)) ++ padded k (l.drop (2 ^ k)) := by
  rcases Nat.le_total l.length (2 ^ k) with short | long
  · have room : 2 ^ (k + 1) - l.length = (2 ^ k - l.length) + 2 ^ k := by rw [Nat.pow_succ]; omega
    rw [List.take_of_length_le short, List.drop_of_length_le short]
    simp only [padded, room, ← List.replicate_append_replicate, List.append_assoc, List.map_nil, List.nil_append, List.length_nil, Nat.sub_zero]
  · have room : 2 ^ (k + 1) - l.length = 2 ^ k - (l.length - 2 ^ k) := by rw [Nat.pow_succ]; omega
    simp only [padded, List.length_take, List.length_drop, min_eq_left long, Nat.sub_self, List.replicate_zero, List.append_nil, room]
    rw [← List.append_assoc, ← List.map_append, List.take_append_drop]

@[simp] theorem treeOver_nil (k : Nat) : Claims.treeOver op k [] = none := by
  induction k with
  | zero => rfl
  | succ k ih => simp [Claims.treeOver, ih]

theorem treeOver_succ (k : Nat) (l : List Nat) : Claims.treeOver op (k + 1) l =
    Option.merge op (Claims.treeOver op k (l.take (2 ^ k))) (Claims.treeOver op k (l.drop (2 ^ k))) := by
  rw [Claims.treeOver]
  cases Claims.treeOver op k (l.take (2 ^ k)) <;> cases Claims.treeOver op k (l.drop (2 ^ k)) <;> rfl

theorem treeReduce_padded {k : Nat} {l : List Nat} (fits : l.length ≤ 2 ^ k) : treeReduce op k (padded k l) = Claims.treeOver op k l := by
  induction k generalizing l with
  | zero =>
    match l, fits with
    | [], _ => rfl
    | [x], _ => rfl
  | succ k ih =>
    have low : (l.take (2 ^ k)).length ≤ 2 ^ k := List.length_take_le ..
    have high : (l.drop (2 ^ k)).length ≤ 2 ^ k := by rw [List.length_drop]; rw [Nat.pow_succ] at fits; omega
    rw [padded_halves, treeReduce_append op (length_padded low) (length_padded high), ih low, ih high, treeOver_succ]

theorem reduceTree_eq {l : List Nat} (fits : l.length ≤ 512) : reduceTree op l = (Claims.treeOver op 9 l).getD 0 :=
  congrArg (·.getD 0) (treeReduce_padded op (k := 9) fits)

/-- What holds of single elements, and of two joined lists when it holds of both, holds of the tree's result. -/
theorem treeOver_induction {R : List Nat → Nat → Prop} (one : ∀ x, R [x] x) (join : ∀ l l' x y, R l x → R l' y → R (l ++ l') (op x y))
    {k : Nat} {l : List Nat} (present : l ≠ []) (fits : l.length ≤ 2 ^ k) : ∃ z, Claims.treeOver op k l = some z ∧ R l z := by
  induction k generalizing l with
  | zero =>
    match l, present, fits with
    | [x], _, _ => exact ⟨x, rfl, one x⟩
  | succ k ih =>
    have low : (l.take (2 ^ k)).length ≤ 2 ^ k := List.length_take_le ..
    have high : (l.drop (2 ^ k)).length ≤ 2 ^ k := by rw [List.length_drop]; rw [Nat.pow_succ] at fits; omega
    have first : l.take (2 ^ k) ≠ [] := by simp [present]
    obtain ⟨x, left, holds⟩ := ih first low
    rw [treeOver_succ, left]
    by_cases rest : l.drop (2 ^ k) = []
    · rw [List.take_of_length_le (List.drop_eq_nil_iff.mp rest)] at holds
      rw [rest, treeOver_nil]
      exact ⟨x, rfl, holds⟩
    · obtain ⟨y, right, holds'⟩ := ih rest high
      rw [right]
      exact ⟨op x y, rfl, List.take_append_drop (2 ^ k) l ▸ join _ _ _ _ holds holds'⟩

end

/-! ## One step -/

theorem fmtOf_codes_lt (t : Ty) (neg : Bool) : (fmtOf t).nanCode neg < 2 ^ (fmtOf t).width ∧ (fmtOf t).infCode neg < 2 ^ (fmtOf t).width ∧
    (fmtOf t).maxCode < 2 ^ ((fmtOf t).width - 1) := by
  cases t <;> cases neg <;> decide

theorem Fmt.code_lt {f : Fmt} {c : Nat} (width : 0 < f.width) (neg : Bool) (fits : c < 2 ^ (f.width - 1)) : f.code neg c < 2 ^ f.width := by
  obtain ⟨w, width⟩ := Nat.exists_eq_succ_of_ne_zero width.ne'
  rw [Fmt.code, width, Nat.pow_succ]
  rw [width] at fits
  cases neg <;> simp at fits ⊢ <;> omega

/-- A rounded result is a pattern of its format (R118, R120). -/
theorem writeFloat_lt (t : Ty) (m : Rnd) (sc : Sat) (ftz : Bool) (draw : Nat) (x : Num) :
    writeFloat (fmtOf t) m sc ftz draw x < 2 ^ (fmtOf t).width := by
  have width : 0 < (fmtOf t).width := by cases t <;> decide
  have most := (fmtOf_codes_lt t true).2.2
  have fits (neg : Bool) {c : Nat} (h : c ≤ (fmtOf t).maxCode) : (fmtOf t).code neg c < 2 ^ (fmtOf t).width :=
    Fmt.code_lt width neg (h.trans_lt most)
  match x with
  | .nan neg =>
    simp only [writeFloat, satNan]
    split
    · exact Nat.two_pow_pos _
    · exact Nat.two_pow_pos _
    · exact (fmtOf_codes_lt t neg).1
  | .inf neg =>
    simp only [writeFloat, satInf]
    split
    · exact (fmtOf_codes_lt t neg).2.1
    · exact (fmtOf_codes_lt t neg).1
    · exact fits neg le_rfl
  | .fin neg n d e =>
    have overflows : satOverflow (fmtOf t) m sc neg < 2 ^ (fmtOf t).width := by
      unfold satOverflow
      split
      · split
        · exact (fmtOf_codes_lt t neg).2.1
        · exact fits neg le_rfl
      · split
        · exact (fmtOf_codes_lt t neg).1
        · exact fits neg le_rfl
      · exact fits neg le_rfl
    simp only [writeFloat]
    split_ifs with zero large flush
    · exact fits neg (Nat.zero_le _)
    · exact overflows
    · exact fits neg (Nat.zero_le _)
    · exact fits neg (Nat.not_lt.mp large)

theorem patternOf_lt (w : Nat) (z : Int) : patternOf w z < 2 ^ w := by
  rw [patternOf_ofInt]
  exact (BitVec.ofInt w z).isLt

theorem minMaxNum_lt {t : Ty} {max : Bool} {x y : Nat} {a b : Num} (hx : x < 2 ^ (fmtOf t).width) (hy : y < 2 ^ (fmtOf t).width) :
    minMaxNum (fmtOf t) max x y a b < 2 ^ (fmtOf t).width := by
  unfold minMaxNum
  split
  · exact (fmtOf_codes_lt t _).1
  · exact hy
  · exact hx
  · split_ifs <;> assumption

theorem satFloat_lt {t : Ty} {sc : Sat} {x : Nat} (hx : x < 2 ^ (fmtOf t).width) : satFloat t sc x < 2 ^ (fmtOf t).width := by
  unfold satFloat
  split
  · exact hx
  · exact writeFloat_lt ..

/-- A step of two patterns gives a pattern. -/
theorem redStep_lt {t : Ty} {code : Nat} {m : Rnd} {sc : Sat} {x y : Nat} (hx : x < 2 ^ t.width) (hy : y < 2 ^ t.width) :
    redStep t code m sc x y < 2 ^ t.width := by
  unfold redStep
  split
  case h_1 =>
    split
    next float =>
      rw [← fmtOf_width_float float]
      exact writeFloat_lt ..
    next => exact patternOf_lt ..
  case h_2 | h_3 =>
    split
    next float =>
      rw [← fmtOf_width_float float] at hx hy ⊢
      exact satFloat_lt (minMaxNum_lt hx hy)
    next => exact patternOf_lt ..
  all_goals exact Nat.mod_lt _ (Nat.two_pow_pos _)

/-- The signed reading of a number is that of its low bits as a bit vector. -/
theorem signedOf_eq_toInt {w : Nat} (hw : 0 < w) (x : Nat) : signedOf w x = (BitVec.ofNat w x).toInt := by
  rw [← signedOf_toNat hw, BitVec.toNat_ofNat]
  simp [signedOf]

theorem narrowInt_signed (w : Nat) (clamp : Bool) (z : Int) :
    narrowInt w false clamp z = patternOf w (if clamp then max (Claims.loOf false w) (min (Claims.hiOf false w) z) else z) := by
  have hi : ((2 ^ (w - 1) - 1 : Nat) : Int) = ((2 ^ (w - 1) : Nat) : Int) - 1 := by
    have := Nat.two_pow_pos (w - 1)
    omega
  simp only [narrowInt, Claims.loOf, Claims.hiOf, hi, Bool.false_eq_true, if_false]

/-- The model's step is that of the statements. -/
theorem reductionStep_eq (r : GRec) : Claims.reductionStep r = redStep r.c.ty r.c.fn.toNat r.rnd r.sat := by
  have width : 0 < r.c.ty.width := by have := ty_width_bounds r.c.ty; omega
  funext x y
  unfold Claims.reductionStep redStep satFloat
  dsimp only
  split
  case h_1 =>
    rw [narrowInt_signed, patternOf_ofInt, signedOf_eq_toInt width, signedOf_eq_toInt width]
    cases r.sat <;> rfl
  case h_2 | h_3 => rw [patternOf_ofInt, signedOf_eq_toInt width, signedOf_eq_toInt width]
  all_goals simp [BitVec.toNat_and, BitVec.toNat_or, BitVec.toNat_xor, Nat.and_mod_two_pow, Nat.or_mod_two_pow, Nat.xor_mod_two_pow]

/-! ## Reductions of elements (R133, R134) -/

/-- The reduction that the statements speak of. -/
def reduced (r : GRec) (nver : Nat) (l : List Nat) : Nat :=
  if nver = 7 ∧ r.c.ty.isFloat = true ∧ r.c.fn = 0 then (l.drop 1).foldl (Claims.reductionStep r) (l.headD 0)
  else (Claims.treeOver (Claims.reductionStep r) 9 l).getD 0

theorem reduceElems_eq {r : GRec} {nver : Nat} {l : List Nat} (fits : l.length ≤ 512) : reduceElems r nver l = reduced r nver l := by
  rw [reduceElems, reduced, reductionStep_eq]
  split
  · cases l <;> rfl
  · exact reduceTree_eq _ fits

theorem reduced_lt {r : GRec} {nver : Nat} {l : List Nat} (present : l ≠ []) (fits : l.length ≤ 512)
    (patterns : ∀ x ∈ l, x < 2 ^ r.c.ty.width) :
    reduced r nver l < 2 ^ r.c.ty.width := by
  rw [reduced, reductionStep_eq]
  split
  next =>
    obtain ⟨x, xs, rfl⟩ := List.exists_cons_of_ne_nil present
    obtain ⟨first, rest⟩ := List.forall_mem_cons.mp patterns
    exact List.foldlRecOn (motive := (· < 2 ^ r.c.ty.width)) xs _ first fun _ hb a ha => redStep_lt hb (rest a ha)
  next =>
    obtain ⟨z, tree, pattern⟩ := treeOver_induction (redStep r.c.ty r.c.fn.toNat r.rnd r.sat)
      (R := fun l z => (∀ x ∈ l, x < 2 ^ r.c.ty.width) → z < 2 ^ r.c.ty.width) (fun x h => h x (List.mem_singleton_self x))
      (fun _ _ _ _ hx hy h => redStep_lt (hx fun x m => h x (List.mem_append_left _ m)) (hy fun y m => h y (List.mem_append_right _ m)))
      (k := 9) present fits
    rw [tree]
    exact pattern patterns

end Sys2Proof.Machine
end

section
/-! PROOFS. Vectors that are made of elements and read back (R114, R115), and the reductions, scans and COMB steps on them (R133, R134, R359,
R417). -/

namespace Sys2Proof.Machine

open Sys2Proof

/-! ## Elements of a number -/

theorem mod_div_mod_two_pow {a b c : Nat} (inside : b + c ≤ a) (x : Nat) : x % 2 ^ a / 2 ^ b % 2 ^ c = x / 2 ^ b % 2 ^ c := by
  obtain ⟨k, rfl⟩ := Nat.exists_eq_add_of_le inside
  rw [Nat.add_assoc, Nat.pow_add, Nat.mod_mul_right_div_self, Nat.mod_mod_of_dvd _ (Nat.pow_dvd_pow 2 (Nat.le_add_right c k))]

theorem extractLsb'_ofNat_toNat {w a n : Nat} (inside : a + n ≤ w) (x : Nat) : ((BitVec.ofNat w x).extractLsb' a n).toNat = x / 2 ^ a % 2 ^ n := by
  rw [BitVec.extractLsb'_toNat, BitVec.toNat_ofNat, Nat.shiftRight_eq_div_pow, mod_div_mod_two_pow inside]

theorem natOfElems_elem (w : Nat) (l : List Nat) (i : Nat) : natOfElems w l / 2 ^ (w * i) % 2 ^ w = l.getD i 0 % 2 ^ w := by
  induction l generalizing i with
  | nil => simp [natOfElems]
  | cons x l ih =>
    cases i with
    | zero => simp [natOfElems]
    | succ i =>
      rw [natOfElems, Nat.mul_succ, Nat.add_comm (w * i), Nat.pow_add, ← Nat.div_div_eq_div_mul, Nat.add_mul_div_left _ _ (Nat.two_pow_pos w),
        Nat.div_eq_of_lt (Nat.mod_lt _ (Nat.two_pow_pos w)), Nat.zero_add, ih]
      rfl

theorem natOfElems_lt (w : Nat) (l : List Nat) : natOfElems w l < 2 ^ (w * l.length) := by
  induction l with
  | nil => simp [natOfElems]
  | cons x l ih =>
    rw [natOfElems, List.length_cons, Nat.mul_succ, Nat.add_comm (w * _), Nat.pow_add]
    have low : x % 2 ^ w < 2 ^ w := Nat.mod_lt _ (Nat.two_pow_pos w)
    calc x % 2 ^ w + 2 ^ w * natOfElems w l < 2 ^ w * (natOfElems w l + 1) := by rw [Nat.mul_succ]; omega
      _ ≤ 2 ^ w * 2 ^ (w * l.length) := Nat.mul_le_mul_left _ ih

theorem natOfLanes_eq (l : List Nat) : natOfLanes l = natOfElems 32 l := by
  induction l with
  | nil => rfl
  | cons x l ih => rw [natOfLanes, natOfElems, ih]

/-- A lane of a vector that was made of lanes (R30). -/
theorem vectorOf_lane {l : List Nat} {j : Nat} (inside : j < 32) : (vectorOf l).lane j = l.getD j 0 % 2 ^ 32 := by
  rw [← natOfElems_elem, ← natOfLanes_eq]
  exact extractLsb'_ofNat_toNat (by omega) _

/-! ## Elements of a vector -/

theorem ty_width_lane (t : Ty) : t.width = 64 ∨ t.width ≤ 32 := by cases t <;> decide

theorem extendTo_mod {n w : Nat} (fits : w ≤ n) (signed : Bool) (x : Nat) : extendTo n w signed x % 2 ^ w = x % 2 ^ w := by
  unfold extendTo
  split
  next =>
    have low : (2 : Int) ^ w ∣ 2 ^ n := pow_dvd_pow 2 fits
    zify
    rw [patternOf, Int.toNat_of_nonneg (Int.emod_nonneg _ (by positivity))]
    push_cast
    rw [Int.emod_emod_of_dvd _ low, signedOf]
    split <;> simp
  next => exact Nat.mod_mod _ _

theorem length_lanesOf (lm : LaneMode) (w : Nat) (signed : Bool) (n : Nat) (xs : List Nat) :
    (lanesOf lm w signed n xs).length = if lm = .packed then n else if w = 64 then 2 * xs.length else xs.length := by
  cases lm with
  | packed => simp [lanesOf]
  | scalar | vector =>
    simp only [lanesOf, reduceCtorEq, if_false]
    split
    · simp [Nat.mul_comm]
    · exact List.length_map _

theorem getD_flatMap_halves (f g : Nat → Nat) (xs : List Nat) {e : Nat} (inside : e < xs.length) :
    (xs.flatMap fun x => [f x, g x]).getD (2 * e) 0 = f (xs.getD e 0) ∧ (xs.flatMap fun x => [f x, g x]).getD (2 * e + 1) 0 = g (xs.getD e 0) := by
  induction xs generalizing e with
  | nil => cases inside
  | cons x xs ih =>
    cases e with
    | zero => exact ⟨rfl, rfl⟩
    | succ e => exact ih (Nat.lt_of_succ_lt_succ inside)

theorem vectorOf_append_lane {l rest : List Nat} {j : Nat} (inside : j < l.length) (small : j < 32) :
    (vectorOf (l ++ rest)).lane j = l.getD j 0 % 2 ^ 32 := by
  rw [vectorOf_lane small, List.getD_append _ _ _ _ inside]

/-- An element of 64 bits lies in two lanes (R115). -/
theorem elemOf_vectorOf_wide {n e : Nat} {signed : Bool} {xs rest : List Nat} (inside : e < xs.length) (small : 2 * xs.length ≤ 32) :
    elemOf .vector 64 (vectorOf (lanesOf .vector 64 signed n xs ++ rest)) e = xs.getD e 0 % 2 ^ 64 := by
  have long : (lanesOf .vector 64 signed n xs).length = 2 * xs.length := length_lanesOf ..
  have halves : (lanesOf .vector 64 signed n xs).getD (2 * e) 0 = xs.getD e 0 % 2 ^ 32 ∧
      (lanesOf .vector 64 signed n xs).getD (2 * e + 1) 0 = xs.getD e 0 / 2 ^ 32 % 2 ^ 32 := getD_flatMap_halves _ _ xs inside
  show (vectorOf _).lane _ + (vectorOf _).lane _ * 2 ^ 32 = _
  rw [vectorOf_append_lane (by omega) (by omega), vectorOf_append_lane (by omega) (by omega), halves.1, halves.2]
  omega

/-- An element of at most 32 bits has a lane of its own in LM 01 (R115). -/
theorem elemOf_vectorOf_narrow {w n e : Nat} {signed : Bool} {xs rest : List Nat} (width : w ≤ 32) (inside : e < xs.length)
    (small : xs.length ≤ 32) :
    elemOf .vector w (vectorOf (lanesOf .vector w signed n xs ++ rest)) e = xs.getD e 0 % 2 ^ w := by
  have narrow : w ≠ 64 := by omega
  have lanes : lanesOf .vector w signed n xs = xs.map (extendTo 32 w signed) := if_neg narrow
  have lane : elemOf .vector w (vectorOf (lanesOf .vector w signed n xs ++ rest)) e =
      (vectorOf (lanesOf .vector w signed n xs ++ rest)).lane e % 2 ^ w := if_neg narrow
  rw [lane, lanes, vectorOf_append_lane (by rwa [List.length_map]) (by omega), Nat.mod_mod_of_dvd _ (Nat.pow_dvd_pow 2 width),
    List.getD_eq_getElem _ _ (by rwa [List.length_map]), List.getElem_map, extendTo_mod width, List.getD_eq_getElem _ _ inside]

/-- Packed elements lie side by side in a lane (R115). -/
theorem elemOf_vectorOf_packed {w n e : Nat} {signed : Bool} {xs rest : List Nat} (inside : e < 32 / w * n) (small : n ≤ 32) :
    elemOf .packed w (vectorOf (lanesOf .packed w signed n xs ++ rest)) e = xs.getD e 0 % 2 ^ w := by
  have lane : e / (32 / w) < n := Nat.div_lt_of_lt_mul inside
  have places : 0 < 32 / w := Nat.pos_of_ne_zero fun zero => by simp [zero] at inside
  have place : e % (32 / w) < 32 / w := Nat.mod_lt _ places
  have bits : w * (e % (32 / w)) + w ≤ 32 := by
    rw [← Nat.mul_succ]
    exact (Nat.mul_le_mul_left w place).trans (Nat.mul_div_le 32 w)
  have made : (lanesOf .packed w signed n xs).getD (e / (32 / w)) 0 = natOfElems w ((xs.drop (32 / w * (e / (32 / w)))).take (32 / w)) := by
    rw [List.getD_eq_getElem _ _ (by simpa [lanesOf] using lane)]
    simp [lanesOf]
  show (vectorOf _).lane _ / _ % _ = _
  rw [vectorOf_append_lane (by simpa [lanesOf] using lane) (by omega), mod_div_mod_two_pow bits, made, natOfElems_elem]
  simp [List.getD_eq_getElem?_getD, List.getElem?_drop, place, Nat.div_add_mod]

/-- The elements of a vector whose first lanes were made of elements. -/
theorem elemOf_vectorOf {lm : LaneMode} {w n e : Nat} {signed : Bool} {xs rest : List Nat} (lanes : lm ≠ .scalar) (width : w = 64 ∨ w ≤ 32)
    (all : xs.length = placesOf lm w n) (small : n ≤ 32) (inside : e < xs.length) :
    elemOf lm w (vectorOf (lanesOf lm w signed n xs ++ rest)) e = xs.getD e 0 % 2 ^ w := by
  match lm, lanes with
  | .vector, _ =>
    rcases width with rfl | width
    · rw [placesOf, if_pos rfl] at all
      exact elemOf_vectorOf_wide inside (by omega)
    · rw [placesOf, if_neg (by omega)] at all
      exact elemOf_vectorOf_narrow width inside (by omega)
  | .packed, _ => exact elemOf_vectorOf_packed (by simpa [all, placesOf] using inside) small

theorem lanes_fit {lm : LaneMode} {w n : Nat} {signed : Bool} {xs : List Nat} (lanes : lm ≠ .scalar) (all : xs.length = placesOf lm w n) :
    (lanesOf lm w signed n xs).length ≤ n ∧ ((w = 64 → n % 2 = 0) → (lanesOf lm w signed n xs).length = n) := by
  rw [length_lanesOf]
  match lm, lanes with
  | .vector, _ =>
    simp only [placesOf] at all
    simp only [reduceCtorEq, if_false]
    split at all
    next wide =>
      simp only [wide, if_true, true_implies]
      omega
    next narrow =>
      simp only [narrow, if_false]
      omega
  | .packed, _ => simp

theorem lanes_present {lm : LaneMode} {w n : Nat} {signed : Bool} {xs : List Nat} (lanes : lm ≠ .scalar) (all : xs.length = placesOf lm w n)
    (present : 0 < xs.length) : lanesOf lm w signed n xs ≠ [] := by
  rw [← List.length_pos_iff, length_lanesOf]
  match lm, lanes with
  | .vector, _ =>
    simp only [reduceCtorEq, if_false]
    split <;> omega
  | .packed, _ =>
    rw [if_pos rfl]
    refine Nat.pos_of_ne_zero fun zero => present.ne' ?_
    rw [all, zero, placesOf, Nat.mul_zero]

theorem vectorOrNull_present {l : List Nat} (present : l ≠ []) : vectorOrNull l = vectorOf l := by
  cases l with
  | nil => exact absurd rfl present
  | cons => rfl

theorem vectorElems_present {lm : LaneMode} {w n : Nat} {signed : Bool} {xs : List Nat} (present : lanesOf lm w signed n xs ≠ []) :
    vectorElems lm w signed n xs = vectorOf (lanesOf lm w signed n xs) := by
  rw [← vectorOrNull_present present]
  rfl

theorem elementForm_vector {lm : LaneMode} {w wr n : Nat} {signed : Bool} {ops : List TokVal} {f : List Nat → Nat} (lanes : lm ≠ .scalar)
    (least : minLn ops = some n) : elementForm lm w wr signed ops f =
      vectorElems lm wr signed n ((List.range (placesOf lm w n)).map fun e => f (ops.map fun v => elemOf lm w v e)) := by
  unfold elementForm
  rw [least]
  cases lm with
  | scalar => exact absurd rfl lanes
  | vector => rfl
  | packed => rfl

theorem elemOf_lt (lm : LaneMode) (w : Nat) (v : TokVal) (e : Nat) : elemOf lm w v e < 2 ^ w := by
  have pattern (z : Nat) : z % 2 ^ w < 2 ^ w := Nat.mod_lt _ (Nat.two_pow_pos w)
  unfold elemOf
  split
  · exact pattern _
  · exact pattern _
  · split
    · exact pattern _
    · split
      next wide =>
        have low : v.lane (2 * e) < 2 ^ 32 := (laneOf v.val _).isLt
        have high : v.lane (2 * e + 1) < 2 ^ 32 := (laneOf v.val _).isLt
        rw [wide]
        omega
      next => exact pattern _
    · exact pattern _

theorem elemsOf_patterns (lm : LaneMode) (w : Nat) (v : TokVal) : ∀ x ∈ elemsOf lm w v, x < 2 ^ w := by
  intro x member
  unfold elemsOf at member
  split at member
  · rw [List.mem_singleton.mp member]
    exact elemOf_lt lm w v 0
  · rw [List.mem_singleton.mp member]
    exact elemOf_lt lm w v 0
  · obtain ⟨e, -, rfl⟩ := List.mem_map.mp member
    exact elemOf_lt lm w v e

theorem length_elemsOf {lm : LaneMode} {w : Nat} {v : TokVal} (vector : v.kind = .vector) : (elemsOf lm w v).length = placesOf lm w v.ln := by
  simp [elemsOf, vector]

/-! ## Scalar results -/

theorem signedOf_mod (w x : Nat) : signedOf w (x % 2 ^ w) = signedOf w x := by simp [signedOf]

/-- A scalar of an element is its low bits, extended by the rule of its type (R114). -/
theorem scalarElem_eq (t : Ty) (x : Nat) : scalarElem t.width (!t.isFloat) x =
    scalarOf (if t.isFloat then (BitVec.ofNat t.width x).setWidth 64 else (BitVec.ofNat t.width x).signExtend 64) := by
  have pos : 0 < t.width := by have := ty_width_bounds t; omega
  have low (sg : Bool) : scalarElem t.width sg x = scalarElem t.width sg (BitVec.ofNat t.width x).toNat := by
    rw [BitVec.toNat_ofNat]
    cases sg <;> simp [scalarElem, extendTo, signedOf_mod]
  cases t.isFloat
  · exact (low true).trans (scalarElem_signed pos _)
  · exact (low false).trans (scalarElem_unsigned _)

theorem scalarElem_signedOf (w x : Nat) : scalarElem w true x = scalarOf (BitVec.ofInt 64 (signedOf w x)) := by
  rw [scalarElem, extendTo, if_pos rfl, patternOf_ofInt, BitVec.ofNat_toNat, BitVec.setWidth_eq]

theorem setWidth_pattern {w x : Nat} (pattern : x < 2 ^ w) : (BitVec.ofNat w x).setWidth 64 = BitVec.ofNat 64 x := by
  apply BitVec.eq_of_toNat_eq
  rw [BitVec.toNat_setWidth, BitVec.toNat_ofNat, BitVec.toNat_ofNat, Nat.mod_eq_of_lt pattern]

/-! ## COMB (R359) -/

theorem minLn_pair {x y : TokVal} (vector : x.kind = .vector) (other : y.kind = .scalar ∨ y.kind = .vector ∧ x.ln ≤ y.ln) :
    minLn [x, y] = some x.ln := by
  rcases other with scalar | ⟨vector', least⟩
  · simp [minLn, vector, scalar]
  · simpa [minLn, vector, vector'] using Nat.min_eq_left least

theorem combSteps : Claims.CombSteps := by
  intro w96 r x y word _
  dsimp only
  have comb : combineVals w96 x y = elementForm r.lm r.c.ty.width r.c.ty.width (!r.c.ty.isFloat) [x, y] fun l =>
      Claims.reductionStep r (l.getD 0 0) (l.getD 1 0) := by
    rw [combineVals, word, reductionStep_eq]
  have width := ty_width_lane r.c.ty
  refine ⟨fun scalarX scalarY => ?scalar, fun vector lanes present small other => ?vector⟩
  case scalar =>
    rw [comb, elementForm_scalars (ty_width_bounds r.c.ty).2 (by simp [scalarX, scalarY]), scalarElem_eq]
    rfl
  case vector =>
    generalize steps : (List.range (placesOf r.lm r.c.ty.width x.ln)).map (fun e =>
      Claims.reductionStep r (elemOf r.lm r.c.ty.width x e) (elemOf r.lm r.c.ty.width y e)) = zs
    have all : zs.length = placesOf r.lm r.c.ty.width x.ln := by rw [← steps, List.length_map, List.length_range]
    have made : combineVals w96 x y = vectorOf (lanesOf r.lm r.c.ty.width (!r.c.ty.isFloat) x.ln zs ++ []) := by
      rw [comb, elementForm_vector lanes (minLn_pair vector other), List.append_nil,
        ← vectorElems_present (lanes_present lanes all (all ▸ present)), ← steps]
      rfl
    rw [made]
    refine ⟨rfl, fun even => ?_, fun e inside => ?_⟩
    · rw [List.append_nil]
      exact (lanes_fit lanes all).2 even
    · rw [elemOf_vectorOf lanes width all small (all ▸ inside), List.getD_eq_getElem _ _ (all ▸ inside)]
      simp only [← steps, List.getElem_map, List.getElem_range]
      rw [reductionStep_eq, Nat.mod_eq_of_lt (redStep_lt (elemOf_lt _ _ x e) (elemOf_lt _ _ y e))]

/-! ## REDL and SCNL -/

section
variable {r : GRec} {s : State} {x : TokVal}

theorem redl_clean (clean : Claims.Clean s r.c r.lit) (a : s.cur.a = some x) (present : elemsOf r.lm r.c.ty.width x ≠ [])
    (fits : (elemsOf r.lm r.c.ty.width x).length ≤ 512) : exec (.redl r) s = .next (Claims.sent s r.c r.lit
      (scalarElem r.c.ty.width (!r.c.ty.isFloat) (reduced r (partOf s s.cur.part).nver (elemsOf r.lm r.c.ty.width x)))) := by
  obtain ⟨unpoisoned, full, legal⟩ := clean
  have operand : opA (begin s r.c r.lit).cur = x := by simp [opA, begin, a]
  refine congrArg Host.Outcome.next ((fire_acts unpoisoned full legal).trans ?_)
  rw [← reduceElems_eq fits]
  dsimp only
  rw [operand]
  generalize elemsOf r.lm r.c.ty.width x = xs at present ⊢
  cases xs with
  | nil => exact absurd rfl present
  | cons => rfl

theorem scnl_clean (clean : Claims.Clean s r.c r.lit) (a : s.cur.a = some x) (vector : x.kind = .vector) :
    exec (.scnl r) s = .next (Claims.sent s r.c r.lit (vectorOrNull (scanLanes r (partOf s s.cur.part).nver x))) := by
  refine congrArg Host.Outcome.next ((firePure_clean clean _).trans ?_)
  have operand : opA (begin s r.c r.lit).cur = x := by simp [opA, begin, a]
  rw [operand, if_pos vector]
  rfl

/-- The reductions up to each element. -/
def scanned (r : GRec) (nver : Nat) (xs : List Nat) : List Nat := (List.range xs.length).map fun e => reduced r nver (xs.take (e + 1))

theorem length_scanned (nver : Nat) (xs : List Nat) : (scanned r nver xs).length = xs.length := by simp [scanned]

theorem scanned_getD {nver e : Nat} {xs : List Nat} (inside : e < xs.length) : (scanned r nver xs).getD e 0 = reduced r nver (xs.take (e + 1)) := by
  rw [List.getD_eq_getElem _ _ ((length_scanned nver xs).symm ▸ inside)]
  simp [scanned]

/-- SCNL's vector has A's lane count, the reductions first (R417). -/
theorem scan_vector {nver : Nat} (vector : x.kind = .vector) (lanes : r.lm ≠ .scalar) (present : elemsOf r.lm r.c.ty.width x ≠ [])
    (fits : (elemsOf r.lm r.c.ty.width x).length ≤ 512) : ∃ rest, vectorOrNull (scanLanes r nver x) =
      vectorOf (lanesOf r.lm r.c.ty.width (!r.c.ty.isFloat) x.ln (scanned r nver (elemsOf r.lm r.c.ty.width x)) ++ rest) ∧
      (vectorOrNull (scanLanes r nver x)).ln = x.ln := by
  have all : (scanned r nver (elemsOf r.lm r.c.ty.width x)).length = placesOf r.lm r.c.ty.width x.ln := by
    rw [length_scanned, length_elemsOf vector]
  have scan : (List.range (elemsOf r.lm r.c.ty.width x).length).map (fun j => reduceElems r nver ((elemsOf r.lm r.c.ty.width x).take (j + 1))) =
      scanned r nver (elemsOf r.lm r.c.ty.width x) :=
    List.map_congr_left fun j _ => reduceElems_eq ((List.length_take_le' ..).trans fits)
  have first := lanes_present (signed := !r.c.ty.isFloat) lanes all (by rw [length_scanned]; exact List.length_pos_iff.mpr present)
  have room := (lanes_fit (signed := !r.c.ty.isFloat) lanes all).1
  rw [vectorOrNull_present]
  · simp only [scanLanes, scan]
    refine ⟨_, rfl, ?_⟩
    simp only [vectorOf, List.length_append, List.length_replicate]
    omega
  · simp only [scanLanes, scan]
    exact List.append_ne_nil_of_left_ne_nil first _

end

theorem treeReductions : Claims.TreeReductions := by
  intro r s x clean a lanes _ w xs red present fits
  have width : w = 64 ∨ w ≤ 32 := ty_width_lane r.c.ty
  have patterns : ∀ z ∈ xs, z < 2 ^ w := elemsOf_patterns r.lm w x
  have step : red = reduced r (partOf s s.cur.part).nver := rfl
  rw [step]
  refine ⟨?redl, fun vector small => ?scnl⟩
  case redl =>
    rw [redl_clean clean a present fits, scalarElem_eq]
    rw [setWidth_pattern (reduced_lt present fits patterns)]
  case scnl =>
    obtain ⟨rest, made, ln⟩ := scan_vector (nver := (partOf s s.cur.part).nver) vector lanes present fits
    refine ⟨_, scnl_clean clean a vector, by rw [made]; rfl, ln, fun e inside => ?_⟩
    have begun : xs.take (e + 1) ≠ [] := by simp [present]
    rw [made, elemOf_vectorOf lanes width (by rw [length_scanned, length_elemsOf vector]) small (by rwa [length_scanned]), scanned_getD inside]
    exact Nat.mod_eq_of_lt (reduced_lt begun ((List.length_take_le' ..).trans fits) fun z member => patterns z (List.mem_of_mem_take member))

end Sys2Proof.Machine
end

section
/-! PROOFS. Reductions of integers as sums, least and greatest elements and combined patterns (R133, R417). -/

namespace Sys2Proof.Machine

open Sys2Proof

section
variable {r : GRec} {nver : Nat} {l : List Nat}

/-! ## Steps of integers, by code -/

theorem reductionStep_add (int : r.c.ty.isFloat = false) (fn : r.c.fn = 0) (wraps : r.sat = .none) (x y : Nat) :
    BitVec.ofNat r.c.ty.width (Claims.reductionStep r x y) = BitVec.ofNat r.c.ty.width x + BitVec.ofNat r.c.ty.width y := by
  have code : r.c.fn.toNat = 0 := by rw [fn]; rfl
  simp only [Claims.reductionStep, int, code, wraps, Bool.false_eq_true, if_true, if_false, BitVec.ofNat_toNat, BitVec.setWidth_eq, BitVec.ofInt_add,
    BitVec.ofInt_toInt]

/-- What a bit vector reads as, written back and read again. -/
theorem signedOf_ofInt_toInt (t : Ty) (b : BitVec t.width) : signedOf t.width (BitVec.ofInt t.width b.toInt).toNat = b.toInt := by
  have pos : 0 < t.width := by have := ty_width_bounds t; omega
  rw [signedOf_toNat pos, BitVec.ofInt_toInt]

theorem reductionStep_min (int : r.c.ty.isFloat = false) (fn : r.c.fn = 1) (x y : Nat) :
    signedOf r.c.ty.width (Claims.reductionStep r x y) = min (signedOf r.c.ty.width x) (signedOf r.c.ty.width y) := by
  have pos : 0 < r.c.ty.width := by have := ty_width_bounds r.c.ty; omega
  have code : r.c.fn.toNat = 1 := by rw [fn]; rfl
  rw [signedOf_eq_toInt pos x, signedOf_eq_toInt pos y]
  simp only [Claims.reductionStep, int, code, Bool.false_eq_true, if_false]
  rcases min_choice (BitVec.ofNat r.c.ty.width x).toInt (BitVec.ofNat r.c.ty.width y).toInt with h | h <;> rw [h] <;> exact signedOf_ofInt_toInt _ _

theorem reductionStep_max (int : r.c.ty.isFloat = false) (fn : r.c.fn = 2) (x y : Nat) :
    signedOf r.c.ty.width (Claims.reductionStep r x y) = max (signedOf r.c.ty.width x) (signedOf r.c.ty.width y) := by
  have pos : 0 < r.c.ty.width := by have := ty_width_bounds r.c.ty; omega
  have code : r.c.fn.toNat = 2 := by rw [fn]; rfl
  rw [signedOf_eq_toInt pos x, signedOf_eq_toInt pos y]
  simp only [Claims.reductionStep, int, code, Bool.false_eq_true, if_false]
  rcases max_choice (BitVec.ofNat r.c.ty.width x).toInt (BitVec.ofNat r.c.ty.width y).toInt with h | h <;> rw [h] <;> exact signedOf_ofInt_toInt _ _

theorem reductionStep_and (fn : r.c.fn = 3) (x y : Nat) :
    BitVec.ofNat r.c.ty.width (Claims.reductionStep r x y) = BitVec.ofNat r.c.ty.width x &&& BitVec.ofNat r.c.ty.width y := by
  have code : r.c.fn.toNat = 3 := by rw [fn]; rfl
  simp only [Claims.reductionStep, code, BitVec.ofNat_toNat, BitVec.setWidth_eq]

theorem reductionStep_or (fn : r.c.fn = 4) (x y : Nat) :
    BitVec.ofNat r.c.ty.width (Claims.reductionStep r x y) = BitVec.ofNat r.c.ty.width x ||| BitVec.ofNat r.c.ty.width y := by
  have code : r.c.fn.toNat = 4 := by rw [fn]; rfl
  simp only [Claims.reductionStep, code, BitVec.ofNat_toNat, BitVec.setWidth_eq]

theorem reductionStep_xor (fn : r.c.fn = 5) (x y : Nat) :
    BitVec.ofNat r.c.ty.width (Claims.reductionStep r x y) = BitVec.ofNat r.c.ty.width x ^^^ BitVec.ofNat r.c.ty.width y := by
  have code : r.c.fn.toNat = 5 := by rw [fn]; rfl
  simp only [Claims.reductionStep, code, BitVec.ofNat_toNat, BitVec.setWidth_eq]

/-! ## Reductions of integers -/

/-- An integer's reduction is the tree's under every NVER (R134). -/
theorem reduced_induction (int : r.c.ty.isFloat = false) {R : List Nat → Nat → Prop} (one : ∀ x, R [x] x)
    (join : ∀ l l' x y, R l x → R l' y → R (l ++ l') (Claims.reductionStep r x y)) (present : l ≠ []) (fits : l.length ≤ 512) :
    R l (reduced r nver l) := by
  obtain ⟨z, tree, holds⟩ := treeOver_induction (Claims.reductionStep r) one join (k := 9) present fits
  rw [reduced, if_neg (by simp [int]), tree]
  exact holds

theorem reduced_sum (int : r.c.ty.isFloat = false) (fn : r.c.fn = 0) (wraps : r.sat = .none) (present : l ≠ []) (fits : l.length ≤ 512) :
    BitVec.ofNat r.c.ty.width (reduced r nver l) = BitVec.ofNat r.c.ty.width l.sum := by
  refine reduced_induction int (R := fun l z => BitVec.ofNat r.c.ty.width z = BitVec.ofNat r.c.ty.width l.sum) (fun x => by simp)
    (fun l l' x y hx hy => ?_) present fits
  rw [reductionStep_add int fn wraps, hx, hy, List.sum_append, BitVec.ofNat_add]

/-- A step that gives the operand before the other in an order gives the first element in it. -/
theorem reduced_first (int : r.c.ty.isFloat = false) {before : Int → Int → Prop} (refl : ∀ a, before a a)
    (trans : ∀ a b c, before a b → before b c → before a c)
    (step : ∀ x y, let (i, j) := (signedOf r.c.ty.width x, signedOf r.c.ty.width y)
      signedOf r.c.ty.width (Claims.reductionStep r x y) = i ∧ before i j ∨ signedOf r.c.ty.width (Claims.reductionStep r x y) = j ∧ before j i)
    (present : l ≠ []) (fits : l.length ≤ 512) : signedOf r.c.ty.width (reduced r nver l) ∈ l.map (signedOf r.c.ty.width) ∧
      ∀ y ∈ l, before (signedOf r.c.ty.width (reduced r nver l)) (signedOf r.c.ty.width y) := by
  refine reduced_induction int (R := fun l z => signedOf r.c.ty.width z ∈ l.map (signedOf r.c.ty.width) ∧
    ∀ y ∈ l, before (signedOf r.c.ty.width z) (signedOf r.c.ty.width y)) (fun x => ?_) ?_ present fits
  · simp [refl]
  · rintro l l' x y ⟨inX, firstX⟩ ⟨inY, firstY⟩
    rw [List.map_append]
    rcases step x y with ⟨gives, order⟩ | ⟨gives, order⟩ <;> rw [gives]
    · exact ⟨List.mem_append_left _ inX, List.forall_mem_append.mpr ⟨firstX, fun z m => trans _ _ _ order (firstY z m)⟩⟩
    · exact ⟨List.mem_append_right _ inY, List.forall_mem_append.mpr ⟨fun z m => trans _ _ _ order (firstX z m), firstY⟩⟩

/-- A fold of an associative operation, started from its neutral element and joined to what it would have started from. -/
theorem foldl_start {α β : Type} (g : α → α → α) [Std.Associative g] {e : α} (right : ∀ b, g b e = b) (f : β → α) (b : α)
    (l : List β) : l.foldl (fun b y => g b (f y)) b = g b (l.foldl (fun b y => g b (f y)) e) := by
  rw [← List.foldl_map (f := f) (g := g), ← List.foldl_map (f := f) (g := g), ← List.foldl_assoc (op := g), right]

/-- A step that combines patterns by an associative operation combines all of them, in sequence. -/
theorem reduced_foldl (int : r.c.ty.isFloat = false)
    (g : BitVec r.c.ty.width → BitVec r.c.ty.width → BitVec r.c.ty.width) [assoc : Std.Associative g]
    {e : BitVec r.c.ty.width} (left : ∀ b, g e b = b) (right : ∀ b, g b e = b)
    (step : ∀ x y, BitVec.ofNat r.c.ty.width (Claims.reductionStep r x y) = g (BitVec.ofNat _ x) (BitVec.ofNat _ y))
    (present : l ≠ []) (fits : l.length ≤ 512) :
    BitVec.ofNat r.c.ty.width (reduced r nver l) = l.foldl (fun b y => g b (BitVec.ofNat _ y)) e := by
  refine reduced_induction int (R := fun l z => BitVec.ofNat _ z = l.foldl (fun b y => g b (BitVec.ofNat _ y)) e) (fun x => (left _).symm)
    (fun l l' x y hx hy => ?_) present fits
  rw [step, hx, hy, List.foldl_append]
  exact (foldl_start g right _ _ l').symm

theorem extendTo_signed {n w : Nat} (pos : 0 < w) (x : Nat) : extendTo n w true x = ((BitVec.ofNat w x).signExtend n).toNat := by
  rw [extendTo, if_pos rfl, patternOf_ofInt, signedOf_eq_toInt pos]
  rfl

/-- A lane of SCNL's vector of elements that have a lane of their own (R115, R417). -/
theorem scan_lane {x : TokVal} {e : Nat} (int : r.c.ty.isFloat = false) (vector : x.kind = .vector) (lanes : r.lm = .vector)
    (narrow : r.c.ty.width < 64) (small : x.ln ≤ 32) (inside : e < x.ln) : (vectorOrNull (scanLanes r nver x)).lane e =
      ((BitVec.ofNat r.c.ty.width (reduced r nver ((elemsOf r.lm r.c.ty.width x).take (e + 1)))).signExtend 32).toNat := by
  have pos : 0 < r.c.ty.width := by have := ty_width_bounds r.c.ty; omega
  have all : (elemsOf r.lm r.c.ty.width x).length = x.ln := by rw [length_elemsOf vector, lanes, placesOf, if_neg (by omega)]
  obtain ⟨rest, made, -⟩ := scan_vector (nver := nver) vector (by rw [lanes]; decide) (List.length_pos_iff.mp (by omega)) (by omega)
  generalize elemsOf r.lm r.c.ty.width x = xs at made all ⊢
  have scans : (scanned r nver xs).length = x.ln := (length_scanned nver xs).trans all
  have lane : lanesOf r.lm r.c.ty.width (!r.c.ty.isFloat) x.ln (scanned r nver xs) = (scanned r nver xs).map (extendTo 32 r.c.ty.width true) := by
    rw [lanes, int, Bool.not_false, lanesOf, if_neg (by omega)]
  rw [made, lane, vectorOf_append_lane (by rw [List.length_map]; omega) (by omega),
    List.getD_eq_getElem _ _ (by rw [List.length_map]; omega), List.getElem_map, ← List.getD_eq_getElem _ 0, scanned_getD (by omega),
    extendTo_signed pos]
  exact Nat.mod_eq_of_lt (BitVec.isLt _)

end

theorem integerReductions : Claims.Reductions := by
  intro r s x clean a int w xs present fits
  have pos : 0 < w := by have := ty_width_bounds r.c.ty; omega
  have redl := redl_clean clean a present fits
  rw [int, Bool.not_false] at redl
  have pattern {b : BitVec w} (h : BitVec.ofNat w (reduced r (partOf s s.cur.part).nver xs) = b) :
      exec (.redl r) s = .next (Claims.sent s r.c r.lit (scalarOf (b.signExtend 64))) := by
    rw [redl, ← h, scalarElem_signedOf, signedOf_eq_toInt pos]
    rfl
  have number : exec (.redl r) s = .next (Claims.sent s r.c r.lit (scalarOf (BitVec.ofInt 64
      (signedOf w (reduced r (partOf s s.cur.part).nver xs))))) := by rw [redl, scalarElem_signedOf]
  refine ⟨fun fn wraps => pattern (reduced_sum int fn wraps present fits), fun fn => ?min, fun fn => ?max,
    fun fn => pattern (reduced_foldl int (· &&& ·) (fun _ => BitVec.allOnes_and) (fun _ => BitVec.and_allOnes) (reductionStep_and fn) present fits),
    fun fn => pattern (reduced_foldl int (· ||| ·) (fun _ => BitVec.zero_or) (fun _ => BitVec.or_zero) (reductionStep_or fn) present fits),
    fun fn => pattern (reduced_foldl int (· ^^^ ·) (fun _ => BitVec.zero_xor) (fun _ => BitVec.xor_zero) (reductionStep_xor fn) present fits),
    fun fn wraps vector lanes narrow small => ?scnl⟩
  case min =>
    obtain ⟨member, least⟩ := reduced_first (nver := (partOf s s.cur.part).nver) int (before := (· ≤ ·)) le_refl (fun _ _ _ => le_trans)
      (fun x y => by dsimp only; rw [reductionStep_min int fn]; omega) present fits
    exact ⟨_, member, least, number⟩
  case max =>
    obtain ⟨member, most⟩ := reduced_first (nver := (partOf s s.cur.part).nver) int (before := (· ≥ ·)) le_refl
      (fun _ _ _ h k => le_trans k h) (fun x y => by dsimp only; rw [reductionStep_max int fn]; omega) present fits
    exact ⟨_, member, most, number⟩
  case scnl =>
    obtain ⟨rest, made, ln⟩ := scan_vector (nver := (partOf s s.cur.part).nver) vector (by rw [lanes]; decide) present fits
    refine ⟨_, scnl_clean clean a vector, by rw [made]; rfl, ln, fun e inside => ?_⟩
    rw [scan_lane int vector lanes narrow small inside, reduced_sum int fn wraps (by simpa using present) ((List.length_take_le' ..).trans fits)]

/-- Settles O11: the tree is taken by halves, and what a step keeps or combines, the reduction keeps or combines of all its elements. -/
theorem reductions : Obligations.Reductions := ⟨integerReductions, treeReductions, combSteps⟩

end Sys2Proof.Machine
end

section
/-! PROOFS. The converting forms on a scalar (R121, R129, R366, R371, R407, R411), and O10, which fails: its clause on QBLK names no type, and of a
64-bit type no element fits a packed lane. `convertForms`, `qblk_narrow`, `dqbk_scalar` and `pack_scalar` are what of its statement holds. -/

namespace Sys2Proof.Machine

open Sys2Proof

/-! ## A firing of a converting form -/

section
variable {r : GRec} {s : State} {x : TokVal}

theorem modeOf_record (free : Claims.NoMode s) : modeOf s s.cur r = (r.rnd, r.sat) := by
  have none : ((sleeveOf s s.cur.sleeve).modes.find? fun m => m.1 == s.cur.blk && m.2.1 == s.cur.node) = none :=
    List.find?_eq_none.mpr fun m member => by simpa using free.1 m member
  rw [modeOf, none]

theorem fireConvert_acts (one : Claims.OneScalar r s x) (body : Rnd × Sat → Firing → State → State) :
    fireConvert s r body = body (r.rnd, r.sat) (begin s r.c r.lit).cur (begin s r.c r.lit) := by
  obtain ⟨-, -, ⟨unpoisoned, full, legal⟩, free⟩ := one
  have good : (sleeveOf s s.cur.sleeve).badModes.contains (s.cur.blk, s.cur.node) = false := by simpa using free.2
  have mode : modeOf (begin s r.c r.lit) (begin s r.c r.lit).cur r = (r.rnd, r.sat) := modeOf_record (s := begin s r.c r.lit) free
  simp only [fireConvert, good, Bool.false_eq_true, if_false, fire_acts unpoisoned full legal, mode]

theorem opA_scalar (one : Claims.OneScalar r s x) : opA (begin s r.c r.lit).cur = x := by simp [opA, begin, one.1]

/-- A scalar A has one element, whatever the lane mode (R366). -/
theorem convertForm_scalar (scalar : x.kind = .scalar) (signed : Bool) (conv : Nat × Nat → Nat → Nat) :
    convertForm r signed x conv = scalarElem r.c.ty.width signed (conv (0, 0) (x.word.setWidth (srcTy r).width).toNat) := by
  have pattern : elemOf r.lm (srcTy r).width x 0 = (x.word.setWidth (srcTy r).width).toNat := by
    rw [← scalar_pattern (ty_width_bounds _).2, elemOf.eq_def, scalar]
  simp only [convertForm, scalar, pattern]

/-! ## CVT and CVTS -/

theorem scalarElem_extended {w : Nat} (pos : 0 < w) (u : Bool) (y : BitVec w) : scalarElem w (!u) y.toNat = scalarOf (Claims.extended u y) := by
  cases u
  · exact scalarElem_signed pos y
  · exact scalarElem_unsigned y

/-- A number in the range of an element keeps its value when the element is extended (R114). -/
theorem extended_ofInt {w : Nat} (pos : 0 < w) {u : Bool} {z : Int} (lo : Claims.loOf u w ≤ z) (hi : z ≤ Claims.hiOf u w) :
    Claims.extended u (BitVec.ofInt w z) = BitVec.ofInt 64 z := by
  cases u with
  | false =>
    simp only [Claims.loOf, Claims.hiOf, Bool.false_eq_true, if_false] at lo hi
    push_cast at lo hi
    show BitVec.ofInt 64 (BitVec.ofInt w z).toInt = _
    rw [BitVec.toInt_ofInt_eq_self pos lo (by omega)]
  | true =>
    simp only [Claims.loOf, Claims.hiOf, if_true] at lo hi
    lift z to Nat using lo
    have below : z < 2 ^ w := by omega
    simp only [Claims.extended, if_true, BitVec.ofInt_natCast]
    exact setWidth_pattern below

theorem narrowInt_eq (w : Nat) (u clamp : Bool) (z : Int) : narrowInt w u clamp z =
    (BitVec.ofInt w (if clamp then max (Claims.loOf u w) (min (Claims.hiOf u w) z) else z)).toNat := by
  have whole := Nat.two_pow_pos w
  have half := Nat.two_pow_pos (w - 1)
  have most : ((2 ^ w - 1 : Nat) : Int) = ((2 ^ w : Nat) : Int) - 1 := by omega
  have top : ((2 ^ (w - 1) - 1 : Nat) : Int) = ((2 ^ (w - 1) : Nat) : Int) - 1 := by omega
  simp only [narrowInt, Claims.loOf, Claims.hiOf, most, top, patternOf_ofInt]

theorem loOf_le_hiOf (u : Bool) (w : Nat) : Claims.loOf u w ≤ Claims.hiOf u w := by
  have whole := Nat.two_pow_pos w
  have half := Nat.two_pow_pos (w - 1)
  cases u <;> simp only [Claims.loOf, Claims.hiOf, Bool.false_eq_true, if_true, if_false] <;> omega

theorem readElem_setWidth (t : Ty) (u : Bool) (x : Word) : readElem t u (x.setWidth t.width).toNat = readElem t u x.toNat := by
  simp [readElem, BitVec.toNat_setWidth, signedOf_mod]

theorem writeInt_lt (w : Nat) (u : Bool) (m : Rnd) (draw : Nat) (z : Num) : writeInt w u m draw z < 2 ^ w := by
  cases z with
  | nan => exact Nat.two_pow_pos w
  | inf => exact patternOf_lt ..
  | fin => exact patternOf_lt ..

/-- A number as the result of CVT or CVTS of a scalar. -/
theorem scalarElem_converted (z : Num) :
    scalarElem r.c.ty.width (dstSigned r) (toElem r.c.ty (r.aux.getLsbD 5) r.rnd r.sat (Claims.drawOf s r) z) = Claims.converted s r z := by
  have pos : 0 < r.c.ty.width := by have := ty_width_bounds r.c.ty; omega
  cases float : r.c.ty.isFloat with
  | true => simp [dstSigned, toElem, Claims.converted, float, scalarElem, extendTo]
  | false =>
    have pattern := writeInt_lt r.c.ty.width (r.aux.getLsbD 5) r.rnd (Claims.drawOf s r) z
    simp only [dstSigned, toElem, Claims.converted, float, Bool.not_false, Bool.true_and, Bool.false_eq_true, if_false]
    rw [← scalarElem_extended pos, BitVec.toNat_ofNat, Nat.mod_eq_of_lt pattern]

theorem cvt_scalar (one : Claims.OneScalar r s x) : exec (.cvt r) s = .next (Claims.sent s r.c r.lit (scalarElem r.c.ty.width (dstSigned r)
    (convertElem (srcTy r) (r.aux.getLsbD 4) r.c.ty (r.aux.getLsbD 5) r.rnd r.sat (Claims.drawOf s r) (x.word.setWidth (srcTy r).width).toNat))) := by
  refine congrArg Host.Outcome.next ((fireConvert_acts one _).trans ?_)
  rw [opA_scalar one, convertForm_scalar one.2.1]
  rfl

/-- CVT between integers (R121). -/
theorem convertElem_int {src dst : Ty} (int : src.isFloat = false) (int' : dst.isFloat = false) (su du : Bool) (m : Rnd) (sc : Sat) (draw : Nat)
    (a : BitVec src.width) : convertElem src su dst du m sc draw a.toNat =
      narrowInt dst.width du (sc != .none) (if su then (a.toNat : Int) else a.toInt) := by
  have pos : 0 < src.width := by have := ty_width_bounds src; omega
  simp only [convertElem, int, int', Bool.not_false, Bool.and_self, if_true, Nat.mod_eq_of_lt a.isLt, signedOf_toNat pos]

theorem convertElem_number {src dst : Ty} (float : src.isFloat = true ∨ dst.isFloat = true) (su du : Bool) (m : Rnd) (sc : Sat) (draw x : Nat) :
    convertElem src su dst du m sc draw x = toElem dst du m sc draw (readElem src su x) := by
  rcases float with float | float <;> simp [convertElem, float]

end

theorem convertForms : Claims.ConvertForms := by
  intro r s x one
  have pos : 0 < r.c.ty.width := by have := ty_width_bounds r.c.ty; omega
  refine ⟨fun int int' wraps => ?wrap, fun int int' clamps => ?clamp, fun float => ?number, fun y b => ?scaled⟩
  case wrap =>
    rw [cvt_scalar one, convertElem_int int int', narrowInt_eq, dstSigned, int', Bool.not_false, Bool.true_and, scalarElem_extended pos, wraps]
    rfl
  case clamp =>
    have clamp : (r.sat != .none) = true := by simpa using clamps
    rw [cvt_scalar one, convertElem_int int int', narrowInt_eq, dstSigned, int', Bool.not_false, Bool.true_and, scalarElem_extended pos,
      clamp, if_pos rfl, extended_ofInt pos (le_max_left ..) (max_le (loOf_le_hiOf ..) (min_le_left ..))]
    rfl
  case number =>
    rw [cvt_scalar one, convertElem_number float, readElem_setWidth, scalarElem_converted]
    rfl
  case scaled =>
    refine congrArg Host.Outcome.next ((fireConvert_acts one _).trans ?_)
    have scale : low32 ((begin s r.c r.lit).cur.b.getD nullTok) = y.lane 0 := by simp [low32, begin, b]
    dsimp only
    rw [opA_scalar one, convertForm_scalar one.2.1, readElem_setWidth, scale]
    exact congrArg (Claims.sent s r.c r.lit) (scalarElem_converted _)

/-! ## QBLK, DQBK and PACK -/

section
variable {r : GRec} {s : State} {x : TokVal}

theorem lanesIn_scalar (scalar : x.kind = .scalar) : lanesIn x = [x.lane 0] := by simp [lanesIn, scalar, low32]

/-- The largest magnitude of one number is its own; a zero's is zero (R129). -/
theorem maxMagnitude_one (neg : Bool) {n d : Nat} (den : d ≠ 0) (e : Int) :
    maxMagnitude [.fin neg n d e] = if n = 0 then .zero false else .fin false n d e := by
  have order := compare_value (a := .zero false) (value_fin one_ne_zero) (value_fin (s := false) (n := n) (e := e) den)
  rw [ratOf_zero] at order
  simp only [maxMagnitude, List.foldl_cons, List.foldl_nil, Num.withSign, order, Option.getD_some]
  by_cases zero : n = 0
  · simp [zero, ratOf_zero]
  · have num : (0 : ℚ) < n := Nat.cast_pos.mpr (Nat.pos_of_ne_zero zero)
    have den' : (0 : ℚ) < d := Nat.cast_pos.mpr (Nat.pos_of_ne_zero den)
    have pos : 0 < ratOf false n d e := mul_pos (div_pos (by simpa [signedNum] using num) den') (zpow_pos two_pos e)
    simp [zero, pos]

/-- The scale of one element (R129). -/
def scaleOf (t : Ty) (a : Num) : Nat :=
  if a.isZero then 0x3F800000 else writeFloat (fmtOf .f32) .rup .none false 0 (divNum (a.withSign false) (largestOf t))

theorem blockQuantise_one (t : Ty) (m : Rnd) (sc : Sat) (draw : Nat → Nat) (neg : Bool) {n d : Nat} (den : d ≠ 0) (e : Int) :
    blockQuantise t m sc draw [.fin neg n d e] =
      (scaleOf t (.fin neg n d e), [toElem t false m sc (draw 0) (divNum (.fin neg n d e) (ofF32 (scaleOf t (.fin neg n d e))))]) := by
  have scale : (if (maxMagnitude [.fin neg n d e]).isZero then 0x3F800000
      else writeFloat (fmtOf .f32) .rup .none false 0 (divNum (maxMagnitude [.fin neg n d e]) (largestOf t))) = scaleOf t (.fin neg n d e) := by
    rw [maxMagnitude_one neg den]
    by_cases zero : n = 0 <;> simp [scaleOf, zero, Num.isZero, Num.zero, Num.withSign]
  simp only [blockQuantise, List.any_cons, List.any_nil, Num.isNan, Num.isInf, Bool.or_false, Bool.false_eq_true, if_false, scale]
  rfl

/-- QBLK of a scalar sends its one element in packed lanes, as many as hold it, and the scale (R129, R411). -/
theorem qblk_scalar (one : Claims.OneScalar r s x) (noNan : (readFloat (fmtOf .f32) (x.lane 0)).isNan = false)
    (noInf : (readFloat (fmtOf .f32) (x.lane 0)).isInf = false) :
    let a := readFloat (fmtOf .f32) (x.lane 0)
    let q := toElem r.c.ty false r.rnd r.sat (Claims.drawOf s r) (divNum a (readFloat (fmtOf .f32) (scaleOf r.c.ty a)))
    exec (.qblk r) s = .next (sendTarget (sendTarget (begin s r.c r.lit) (begin s r.c r.lit).cur r.c.t0
        (vectorElems .packed r.c.ty.width false (32 / r.c.ty.width / (32 / r.c.ty.width)) [q]))
      (begin s r.c r.lit).cur r.c.t1 (scalarOf (BitVec.ofNat 64 (scaleOf r.c.ty a % 2 ^ 32)))) := by
  refine congrArg Host.Outcome.next ((fireConvert_acts one _).trans ?_)
  have finite : ∃ neg n e, readFloat (fmtOf .f32) (x.lane 0) = .fin neg n 1 e := by
    rw [(readFloat_finite (fmtOf_width .f32) noNan noInf).1, Fmt.finite]
    split
    · exact ⟨_, _, _, rfl⟩
    · exact ⟨_, _, _, rfl⟩
  obtain ⟨neg, n, e, a⟩ := finite
  dsimp only
  rw [opA_scalar one, lanesIn_scalar one.2.1, List.map_cons, List.map_nil, ofF32, a, blockQuantise_one _ _ _ _ neg one_ne_zero]
  simp only [List.length_singleton, Nat.add_sub_cancel_left, drawPlace, Nat.zero_div, Nat.zero_mod]
  rfl

theorem vectorElems_one {w : Nat} (pos : 0 < w) (fits : w ≤ 32) (q : Nat) :
    vectorElems .packed w false (32 / w / (32 / w)) [q] = vectorOf [q % 2 ^ w] := by
  have places : 0 < 32 / w := Nat.div_pos fits pos
  obtain ⟨k, places⟩ := Nat.exists_eq_succ_of_ne_zero places.ne'
  rw [places, Nat.div_self k.succ_pos, vectorElems, lanesOf, places]
  simp [natOfElems]

/-- Of a type of at most 32 bits QBLK does what the statement says of it. -/
theorem qblk_narrow (one : Claims.OneScalar r s x) (narrow : r.c.ty.width ≤ 32) (noNan : (readFloat (fmtOf .f32) (x.lane 0)).isNan = false)
    (noInf : (readFloat (fmtOf .f32) (x.lane 0)).isInf = false) :
    let a := readFloat (fmtOf .f32) (x.lane 0)
    let k := scaleOf r.c.ty a
    exec (.qblk r) s = .next (sendTarget (sendTarget (begin s r.c r.lit) (begin s r.c r.lit).cur r.c.t0
        (vectorOf [toElem r.c.ty false r.rnd r.sat (Claims.drawOf s r) (divNum a (readFloat (fmtOf .f32) k)) % 2 ^ r.c.ty.width]))
      (begin s r.c r.lit).cur r.c.t1 (scalarOf (BitVec.ofNat 64 (k % 2 ^ 32)))) := by
  have pos : 0 < r.c.ty.width := by have := ty_width_bounds r.c.ty; omega
  dsimp only
  rw [← vectorElems_one pos narrow]
  exact qblk_scalar one noNan noInf

theorem dqbk_scalar {y : TokVal} (one : Claims.OneScalar r s x) (b : s.cur.b = some y) (lanes : r.lm = .scalar) :
    exec (.dqbk r) s = .next (Claims.sent s r.c r.lit (scalarOf (BitVec.ofNat 64 (writeFloat (fmtOf .f32) r.rnd r.sat false 0
      (mulNum (readElem r.c.ty false x.word.toNat) (readFloat (fmtOf .f32) (y.lane 0))) % 2 ^ 32)))) := by
  refine congrArg Host.Outcome.next ((fireConvert_acts one _).trans ?_)
  have scale : low32 ((begin s r.c r.lit).cur.b.getD nullTok) = y.lane 0 := by simp [low32, begin, b]
  have pattern : elemOf .scalar r.c.ty.width x 0 = (x.word.setWidth r.c.ty.width).toNat := by
    rw [← scalar_pattern (ty_width_bounds _).2, elemOf.eq_def, one.2.1]
  dsimp only
  rw [opA_scalar one, scale, lanes]
  dsimp only
  rw [pattern, readElem_setWidth]
  rfl

theorem patternOf_signedOf {w n : Nat} (narrow : w ≤ n) (x : Nat) : patternOf w (signedOf n x) = x % 2 ^ w := by
  have low : (2 : Int) ^ w ∣ 2 ^ n := pow_dvd_pow 2 narrow
  zify
  rw [patternOf, Int.toNat_of_nonneg (Int.emod_nonneg _ (by positivity)), signedOf]
  push_cast
  split
  · exact Int.emod_emod_of_dvd _ low
  · rw [Int.sub_emod, Int.emod_emod_of_dvd _ low, Int.emod_eq_zero_of_dvd low, sub_zero, Int.emod_emod_of_dvd _ dvd_rfl]

theorem lane_zero (v : TokVal) : v.lane 0 = v.val.toNat % 2 ^ 32 := by
  simp [TokVal.lane, laneOf, BitVec.extractLsb'_toNat]

/-- Narrowing the low half of a scalar keeps its low bits (R407). -/
theorem convertElem_low {t : Ty} (narrow : t.width ≤ 32) (int : t.isFloat = false) (m : Rnd) (v : TokVal) :
    convertElem .i32 false t false m .none 0 (v.lane 0) = (v.word.setWidth t.width).toNat := by
  have source : signedOf Ty.i32.width (v.lane 0) = signedOf 32 (v.lane 0) := rfl
  simp only [convertElem, int, source, narrowInt, show Ty.i32.isFloat = false from rfl, Bool.not_false, Bool.and_self, if_true,
    Bool.false_eq_true, if_false, bne_self_eq_false]
  rw [patternOf_signedOf narrow, lane_zero, Nat.mod_mod_of_dvd _ (Nat.pow_dvd_pow 2 narrow), scalar_pattern (ty_width_bounds t).2]

theorem vectorElems_two {w : Nat} (pos : 0 < w) (fits : w ≤ 16) (x y : BitVec w) :
    vectorElems .packed w false ((2 + 32 / w - 1) / (32 / w)) [x.toNat, y.toNat] = vectorOf [x.toNat + 2 ^ w * y.toNat] := by
  have places : 2 ≤ 32 / w := (Nat.le_div_iff_mul_le pos).mpr (by omega)
  have one : (2 + 32 / w - 1) / (32 / w) = 1 := Nat.div_eq_of_lt_le (by omega) (by omega)
  obtain ⟨k, places⟩ := Nat.exists_eq_add_of_le' places
  rw [one, vectorElems, lanesOf, places]
  simp [natOfElems]

theorem pack_scalar {y : TokVal} (one : Claims.OneScalar r s x) (b : s.cur.b = some y) (scalar : y.kind = .scalar) (narrow : r.c.ty.width ≤ 16)
    (int : r.c.ty.isFloat = false) (wraps : r.sat = .none) : exec (.pack r) s = .next (Claims.sent s r.c r.lit
      (vectorOf [(x.word.setWidth r.c.ty.width).toNat + 2 ^ r.c.ty.width * (y.word.setWidth r.c.ty.width).toNat])) := by
  have pos : 0 < r.c.ty.width := by have := ty_width_bounds r.c.ty; omega
  have second : (begin s r.c r.lit).cur.b.getD nullTok = y := by simp [begin, b]
  refine congrArg Host.Outcome.next ((fireConvert_acts one _).trans ?_)
  dsimp only
  rw [opA_scalar one, second, lanesIn_scalar one.2.1, lanesIn_scalar scalar, int, wraps, List.singleton_append, List.map_cons,
    List.map_cons, List.map_nil,
    if_neg Bool.false_ne_true, convertElem_low (by omega) int, convertElem_low (by omega) int, ← vectorElems_two pos narrow]
  rfl

end

/-! ## A type that no packed lane holds -/

/-- QBLK to 64-bit integers, which is no well-formed record. -/
def wideQblk : GRec := Claims.plainG .i64 .a (.node 0 .a false) .none .packed 0

/-- The machine after reset with a scalar 0 as operand A of the firing. -/
def zeroFiring : State := { State.reset with cur := { a := some (scalarOf 0) } }

theorem zeroFiring_oneScalar : Claims.OneScalar wideQblk zeroFiring (scalarOf 0) := by
  unfold Claims.OneScalar Claims.Clean Claims.NoMode
  decide +kernel

/-- What kinds of values are on the network. -/
def sentKinds : Host.Outcome State Fault Refusal → List TokKind
  | .next t => t.net.map (·.tok.v.kind)
  | .fault _ | .refused _ => []

theorem wideQblk_sends_null : sentKinds (exec (.qblk wideQblk) zeroFiring) = [.null] := by decide +kernel

/-- Refutes O10: QBLK of a scalar to 64-bit integers, `wideQblk`, sends null, for a packed lane holds none of them; the statement has it send a
vector for every type. -/
theorem not_conversionForms : ¬ Obligations.ConversionForms := by
  unfold Obligations.ConversionForms Claims.QuantiseForms
  rintro ⟨-, quantise⟩
  obtain ⟨qblk, -⟩ := quantise wideQblk zeroFiring (scalarOf 0) zeroFiring_oneScalar
  have sends := wideQblk_sends_null
  rw [qblk (by decide +kernel) (by decide +kernel)] at sends
  revert sends
  decide +kernel

end Sys2Proof.Machine
end

section
/-! PROOFS. Bits written to memory are read back, and no other bit changes (R141, R147, R154); the linear and the tiled aperture name every canonical
address of device memory once (R153, R154). -/

namespace Sys2Proof.Machine

open Sys2Proof

/-! ## The apertures of device memory -/

/-- The fields of a canonical address that is made of a stack, a pseudo-channel, a place among its units and a byte (Table 5.6). -/
theorem unitToCda_fields {stk pc v b : Nat} (hpc : pc < 128) (hv : v < 4194304) (hb : b < 256) :
    bits (unitToCda stk pc v b) 37 3 = stk % 8 ∧ bits (unitToCda stk pc v b) 30 7 = pc ∧ bits (unitToCda stk pc v b) 26 4 = v % 16 ∧
    bits (unitToCda stk pc v b) 10 16 = v / 16 / 4 ∧ bits (unitToCda stk pc v b) 8 2 = v / 16 % 4 ∧ unitToCda stk pc v b % 256 = b := by
  have bank : v % 16 < 16 := Nat.mod_lt _ (by decide)
  have column : v / 16 % 4 < 4 := Nat.mod_lt _ (by decide)
  have row : v / 16 / 4 < 65536 := by omega
  rw [unitToCda_digits]
  generalize v % 16 = n at *
  generalize v / 16 % 4 = m at *
  generalize v / 16 / 4 = r at *
  unfold bits
  refine ⟨?_, ?_, ?_, ?_, ?_, ?_⟩ <;> omega

theorem cdaExists_unitToCda {stk pc v b : Nat} (hstk : stk < 8) (hpc : pc < 96) (hv : v < 2621440) (hb : b < 256) :
    cdaExists (unitToCda stk pc v b) = true := by
  obtain ⟨-, channel, -, row, -, -⟩ := unitToCda_fields (stk := stk) (v := v) (by omega : pc < 128) (by omega) hb
  have small : unitToCda stk pc v b < 2 ^ 40 := by
    rw [unitToCda_digits]
    omega
  simp only [cdaExists, channel, row, Bool.and_eq_true, decide_eq_true_eq]
  omega

theorem cdaToLinear_unitToCda {stk pc v b : Nat} (hstk : stk < 8) (hpc : pc < 128) (hv : v < 4194304) (hb : b < 256) :
    cdaToLinear (unitToCda stk pc v b) = (v * 768 + pc * 8 + stk) * 256 + b := by
  obtain ⟨stack, channel, bank, row, column, byte⟩ := unitToCda_fields (stk := stk) hpc hv hb
  have place : (v / 16 / 4 * 4 + v / 16 % 4) * 16 + v % 16 = v := by omega
  simp only [cdaToLinear, stack, channel, bank, row, column, byte, place, Nat.mod_eq_of_lt hstk]

theorem cdaExists_linearToCda {o : Nat} (h : o < deviceBytes) : cdaExists (linearToCda o) = true := by
  have size : deviceBytes = 515396075520 := rfl
  exact cdaExists_unitToCda (by omega) (by omega) (by omega) (Nat.mod_lt _ (by decide))

theorem cdaToLinear_linearToCda {o : Nat} (h : o < deviceBytes) : cdaToLinear (linearToCda o) = o := by
  have size : deviceBytes = 515396075520 := rfl
  unfold linearToCda
  rw [cdaToLinear_unitToCda (by omega) (by omega) (by omega) (Nat.mod_lt _ (by decide))]
  omega

/-- A canonical address from its fields. -/
theorem unitToCda_of_fields {c : Nat} (h : c < 2 ^ 40) :
    unitToCda (bits c 37 3) (bits c 30 7) ((bits c 10 16 * 4 + bits c 8 2) * 16 + bits c 26 4) (c % 256) = c := by
  have bank : ((bits c 10 16 * 4 + bits c 8 2) * 16 + bits c 26 4) % 16 = bits c 26 4 ∧
      ((bits c 10 16 * 4 + bits c 8 2) * 16 + bits c 26 4) / 16 % 4 = bits c 8 2 ∧
      ((bits c 10 16 * 4 + bits c 8 2) * 16 + bits c 26 4) / 16 / 4 = bits c 10 16 := by
    have low : bits c 26 4 < 16 := Nat.mod_lt _ (by decide)
    have mid : bits c 8 2 < 4 := Nat.mod_lt _ (by decide)
    generalize bits c 26 4 = n at *
    generalize bits c 8 2 = m at *
    omega
  rw [unitToCda_digits, bank.1, bank.2.1, bank.2.2]
  unfold bits
  omega

theorem linearToCda_digits {stk pc v b : Nat} (hstk : stk < 8) (hpc : pc < 96) (hb : b < 256) :
    linearToCda ((v * 768 + pc * 8 + stk) * 256 + b) = unitToCda stk pc v b := by
  obtain ⟨u, hu⟩ : ∃ u, u = v * 768 + pc * 8 + stk := ⟨_, rfl⟩
  have place : u / 768 = v ∧ u % 768 % 8 = stk ∧ u % 768 / 8 = pc := by omega
  have unit : (u * 256 + b) / 256 = u ∧ (u * 256 + b) % 256 = b := by omega
  simp only [← hu, linearToCda, unit.1, unit.2, place.1, place.2.1, place.2.2]

theorem linearToCda_cdaToLinear {c : Nat} (h : cdaExists c = true) : cdaToLinear c < deviceBytes ∧ linearToCda (cdaToLinear c) = c := by
  have size : deviceBytes = 515396075520 := rfl
  unfold cdaExists at h
  simp only [Bool.and_eq_true, decide_eq_true_eq] at h
  obtain ⟨⟨small, channel⟩, row⟩ := h
  have stack : bits c 37 3 < 8 := Nat.mod_lt _ (by decide)
  have bank : bits c 26 4 < 16 := Nat.mod_lt _ (by decide)
  have column : bits c 8 2 < 4 := Nat.mod_lt _ (by decide)
  have byte : c % 256 < 256 := Nat.mod_lt _ (by decide)
  unfold cdaToLinear
  dsimp only
  refine ⟨by omega, ?_⟩
  rw [linearToCda_digits stack channel byte, unitToCda_of_fields small]

theorem cdaExists_tiledToCda {o : Nat} (h : o < deviceBytes) : cdaExists (tiledToCda o) = true := by
  have size : deviceBytes = 515396075520 := rfl
  exact cdaExists_unitToCda (by omega) (by omega) (by omega) (Nat.mod_lt _ (by decide))

theorem tiledToCda_inj {o o' : Nat} (h : o < deviceBytes) (h' : o' < deviceBytes) (same : tiledToCda o = tiledToCda o') : o = o' := by
  have size : deviceBytes = 515396075520 := rfl
  unfold tiledToCda at same
  obtain ⟨estk, epc, ev, eb⟩ := unitToCda_inj (by omega) (by omega) (by omega) (by omega) (Nat.mod_lt _ (by decide)) (Nat.mod_lt _ (by decide)) same
  omega

/-- Within an aperture that the device's memory is reached through, an existing byte has a canonical address of its own. -/
theorem cdaOf_inj {apr o o' : Nat} (some : apr ≤ 2) (h : apertureExists apr o = true) (h' : apertureExists apr o' = true)
    (same : cdaOf apr o = cdaOf apr o') : o = o' := by
  unfold apertureExists at h h'
  interval_cases apr
  · exact linearToCda_inj (by simpa using h) (by simpa using h') same
  · exact tiledToCda_inj (by simpa using h) (by simpa using h') same
  · exact same

/-! ## Bits spread over the bytes of a memory -/

/-- The memory after bits have been written to it, byte `o` of which is cell `g o`. -/
def spreadInto (m : List Host.Cell) (g : Nat → Nat) (a w v : Nat) : List Host.Cell :=
  writeBytes m ((spreadBits (fun o => cellRead m (g o)) a w v).map fun x => (g x.1, x.2))

theorem spreadInto_eq (m : List Host.Cell) (g : Nat → Nat) (a w v : Nat) : spreadInto m g a w v =
    writeBytes m ((List.range ((a % 8 + w + 7) / 8)).map fun k =>
      (g (a / 8 + k), BitVec.ofNat 8 (spreadNum (fun o => cellRead m (g o)) a w v / 256 ^ k))) := by
  unfold spreadInto
  rw [spreadBits_eq, List.map_map]
  rfl

/-- A cell that holds no byte of the written bits keeps its value. -/
theorem cellRead_spreadInto_outside {m : List Host.Cell} {g : Nat → Nat} {a w v c : Nat} (pos : 0 < w)
    (off : ∀ o, a / 8 ≤ o → o ≤ (a + w - 1) / 8 → c ≠ g o) : cellRead (spreadInto m g a w v) c = cellRead m c := by
  rw [spreadInto_eq]
  exact (cellRead_writeBytes m _ _ _).1 c fun k hk => (off _ (by omega) (by omega)).symm

section

variable {m : List Host.Cell} {g : Nat → Nat} {a w v : Nat} (P : Nat → Prop) (inj : ∀ o o', P o → P o' → g o = g o' → o = o') (pos : 0 < w)
  (fits : ∀ o, a / 8 ≤ o → o ≤ (a + w - 1) / 8 → P o)

include inj pos fits

/-- Each bit of a memory after a write of bits (R141). -/
theorem bitAt_spreadInto {i : Nat} (inside : P (i / 8)) : bitAt (fun o => cellRead (spreadInto m g a w v) (g o)) i =
    if a ≤ i ∧ i < a + w then v.testBit (i - a) else bitAt (fun o => cellRead m (g o)) i := by
  obtain ⟨others, same⟩ := cellRead_writeBytes m (fun k => g (a / 8 + k))
    (fun k => BitVec.ofNat 8 (spreadNum (fun o => cellRead m (g o)) a w v / 256 ^ k)) ((a % 8 + w + 7) / 8)
  rw [← spreadInto_eq] at others same
  unfold bitAt
  by_cases among : a / 8 ≤ i / 8 ∧ i / 8 < a / 8 + (a % 8 + w + 7) / 8
  · obtain ⟨k, hk⟩ : ∃ k, i / 8 = a / 8 + k := ⟨i / 8 - a / 8, by omega⟩
    have distinct : ∀ k < (a % 8 + w + 7) / 8, ∀ j < (a % 8 + w + 7) / 8, g (a / 8 + k) = g (a / 8 + j) → k = j := by
      intro k hk j hj e
      have := inj _ _ (fits (a / 8 + k) (by omega) (by omega)) (fits (a / 8 + j) (by omega) (by omega)) e
      omega
    have place : 8 * (a / 8) + (i - 8 * (a / 8)) = i := by omega
    have bit : i % 8 + 8 * k = i - 8 * (a / 8) := by omega
    have lane : i - 8 * (a / 8) - a % 8 = i - a := by omega
    have range : a % 8 ≤ i - 8 * (a / 8) ∧ i - 8 * (a / 8) < a % 8 + w ↔ a ≤ i ∧ i < a + w := by omega
    have small : i % 8 < 8 := Nat.mod_lt _ (by decide)
    dsimp only
    rw [hk, same distinct k (by omega), BitVec.getLsbD_ofNat, show (256 : Nat) ^ k = 2 ^ (8 * k) by rw [pow_mul]; rfl, Nat.testBit_div_two_pow, bit,
      testBit_spreadNum (by omega), place, lane]
    simp only [small, decide_true, Bool.true_and, range, bitAt, hk]
  · dsimp only
    rw [others _ fun k hk e => among ?_, if_neg (by omega)]
    have := inj _ _ (fits (a / 8 + k) (by omega) (by omega)) inside e
    omega

/-- The written bits read as they were written. -/
theorem gatherBits_spreadInto_same : gatherBits (fun o => cellRead (spreadInto m g a w v) (g o)) a w = v % 2 ^ w := by
  refine Nat.eq_of_testBit_eq fun j => ?_
  rw [testBit_gatherBits, Nat.testBit_mod_two_pow]
  by_cases h : j < w
  · rw [bitAt_spreadInto P inj pos fits (fits _ (by omega) (by omega)), if_pos (by omega), Nat.add_sub_cancel_left]
  · simp [h]

/-- All other bits read as before. -/
theorem gatherBits_spreadInto_other {b n : Nat} (exist : ∀ o, b / 8 ≤ o → o ≤ (b + n - 1) / 8 → P o) (apart : a + w ≤ b ∨ b + n ≤ a) :
    gatherBits (fun o => cellRead (spreadInto m g a w v) (g o)) b n = gatherBits (fun o => cellRead m (g o)) b n := by
  refine Nat.eq_of_testBit_eq fun j => ?_
  rw [testBit_gatherBits, testBit_gatherBits]
  by_cases h : j < n
  · rw [bitAt_spreadInto P inj pos fits (exist _ (by omega) (by omega)), if_neg (by omega)]
  · simp [h]

end

/-! ## Device memory, pod memory and scratchpads -/

theorem mem_writeDev (s : State) (apr a w v : Nat) : (writeDev s apr a w v).mem = spreadInto s.mem (cdaOf apr) a w v := rfl

theorem podMem_writePod (s : State) (a w v : Nat) : (writePod s a w v).podMem = spreadInto s.podMem id a w v := by
  simp [writePod, spreadInto]

theorem scratch_writeScratch (x : Sleeve) (a w v : Nat) : (writeScratch x a w v).scratch = spreadInto x.scratch id a w v := by
  simp [writeScratch, spreadInto]

theorem readDev_writeDev_same {s : State} {apr a w v : Nat} (some : apr ≤ 2) (pos : 0 < w) (exist : Claims.Exists apr a w) :
    readDev (writeDev s apr a w v) apr a w = v % 2 ^ w :=
  gatherBits_spreadInto_same (apertureExists apr · = true) (fun _ _ => cdaOf_inj some) pos exist

theorem readDev_writeDev_other {s : State} {apr a w v b n : Nat} (some : apr ≤ 2) (pos : 0 < w) (exist : Claims.Exists apr a w)
    (exist' : Claims.Exists apr b n) (apart : a + w ≤ b ∨ b + n ≤ a) : readDev (writeDev s apr a w v) apr b n = readDev s apr b n :=
  gatherBits_spreadInto_other (apertureExists apr · = true) (fun _ _ => cdaOf_inj some) pos exist exist' apart

theorem devByte_writeDev_outside {s : State} {apr a w v apr' o : Nat} (pos : 0 < w) (outside : Claims.Outside apr a w apr' o) :
    devByte (writeDev s apr a w v) apr' o = devByte s apr' o :=
  cellRead_spreadInto_outside pos outside

theorem readPod_writePod_same {s : State} {a w v : Nat} (pos : 0 < w) : readPod (writePod s a w v) a w = v % 2 ^ w := by
  unfold readPod
  rw [podMem_writePod]
  exact gatherBits_spreadInto_same (fun _ => True) (fun _ _ _ _ => id) pos fun _ _ _ => trivial

theorem readPod_writePod_other {s : State} {a w v b n : Nat} (pos : 0 < w) (apart : a + w ≤ b ∨ b + n ≤ a) :
    readPod (writePod s a w v) b n = readPod s b n := by
  unfold readPod
  rw [podMem_writePod]
  exact gatherBits_spreadInto_other (fun _ => True) (fun _ _ _ _ => id) pos (fun _ _ _ => trivial) (fun _ _ _ => trivial) apart

theorem readScratch_writeScratch_same {x : Sleeve} {a w v : Nat} (pos : 0 < w) : readScratch (writeScratch x a w v) a w = v % 2 ^ w := by
  unfold readScratch
  rw [scratch_writeScratch]
  exact gatherBits_spreadInto_same (fun _ => True) (fun _ _ _ _ => id) pos fun _ _ _ => trivial

theorem readScratch_writeScratch_other {x : Sleeve} {a w v b n : Nat} (pos : 0 < w) (apart : a + w ≤ b ∨ b + n ≤ a) :
    readScratch (writeScratch x a w v) b n = readScratch x b n := by
  unfold readScratch
  rw [scratch_writeScratch]
  exact gatherBits_spreadInto_other (fun _ => True) (fun _ _ _ _ => id) pos (fun _ _ _ => trivial) (fun _ _ _ => trivial) apart

/-- Settles O17: the apertures by the fields of a canonical address, and each memory by the bits that a write spreads over its bytes. -/
theorem readAfterWrite : Obligations.ReadAfterWrite := by
  refine ⟨⟨fun o h => ⟨cdaExists_linearToCda h, cdaToLinear_linearToCda h, cdaExists_tiledToCda h⟩, fun c => linearToCda_cdaToLinear,
    fun o o' => tiledToCda_inj⟩, ?device, ?pod, ?scratch⟩
  case device =>
    intro s apr a w v some pos exist
    exact ⟨readDev_writeDev_same some pos exist, fun b n _ exist' => readDev_writeDev_other some pos exist exist',
      fun apr' o => devByte_writeDev_outside pos⟩
  case pod => exact fun s a w v pos => ⟨readPod_writePod_same pos, fun b n _ => readPod_writePod_other pos⟩
  case scratch => exact fun x a w v pos => ⟨readScratch_writeScratch_same pos, fun b n _ => readScratch_writeScratch_other pos⟩

end Sys2Proof.Machine
end

section
/-! PROOFS. The pointer forms (R137, R144, R145) and LCMP (R32, R304, R306). -/

namespace Sys2Proof.Machine

open Sys2Proof

/-! ## Pointer forms -/

theorem opA_of_two {r : GRec} {f : Firing} {x y : TokVal} (two : operandsOf r 2 f = [x, y]) : opA f = x := by
  unfold operandsOf at two
  unfold opA
  cases arity : r.c.ar <;> simp [arity] at two <;> exact two.1

theorem opB_of_two {r : GRec} {f : Firing} {x y : TokVal} (two : operandsOf r 2 f = [x, y]) : opB r f = y := by
  simp [opB, two]

theorem pointerForm_sent {r : GRec} {s : State} {x y : TokVal} (two : operandsOf r 2 s.cur = [x, y]) (clean : Claims.Clean s r.c r.lit)
    (op : Word → Word → Word) : pointerForm s r op = Claims.sent s r.c r.lit (scalarOf (op x.word y.word)) := by
  obtain ⟨unpoisoned, full, legal⟩ := clean
  unfold pointerForm
  rw [fireG_acts unpoisoned full legal, opA_of_two (r := r) (f := (begin s r.c r.lit).cur) two,
    opB_of_two (f := (begin s r.c r.lit).cur) two]
  rfl

/-- Shifting right and left again clears the bits below. -/
theorem shift_right_left (a : Word) (n : Nat) : (a >>> n) <<< n = BitVec.ofNat 64 (a.toNat / 2 ^ n * 2 ^ n) := by
  apply BitVec.eq_of_toNat_eq
  simp [BitVec.toNat_shiftLeft, Nat.shiftLeft_eq, Nat.shiftRight_eq_div_pow]

/-- A bit address as a signed byte address (R145). -/
theorem sshiftRight_three (a : Word) : a.sshiftRight 3 = BitVec.ofInt 64 (a.toInt / 8) := by
  apply BitVec.eq_of_toInt_eq
  have range := BitVec.le_toInt a
  have range' := BitVec.toInt_lt (x := a)
  rw [BitVec.toInt_sshiftRight, BitVec.toInt_ofInt, Int.shiftRight_eq_div_pow, Int.bmod_eq_of_le (by omega) (by omega)]
  rfl

/-- A byte address as a bit address (R145). -/
theorem shiftLeft_three (a : Word) : a <<< 3 = BitVec.ofNat 64 (a.toNat * 8) := by
  apply BitVec.eq_of_toNat_eq
  simp [BitVec.toNat_shiftLeft, Nat.shiftLeft_eq]

theorem pointerForms : Claims.PointerForms := by
  intro r s x y two clean
  have sent (op : Word → Word → Word) : (.next (pointerForm s r op) : Host.Outcome State Fault Refusal) =
      .next (Claims.sent s r.c r.lit (scalarOf (op x.word y.word))) := congrArg _ (pointerForm_sent two clean op)
  refine ⟨sent _, sent _, ?align, ?byte, ?bit, ?cls⟩
  case align => exact (sent _).trans (by rw [shift_right_left])
  case byte => exact (sent _).trans (by rw [sshiftRight_three])
  case bit => exact (sent _).trans (by rw [shiftLeft_three])
  case cls =>
    refine (sent _).trans (congrArg (fun v => Host.Outcome.next (Claims.sent s r.c r.lit (scalarOf v))) ?_)
    unfold alignClass
    dsimp only
    by_cases word : x.word.toNat / 64 = (x.word.toNat + y.word.toNat % 128 - 1) / 64
    · simp [word]
    · by_cases sector : x.word.toNat / 256 = (x.word.toNat + y.word.toNat % 128 - 1) / 256 <;> simp [word, sector]

/-! ## LCMP -/

/-- Nothing that an original holds back goes on while its twin has compared nothing. -/
theorem passEqual_none {s : State} {a : Nat} (none : (actOf s (actOf s a).twin).lcmps = []) : passEqual s a = s := by
  unfold passEqual
  simp only [none, List.find?_nil]
  exact foldl_fixed fun o _ => by split <;> rfl

/-- An original that waits passes nothing on before its twin has compared anything. -/
theorem passEqual_waiting {s : State} {f : Firing} {a : Nat} (none : (actOf s (actOf s a).twin).lcmps = []) :
    passEqual (waitOp s f .lcmp).2 a = (waitOp s f .lcmp).2 :=
  passEqual_none none

/-- The twin of an activation, and what it has compared, after the activation has noted its own operands. -/
theorem twin_noted {s : State} {a : Nat} {l : List (Nat × Nat × TokVal × TokVal)} (other : (actOf s a).twin ≠ a) :
    let noted := updAct s a fun y => { y with lcmps := y.lcmps ++ l }
    (actOf noted (actOf noted a).twin).lcmps = (actOf s (actOf s a).twin).lcmps := by
  dsimp only
  cases listed : lookup s.acts a with
  | none => rw [updAct_unlisted listed]
  | some x =>
    have own : (actOf (updAct s a fun y => { y with lcmps := y.lcmps ++ l }) a).twin = (actOf s a).twin := by
      rw [actOf_updAct_same (by simp [listed])]
    rw [own, actOf_updAct_other other]

theorem passBoth_null {s : State} {f : Firing} (null : anyNull f = true) : passBoth s f = sendBoth s f nullTok := by
  unfold passBoth
  rw [if_pos null]

/-- Operands that pass on while the activation lives go to one target each. -/
theorem passBoth_values {s : State} {f : Firing} {u v : TokVal} (full : anyNull f = false) (ha : f.a = some u) (hb : f.b = some v)
    (kept : (sendTarget s f f.com.t0 u).acts = s.acts) : passBoth s f = sendTarget (sendTarget s f f.com.t0 u) f f.com.t1 v := by
  unfold passBoth
  rw [if_neg (by simp [full])]
  simp only [ha, hb, Option.getD_some, actOf_congr kept, Bool.and_not_self, Bool.false_eq_true, if_false]

/-- LCMP without a poisoned operand and with a P that is not null notes its operands first. -/
theorem execLcmp_noted {r : GRec} {s : State} {u v : TokVal} (unpoisoned : anyPoisoned s.cur = false) (taken : isNull s.cur.p = false)
    (ha : s.cur.a = some u) (hb : s.cur.b = some v) :
    let f := (begin s r.c 0).cur
    let x := actOf s f.act
    let noted := updAct (begin s r.c 0) f.act fun y => { y with lcmps := y.lcmps ++ [(f.node, f.en, u, v)] }
    exec (.lcmp r) s = .next (if x.isTwin then passEqual noted x.twin else if x.twin = 0 then passBoth noted f
      else passEqual (waitOp noted f .lcmp).2 f.act) := by
  show Host.Outcome.next _ = _
  dsimp only
  rw [anyPoisoned_begin, unpoisoned]
  simp only [begin, taken, ha, hb, Option.getD_some, Bool.false_eq_true, if_false]
  rfl

theorem liningCompare : Claims.LiningCompare := by
  intro r s u v unpoisoned
  refine ⟨fun null => ?_, fun taken ha hb original => ⟨fun alone null => ?_, fun alone full keep lives kept => ?_, fun lined none other => ?_⟩⟩
  case refine_1 =>
    show Host.Outcome.next _ = _
    dsimp only
    rw [anyPoisoned_begin, unpoisoned]
    simp only [begin, null, Bool.false_eq_true, if_false, if_true]
    rfl
  all_goals
    rw [execLcmp_noted unpoisoned taken ha hb]
    rw [if_neg (ne_true_of_eq_false original)]
  · rw [if_pos alone, passBoth_null (f := (begin s r.c 0).cur) null]
  · rw [if_pos alone, passBoth_values (f := (begin s r.c 0).cur) full ha hb kept]
    rfl
  · rw [if_neg lined, passEqual_waiting ((twin_noted (s := begin s r.c 0) other).trans none)]
    simp only [waitOp, fresh, updAct_ids, updAct_ops]
    rfl

/-- Settles O35: each pointer form is one firing, and LCMP goes its four ways by its P operand and its activation's lining. -/
theorem pointerAndLining : Obligations.PointerAndLining := ⟨pointerForms, liningCompare⟩

end Sys2Proof.Machine
end

section
/-! PROOFS. The upkeep of memory: scrub errors and their counts (R159, R174), and bad bits (R25). -/

namespace Sys2Proof.Machine

open Sys2Proof

/-! ## Bad bits (R25) -/

/-- The bad-unit registers as one table of words. -/
def badWord (r : Regs) (n : Nat) : Word :=
  if n ≤ 0x41F then lookupD r.badn (n - 0x400) 0 else if n ≤ 0x427 then lookupD r.badi (n - 0x420) 0 else if n = 0x428 then r.badx else r.badc

theorem readReg_badWord {s : State} {n : Nat} (lo : 0x400 ≤ n) (hi : n ≤ 0x429) : readReg s none n = badWord s.regs n := by
  unfold readReg badWord
  by_cases nodes : n ≤ 0x41F
  · rw [if_pos ⟨lo, nodes⟩, if_pos nodes]
  · rw [if_neg (by omega), if_neg nodes]
    by_cases islands : n ≤ 0x427
    · rw [if_pos ⟨by omega, islands⟩, if_pos islands]
    · rw [if_neg (by omega), if_neg islands]
      by_cases transfer : n = 0x428
      · rw [if_pos transfer, if_pos transfer]
      · rw [if_neg transfer, if_neg transfer, if_pos (by omega)]

/-- The bad-unit registers with one of them changed. -/
def setBadWord (r : Regs) (num : Nat) (v : Word) : Regs :=
  if num ≤ 0x41F then { r with badn := insertAt r.badn (num - 0x400) v } else if num ≤ 0x427 then { r with badi := insertAt r.badi (num - 0x420) v }
  else if num = 0x428 then { r with badx := v } else { r with badc := v }

theorem badWord_setBadWord {r : Regs} {num n : Nat} (v : Word) (lo : 0x400 ≤ num) (hi : num ≤ 0x429) (lo' : 0x400 ≤ n) (hi' : n ≤ 0x429) :
    badWord (setBadWord r num v) n = if n = num then v else badWord r n := by
  unfold setBadWord badWord
  by_cases same : n = num
  · subst same
    rw [if_pos rfl]
    split_ifs <;> simp
  · rw [if_neg same]
    have nodes : n - 0x400 = num - 0x400 → n = num := by omega
    have islands : 0x420 ≤ n → 0x420 ≤ num → n - 0x420 = num - 0x420 → n = num := by omega
    grind [lookupD_insertAt_other]

theorem orBadUnits_eq {s : State} {num : Nat} (v : Word) (lo : 0x400 ≤ num) (hi : num ≤ 0x429) :
    orBadUnits s num v = updRegs s fun r => setBadWord r num (badWord r num ||| v) := by
  unfold orBadUnits setBadWord badWord
  by_cases nodes : num ≤ 0x41F
  · simp only [lo, nodes, and_self, if_true]
  have islands : 0x420 ≤ num := by omega
  by_cases small : num ≤ 0x427
  · simp only [nodes, islands, small, and_self, and_false, if_true, if_false]
  by_cases transfer : num = 0x428
  · subst transfer
    rfl
  · obtain rfl : num = 0x429 := by omega
    rfl

theorem clearBadBit_eq {s : State} {num : Nat} (bit : Nat) :
    clearBadBit s num bit = updRegs s fun r => setBadWord r num (badWord r num &&& ~~~(1#64 <<< bit)) := by
  unfold clearBadBit setBadWord badWord
  split_ifs <;> rfl

theorem getLsbD_one_shiftLeft {bit k : Nat} (hk : k < 64) : (1#64 <<< bit).getLsbD k = decide (k = bit) := by
  rw [BitVec.getLsbD_shiftLeft, BitVec.getLsbD_one]
  by_cases e : k = bit
  · simp [e]
    omega
  · simp [e]
    omega

theorem badBits : Claims.BadBits := by
  intro s num bit small lo hi
  refine ⟨?set, fun loaded => ?held, fun free => ?clear⟩
  case set =>
    refine ⟨orBadUnits s num (1#64 <<< bit), congrArg Host.Outcome.next (if_pos ⟨lo, hi, small⟩), ?_, fun n hi' lo' k hk => ?_⟩
    · rw [orBadUnits_eq _ lo hi]
      rfl
    · rw [orBadUnits_eq _ lo hi, readReg_badWord lo' hi', readReg_badWord lo' hi', updRegs_regs, badWord_setBadWord _ lo hi lo' hi']
      by_cases same : n = num <;> simp [same, getLsbD_one_shiftLeft hk]
  case held => exact congrArg Host.Outcome.next (if_neg (by simp [loaded]))
  case clear =>
    refine ⟨clearBadBit s num bit, congrArg Host.Outcome.next (if_pos ⟨lo, hi, small, by simp [free]⟩), ?_, fun n hi' lo' k hk => ?_⟩
    · rw [clearBadBit_eq]
      rfl
    · rw [clearBadBit_eq, readReg_badWord lo' hi', readReg_badWord lo' hi', updRegs_regs, badWord_setBadWord _ lo hi lo' hi']
      by_cases same : n = num <;> simp only [same, BitVec.getLsbD_and, BitVec.getLsbD_not, getLsbD_one_shiftLeft hk, hk, if_true, if_false, decide_true,
        Bool.true_and, true_and, false_and, not_false_eq_true, Bool.and_true, decide_not]

/-! ## Scrub (R159, R174) -/

theorem countError_corrected (s : State) (b : Nat) :
    lookupD (countError s b false).mc.counts b (0, 0) = ((lookupD s.mc.counts b (0, 0)).1 + 1, (lookupD s.mc.counts b (0, 0)).2) := by
  simp [countError, updMc]

theorem countError_uncorrectable (s : State) (b : Nat) :
    lookupD (countError s b true).mc.counts b (0, 0) = ((lookupD s.mc.counts b (0, 0)).1, (lookupD s.mc.counts b (0, 0)).2 + 1) := by
  simp [countError, updMc]

theorem countError_other {s : State} {b k : Nat} (u : Bool) (h : k ≠ b) :
    lookupD (countError s b u).mc.counts k (0, 0) = lookupD s.mc.counts k (0, 0) := by
  simp [countError, updMc, lookupD_insertAt_other _ _ _ h]

/-- A sector that is dropped is held no more. -/
theorem sectorHeld_dropSector (s : State) (sec : Nat) : (sectorHeld (dropSector s sec) sec).1 = false := by
  unfold sectorHeld lineState dropSector
  cases l2 : lookup s.l2 (sec / 2) with
  | some x => by_cases odd : sec % 2 = 1 <;> simp [l2, odd]
  | none =>
    cases victim : lookup s.victim (sec / 2) with
    | some x => by_cases odd : sec % 2 = 1 <;> simp [l2, victim, odd]
    | none => by_cases odd : sec % 2 = 1 <;> simp [l2, victim, odd, lookupD]

/-- What the loss of a sector changes. -/
theorem loseSector_rest (s : State) (sec : Nat) :
    loseSector s sec = { s with l2 := (loseSector s sec).l2, victim := (loseSector s sec).victim, poison := (loseSector s sec).poison } := by
  unfold loseSector
  split <;> rfl

theorem loseSector_dirty {s : State} {sec : Nat} (held : sectorHeld s sec = (true, true)) : loseSector s sec = s := by
  unfold loseSector
  rw [held]

theorem loseSector_clean {s : State} {sec : Nat} (held : sectorHeld s sec = (true, false)) :
    loseSector s sec = setPoison (dropSector s sec) sec true := by
  unfold loseSector
  rw [held]

theorem loseSector_poison {s : State} {sec : Nat} (held : sectorHeld s sec ≠ (true, true)) :
    (loseSector s sec).poison = insertNat s.poison sec := by
  unfold loseSector
  split
  · contradiction
  · rfl
  · rfl

theorem execHbmScrub_exists {s : State} {sec : Nat} (exist : cdaExists (32 * sec) = true) (u : Bool) : exec (.hbmScrub sec u) s =
    .next (if u then loseSector (countError s (bankNumber (32 * sec)) u) sec else countError s (bankNumber (32 * sec)) u) :=
  congrArg Host.Outcome.next (if_neg (by simp [exist]))

theorem ecnt_mirrored {s : State} {c u : Nat} (bank : bits s.regs.ecsel.toNat 4 7 < 96) (mirrored : lookupD s.mc.mirror s.regs.ecsel.toNat (0, 0) = (c, u))
    (hc : c < 65536) (hu : u < 65536) : readReg s none 0x46D = BitVec.ofNat 64 (u * 2 ^ 32 + c) := by
  have table : readReg s none 0x46D = readMemReg s 0x46D := rfl
  rw [table]
  unfold readMemReg
  simp only [mirrored, if_neg (show ¬96 ≤ bits s.regs.ecsel.toNat 4 7 by omega), Nat.min_eq_left (show u ≤ 0xFFFF by omega),
    Nat.min_eq_left (show c ≤ 0xFFFF by omega)]

theorem scrubAndCounts : Claims.ScrubAndCounts := by
  intro s sec
  refine ⟨fun u missing => ?missing, fun exist => ⟨?corrected, ?lost⟩, rfl, rfl, fun c u => ecnt_mirrored⟩
  case missing => exact congrArg Host.Outcome.next (if_pos (by simp [missing]))
  case corrected => exact ⟨_, execHbmScrub_exists exist false, rfl, countError_corrected s _, fun k => countError_other false⟩
  case lost =>
    refine ⟨_, execHbmScrub_exists exist true, ?_, ?_, fun dirty => ?_, fun other k => ?_, fun clean => ?_⟩
    · rw [if_pos rfl, loseSector_rest]
      rfl
    · rw [if_pos rfl, loseSector_rest]
      exact countError_uncorrectable s _
    · rw [if_pos rfl, loseSector_dirty (s := countError s _ true) dirty]
      exact ⟨rfl, rfl, rfl⟩
    · rw [if_pos rfl, loseSector_poison (s := countError s _ true) other]
      exact mem_insertNat _ _ _
    · rw [if_pos rfl, loseSector_clean (s := countError s _ true) clean]
      exact sectorHeld_dropSector _ sec

end Sys2Proof.Machine
end

section
/-! PROOFS. Write-backs (R152, R157 to R160). -/

namespace Sys2Proof.Machine

open Sys2Proof

/-! ## A line that leaves the caches -/

theorem eraseAt_insertAt {α : Type} (m : Map α) (x : Nat) (v : α) : eraseAt (insertAt m x v) x = eraseAt m x := by
  induction m with
  | nil => simp [insertAt, eraseAt]
  | cons k m ih =>
    simp only [insertAt]
    split
    · simp [eraseAt]
    · split
      next e => simp [eraseAt, e]
      next =>
        unfold eraseAt at ih ⊢
        rw [List.filter_cons, List.filter_cons, ih]

theorem cleanLine_clean (s : State) (line : Nat) : (lineState (cleanLine s line) line).dirty = false := by
  unfold cleanLine lineState
  cases l2 : lookup s.l2 line with
  | some x => simp [L2Line.dirty]
  | none => cases victim : lookup s.victim line <;> simp [l2, victim, lookupD, L2Line.dirty]

theorem dropLine_cleanLine (s : State) (line : Nat) : dropLine (cleanLine s line) line = dropLine s line := by
  unfold cleanLine dropLine
  cases l2 : lookup s.l2 line with
  | some x => simp [eraseAt_insertAt]
  | none => cases victim : lookup s.victim line <;> simp [eraseAt_insertAt]

/-- A dirty line of device memory leaves the caches once it has been written. -/
theorem execWriteBack_device {s u : State} {line : Nat} (dirty : (lineState s line).dirty = true) (plain : line < compactLine0)
    (written : writeBackDevice s line = cleanLine u line) : exec (.writeBack line) s = .next (dropLine u line) := by
  have low : line < podLine0 := Nat.lt_trans plain (by decide)
  have wrote : writeBackLine s line = cleanLine u line := by
    unfold writeBackLine
    rw [dirty, if_neg (by simp), if_neg (by omega), if_neg (by omega), written]
  refine congrArg Host.Outcome.next ((if_neg (by simp [dirty])).trans ?_)
  dsimp only
  rw [wrote, cleanLine_clean, if_neg (by decide), dropLine_cleanLine]

/-! ## How a block is stored -/

/-- A block is stored in a form of Table 5.8, and its state in the metadata region says so. -/
def storeAs (s : State) (u c : Nat) : State := setPacked (setBlockState s u c) u c

/-- The state of a block that compresses into `n` bytes (R160). -/
def sizeState (n : Nat) : Nat := if n = 0 then 8 else if n ≤ 224 then (n + 31) / 32 else 0

theorem sizeState_le (n : Nat) : sizeState n ≤ 8 := by
  unfold sizeState
  split_ifs <;> omega

theorem metaAddr_congr {s t : State} (same : t.regs.cmbas = s.regs.cmbas) (u : Nat) : metaAddr t u = metaAddr s u := by
  unfold metaAddr
  rw [same]

theorem blockState_congr {s t : State} (same : t.regs.cmbas = s.regs.cmbas) (mem : t.mem = s.mem) (u : Nat) : blockState t u = blockState s u := by
  unfold blockState readDev devByte
  rw [metaAddr_congr same, mem]

/-- The form in which HBM stores a block takes no part in the state that the metadata region holds. -/
theorem setBlockState_setPacked (s : State) (u c v d : Nat) : setBlockState (setPacked s u c) v d = setPacked (setBlockState s v d) u c := by
  unfold setBlockState writeDev
  rw [metaAddr_congr (show (setPacked s u c).regs.cmbas = s.regs.cmbas from rfl)]
  rfl

theorem updRegs_setBlockState {f : Regs → Regs} (same : ∀ r, (f r).cmbas = r.cmbas) (s : State) (u c : Nat) :
    updRegs (setBlockState s u c) f = setBlockState (updRegs s f) u c := by
  unfold setBlockState writeDev
  rw [metaAddr_congr (show (updRegs s f).regs.cmbas = s.regs.cmbas from same _)]
  rfl

theorem storeRaw_storeAs (s : State) (u : Nat) (lost : Bool) : setBlockState (storeRaw s u lost) u 0 =
    storeAs (if lost then poisonSectors s ((unitSectors u).filter fun x => !sectorCached s x) else s) u 0 := by
  unfold storeRaw
  rw [setBlockState_setPacked]
  rfl

/-- CMRAW counts a block that does not compress into seven sectors (R160). -/
def countRaw (s : State) (n : Nat) : State := if 224 < n then updRegs s fun r => { r with cmraw := r.cmraw + 1 } else s

theorem countRaw_rest (s : State) (n : Nat) :
    countRaw s n = { s with regs := { s.regs with cmraw := s.regs.cmraw + if 224 < n then 1 else 0 } } := by
  unfold countRaw
  split
  · rfl
  · rw [add_zero]

theorem storeBlock_storeAs {s : State} {u c : Nat} (state : blockState s u = c) : storeBlock s u =
    let r := respell s u c
    let n := blockSize (readDev r 0 (2048 * u) 2048)
    storeAs (countRaw r n) u (sizeState n) := by
  unfold storeBlock sizeState countRaw
  rw [state]
  dsimp only
  generalize respell s u c = r
  generalize blockSize (readDev r 0 (2048 * u) 2048) = n
  by_cases zero : n = 0
  · rw [if_pos zero, if_pos zero, if_neg (by omega)]
    rfl
  · rw [if_neg zero, if_neg zero]
    by_cases small : n ≤ 224
    · rw [if_pos small, if_pos small, if_neg (by omega)]
      rfl
    · rw [if_neg small, if_neg small, if_pos (by omega), updRegs_setBlockState]
      · rfl
      · exact fun _ => rfl

theorem metaAddr_byte (s : State) (u : Nat) : (metaAddr s u + 4 - 1) / 8 = metaAddr s u / 8 := by
  unfold metaAddr
  omega

section

variable {s : State} {u c : Nat}

theorem mem_storeAs : (storeAs s u c).mem = spreadInto s.mem (cdaOf 0) (metaAddr s u) 4 c := by
  unfold storeAs setPacked setBlockState
  exact mem_writeDev s 0 _ 4 c

theorem cellRead_storeAs {x : Nat} (other : x ≠ linearToCda (metaAddr s u / 8)) : cellRead (storeAs s u c).mem x = cellRead s.mem x := by
  rw [mem_storeAs]
  refine cellRead_spreadInto_outside (by decide) fun o lo hi => ?_
  rw [metaAddr_byte] at hi
  rwa [show o = metaAddr s u / 8 by omega]

theorem writeDev_rest (s : State) (apr a w v : Nat) : ∃ m, writeDev s apr a w v = { s with mem := m } := ⟨_, rfl⟩

theorem storeAs_rest (s : State) (u c : Nat) : ∃ m p, storeAs s u c = { s with mem := m, packed := p } := by
  obtain ⟨m, wrote⟩ := writeDev_rest s 0 (metaAddr s u) 4 c
  refine ⟨m, if c = 0 then eraseAt s.packed u else insertAt s.packed u c, ?_⟩
  unfold storeAs setBlockState
  rw [wrote]
  rfl

theorem regs_storeAs : (storeAs s u c).regs = s.regs := by
  obtain ⟨m, p, rest⟩ := storeAs_rest s u c
  rw [rest]

theorem gather_spread_nibble (m : List Host.Cell) {a : Nat} (inside : (a + 4 - 1) / 8 = a / 8) :
    gatherBits (fun o => cellRead (spreadInto m (cdaOf 0) a 4 c) (cdaOf 0 o)) a 4 = c % 2 ^ 4 :=
  gatherBits_spreadInto_same (· = a / 8) (fun _ _ h h' _ => h.trans h'.symm) (by decide) fun o lo hi => by omega

theorem blockState_storeAs (fits : c ≤ 8) : blockState (storeAs s u c) u = c := by
  unfold blockState readDev devByte
  rw [metaAddr_congr (congrArg Regs.cmbas regs_storeAs), mem_storeAs, gather_spread_nibble s.mem (metaAddr_byte s u)]
  exact Nat.mod_eq_of_lt (Nat.lt_of_le_of_lt fits (by decide))

theorem packed_storeAs : lookupD (storeAs s u c).packed u 0 = c := by
  unfold storeAs setPacked
  by_cases zero : c = 0 <;> simp [zero, lookupD]

end

/-! ## Blocks that HBM stores as their state says -/

/-- A fold of steps that change only memory and the count of free words. -/
theorem foldl_mem_rest {f : State → Nat → State} (step : ∀ s x, ∃ n m, f s x = { s with free := n, mem := m }) (l : List Nat) (s : State) :
    ∃ n m, l.foldl f s = { s with free := n, mem := m } := by
  induction l generalizing s with
  | nil => exact ⟨s.free, s.mem, rfl⟩
  | cons x l ih =>
    obtain ⟨n, m, one⟩ := step s x
    obtain ⟨n', m', rest⟩ := ih (f s x)
    exact ⟨n', m', by rw [List.foldl_cons, rest, one]⟩

/-- Only free words, memory and the form in which HBM stores the block change with a state that software has written. -/
theorem respell_rest (s : State) (u c : Nat) : ∃ n m p, respell s u c = { s with free := n, mem := m, packed := p } := by
  have sector (s : State) (sec : Nat) : ∃ n m, freeSector s sec = { s with free := n, mem := m } :=
    foldl_mem_rest (fun _ _ => ⟨_, _, rfl⟩) _ s
  unfold respell
  split
  · exact ⟨s.free, s.mem, s.packed, rfl⟩
  · generalize (unitSectors u).filter _ = l
    dsimp only
    obtain ⟨n, m, wiped⟩ : ∃ n m, (if c = 8 then l.foldl (fun s x => writeDev s 2 (256 * x) 256 0) s else l.foldl freeSector s) =
        { s with free := n, mem := m } := by
      split
      · exact foldl_mem_rest (fun s _ => ⟨s.free, _, rfl⟩) l s
      · exact foldl_mem_rest sector l s
    exact ⟨n, m, _, by rw [wiped]; rfl⟩

theorem respell_same {s : State} {u c : Nat} (same : lookupD s.packed u 0 = c) : respell s u c = s := if_pos same

theorem mem_poisonSectors (s : State) (l : List Nat) (k : Nat) : k ∈ (poisonSectors s l).poison ↔ k ∈ l ∨ k ∈ s.poison := by
  unfold poisonSectors
  induction l generalizing s with
  | nil => simp
  | cons x l ih =>
    rw [List.foldl_cons, ih]
    simp [setPoison, mem_insertNat, or_assoc, or_left_comm]

theorem poisonSectors_rest (s : State) (l : List Nat) : poisonSectors s l = { s with poison := (poisonSectors s l).poison } := by
  unfold poisonSectors
  induction l generalizing s with
  | nil => rfl
  | cons x l ih => rw [List.foldl_cons, ih]; rfl

/-- While no sector is poisoned, reading a block's state at most fills the metadata cache and counts its miss. -/
theorem readMeta_clean {s : State} (clean : s.poison = []) (u : Nat) :
    ∃ lines misses, readMeta s u = { s with mdLines := lines, regs := { s.regs with cmmcm := misses } } := by
  unfold readMeta
  dsimp only
  split
  · rw [if_neg (by simp [clean])]
    exact ⟨s.mdLines, s.regs.cmmcm, rfl⟩
  · rw [if_neg (by simp [updRegs, clean])]
    exact ⟨_, _, rfl⟩

/-! ## The block of a line that is written -/

/-- The line of a block is written in the form `c` over the state `r`, which keeps what the caches hold and, of a block that HBM stores as its state
says, the memory (R158 to R160). -/
structure Stores (s : State) (line : Nat) (r : State) (c : Nat) : Prop where
  written : writeBackDevice s line = cleanLine (storeAs r (cdaToLinear (64 * line) / 256) c) line
  fits    : c ≤ 8
  caches  : r.l2 = s.l2 ∧ r.victim = s.victim ∧ r.podMem = s.podMem
  base    : r.regs.cmbas = s.regs.cmbas

section

variable {s : State} {line : Nat} (on : s.regs.cmbas.getLsbD 0 = true) (plain : inMetadata s (cdaToLinear (64 * line) / 256) = false)
  (clean : s.poison = [])

/-- Some line of the block of a line is marked for compression. -/
def blockMarked (s : State) (line : Nat) : Bool :=
  [line / 4 * 4, line / 4 * 4 + 1, line / 4 * 4 + 2, line / 4 * 4 + 3].any fun k => (lineState s k).cmark

include on plain clean

/-- A block whose state is reserved is stored raw, and its sectors that no cache holds stay poisoned. -/
theorem stores_reserved (reserved : 9 ≤ blockState s (cdaToLinear (64 * line) / 256)) : ∃ r, Stores s line r 0 ∧ r.mem = s.mem ∧
    r.regs.cmraw = s.regs.cmraw ∧
    ∀ k, k ∈ r.poison ↔ k ∈ unitSectors (cdaToLinear (64 * line) / 256) ∧ sectorCached s k = false := by
  obtain ⟨lines, misses, read⟩ := readMeta_clean clean (cdaToLinear (64 * line) / 256)
  generalize unit : cdaToLinear (64 * line) / 256 = u at *
  have state : blockState (readMeta s u) u = blockState s u := blockState_congr (by rw [read]) (by rw [read]) u
  refine ⟨poisonSectors (readMeta s u) ((unitSectors u).filter fun x => !sectorCached (readMeta s u) x), ⟨?_, by decide, ?_, ?_⟩, ?_, ?_, ?_⟩
  · rw [unit]
    unfold writeBackDevice
    simp only [unit, on, plain, state, reserved, Bool.not_true, Bool.false_eq_true, if_false, if_true, storeRaw_storeAs]
  · rw [poisonSectors_rest, read]
    exact ⟨rfl, rfl, rfl⟩
  · rw [poisonSectors_rest, read]
  · rw [poisonSectors_rest, read]
  · rw [poisonSectors_rest, read]
  · intro k
    rw [mem_poisonSectors, read]
    simp [clean, sectorCached]

/-- An unmarked block is stored raw. -/
theorem stores_unmarked (legal : ¬9 ≤ blockState s (cdaToLinear (64 * line) / 256)) (unmarked : blockMarked s line = false) :
    ∃ r, Stores s line r 0 ∧ r.mem = s.mem ∧ r.regs.cmraw = s.regs.cmraw ∧ r.poison = [] := by
  obtain ⟨lines, misses, read⟩ := readMeta_clean clean (cdaToLinear (64 * line) / 256)
  generalize unit : cdaToLinear (64 * line) / 256 = u at *
  have state : blockState (readMeta s u) u = blockState s u := blockState_congr (by rw [read]) (by rw [read]) u
  have marks : blockMarked (readMeta s u) line = false := by
    rw [read]
    exact unmarked
  unfold blockMarked at marks
  refine ⟨readMeta s u, ⟨?_, by decide, ?_, ?_⟩, ?_, ?_, ?_⟩
  · rw [unit]
    unfold writeBackDevice
    simp only [unit, on, plain, state, legal, marks, Bool.not_true, Bool.false_eq_true, if_false, storeRaw_storeAs]
  all_goals rw [read]
  · exact ⟨rfl, rfl, rfl⟩
  · exact clean

/-- A marked block is stored in the form of its size. -/
theorem stores_marked (legal : ¬9 ≤ blockState s (cdaToLinear (64 * line) / 256)) (marked : blockMarked s line = true) :
    ∃ r c, Stores s line r c ∧ (lookupD s.packed (cdaToLinear (64 * line) / 256) 0 = blockState s (cdaToLinear (64 * line) / 256) →
      let n := blockSize (readDev s 0 (2048 * (cdaToLinear (64 * line) / 256)) 2048)
      c = sizeState n ∧ r.mem = s.mem ∧ r.regs.cmraw = s.regs.cmraw + (if 224 < n then 1 else 0) ∧ r.poison = []) := by
  obtain ⟨lines, misses, read⟩ := readMeta_clean clean (cdaToLinear (64 * line) / 256)
  generalize unit : cdaToLinear (64 * line) / 256 = u at *
  have state : blockState (readMeta s u) u = blockState s u := blockState_congr (by rw [read]) (by rw [read]) u
  have marks : blockMarked (readMeta s u) line = true := by
    rw [read]
    exact marked
  unfold blockMarked at marks
  obtain ⟨free, mem, packed, spelt⟩ := respell_rest (readMeta s u) u (blockState s u)
  have stored := storeBlock_storeAs state
  dsimp only at stored
  generalize size : blockSize (readDev (respell (readMeta s u) u (blockState s u)) 0 (2048 * u) 2048) = n at stored
  refine ⟨countRaw (respell (readMeta s u) u (blockState s u)) n, sizeState n, ⟨?_, sizeState_le n, ?_, ?_⟩, fun same => ?_⟩
  · rw [unit]
    unfold writeBackDevice
    simp only [unit, on, plain, state, legal, marks, stored, Bool.not_true, Bool.false_eq_true, if_false, if_true]
  · rw [countRaw_rest, spelt, read]
    exact ⟨rfl, rfl, rfl⟩
  · rw [countRaw_rest, spelt, read]
  · have kept : respell (readMeta s u) u (blockState s u) = readMeta s u := respell_same (by rw [read, ← same])
    have area : readDev (readMeta s u) 0 (2048 * u) 2048 = readDev s 0 (2048 * u) 2048 := by
      unfold readDev devByte
      rw [read]
    rw [kept] at size ⊢
    rw [area] at size
    rw [size, countRaw_rest, read]
    exact ⟨rfl, rfl, rfl, clean⟩

end

theorem storeRaw_unpacked {s : State} (unpacked : s.packed = []) (u : Nat) : storeRaw s u (lookup s.packed u).isSome = s := by
  unfold storeRaw setPacked
  rw [unpacked]
  simp only [lookup, Option.isSome_none, Bool.false_eq_true, if_false, if_true]
  rw [show eraseAt s.packed u = s.packed by rw [unpacked]; rfl]

/-- What the caches hold, the memory and the registers once a line of a stored block has gone. -/
theorem dropLine_stored {s r x : State} (line u : Nat) {m : List Host.Cell} {p : Map Nat} (rest : x = { r with mem := m, packed := p })
    (caches : r.l2 = s.l2 ∧ r.victim = s.victim ∧ r.podMem = s.podMem) :
    let t := dropLine x line
    lookup t.l2 line = none ∧ lookup t.victim line = none ∧ (∀ k, k ≠ line → lookup t.l2 k = lookup s.l2 k ∧ lookup t.victim k = lookup s.victim k) ∧
      (∀ k, cellRead t.mem k = cellRead x.mem k) ∧ t.podMem = s.podMem ∧ lookupD t.packed u 0 = lookupD x.packed u 0 ∧
      blockState t u = blockState x u ∧ t.regs.cmraw = r.regs.cmraw ∧ t.poison = r.poison := by
  obtain ⟨l2, victim, pod⟩ := caches
  refine ⟨lookup_eraseAt_same _ _, lookup_eraseAt_same _ _, fun k other => ⟨?_, ?_⟩, fun _ => rfl, ?_, rfl, blockState_congr rfl rfl u, ?_, ?_⟩
  · exact (lookup_eraseAt_other _ other).trans (by rw [rest, l2])
  · exact (lookup_eraseAt_other _ other).trans (by rw [rest, victim])
  · exact (congrArg State.podMem rest :).trans pod
  · exact (congrArg (fun t => t.regs.cmraw) rest :)
  · exact (congrArg State.poison rest :)

/-- What a write-back of a dirty line leaves behind when its block is stored in the form `c` over `r` (R157, R158). -/
theorem stores_outcome {s r : State} {line c : Nat} (dirty : (lineState s line).dirty = true) (plain : line < compactLine0) (st : Stores s line r c) :
    ∃ t, exec (.writeBack line) s = .next t ∧ lookup t.l2 line = none ∧ lookup t.victim line = none ∧
      (∀ k, k ≠ line → lookup t.l2 k = lookup s.l2 k ∧ lookup t.victim k = lookup s.victim k) ∧
      (∀ k, k ≠ linearToCda (metaAddr s (cdaToLinear (64 * line) / 256) / 8) → r.mem = s.mem → cellRead t.mem k = cellRead s.mem k) ∧
      t.podMem = s.podMem ∧ lookupD t.packed (cdaToLinear (64 * line) / 256) 0 = c ∧ blockState t (cdaToLinear (64 * line) / 256) = c ∧
      t.regs.cmraw = r.regs.cmraw ∧ t.poison = r.poison := by
  obtain ⟨written, fits, caches, base⟩ := st
  obtain ⟨m, p, rest⟩ := storeAs_rest r (cdaToLinear (64 * line) / 256) c
  obtain ⟨l2, victim, others, mem, pod, packed, state, counted, poison⟩ := dropLine_stored line (cdaToLinear (64 * line) / 256) rest caches
  refine ⟨_, execWriteBack_device dirty plain written, l2, victim, others, fun k other same => ?_, pod, packed.trans packed_storeAs,
    state.trans (blockState_storeAs fits), counted, poison⟩
  rw [mem, ← same]
  exact cellRead_storeAs (by rwa [metaAddr_congr base])

/-- R152, R157 to R160: what a write-back writes, and what it leaves in the caches. -/
theorem writeBack : Claims.WriteBack := by
  intro s line
  refine ⟨fun clean => congrArg Host.Outcome.next (if_pos (by rw [clean]; rfl)), fun dirty plain off unpacked => ?_, ?_⟩
  · refine execWriteBack_device dirty plain ?_
    unfold writeBackDevice
    simp only [off, storeRaw_unpacked unpacked, Bool.not_false, if_true]
  · intro u base n marked dirty plain on outside clean
    have region : inMetadata s u = false := by
      unfold inMetadata
      rw [← Bool.decide_and]
      exact decide_eq_false outside
    by_cases legal : 9 ≤ blockState s u
    · obtain ⟨r, st, mem, count, poison⟩ := stores_reserved on region clean legal
      obtain ⟨t, next, l2, victim, others, cells, pod, packed, state, counted, poisoned⟩ := stores_outcome dirty plain st
      exact ⟨t, next, l2, victim, others, fun k other _ => cells k other mem, pod, packed.trans state.symm, fun low => absurd legal (by omega),
        fun _ => ⟨state, counted.trans count, fun k => by rw [poisoned]; exact poison k⟩⟩
    · cases mark : blockMarked s line with
      | false =>
        obtain ⟨r, st, mem, count, poison⟩ := stores_unmarked on region clean legal mark
        obtain ⟨t, next, l2, victim, others, cells, pod, packed, state, counted, poisoned⟩ := stores_outcome dirty plain st
        refine ⟨t, next, l2, victim, others, fun k other _ => cells k other mem, pod, packed.trans state.symm, fun _ _ => ⟨?_, ?_, poisoned.trans poison⟩,
          fun high => absurd high legal⟩
        · exact state.trans (if_pos mark).symm
        · rw [if_neg fun both => Bool.false_ne_true (mark.symm.trans both.1), add_zero]
          exact counted.trans count
      | true =>
        obtain ⟨r, c, st, same⟩ := stores_marked on region clean legal mark
        obtain ⟨t, next, l2, victim, others, cells, pod, packed, state, counted, poisoned⟩ := stores_outcome dirty plain st
        refine ⟨t, next, l2, victim, others, fun k other known => ?_, pod, packed.trans state.symm, fun _ known => ?_, fun high => absurd high legal⟩
        · obtain ⟨-, mem, -⟩ := same (known.resolve_right legal)
          exact cells k other mem
        · obtain ⟨size, -, count, poison⟩ := same known
          refine ⟨?_, ?_, poisoned.trans poison⟩
          · exact state.trans (size.trans (if_neg fun unmarked => Bool.false_ne_true (unmarked.symm.trans mark)).symm)
          · rw [counted, count, if_congr (and_iff_right (show marked = true from mark)) rfl rfl]

end Sys2Proof.Machine
end

section
/-! PROOFS. Heat decay (R173), and with it the upkeep of memory. -/

namespace Sys2Proof.Machine

open Sys2Proof

/-! ## Bits of an area that lies in one of the two memories -/

/-- The bits lie in device memory, or in pod memory. -/
def InOneMemory (a w : Nat) : Prop := a + w ≤ 8 * deviceBytes ∨ 8 * deviceBytes ≤ a

theorem exists_linear {a w : Nat} (pos : 0 < w) (fits : a + w ≤ 8 * deviceBytes) : Claims.Exists 0 a w := by
  intro o _ hi
  have inside : o < deviceBytes := by omega
  simpa [apertureExists] using inside

theorem readArea_writeArea_same {s : State} {a w v : Nat} (pos : 0 < w) (one : InOneMemory a w) :
    readArea (writeArea s a w v) a w = v % 2 ^ w := by
  unfold readArea writeArea
  obtain dev | pod := one
  · rw [if_pos (by omega), if_pos (by omega)]
    exact readDev_writeDev_same (by decide) pos (exists_linear pos dev)
  · rw [if_neg (by omega), if_neg (by omega)]
    exact readPod_writePod_same pos

theorem readArea_writeArea_other {s : State} {a w v b n : Nat} (pos : 0 < w) (pos' : 0 < n) (one : InOneMemory a w) (one' : InOneMemory b n)
    (apart : a + w ≤ b ∨ b + n ≤ a) : readArea (writeArea s a w v) b n = readArea s b n := by
  unfold readArea writeArea
  obtain dev | pod := one <;> obtain dev' | pod' := one'
  · rw [if_pos (by omega), if_pos (by omega), if_pos (by omega)]
    exact readDev_writeDev_other (by decide) pos (exists_linear pos dev) (exists_linear pos' dev') apart
  · rw [if_neg (by omega), if_pos (by omega), if_neg (by omega)]
    rfl
  · rw [if_pos (by omega), if_neg (by omega), if_pos (by omega)]
    rfl
  · rw [if_neg (by omega), if_neg (by omega), if_neg (by omega)]
    exact readPod_writePod_other pos apart

theorem cellRead_writeArea_mem {s : State} {a w v c : Nat} (pos : 0 < w) (off : ∀ o, a / 8 ≤ o → o ≤ (a + w - 1) / 8 → c ≠ linearToCda o) :
    cellRead (writeArea s a w v).mem c = cellRead s.mem c := by
  unfold writeArea
  split
  · exact cellRead_spreadInto_outside (g := cdaOf 0) pos off
  · rfl

theorem cellRead_writeArea_podMem {s : State} {a w v c : Nat} (pos : 0 < w) (off : ∀ o, a / 8 ≤ o → o ≤ (a + w - 1) / 8 → c ≠ o) :
    cellRead (writeArea s a w v).podMem c = cellRead s.podMem c := by
  unfold writeArea
  split
  · rfl
  · rw [podMem_writePod]
    exact cellRead_spreadInto_outside (g := id) pos off

theorem writeArea_rest (s : State) (a w v : Nat) : ∃ m p, writeArea s a w v = { s with mem := m, podMem := p } := by
  unfold writeArea
  split
  · exact ⟨_, s.podMem, rfl⟩
  · exact ⟨s.mem, _, rfl⟩

theorem gatherBits_zero {rd : Nat → Byte} {a w : Nat} (zero : ∀ o, a / 8 ≤ o → o ≤ (a + w - 1) / 8 → rd o = 0) : gatherBits rd a w = 0 := by
  refine Nat.eq_of_testBit_eq fun j => ?_
  rw [testBit_gatherBits, Nat.zero_testBit]
  by_cases h : j < w
  · simp [bitAt, zero ((a + j) / 8) (by omega) (by omega)]
  · rw [decide_eq_false h, Bool.false_and]

theorem readArea_lt (s : State) (a w : Nat) : readArea s a w < 2 ^ w := by
  unfold readArea
  split <;> exact Nat.mod_lt _ (Nat.two_pow_pos w)

theorem cda_small {c : Nat} (exist : cdaExists c = true) : c < 2 ^ 40 := by
  simp only [cdaExists, Bool.and_eq_true, decide_eq_true_eq] at exist
  exact exist.1.1

theorem cellRead_unlisted {m : List Host.Cell} {x : Nat} (unlisted : ∀ v, (x, v) ∉ m) : cellRead m x = 0 := by
  induction m with
  | nil => rfl
  | cons k m ih =>
    obtain ⟨y, v⟩ := k
    rw [cellRead, if_neg (fun e => unlisted v (by rw [e]; exact List.mem_cons_self)), ih fun v mem => unlisted v (List.mem_cons_of_mem _ mem)]

/-! ## The entries that a decay visits -/

theorem sorted_insertNat {l : List Nat} (sorted : l.Pairwise (· < ·)) (x : Nat) : (insertNat l x).Pairwise (· < ·) := by
  induction l with
  | nil => exact List.pairwise_singleton ..
  | cons k l ih =>
    obtain ⟨above, sorted⟩ := List.pairwise_cons.mp sorted
    unfold insertNat
    split
    next low => exact List.pairwise_cons.mpr ⟨fun y mem => by
      obtain rfl | mem := List.mem_cons.mp mem
      · exact low
      · exact low.trans (above y mem), List.pairwise_cons.mpr ⟨above, sorted⟩⟩
    next high =>
      split
      · exact List.pairwise_cons.mpr ⟨above, sorted⟩
      · refine List.pairwise_cons.mpr ⟨fun y mem => ?_, ih sorted⟩
        obtain rfl | mem := (mem_insertNat l x y).mp mem
        · omega
        · exact above y mem

theorem foldl_insertNat {α : Type} (f : α → Nat) (l : List α) {m : List Nat} (sorted : m.Pairwise (· < ·)) :
    (l.foldl (fun m a => insertNat m (f a)) m).Pairwise (· < ·) ∧ ∀ i, i ∈ l.foldl (fun m a => insertNat m (f a)) m ↔ (∃ a ∈ l, i = f a) ∨ i ∈ m := by
  induction l generalizing m with
  | nil => simp [sorted]
  | cons a l ih =>
    obtain ⟨sorted, mem⟩ := ih (sorted_insertNat sorted (f a))
    refine ⟨sorted, fun i => (mem i).trans ?_⟩
    rw [mem_insertNat]
    simp only [List.mem_cons, exists_eq_or_imp]
    exact or_left_comm.trans or_assoc.symm

theorem heatEntries_nodup (s : State) : (heatEntries s).Nodup := by
  unfold heatEntries
  exact (foldl_insertNat _ _ .nil).1.imp fun low => low.ne

/-- The byte of the heat table at `a` may be other than zero: some byte of its memory is listed there. -/
def heatListed (s : State) (a : Nat) : Prop :=
  if heatBase s < deviceBytes then ∃ c v, (c, v) ∈ s.mem ∧ c < 2 ^ 40 ∧ cdaToLinear c = a else ∃ v, (a, v) ∈ s.podMem

theorem mem_heatEntries (s : State) (i : Nat) :
    i ∈ heatEntries s ↔ ∃ a, heatListed s a ∧ heatBase s ≤ a ∧ a < heatBase s + 2 ^ 27 ∧ i = (a - heatBase s) / 2 := by
  unfold heatEntries heatListed
  rw [(foldl_insertNat _ _ .nil).2 i]
  simp only [List.mem_filter, Bool.and_eq_true, decide_eq_true_eq, List.not_mem_nil, or_false]
  split <;> simp [and_assoc]

theorem heatEntries_small {s : State} {i : Nat} (mem : i ∈ heatEntries s) : i < 2 ^ 26 := by
  obtain ⟨a, -, low, high, rfl⟩ := (mem_heatEntries s i).mp mem
  omega

/-- The heat table lies in one memory, because its base is a multiple of its size. -/
theorem heatBase_fits {s : State} (dev : heatBase s < deviceBytes) : heatBase s + 2 ^ 27 ≤ deviceBytes := by
  have size : deviceBytes = 3840 * 2 ^ 27 := rfl
  unfold heatBase at dev ⊢
  rw [size] at dev ⊢
  omega

theorem heatEntry_inOneMemory (s : State) {i : Nat} (small : i < 2 ^ 26) : InOneMemory (8 * heatBase s + 16 * i) 16 := by
  unfold InOneMemory
  by_cases dev : heatBase s < deviceBytes
  · have fits := heatBase_fits dev
    omega
  · omega

/-- An entry that a decay does not visit is zero. -/
theorem readArea_unvisited {s : State} {i : Nat} (small : i < 2 ^ 26) (unvisited : i ∉ heatEntries s) : readArea s (8 * heatBase s + 16 * i) 16 = 0 := by
  have bytes (o : Nat) (lo : (8 * heatBase s + 16 * i) / 8 ≤ o) (hi : o ≤ (8 * heatBase s + 16 * i + 16 - 1) / 8) : ¬heatListed s o :=
    fun listed => unvisited ((mem_heatEntries s i).mpr ⟨o, listed, by omega, by omega, by omega⟩)
  unfold heatListed at bytes
  unfold readArea
  by_cases dev : heatBase s < deviceBytes
  · have fits := heatBase_fits dev
    simp only [dev, if_true] at bytes
    rw [if_pos (by omega)]
    refine gatherBits_zero fun o lo hi => cellRead_unlisted fun v mem => ?_
    have exist : o < deviceBytes := by omega
    exact bytes o lo hi ⟨linearToCda o, v, mem, cda_small (cdaExists_linearToCda exist), cdaToLinear_linearToCda exist⟩
  · simp only [dev, if_false] at bytes
    rw [if_neg (by omega)]
    exact gatherBits_zero fun o lo hi => cellRead_unlisted fun v mem => bytes o lo hi ⟨v, mem⟩

/-! ## The decay -/

/-- Halve an entry of the heat table whose base is `b`. -/
def halveEntry (b : Nat) (s : State) (i : Nat) : State := writeArea s (8 * b + 16 * i) 16 (readArea s (8 * b + 16 * i) 16 / 2)

theorem foldl_halveEntry_rest (b : Nat) (l : List Nat) (s : State) : ∃ m p, l.foldl (halveEntry b) s = { s with mem := m, podMem := p } := by
  induction l generalizing s with
  | nil => exact ⟨s.mem, s.podMem, rfl⟩
  | cons i l ih =>
    obtain ⟨m, p, one⟩ := writeArea_rest s (8 * b + 16 * i) 16 (readArea s (8 * b + 16 * i) 16 / 2)
    obtain ⟨m', p', rest⟩ := ih (halveEntry b s i)
    refine ⟨m', p', ?_⟩
    rw [List.foldl_cons, rest]
    unfold halveEntry
    rw [one]

theorem foldl_halveEntry_read {b : Nat} (one : ∀ i < 2 ^ 26, InOneMemory (8 * b + 16 * i) 16) {l : List Nat} (nodup : l.Nodup)
    (small : ∀ i ∈ l, i < 2 ^ 26) (s : State) {i : Nat} (hi : i < 2 ^ 26) : readArea (l.foldl (halveEntry b) s) (8 * b + 16 * i) 16 =
      if i ∈ l then readArea s (8 * b + 16 * i) 16 / 2 else readArea s (8 * b + 16 * i) 16 := by
  induction l generalizing s with
  | nil => rfl
  | cons j l ih =>
    obtain ⟨fresh, nodup⟩ := List.nodup_cons.mp nodup
    have hj := small j List.mem_cons_self
    rw [List.foldl_cons, ih nodup (fun k mem => small k (List.mem_cons_of_mem _ mem))]
    unfold halveEntry
    by_cases same : i = j
    · subst same
      rw [readArea_writeArea_same (by decide) (one i hi), if_neg fresh, if_pos List.mem_cons_self]
      have range : readArea s (8 * b + 16 * i) 16 < 2 ^ 16 := readArea_lt ..
      exact Nat.mod_eq_of_lt (by omega)
    · rw [readArea_writeArea_other (by decide) (by decide) (one j hj) (one i hi) (by omega)]
      simp [same]

theorem foldl_halveEntry_frame {b : Nat} {l : List Nat} (small : ∀ i ∈ l, i < 2 ^ 26) (s : State) :
    (∀ c, (∀ o, b ≤ o → o < b + 2 ^ 27 → c ≠ linearToCda o) → cellRead (l.foldl (halveEntry b) s).mem c = cellRead s.mem c) ∧
      ∀ o, o < b ∨ b + 2 ^ 27 ≤ o → cellRead (l.foldl (halveEntry b) s).podMem o = cellRead s.podMem o := by
  induction l generalizing s with
  | nil => exact ⟨fun _ _ => rfl, fun _ _ => rfl⟩
  | cons i l ih =>
    have hi := small i List.mem_cons_self
    obtain ⟨dev, pod⟩ := ih (fun k mem => small k (List.mem_cons_of_mem _ mem)) (halveEntry b s i)
    refine ⟨fun c off => (dev c off).trans ?_, fun o off => (pod o off).trans ?_⟩
    · exact cellRead_writeArea_mem (by decide) fun o _ _ => off o (by omega) (by omega)
    · exact cellRead_writeArea_podMem (by decide) fun x _ _ => by omega

theorem heatBase_congr {s t : State} (same : t.regs.heatb = s.regs.heatb) : heatBase t = heatBase s := by
  unfold heatBase
  rw [same]

theorem foldl_halve (b : Nat) (l : List Nat) {s : State} (base : heatBase s = b) :
    l.foldl (fun s i => let a := 8 * heatBase s + 16 * i; writeArea s a 16 (readArea s a 16 / 2)) s = l.foldl (halveEntry b) s := by
  induction l generalizing s with
  | nil => rw [List.foldl_nil, List.foldl_nil]
  | cons i l ih =>
    have same : heatBase (halveEntry b s i) = b := by
      obtain ⟨m, p, one⟩ := writeArea_rest s (8 * b + 16 * i) 16 (readArea s (8 * b + 16 * i) 16 / 2)
      unfold halveEntry
      rw [one, ← base]
      exact heatBase_congr rfl
    rw [List.foldl_cons, List.foldl_cons, ← ih same]
    unfold halveEntry
    dsimp only
    rw [base]

/-- The end of a decay, from what halving the entries has made of the memories. -/
theorem heatDecay_ends {s t : State} {m p : List Host.Cell} (rest : t = { s with mem := m, podMem := p })
    (halved : ∀ i, i < 2 ^ 26 → readArea t (8 * heatBase s + 16 * i) 16 = readArea s (8 * heatBase s + 16 * i) 16 / 2) :
    let u := updRegs t fun r => { r with heatRun := false }
    u = { s with mem := u.mem, podMem := u.podMem, regs := { s.regs with heatRun := false } } ∧ u.mem = t.mem ∧ u.podMem = t.podMem ∧
      ∀ i, i < 2 ^ 26 → readArea u (8 * heatBase s + 16 * i) 16 = readArea s (8 * heatBase s + 16 * i) 16 / 2 := by
  refine ⟨?_, rfl, rfl, fun i hi => (readArea_congr rfl rfl _ _).trans (halved i hi)⟩
  rw [rest]
  rfl

/-- R173: every entry of the heat table is halved, because an entry without a listed byte is zero. -/
theorem heatDecay : Claims.HeatDecay := by
  refine fun s => ⟨fun idle => congrArg Host.Outcome.next (if_neg (by rw [idle]; decide)), fun run => ?_⟩
  have next : exec .heatDecayDone s = .next (updRegs ((heatEntries s).foldl (halveEntry (heatBase s)) s) fun r => { r with heatRun := false }) := by
    refine congrArg Host.Outcome.next ((if_pos run).trans ?_)
    rw [foldl_halve _ _ rfl]
  obtain ⟨m, p, rest⟩ := foldl_halveEntry_rest (heatBase s) (heatEntries s) s
  obtain ⟨dev, pod⟩ := foldl_halveEntry_frame (fun _ => heatEntries_small) s (b := heatBase s) (l := heatEntries s)
  obtain ⟨same, mem, podMem, halved⟩ := heatDecay_ends rest fun i hi => by
    rw [foldl_halveEntry_read (fun i hi => heatEntry_inOneMemory s hi) (heatEntries_nodup s) (fun _ => heatEntries_small) s hi]
    split
    · rfl
    · next unvisited => rw [readArea_unvisited hi unvisited]
  exact ⟨_, next, same, halved, fun c off => by rw [mem]; exact dev c off, fun o off => by rw [podMem]; exact pod o off⟩

/-- Settles O50: write-backs by the form in which a block is stored, and heat decay by the entries that have a listed byte. -/
theorem memoryUpkeep : Obligations.MemoryUpkeep := ⟨writeBack, scrubAndCounts, heatDecay, badBits⟩

end Sys2Proof.Machine
end

section
/-! PROOFS. What the issue of a memory form leaves as it was: the order of a thread's records, and the memory that the thread sees (R148, R182 to R185). -/

namespace Sys2Proof.Machine

open Sys2Proof

theorem locOf_congr {s t : State} (regs : t.regs = s.regs) : locOf t = locOf s := by
  unfold locOf leafRemote windowBase
  rw [regs]

/-! ## Program order -/

/-- What the order of a thread's records and its view read of an activation. -/
def orderKey (x : Act) : Nat × Nat × Nat × Bool × Nat × Nat × Nat × Nat := (x.part, x.colour, x.serial, x.isTwin, x.twin, x.loop, x.iter, x.seq)

/-- Program order and the places of addresses are the same in both states. -/
structure SameOrder (s t : State) : Prop where
  acts  : ∀ a, orderKey (actOf t a) = orderKey (actOf s a)
  loops : t.loops = s.loops
  regs  : t.regs = s.regs

namespace SameOrder

variable {s t u : State} (same : SameOrder s t)

theorem trans (h : SameOrder s t) (k : SameOrder t u) : SameOrder s u :=
  ⟨fun a => (k.acts a).trans (h.acts a), k.loops.trans h.loops, k.regs.trans h.regs⟩

include same

theorem loopOf (l : Nat) : Machine.loopOf t l = Machine.loopOf s l := by
  unfold Machine.loopOf
  rw [same.loops]

theorem readerOf (a : Nat) : Machine.readerOf t a = Machine.readerOf s a := by
  have key := same.acts a
  simp only [orderKey, Prod.mk.injEq] at key
  simp only [Machine.readerOf, key]

theorem orderPath (n a : Nat) : Machine.orderPath n t a = Machine.orderPath n s a := by
  induction n generalizing a with
  | zero => rfl
  | succ n ih =>
    have key := same.acts a
    simp only [orderKey, Prod.mk.injEq] at key
    simp only [Machine.orderPath, key, same.loopOf, ih]

theorem pathBefore (xs ys : OrderPath) (i j : Nat) : Machine.pathBefore t xs ys i j = Machine.pathBefore s xs ys i j := by
  induction xs generalizing ys with
  | nil => cases ys <;> rfl
  | cons x xs ih =>
    cases ys with
    | nil => rfl
    | cons y ys => simp only [Machine.pathBefore, ih, same.loopOf]

theorem precedes (a i b j : Nat) : Machine.precedes t a i b j = Machine.precedes s a i b j := by
  have key := same.acts a
  have key' := same.acts b
  simp only [orderKey, Prod.mk.injEq] at key key'
  simp only [Machine.precedes, key, key', same.orderPath, same.pathBefore]

theorem placeStore (x : Store) (l : List Store) : Machine.placeStore t x l = Machine.placeStore s x l := by
  induction l with
  | nil => rfl
  | cons y l ih => simp only [Machine.placeStore, same.precedes, ih]

theorem viewStores (stores : t.stores = s.stores) (a k : Nat) : Machine.viewStores t a k = Machine.viewStores s a k := by
  simp only [Machine.viewStores, earlierStores, stores, same.precedes, same.placeStore]

theorem elemPlace (x : StoreElem) : Machine.elemPlace t x = Machine.elemPlace s x := by
  simp only [Machine.elemPlace, locOf_congr same.regs]

/-- A store that no load conflicts with still conflicts with none, if only its own activation has changed. -/
theorem conflicting {x : Store} (alone : Machine.conflicting s x = []) (listed : ∀ y ∈ t.acts, y ∈ s.acts ∨ y.1 = x.act) : Machine.conflicting t x = [] := by
  simp only [Machine.conflicting, List.map_eq_nil_iff, List.filter_eq_nil_iff, writesPlace] at alone ⊢
  intro y mem hit
  simp only [same.precedes, same.elemPlace] at hit
  obtain old | own := listed y mem
  · exact alone y old hit
  · simp [own] at hit

end SameOrder

theorem begin_order (s : State) (c : Common) (ofs : BitVec 32) : SameOrder s (begin s c ofs) := ⟨fun _ => rfl, rfl, rfl⟩

/-! ## What a thread sees -/

/-- The bits of device and of pod memory, and the registers, are the same in both states. -/
structure SameBits (s t : State) : Prop where
  mem    : t.mem = s.mem
  podMem : t.podMem = s.podMem
  regs   : t.regs = s.regs

theorem begin_bits (s : State) (c : Common) (ofs : BitVec 32) : SameBits s (begin s c ofs) := ⟨rfl, rfl, rfl⟩

theorem SameBits.readDev {s t : State} (same : SameBits s t) (apr a w : Nat) : Machine.readDev t apr a w = Machine.readDev s apr a w := by
  unfold Machine.readDev devByte
  rw [same.mem]

theorem SameBits.readLoc {s t : State} (same : SameBits s t) (loc : Loc) (w : Nat) : Machine.readLoc t loc w = Machine.readLoc s loc w := by
  cases loc with
  | dev apr a => exact same.readDev apr a w
  | pod a => simp only [Machine.readLoc, readPod, same.podMem]
  | remote _ _ => rfl
  | reg _ => rfl

theorem SameBits.writeLoc {s t : State} (same : SameBits s t) (loc : Loc) (w v : Nat) : SameBits (Machine.writeLoc s loc w v) (Machine.writeLoc t loc w v) := by
  obtain ⟨mem, podMem, regs⟩ := same
  cases loc with
  | dev apr a => exact ⟨by simp only [Machine.writeLoc, mem_writeDev, mem], podMem, regs⟩
  | pod a => exact ⟨mem, by simp only [Machine.writeLoc, podMem_writePod, podMem], regs⟩
  | remote _ _ => exact ⟨mem, podMem, regs⟩
  | reg _ => exact ⟨mem, podMem, regs⟩

theorem SameBits.foldl {α : Type} {f : State → α → State} (step : ∀ {s t : State}, SameBits s t → ∀ x, SameBits (f s x) (f t x)) (l : List α) {s t : State}
    (same : SameBits s t) : SameBits (l.foldl f s) (l.foldl f t) := by
  induction l generalizing s t with
  | nil => exact same
  | cons x l ih => exact ih (step same x)

theorem SameBits.applyStore {s t : State} (same : SameBits s t) (x : Store) : SameBits (Machine.applyStore s x) (Machine.applyStore t x) := by
  have elems : SameBits (x.elems.foldl (fun s e => Machine.writeLoc s (locOf s e.leaf e.big e.va) e.width e.pat.toNat) s)
      (x.elems.foldl (fun s e => Machine.writeLoc s (locOf s e.leaf e.big e.va) e.width e.pat.toNat) t) := by
    refine SameBits.foldl (fun {s t} same e => ?_) _ same
    rw [locOf_congr same.regs]
    exact same.writeLoc _ _ _
  unfold Machine.applyStore
  split <;> assumption

theorem SameBits.viewOf {s t : State} (same : SameBits s t) (order : SameOrder s t) (stores : t.stores = s.stores) (a k : Nat) :
    SameBits (Machine.viewOf s a k) (Machine.viewOf t a k) := by
  unfold Machine.viewOf
  rw [order.readerOf, order.viewStores stores]
  exact SameBits.foldl (fun same x => same.applyStore x) _ same

theorem scratchView_congr {s t : State} (order : SameOrder s t) (stores : t.stores = s.stores) (sleeves : t.sleeves = s.sleeves) (f : Firing) (k : Nat) :
    scratchView t f k = scratchView s f k := by
  unfold scratchView
  rw [order.readerOf, order.viewStores stores, show sleeveOf t f.sleeve = sleeveOf s f.sleeve by simp only [sleeveOf, sleeves]]

/-! ## The issue of a record -/

theorem updAct_rest (s : State) (a : Nat) (f : Act → Act) : ∃ acts, updAct s a f = { s with acts := acts } := by
  cases listed : lookup s.acts a with
  | none => exact ⟨s.acts, updAct_unlisted listed f⟩
  | some x => exact ⟨_, updAct_listed (by rw [listed]; rfl) f⟩

theorem updAct_acts {s : State} {a : Nat} {f : Act → Act} {y : Nat × Act} (mem : y ∈ (updAct s a f).acts) : y ∈ s.acts ∨ y.1 = a := by
  cases listed : lookup s.acts a with
  | none =>
    rw [updAct_unlisted listed] at mem
    exact .inl mem
  | some x =>
    rw [updAct_listed (by rw [listed]; rfl)] at mem
    obtain rfl | old := mem_insertAt mem
    · exact .inr rfl
    · exact .inl old

theorem SameOrder.updAct {s : State} {a : Nat} {f : Act → Act} (keeps : ∀ x, orderKey (f x) = orderKey x) : SameOrder s (updAct s a f) := by
  obtain ⟨acts, rest⟩ := updAct_rest s a f
  refine ⟨actOf_updAct_keeps orderKey keeps s a, ?_, ?_⟩ <;> rw [rest]

theorem resolveLsid_order (s : State) (a : Nat) (r : MRec) : SameOrder s (resolveLsid s a r) := SameOrder.updAct fun _ => rfl

theorem markLoads_order (s : State) (a : Nat) (l : List LoadMark) : SameOrder s (markLoads s a l) :=
  SameOrder.updAct fun x => by
    split <;> rfl

theorem markLoads_lsids (s : State) (a : Nat) (l : List LoadMark) (b : Nat) :
    (actOf (markLoads s a l) b).issued = (actOf s b).issued ∧ (actOf (markLoads s a l) b).resolved = (actOf s b).resolved := by
  have keeps (x : Act) (g : Act → BitVec 32) (same : ∀ y, g { x with loads := y } = g x) :
      g (if x.st = .predicted then { x with loads := x.loads ++ l } else x) = g x := by
    split
    · exact same _
    · rfl
  exact ⟨actOf_updAct_keeps Act.issued (fun x => keeps x _ fun _ => rfl) s _ b, actOf_updAct_keeps Act.resolved (fun x => keeps x _ fun _ => rfl) s _ b⟩

theorem resolveLsid_rest (s : State) (a : Nat) (r : MRec) : ∃ acts, resolveLsid s a r = { s with acts := acts } := updAct_rest ..

theorem markLoads_rest (s : State) (a : Nat) (l : List LoadMark) : ∃ acts, markLoads s a l = { s with acts := acts } := updAct_rest ..

/-- The issue of a memory record resolves its LSID (R183). -/
theorem resolveLsid_resolves (s : State) (r : MRec) : Claims.Resolves s (resolveLsid s s.cur.act r) r := by
  intro listed
  unfold resolveLsid
  rw [actOf_updAct_same listed]
  exact ⟨rfl, by simp [r.own.isLt]⟩

theorem resolves_congr {s t t' : State} {r : MRec} (h : Claims.Resolves s t r) (issued : (actOf t' s.cur.act).issued = (actOf t s.cur.act).issued)
    (resolved : (actOf t' s.cur.act).resolved = (actOf t s.cur.act).resolved) : Claims.Resolves s t' r := by
  intro listed
  rw [issued, resolved]
  exact h listed

theorem sameMemory_of {s t : State} (mem : t.mem = s.mem) (podMem : t.podMem = s.podMem) (sleeves : t.sleeves = s.sleeves) : Claims.SameMemory s t :=
  ⟨fun apr o => by simp only [devByte, mem], fun b => by rw [podMem], fun v b => by simp only [sleeveOf, sleeves]⟩

end Sys2Proof.Machine
end

section
/-! PROOFS. Loads (R136, R143, R180, R395, R398). -/

namespace Sys2Proof.Machine

open Sys2Proof

/-! ## Parts that lie on device and pod memory -/

section

variable {s : State} {l : List Part} (loc : Claims.Local s l)

include loc

theorem blockedLine_local (f : Firing) (n : Need) : blockedLine s f n l = none := by
  have lost : (l.find? fun p => lostLoc s (partLoc s p)) = none := List.find?_eq_none.mpr fun p mem => by
    obtain ⟨-, kept, -⟩ := loc p mem
    simp [kept]
  have owned : (l.findSome? fun p => ownedLoc s (partLoc s p)) = none := List.findSome?_eq_none_iff.mpr fun p mem => by
    obtain ⟨-, -, free⟩ := loc p mem
    exact free
  simp only [blockedLine, lost, owned]

end

/-- A part that lies on device or pod memory is read there (R143, R148). -/
theorem readPart_local {s : State} {p : Part} (loc : (∃ a, partLoc s p = .pod a) ∨ ∃ apr a, partLoc s p = .dev apr a) (view : State)
    (given : Nat → Nat → Nat → Nat × Nat) (scope : Scope) :
    readPart s view given scope p = (some (poisonLoc s (partLoc s p), readLoc view (partLoc s p) p.width), s) := by
  obtain ⟨a, pod⟩ | ⟨apr, a, dev⟩ := loc
  · simp only [readPart, pod]
  · simp only [readPart, dev]

/-- The piece of a load that a part gives, with its poison and its value in the view. -/
def pieceOf (s view : State) (p : Part) : Piece := (p.elem, p.ofs, p.width, some (poisonLoc s (partLoc s p), readLoc view (partLoc s p) p.width))

/-- A fold that gathers the pieces of a load and changes nothing. -/
theorem foldl_pieces {f : List (Part × Piece) × State → Part → List (Part × Piece) × State} {s : State} {piece : Part → Piece} {l : List Part}
    (step : ∀ ps, ∀ p ∈ l, f (ps, s) p = (ps ++ [(p, piece p)], s)) (done : List (Part × Piece)) :
    l.foldl f (done, s) = (done ++ l.map fun p => (p, piece p), s) := by
  induction l generalizing done with
  | nil => simp
  | cons p l ih =>
    rw [List.foldl_cons, step _ p List.mem_cons_self, ih fun ps q mem => step ps q (List.mem_cons_of_mem _ mem)]
    simp

theorem foldl_touch_cachesOnly {s t : State} (q : Claims.Quiet s) (h : CachesOnly s t) (l : List Part) :
    CachesOnly s (l.foldl (fun s p => touch s (partLoc s p) true) t) := by
  induction l generalizing t with
  | nil => exact h
  | cons p l ih => exact ih (h.trans (touch_cachesOnly (h.quiet q) _ _))

theorem cachesOnly_order {s t : State} (h : CachesOnly s t) : SameOrder s t := by
  rw [h]
  exact ⟨fun _ => rfl, rfl, rfl⟩

/-- What a load remembers of its parts for the order of its thread (R185). -/
def loadMarks (s : State) (r : MRec) (l : List Part) : List LoadMark :=
  l.map fun p => { va := p.va, space := (placeOf (partLoc s p)).1, bit := (placeOf (partLoc s p)).2, width := p.width, lsid := r.own.toNat }

/-- The state of a load whose sectors are in the L2 and whose LSID is resolved. -/
def loadedState (s : State) (f : Firing) (r : MRec) (l : List Part) : State :=
  let t := l.foldl (fun s p => touch s (partLoc s p) true) s
  markLoads (resolveLsid t f.act r) f.act (loadMarks t r l)

theorem pieceOf_congr {s t view view' : State} (regs : t.regs = s.regs) (poison : t.poison = s.poison) (podPoison : t.podPoison = s.podPoison)
    (bits : SameBits view view') : pieceOf t view' = pieceOf s view := by
  funext p
  have place : partLoc t p = partLoc s p := by simp only [partLoc, locOf_congr regs]
  have lost : poisonLoc t (partLoc s p) = poisonLoc s (partLoc s p) := by simp only [poisonLoc, poison, podPoison]
  unfold pieceOf
  rw [place, lost, bits.readLoc]

theorem loadedState_rest {s : State} (q : Claims.Quiet s) (f : Firing) (r : MRec) (l : List Part) :
    ∃ acts l2 victim misses, loadedState s f r l = { s with acts := acts, l2 := l2, victim := victim, misses := misses } := by
  have caches := foldl_touch_cachesOnly q (.refl s) l
  unfold loadedState
  generalize l.foldl (fun s p => touch s (partLoc s p) true) s = t at *
  obtain ⟨_, resolved⟩ := resolveLsid_rest t f.act r
  obtain ⟨acts, marked⟩ := markLoads_rest (resolveLsid t f.act r) f.act (loadMarks t r l)
  exact ⟨acts, t.l2, t.victim, t.misses, by rw [marked, resolved, caches]⟩

theorem loadedState_order {s : State} (q : Claims.Quiet s) (f : Firing) (r : MRec) (l : List Part) : SameOrder s (loadedState s f r l) :=
  ((cachesOnly_order (foldl_touch_cachesOnly q (.refl s) l)).trans (resolveLsid_order ..)).trans (markLoads_order ..)

theorem loadedState_resolves {s : State} (q : Claims.Quiet s) (r : MRec) (l : List Part) : Claims.Resolves s (loadedState s s.cur r l) r := by
  have caches := foldl_touch_cachesOnly q (.refl s) l
  unfold loadedState
  generalize l.foldl (fun s p => touch s (partLoc s p) true) s = t at *
  have acts : t.acts = s.acts := by rw [caches]
  have resolved := resolveLsid_resolves t r
  obtain ⟨issued, kept⟩ := markLoads_lsids (resolveLsid t s.cur.act r) s.cur.act (loadMarks t r l) s.cur.act
  unfold Claims.Resolves at resolved
  rw [show t.cur = s.cur by rw [caches], acts] at resolved
  intro listed
  rw [issued, kept, ← actOf_congr acts]
  exact resolved listed

/-- A load of parts on device and pod memory waits with the value of its pieces. -/
theorem performLoad_local {s : State} {l : List Part} (loc : Claims.Local s l) (q : Claims.Quiet s) (f : Firing) (r : MRec) (n : Need) (scope : Scope)
    (vector : Bool) : performLoad s f r n scope vector l =
      (waitOp (loadedState s f r l) f (.data (loadResult r.c.ty (r.c.fn.getLsbD 3) vector f.grant (l.map (pieceOf s (viewOf s f.act r.own.toNat)))))).2 := by
  obtain ⟨acts, l2, victim, misses, rest⟩ := loadedState_rest q f r l
  have bits : SameBits s (loadedState s f r l) := by
    rw [rest]
    exact ⟨rfl, rfl, rfl⟩
  have pieces : pieceOf (loadedState s f r l) (viewOf (loadedState s f r l) f.act r.own.toNat) = pieceOf s (viewOf s f.act r.own.toNat) :=
    pieceOf_congr bits.regs (by rw [rest]) (by rw [rest]) (bits.viewOf (loadedState_order q f r l) (by rw [rest]) f.act r.own.toNat)
  unfold performLoad
  rw [blockedLine_local loc]
  dsimp only
  generalize registers : List.filter _ l = regs
  obtain rfl : regs = [] := by
    rw [← registers]
    refine List.filter_eq_nil_iff.mpr fun p mem => ?_
    obtain ⟨⟨a, pod⟩ | ⟨apr, a, dev⟩, -, -⟩ := loc p mem
    · simp [pod]
    · simp [dev]
  generalize loaded : markLoads (resolveLsid _ f.act r) f.act _ = t
  obtain rfl : t = loadedState s f r l := loaded.symm
  rw [foldl_pieces (piece := pieceOf s (viewOf s f.act r.own.toNat))]
  · simp [pieceOf, List.all_map, Function.comp_def]
    rfl
  · intro ps p mem
    obtain ⟨place, -, -⟩ := loc p mem
    rw [← pieces]
    dsimp only
    rw [readPart_local (by simpa only [partLoc, locOf_congr bits.regs] using place)]
    rfl

theorem waitOp_waits (s : State) (f : Firing) (w : Wait) :
    lookup (waitOp s f w).2.ops s.ids = some { f := f, w := w, order := s.ids } ∧ ∀ k, k ≠ s.ids → lookup (waitOp s f w).2.ops k = lookup s.ops k :=
  ⟨lookup_insertAt_same .., fun _ other => lookup_insertAt_other _ _ other⟩

/-- What a load leaves behind whose parts lie on device and pod memory (R180, R183, R184). -/
theorem load_waits {s : State} {l : List Part} (loc : Claims.Local s l) (q : Claims.Quiet s) (r : MRec) (n : Need) (scope : Scope) (vector : Bool) :
    let t := performLoad s s.cur r n scope vector l
    lookup t.ops s.ids = some { f := s.cur, w := .data (loadResult r.c.ty (r.c.fn.getLsbD 3) vector s.cur.grant
      (l.map (pieceOf s (viewOf s s.cur.act r.own.toNat)))), order := s.ids } ∧ (∀ k, k ≠ s.ids → lookup t.ops k = lookup s.ops k) ∧
      t.net = s.net ∧ Claims.SameMemory s t ∧ Claims.Resolves s t r ∧
      t = { s with cur := t.cur, ids := t.ids, ops := t.ops, acts := t.acts, l2 := t.l2, victim := t.victim, misses := t.misses } := by
  rw [performLoad_local loc q]
  have resolves := loadedState_resolves q r l
  obtain ⟨acts, l2, victim, misses, rest⟩ := loadedState_rest q s.cur r l
  rw [rest] at resolves ⊢
  obtain ⟨listed, others⟩ := waitOp_waits { s with acts := acts, l2 := l2, victim := victim, misses := misses } s.cur
    (.data (loadResult r.c.ty (r.c.fn.getLsbD 3) vector s.cur.grant (l.map (pieceOf s (viewOf s s.cur.act r.own.toNat)))))
  exact ⟨listed, others, rfl, sameMemory_of rfl rfl rfl, resolves, rfl⟩

theorem loadForm_resolved {s : State} {r : MRec} {l : List Part} (clean : Claims.Clean s r.c 0) (vector : Bool) :
    let b := begin s r.c 0
    let n : Need := { use := .read, width := r.c.ty.width, sync := ordered r }
    resolve b b.cur n (if vector then (List.range (vectorCount r.c.ty.width b.cur.grant)).map fun e => elemAddr r b.cur + BitVec.ofNat 64 (r.c.ty.width * e)
      else [elemAddr r b.cur]) = .ok l → loadForm s r vector = performLoad b b.cur r n (scopeOf r) vector l := by
  intro b n resolved
  obtain ⟨poison, null, tag⟩ := clean
  unfold loadForm
  rw [fireMem_acts poison null tag]
  dsimp only
  rw [resolved]

/-- R136, R143, R180: loads of device and pod memory. -/
theorem loadForms_wait : Claims.LoadForms := by
  intro r s l clean loc q b f w n pieces done
  have view : SameBits (viewOf s s.cur.act r.own.toNat) (viewOf b s.cur.act r.own.toNat) := (begin_bits s r.c 0).viewOf (begin_order s r.c 0) rfl _ _
  have same : l.map (pieceOf b (viewOf b s.cur.act r.own.toNat)) = pieces :=
    congrArg (l.map ·) (pieceOf_congr (s := s) (t := b) rfl rfl rfl view)
  have waits (vector : Bool) : done (performLoad b f r n (scopeOf r) vector l) (loadResult r.c.ty (r.c.fn.getLsbD 3) vector f.grant pieces) := by
    rw [← same]
    obtain ⟨listed, others, net, memory, resolves, rest⟩ := load_waits (s := b) (l := l) loc q r n (scopeOf r) vector
    exact ⟨listed, others, net, ⟨memory.device, memory.pod, memory.scratch⟩, resolves, rest⟩
  exact ⟨fun resolved => ⟨_, congrArg Host.Outcome.next (loadForm_resolved clean false resolved), waits false⟩,
    fun resolved => ⟨_, congrArg Host.Outcome.next (loadForm_resolved clean true resolved), waits true⟩⟩

/-- R180: the data of a load return. -/
theorem loadReturn : Claims.LoadReturn := by
  intro s op
  refine ⟨fun o v listed data => congrArg Host.Outcome.next ?_, fun unlisted => congrArg Host.Outcome.next ?_⟩
  · simp only [listed, data, finishOp, dropOp]
  · simp only [unlisted]

/-- R114, R143, R395: the scalar of one element. -/
theorem loadValue : Claims.LoadValue := by
  intro t zero g o x y p q small low high
  have pos : 0 < t.width := by omega
  have value (z : Nat) (fits : z < 2 ^ t.width) : scalarElem t.width (!zero && !t.isFloat) z =
      scalarOf (Claims.extended (zero || t.isFloat) (BitVec.ofNat t.width z)) := by
    rw [← Bool.not_or, ← scalarElem_extended pos, BitVec.toNat_ofNat, Nat.mod_eq_of_lt fits]
  refine ⟨fun whole => ?_, ?_⟩
  · subst whole
    have fits : y < 2 ^ t.width := high
    simp [loadResult, pieceElem, value y fits]
  · have fits : x + y * 2 ^ o < 2 ^ t.width := by
      calc x + y * 2 ^ o < 2 ^ o + y * 2 ^ o := by omega
        _ = (y + 1) * 2 ^ o := by ring
        _ ≤ 2 ^ (t.width - o) * 2 ^ o := Nat.mul_le_mul_right _ high
        _ = 2 ^ t.width := by rw [← pow_add, Nat.sub_add_cancel small.le]
    simp [loadResult, pieceElem, value _ fits, Nat.mul_comm (2 ^ o)]

/-- Settles O19: a load waits with the pieces that its parts give in its thread's view. -/
theorem loadForms : Obligations.LoadForms := ⟨loadForms_wait, loadValue, loadReturn⟩

end Sys2Proof.Machine
end

section
/-! PROOFS. Stores that enter the store buffer (R163, R181, R183), and SPLD, SPST and the forwarding table (R147, R148, R424). -/

namespace Sys2Proof.Machine

open Sys2Proof

/-! ## The store buffer -/

/-- The store that a firing enters in the store buffer. -/
def storeOf (s : State) (f : Firing) (r : MRec) (kind : StoreKind) (elems : List StoreElem) : Store :=
  { part := f.part, sleeve := f.sleeve, act := f.act, colour := (actOf s f.act).colour, serial := (actOf s f.act).serial, tag := f.tag, blk := f.blk,
    node := f.node, seq := (actOf s f.act).seq, lsid := r.own.toNat, kind := kind, scope := scopeOf r,
    release := r.ordr == .release || r.ordr == .acqRel || kind == .fill || kind == .single, elems := elems }

/-- The state once a store of the form that fires has entered the store buffer and its LSID is resolved. -/
def enteredState (s : State) (r : MRec) (kind : StoreKind) (elems : List StoreElem) : State :=
  resolveLsid { s with ids := s.ids + 1, stores := insertAt s.stores s.ids (storeOf s s.cur r kind elems) } s.cur.act r

theorem enteredState_rest (s : State) (r : MRec) (kind : StoreKind) (elems : List StoreElem) : ∃ acts,
    enteredState s r kind elems = { s with ids := s.ids + 1, stores := insertAt s.stores s.ids (storeOf s s.cur r kind elems), acts := acts } :=
  resolveLsid_rest ..

theorem enteredState_resolves (s : State) (r : MRec) (kind : StoreKind) (elems : List StoreElem) : Claims.Resolves s (enteredState s r kind elems) r :=
  resolveLsid_resolves { s with ids := s.ids + 1, stores := insertAt s.stores s.ids (storeOf s s.cur r kind elems) } r

/-- What a store form leaves behind once its store has entered (R163, R181). -/
theorem enteredState_entered (s : State) (r : MRec) (kind : StoreKind) (elems : List StoreElem) :
    let u := enteredState s r kind elems
    lookup u.stores s.ids = some (storeOf s s.cur r kind elems) ∧ (∀ k, k ≠ s.ids → lookup u.stores k = lookup s.stores k) ∧
      Claims.SameMemory s u ∧ u = { s with ids := s.ids + 1, stores := u.stores, acts := u.acts } := by
  obtain ⟨acts, rest⟩ := enteredState_rest s r kind elems
  rw [rest]
  exact ⟨lookup_insertAt_same .., fun _ other => lookup_insertAt_other _ _ other, sameMemory_of rfl rfl rfl, rfl⟩

/-- A store that no load conflicts with restarts no activation. -/
theorem enterStore_alone {s : State} (alone : ∀ y, conflicting s y = []) (r : MRec) (kind : StoreKind) (elems : List StoreElem) :
    enterStore s s.cur r kind elems = sendBoth (enteredState s r kind elems) s.cur (scalarOf 0) := by
  have order : SameOrder s (enteredState s r kind elems) :=
    SameOrder.trans (t := { s with ids := s.ids + 1, stores := insertAt s.stores s.ids (storeOf s s.cur r kind elems) }) ⟨fun _ => rfl, rfl, rfl⟩
      (resolveLsid_order ..)
  have none : conflicting (enteredState s r kind elems) (storeOf s s.cur r kind elems) = [] :=
    order.conflicting (alone _) fun y mem => updAct_acts (s := { s with ids := s.ids + 1, stores := insertAt s.stores s.ids (storeOf s s.cur r kind elems) }) mem
  show sendBoth ((conflicting (enteredState s r kind elems) (storeOf s s.cur r kind elems)).foldl restart (enteredState s r kind elems)) s.cur (scalarOf 0) = _
  rw [none, List.foldl_nil]

theorem begin_alone {s : State} (alone : ∀ y, conflicting s y = []) (c : Common) (ofs : BitVec 32) (y : Store) : conflicting (begin s c ofs) y = [] :=
  (begin_order s c ofs).conflicting (alone y) fun _ => .inl

/-! ## SPLD and SPST -/

theorem scratchCheck_outside {s : State} {f : Firing} {r : MRec} (outside : scratchBad (sleeveOf s f.sleeve) (elemAddr r f) r.c.ty.width = true)
    (write : Bool) : scratchCheck s f r write =
      some (raise s f.act f.node { cls := .protection, cause := 8, va := elemAddr r f, width := r.c.ty.width, wr := write }) := by
  unfold scratchCheck
  exact if_pos outside

theorem scratchCheck_passes {s : State} {f : Firing} {r : MRec} (inside : scratchBad (sleeveOf s f.sleeve) (elemAddr r f) r.c.ty.width = false)
    (aligned : ordered r = false ∨ alignClass (elemAddr r f).toNat r.c.ty.width ≠ .x) (write : Bool) : scratchCheck s f r write = none := by
  unfold scratchCheck
  dsimp only
  rw [if_neg (by simp [inside]), if_neg]
  rintro ⟨sync, cross⟩
  obtain plain | fits := aligned
  · simp [plain] at sync
  · exact fits cross

/-- The sectors of a scratchpad element that are poisoned. -/
def scratchLost (s : State) (f : Firing) (r : MRec) : Bool :=
  (sleeveOf s f.sleeve).scratchBad.any fun k =>
    decide ((elemAddr r f).toNat / 256 ≤ k) && decide (k ≤ ((elemAddr r f).toNat + r.c.ty.width - 1) / 256)

theorem scratchLost_congr {s t : State} (same : t.sleeves = s.sleeves) (f : Firing) (r : MRec) : scratchLost t f r = scratchLost s f r := by
  simp only [scratchLost, sleeveOf, same]

/-- The state once an SPLD has resolved its LSID, with what it remembers for the order of its thread (R183, R185). -/
def scratchRead (s : State) (r : MRec) : State :=
  markLoads (resolveLsid s s.cur.act r) s.cur.act
    [{ va := elemAddr r s.cur, space := 2, bit := (elemAddr r s.cur).toNat, width := r.c.ty.width, lsid := r.own.toNat, scratch := true }]

theorem scratchRead_rest (s : State) (r : MRec) : ∃ acts, scratchRead s r = { s with acts := acts } := by
  obtain ⟨_, resolved⟩ := resolveLsid_rest s s.cur.act r
  obtain ⟨acts, marked⟩ := markLoads_rest (resolveLsid s s.cur.act r) s.cur.act
    [{ va := elemAddr r s.cur, space := 2, bit := (elemAddr r s.cur).toNat, width := r.c.ty.width, lsid := r.own.toNat, scratch := true }]
  exact ⟨acts, by unfold scratchRead; rw [marked, resolved]⟩

theorem scratchRead_resolves (s : State) (r : MRec) : Claims.Resolves s (scratchRead s r) r := by
  obtain ⟨issued, resolved⟩ := markLoads_lsids (resolveLsid s s.cur.act r) s.cur.act
    [{ va := elemAddr r s.cur, space := 2, bit := (elemAddr r s.cur).toNat, width := r.c.ty.width, lsid := r.own.toNat, scratch := true }] s.cur.act
  exact resolves_congr (resolveLsid_resolves s r) issued resolved

section

variable {r : MRec} {s : State} (clean : Claims.Clean s r.c 0)

include clean

theorem execSpld_refused {t : State} (refused : scratchCheck (begin s r.c 0) (begin s r.c 0).cur r false = some t) : exec (.spld r) s = .next t := by
  obtain ⟨poison, null, tag⟩ := clean
  show Host.Outcome.next (fireMem s r _) = _
  rw [fireMem_acts poison null tag, refused]

theorem execSpst_refused {t : State} (refused : scratchCheck (begin s r.c 0) (begin s r.c 0).cur r true = some t) : exec (.spst r) s = .next t := by
  obtain ⟨poison, null, tag⟩ := clean
  show Host.Outcome.next (fireMem s r _) = _
  rw [fireMem_acts poison null tag, refused]

theorem execSpld_reads (passes : scratchCheck (begin s r.c 0) (begin s r.c 0).cur r false = none) :
    let u := scratchRead (begin s r.c 0) r
    let f := (begin s r.c 0).cur
    exec (.spld r) s = .next (sendBoth u f { (scalarElem r.c.ty.width (!r.c.fn.getLsbD 3 && !r.c.ty.isFloat)
      (readScratch (scratchView u f r.own.toNat) (elemAddr r f).toNat r.c.ty.width)) with poi := scratchLost u f r }) := by
  obtain ⟨poison, null, tag⟩ := clean
  show Host.Outcome.next (fireMem s r _) = _
  rw [fireMem_acts poison null tag, passes]
  rfl

theorem execSpst_enters (passes : scratchCheck (begin s r.c 0) (begin s r.c 0).cur r true = none) :
    let b := begin s r.c 0
    let w := r.c.ty.width
    exec (.spst r) s = .next (enterStore b b.cur r .scratch [{ va := elemAddr r b.cur, width := w, pat := BitVec.ofNat 64 (storePattern w b.cur.b) }]) := by
  obtain ⟨poison, null, tag⟩ := clean
  show Host.Outcome.next (fireMem s r _) = _
  rw [fireMem_acts poison null tag, passes]

end

/-- R147, R148, R424: SPLD and SPST up to the store buffer. -/
theorem scratchForms_issue : Claims.ScratchForms := by
  intro r s clean b f a w
  have sleeve : sleeveOf b f.sleeve = sleeveOf s f.sleeve := rfl
  rw [← sleeve]
  refine ⟨fun outside => ⟨execSpld_refused clean (scratchCheck_outside outside false), execSpst_refused clean (scratchCheck_outside outside true)⟩,
    fun inside aligned => ⟨?_, fun alone => ?_⟩⟩
  · have order : SameOrder s (scratchRead b r) := (begin_order s r.c 0).trans ((resolveLsid_order ..).trans (markLoads_order ..))
    have resolves := scratchRead_resolves b r
    have reads := execSpld_reads clean (scratchCheck_passes inside aligned false)
    obtain ⟨acts, rest⟩ := scratchRead_rest b r
    have view : scratchView (scratchRead b r) f r.own.toNat = scratchView s f r.own.toNat :=
      scratchView_congr order (by rw [rest]; rfl) (by rw [rest]; rfl) f r.own.toNat
    have lost : scratchLost (scratchRead b r) f r = scratchLost s f r := scratchLost_congr (by rw [rest]; rfl) f r
    dsimp only at reads
    rw [view, lost] at reads
    refine ⟨_, _, reads, resolves, ?_, rfl, ?_, ?_⟩
    · rw [rest]
      exact sameMemory_of rfl rfl rfl
    · rw [sleeve]
      simp [scratchLost, a, w, f]
    · rw [rest]
      rfl
  · obtain ⟨listed, -, memory, rest⟩ := enteredState_entered b r .scratch [{ va := a, width := w, pat := BitVec.ofNat 64 (storePattern w f.b) }]
    exact ⟨_, _, (execSpst_enters clean (scratchCheck_passes inside aligned true)).trans (congrArg Host.Outcome.next (enterStore_alone (begin_alone alone r.c 0) ..)),
      listed, rfl, rfl, rfl, enteredState_resolves b r .scratch _, ⟨memory.device, memory.pod, memory.scratch⟩, rest⟩

/-! ## The forwarding table -/

theorem performSpst_sleeve {β : Type} {g : Sleeve → β} (keeps : ∀ (v : Sleeve) l, g { v with fwd := l } = g v) (s : State) (sid : Nat) (x : Store) (v : Nat) :
    g (sleeveOf (performSpst s sid x) v) = g (sleeveOf s v) :=
  sleeveOf_updSleeve_keeps g (fun y => keeps y _) s x.sleeve v

/-- The oldest SPST of a forwarding table moves into the scratchpad. -/
def drainOldest (v : Sleeve) : Sleeve :=
  match v.fwd with
  | [] => v
  | x :: rest => { writeScratch v x.1 x.2.1 x.2.2.toNat with fwd := rest }

theorem execForwardingTableDrain_eq (s : State) (v : Nat) : exec (.forwardingTableDrain v) s = .next (updSleeve s v drainOldest) := rfl

theorem updSleeve_rest (s : State) (v : Nat) (f : Sleeve → Sleeve) : ∃ m, updSleeve s v f = { s with sleeves := m } := by
  unfold updSleeve
  split
  · exact ⟨_, rfl⟩
  · exact ⟨s.sleeves, rfl⟩

theorem listed_of_fwd {s : State} {v : Nat} (full : (sleeveOf s v).fwd ≠ []) : (lookup s.sleeves v).isSome = true := by
  rw [Option.isSome_iff_ne_none]
  intro unlisted
  simp [sleeveOf, lookupD, unlisted] at full

/-- R148: an SPST moves to the forwarding table, and from there into the scratchpads. -/
theorem scratchDrain : Claims.ScratchDrain := by
  refine ⟨fun s sid x e listed kind one may sleeve => ?_, fun s v a w x rest pos head => ?_⟩
  · have ran : exec (.storePerform sid) s = .next (performSpst s sid x) := by
      refine congrArg Host.Outcome.next ?_
      simp only [listed, may, kind, if_true]
    have fwd := performSpst_fwd (sid := sid) sleeve
    have only := performSpst_storesOnly s sid x
    rw [one] at fwd
    refine ⟨_, ran, performSpst_stores s sid x, fwd, fun k other => sleeveOf_updSleeve_other _ other, only, fun apr o => ?_, fun c => ?_, fun k c => ?_⟩
    · rw [only]
      rfl
    · rw [only]
    · rw [performSpst_sleeve (g := Sleeve.scratch) fun _ _ => rfl]
  · have drained : sleeveOf (updSleeve s v drainOldest) v = { writeScratch (sleeveOf s v) a w x.toNat with fwd := rest } := by
      rw [sleeveOf_updSleeve_same (listed_of_fwd (by simp [head])), drainOldest, head]
    obtain ⟨sleeves, only⟩ := updSleeve_rest s v drainOldest
    refine ⟨_, execForwardingTableDrain_eq s v, by rw [only], by rw [drained], ?_, fun b n _ apart => ?_, fun k other => sleeveOf_updSleeve_other _ other⟩
    · rw [drained]
      exact readScratch_writeScratch_same (x := sleeveOf s v) pos
    · rw [drained]
      exact readScratch_writeScratch_other (x := sleeveOf s v) pos apart

/-- Settles O20: both forms by the checks that they share, and the forwarding table by what one move changes. -/
theorem scratchForms : Obligations.ScratchForms := ⟨scratchForms_issue, scratchDrain⟩

end Sys2Proof.Machine
end

section
/-! PROOFS. A write at a bank (R141, R142, R152, R159, R293), and what a store leaves behind that has been performed there. -/

namespace Sys2Proof.Machine

open Sys2Proof

/-! ## What a write at a bank changes beside the memory -/

/-- All but the caches, the poison, the directory, the deltas, and what leaves the device with its counts is as it was. -/
def BankAside (s t : State) : Prop :=
  t = { s with l2 := t.l2, victim := t.victim, misses := t.misses, poison := t.poison, podPoison := t.podPoison, dir := t.dir, deltas := t.deltas,
               dseqTo := t.dseqTo, helup := t.helup, out := t.out, regs := { s.regs with gdlt := t.regs.gdlt, hldr := t.regs.hldr } }

namespace BankAside

variable {s t u : State}

theorem refl (s : State) : BankAside s s := rfl

theorem trans (h : BankAside s t) (k : BankAside t u) : BankAside s u := by
  unfold BankAside at *
  rw [k, h]

theorem of_cachesOnly (h : CachesOnly s t) : BankAside s t := by
  rw [h]
  rfl

theorem ite {p : Prop} [Decidable p] (h : BankAside s t) (k : BankAside s u) : BankAside s (if p then t else u) := by
  split
  · exact h
  · exact k

theorem memory (h : BankAside s t) : t.mem = s.mem ∧ t.podMem = s.podMem := by
  rw [h]
  exact ⟨rfl, rfl⟩

end BankAside

theorem emit_aside (s : State) (m : OutMsg) : BankAside s (emit s m) := rfl

theorem updPort_aside (s : State) (p : Nat) (f : HelupPort → HelupPort) : BankAside s (updPort s p f) := rfl

theorem deltas_aside (s : State) (seqs : Map (BitVec 32)) (l : List Delta) : BankAside s { s with dseqTo := seqs, deltas := l } := rfl

theorem countDelta_aside (s : State) : BankAside s (updRegs s fun r => { r with gdlt := r.gdlt + 1 }) := rfl

theorem dir_aside (s : State) (m : Map DirLine) : BankAside s { s with dir := m } := rfl

theorem portSend_aside (s : State) (p : Nat) (f : Flit) : BankAside s (portSend s p f) := by
  unfold portSend
  dsimp only
  exact .trans (.ite (emit_aside ..) (.refl s)) (updPort_aside ..)

theorem sendSlot_aside (s : State) (dst line : Nat) (w : BitVec 320) : BankAside s (sendSlot s dst line w).2 := by
  unfold sendSlot sendFrom
  split
  · exact portSend_aside ..
  · rfl

theorem sendDelta_aside (s : State) (w : Writer) (a old new : Nat) (poison : Bool) : BankAside s (sendDelta s w a old new poison) := by
  -- unfolded as a function: applied to its arguments, the kernel would compute with the region's base, a product with 2^33
  obtain ⟨send, unfolded⟩ : ∃ send, send = sendDelta := ⟨_, rfl⟩
  rw [← unfolded]
  unfold sendDelta at unfolded
  subst unfolded
  beta_reduce
  generalize unitOf? s a = unit
  cases unit with
  | none => exact .refl s
  | some p => exact .ite (.refl s) (.ite (deltas_aside s s.dseqTo _) (.trans (.trans (deltas_aside s _ _) (sendSlot_aside ..)) (countDelta_aside _)))

theorem bankDelta_aside (s : State) (w : Writer) (e : Word) (loc : Loc) (old new : Nat) (bad : Bool) : BankAside s (bankDelta s w e loc old new bad) := by
  unfold bankDelta
  split
  · exact .ite (sendDelta_aside ..) (.refl s)
  · exact .refl s

theorem setPoisonLoc_aside (s : State) (loc : Loc) (on : Bool) : BankAside s (setPoisonLoc s loc on) := by
  cases loc <;> rfl

theorem emits_aside {α : Type} (m : α → OutMsg) (l : List α) (s : State) : BankAside s (l.foldl (fun s g => emit s (m g)) s) := by
  induction l generalizing s with
  | nil => exact .refl s
  | cons g l ih => exact (emit_aside s (m g)).trans (ih _)

theorem clearCovered_aside (s : State) (x : Store) (e : StoreElem) (loc : Loc) : BankAside s (clearCovered s x e loc) :=
  .ite (setPoisonLoc_aside ..) (.refl s)

/-- The sharers of a line in the pod lose their copies. -/
def dropSharers (s : State) (loc : Loc) : State :=
  match dirKey loc with
  | some l => match lookup s.dir l with
    | some d => d.sharers.foldl (fun s g => emit s (.snoop g l)) { s with dir := insertAt s.dir l { d with sharers := [] } }
    | none => s
  | none => s

theorem dropSharers_aside (s : State) (loc : Loc) : BankAside s (dropSharers s loc) := by
  unfold dropSharers
  cases dirKey loc with
  | none => exact .refl s
  | some l =>
    dsimp only
    cases lookup s.dir l with
    | none => exact .refl s
    | some d => exact (dir_aside s _).trans (emits_aside (OutMsg.snoop · l) _ _)

/-- What follows the write itself at a bank: the delta, the poison, the sharers' copies, and the dirty state. -/
theorem bankWrite_after (s : State) (wr : Writer) (e : Word) (loc : Loc) (w v : Nat) :
    BankAside (writeLoc (touch s loc true) loc w v) (bankWrite s wr e loc w v) := by
  have after (t : State) (bad : Bool) (old new : Nat) : BankAside t (soilAt (dropSharers
      (if w = 256 then setPoisonLoc (bankDelta t wr e loc old new bad) loc false else bankDelta t wr e loc old new bad) loc) loc (leafCmp e) wr.big) :=
    .trans (.trans (.ite (.trans (bankDelta_aside ..) (setPoisonLoc_aside ..)) (bankDelta_aside ..)) (dropSharers_aside ..))
      (.of_cachesOnly (soilAt_cachesOnly ..))
  exact after _ _ _ _

/-- A write at a bank of device memory. -/
theorem bankWrite_device {s : State} (q : Claims.Quiet s) (wr : Writer) (e : Word) (apr a w v : Nat) :
    BankAside (writeDev s apr a w v) (bankWrite s wr e (.dev apr a) w v) := by
  have caches : BankAside s (touch s (.dev apr a) true) := .of_cachesOnly (touch_cachesOnly q _ _)
  have wrote : writeLoc (touch s (.dev apr a) true) (.dev apr a) w v = { touch s (.dev apr a) true with mem := spreadInto s.mem (cdaOf apr) a w v } := by
    rw [← caches.memory.1]
    rfl
  have after := bankWrite_after s wr e (.dev apr a) w v
  rw [wrote] at after
  refine .trans ?_ after
  rw [caches]
  rfl

/-! ## The parts of a store -/

theorem partDone_rest (s : State) (sid : Nat) : ∃ stores stalled entries, partDone s sid = { s with stores := stores, stalled := stalled, entries := entries } := by
  unfold partDone wake
  split
  · exact ⟨s.stores, s.stalled, s.entries, rfl⟩
  · split <;> exact ⟨_, _, _, rfl⟩

theorem partDone_last {s : State} {sid : Nat} {x : Store} {e : StoreElem} (listed : lookup s.stores sid = some x) (last : x.elems = [e]) :
    (partDone s sid).stores = eraseAt s.stores sid := by
  simp [partDone, listed, last, wake]

theorem partDone_next {s : State} {sid : Nat} {x : Store} {e : StoreElem} {es : List StoreElem} (listed : lookup s.stores sid = some x)
    (parts : x.elems = e :: es) (more : es ≠ []) :
    (partDone s sid).stores = insertAt s.stores sid { x with elems := es, past := x.past ++ [e], rids := [] } := by
  simp [partDone, listed, wake, parts, more]

theorem lookup_partDone_other {s : State} {sid k : Nat} (other : k ≠ sid) : lookup (partDone s sid).stores k = lookup s.stores k := by
  unfold partDone
  split
  · rfl
  · split
    · exact lookup_eraseAt_other _ other
    · exact lookup_insertAt_other _ _ other

/-- A store is performed at the bank of a part that passes the steps before it (Table 5.2). -/
structure AtBank (s : State) (sid : Nat) (e : StoreElem) (apr a : Nat) : Prop where
  passes : Claims.Passes s (.store sid) [e.spot]
  fits   : overflowed s e.leaf e.big e.va = false
  kept   : lostLoc s (.dev apr a) = false
  free   : ownedLoc s (.dev apr a) = none
  place  : locOf s e.leaf e.big e.va = .dev apr a

theorem performPart_atBank {s : State} {sid apr a : Nat} {e : StoreElem} (bank : AtBank s sid e apr a) (x : Store) :
    performPart s sid x e = bankStore s sid x e (.dev apr a) := by
  obtain ⟨⟨unheld, passes⟩, fits, kept, free, place⟩ := bank
  have past : goPast s (.store sid) = s := if_neg (by simp [unheld])
  unfold performPart
  simp only [passes, past, fits, place, kept, free, Bool.not_true, Bool.false_and, Bool.false_eq_true, if_false]

/-- STORE_PERFORM of a store that may be performed and is at its bank. -/
theorem execStorePerform_atBank {s : State} {sid apr a : Nat} {x : Store} {e : StoreElem} {es : List StoreElem} (listed : lookup s.stores sid = some x)
    (may : mayPerform s sid x = true) (parts : x.elems = e :: es) (memory : x.kind ≠ .scratch) (bank : AtBank s sid e apr a) :
    exec (.storePerform sid) s = .next (bankStore s sid x e (.dev apr a)) := by
  refine congrArg Host.Outcome.next ?_
  simp only [listed, may, parts, memory, if_true, if_false]
  exact performPart_atBank bank x

end Sys2Proof.Machine
end

section
/-! PROOFS. The store forms, and STORE_PERFORM of a plain store (R141, R142, R163, R165, R181, R183, R189, R430 to R432). -/

namespace Sys2Proof.Machine

open Sys2Proof

/-! ## The store forms -/

/-- A store form whose addresses resolve enters the store buffer, and restarts nothing when no load conflicts with it. -/
theorem storeForm_enters {s : State} {r : MRec} {l : List Part} {kind : StoreKind} {use : Use} {vals : Firing → List Nat} (clean : Claims.Clean s r.c 0)
    (alone : ∀ y, conflicting s y = []) :
    let b := begin s r.c 0
    let n : Need := { use := use, width := r.c.ty.width, sync := ordered r || use.words, psto := imgPsto (actOf b b.cur.act).image }
    resolve b b.cur n ((List.range (vals b.cur).length).map fun e => elemAddr r b.cur + BitVec.ofNat 64 (r.c.ty.width * e)) = .ok l →
      storeForm s r kind use vals = sendBoth (enteredState b r kind (storeParts l (vals b.cur))) b.cur (scalarOf 0) := by
  intro b n resolved
  obtain ⟨poison, null, tag⟩ := clean
  unfold storeForm
  rw [fireMem_acts poison null tag]
  dsimp only
  rw [resolved]
  exact enterStore_alone (begin_alone alone r.c 0) ..

/-- The store that a form has entered, and what it has changed beside (R163, R181, R183). -/
theorem enteredState_store (s : State) (r : MRec) (kind : StoreKind) (l : List Part) (vals : List Nat) :
    let f := (begin s r.c 0).cur
    let u := enteredState (begin s r.c 0) r kind (storeParts l vals)
    ∃ y, lookup u.stores s.ids = some y ∧ y.act = f.act ∧ y.lsid = r.own.toNat ∧ y.kind = kind ∧ y.committed = false ∧ y.tag = f.tag ∧ y.part = f.part ∧
      y.elems = storeParts l vals ∧ (∀ k, k ≠ s.ids → lookup u.stores k = lookup s.stores k) ∧ Claims.Resolves s u r ∧ Claims.SameMemory s u ∧
      u = { s with cur := f, ids := s.ids + 1, stores := u.stores, acts := u.acts } := by
  obtain ⟨listed, others, memory, rest⟩ := enteredState_entered (begin s r.c 0) r kind (storeParts l vals)
  exact ⟨_, listed, rfl, rfl, rfl, rfl, rfl, rfl, rfl, others, enteredState_resolves (begin s r.c 0) r kind _,
    ⟨memory.device, memory.pod, memory.scratch⟩, rest⟩

/-- R163, R181, R183, R430 to R432: the store forms up to the store buffer. -/
theorem storeForms_enter : Claims.StoreForms := by
  intro x form r s l clean b f w n vals resolved alone
  obtain ⟨valsOf, runs, same⟩ : ∃ valsOf, exec (x.1 r) s = .next (storeForm s r x.2.1 x.2.2 valsOf) ∧ vals = valsOf f := by
    simp only [List.mem_cons, List.not_mem_nil, or_false] at form
    obtain rfl | rfl | rfl | rfl | rfl := form
    · exact ⟨fun f => [storePattern r.c.ty.width f.b], rfl, by simp [vals, w, storePattern]⟩
    · exact ⟨fun f => vectorPatterns r.c.ty.width (f.b.getD nullTok), rfl, by simp [vals, w, vectorPatterns]⟩
    · exact ⟨fun f => [storePattern r.c.ty.width f.b], rfl, by simp [vals, w, storePattern]⟩
    · exact ⟨fun f => [storePattern r.c.ty.width f.b], rfl, by simp [vals, w, storePattern]⟩
    · exact ⟨fun _ => [0], rfl, by simp [vals]⟩
  rw [same] at resolved ⊢
  exact ⟨_, (enteredState_store s r x.2.1 l (valsOf f)).imp fun y entered =>
    ⟨runs.trans (congrArg Host.Outcome.next (storeForm_enters clean alone resolved)), entered⟩⟩

/-- R148, R189, R286, R430: what keeps a store waiting. -/
theorem storeWaits : Claims.StoreWaits := by
  intro s sid x listed
  have waits (not : mayPerform s sid x = false) : exec (.storePerform sid) s = .next s := by
    refine congrArg Host.Outcome.next ?_
    simp only [listed, not, Bool.false_eq_true, if_false]
  refine ⟨fun held => waits ?_, fun k y other apart back => waits ?_⟩
  · unfold mayPerform
    obtain uncommitted | parked | asks | frozen | ⟨scratch, full⟩ := held
    · simp [uncommitted]
    · simp [parked]
    · simp [asks]
    · simp [frozen]
    · simp [scratch, full]
  · have keeps : (s.stores.any fun y => y.1 != sid && keepsBack s y.2 x) = true :=
      List.any_eq_true.mpr ⟨(k, y), lookup_mem other, by simp [apart, back]⟩
    simp [mayPerform, keeps]

/-! ## A plain store at its bank -/

theorem readDev_congr {s t : State} (mem : t.mem = s.mem) (apr a w : Nat) : readDev t apr a w = readDev s apr a w := by
  unfold readDev devByte
  rw [mem]

theorem devByte_congr {s t : State} (mem : t.mem = s.mem) (apr o : Nat) : devByte t apr o = devByte s apr o := by
  unfold devByte
  rw [mem]

/-- The state in which the part of a plain store has been written, and still stands in the store buffer. -/
theorem bankStore_plain {s : State} (q : Claims.Quiet s) (sid : Nat) {x : Store} (plain : x.kind = .plain) (e : StoreElem) (apr a : Nat) :
    ∃ u, bankStore s sid x e (.dev apr a) = partDone u sid ∧ BankAside (writeDev s apr a e.width e.pat.toNat) u := by
  refine ⟨_, ?_, (bankWrite_device q (writerOf x sid e.big) e.leaf apr a e.width e.pat.toNat).trans (clearCovered_aside _ x e (.dev apr a))⟩
  unfold bankStore
  rw [plain]

/-- R141, R142, R165, R430: a plain store at its bank. -/
theorem storePerform : Claims.StorePerform := by
  intro s sid apr a x e es q listed may plain parts passes fits kept free place some pos exist
  obtain ⟨u, stored, aside⟩ := bankStore_plain q sid plain e apr a
  obtain ⟨stores, stalled, entries, done⟩ := partDone_rest u sid
  have ran := execStorePerform_atBank listed may parts (by rw [plain]; decide) ⟨passes, fits, kept, free, place⟩
  have buffer : u.stores = s.stores := by
    rw [aside]
    rfl
  have mem : (partDone u sid).mem = (writeDev s apr a e.width e.pat.toNat).mem := by rw [done, aside.memory.1]
  rw [stored] at ran
  refine ⟨_, ran, ?_, fun b n _ exist' apart => ?_, fun apr' o outside => ?_, ?_, fun last => ?_, fun more => ?_, fun k other => ?_, ?_, ?_, ?_⟩
  · rw [readDev_congr mem]
    exact readDev_writeDev_same some pos exist
  · rw [readDev_congr mem]
    exact readDev_writeDev_other some pos exist exist' apart
  · rw [devByte_congr mem]
    exact devByte_writeDev_outside pos outside
  · rw [done, aside.memory.2]
    rfl
  · rw [partDone_last (by rw [buffer]; exact listed) (by rw [parts, last]), buffer]
  · rw [partDone_next (by rw [buffer]; exact listed) parts more, lookup_insertAt_same]
  · rw [lookup_partDone_other other, buffer]
  all_goals
    rw [done, aside]
    rfl

/-- Settles O23: the store forms by what they enter in the store buffer, and STORE_PERFORM by the write at the bank. -/
theorem stores : Obligations.Stores := ⟨storeForms_enter, storePerform, storeWaits⟩

end Sys2Proof.Machine
end

section
/-! PROOFS. Sending, with the faults and the loops that it may bring about, makes no form wait (R36, R53, R70, R75, R278), and while no access has
another effect changes no register. -/

namespace Sys2Proof.Machine

open Sys2Proof

/-- No form waits in `t` that did not in `s`; from a state in which a fill has no other effect, registers and compressed blocks are as they were. -/
structure Settled (s t : State) : Prop where
  ops   : ∀ x ∈ t.ops, x ∈ s.ops
  quiet : Claims.Quiet s → t.regs = s.regs ∧ t.packed = s.packed

namespace Settled

variable {s t u : State}

theorem of_same (ops : t.ops = s.ops) (regs : t.regs = s.regs) (packed : t.packed = s.packed) : Settled s t :=
  ⟨fun x mem => by rwa [ops] at mem, fun _ => ⟨regs, packed⟩⟩

theorem refl (s : State) : Settled s s := of_same rfl rfl rfl

theorem trans (h : Settled s t) (k : Settled t u) : Settled s u := by
  refine ⟨fun x mem => h.ops x (k.ops x mem), fun q => ?_⟩
  obtain ⟨regs, packed⟩ := h.quiet q
  obtain ⟨regs', packed'⟩ := k.quiet (by unfold Claims.Quiet; rw [regs, packed]; exact q)
  exact ⟨regs'.trans regs, packed'.trans packed⟩

theorem aside (h : Settled s t) (ops : u.ops = t.ops) (regs : u.regs = t.regs) (packed : u.packed = t.packed) : Settled s u :=
  h.trans (of_same ops regs packed)

theorem ite {p : Prop} [Decidable p] (h : Settled s t) (k : Settled s u) : Settled s (if p then t else u) := by
  split
  · exact h
  · exact k

theorem foldl {α : Type} {f : State → α → State} (h : Settled s t) (step : ∀ {t} x, Settled s t → Settled s (f t x)) (l : List α) :
    Settled s (l.foldl f t) := by
  induction l generalizing t with
  | nil => exact h
  | cons x l ih => exact ih (step x h)

theorem of_onlySent (h : Claims.OnlySent s t) : Settled s t := by
  rw [h.rest]
  exact of_same rfl rfl rfl

/-! ## Updates of one entry -/

theorem updPart (h : Settled s t) (p : Nat) (f : Partition → Partition) : Settled s (updPart t p f) := h.aside (by simp) (by simp) (by simp)

theorem updAct (h : Settled s t) (a : Nat) (f : Act → Act) : Settled s (updAct t a f) := h.aside (by simp) (by simp) (by simp)

theorem updSleeve (h : Settled s t) (v : Nat) (f : Sleeve → Sleeve) : Settled s (updSleeve t v f) := h.aside (by simp) (by simp) (by simp)

theorem updColour (h : Settled s t) (k : Nat) (f : Colour → Colour) : Settled s (updColour t k f) := h.aside (by simp) (by simp) (by simp)

theorem updQueue (h : Settled s t) (q : Nat) (f : Queue → Queue) : Settled s (updQueue t q f) := h.aside (by simp) (by simp) (by simp)

theorem dead (h : Settled s t) (p n : Nat) : Settled s (dead t p n) := h.updPart _ _

theorem addRecord (h : Settled s t) (r : Outstanding) : Settled s (addRecord t r) := h.aside rfl rfl rfl

theorem addParked (h : Settled s t) (q : Parked) : Settled s (addParked t q) := h.aside rfl rfl rfl

/-! ## Records and spilled tokens in memory -/

theorem of_level (level : LevelFrom s t) (quiet : Claims.Quiet s → t.regs = s.regs ∧ t.packed = s.packed) : Settled s t :=
  ⟨fun x mem => by rwa [level.rest] at mem, quiet⟩

theorem writeArea_same (s : State) (a w v : Nat) : (writeArea s a w v).regs = s.regs ∧ (writeArea s a w v).packed = s.packed := by
  unfold Machine.writeArea
  split <;> exact ⟨rfl, rfl⟩

theorem putAreaWords_same (s : State) (a : Nat) (ws : List Word) : (putAreaWords s a ws).regs = s.regs ∧ (putAreaWords s a ws).packed = s.packed := by
  rw [putAreaWords_rest]
  exact ⟨rfl, rfl⟩

theorem putRecord_same (s : State) (a : Nat) (ws : List Word) : (putRecord s a ws).regs = s.regs ∧ (putRecord s a ws).packed = s.packed := by
  cases ws with
  | nil => exact ⟨rfl, rfl⟩
  | cons w ws =>
    obtain ⟨regs, packed⟩ := writeArea_same (putAreaWords s (a + 64) ws) a 64 w.toNat
    obtain ⟨regs', packed'⟩ := putAreaWords_same s (a + 64) ws
    exact ⟨regs.trans regs', packed.trans packed'⟩

theorem writeAreaWords (h : Settled s t) (a : Nat) (ws : List Word) : Settled s (writeAreaWords t a ws) := by
  refine h.trans (of_level ((LevelFrom.refl t).writeAreaWords a ws) fun q => ?_)
  rw [writeAreaWords_rest q]
  exact ⟨rfl, rfl⟩

theorem writeRecord (h : Settled s t) (a : Nat) (ws : List Word) : Settled s (writeRecord t a ws) := by
  refine h.trans (of_level ((LevelFrom.refl t).writeRecord a ws) fun q => ?_)
  obtain ⟨regs, packed⟩ := putRecord_same (soilArea t a (64 * ws.length)) a ws
  have caches := soilArea_cachesOnly q a (64 * ws.length)
  exact ⟨regs.trans (by rw [caches]), packed.trans (by rw [caches])⟩

theorem flushEgress (h : Settled s t) (n q : Nat) : Settled s (flushEgress n t q) := by
  induction n generalizing t with
  | zero => exact h
  | succ n ih =>
    unfold Machine.flushEgress
    dsimp only
    split
    · exact h
    · exact .ite (ih ((h.writeRecord _ _).updQueue q _)) h

theorem egress (h : Settled s t) (q type status : Nat) (iseq : BitVec 32) (ws : List Word) : Settled s (egress t q type status iseq ws) :=
  have drained {u : State} (k : Settled s u) : Settled s (drainEgress u q) := .ite (k.updQueue q _) (k.flushEgress _ q)
  .ite (h.updQueue q _) (.ite (drained ((h.updQueue q _).updQueue q _)) ((h.updQueue q _).updQueue q _))

theorem flushFaults (h : Settled s t) (n p : Nat) : Settled s (flushFaults n t p) := by
  induction n generalizing t with
  | zero => exact h
  | succ n ih =>
    unfold Machine.flushFaults
    dsimp only
    split
    · exact h
    · exact .ite (ih ((h.writeRecord _ _).updPart p _)) h

theorem faultRecord (h : Settled s t) (p : Nat) (i : FaultInfo) (park prec mfrz : Bool) : Settled s (faultRecord t p i park prec mfrz).2 := by
  have drained {u : State} (k : Settled s u) : Settled s (drainFaults u p) := .ite (k.updPart p _) (k.flushFaults _ p)
  unfold Machine.faultRecord
  dsimp only
  split
  · dsimp only
    exact h.updPart p _
  · exact drained ((h.updPart p _).updPart p _)

/-! ## Parking, spilling, and tokens that wait -/

theorem parkAccess (h : Settled s t) (p a : Nat) (i : FaultInfo) (what : ParkedKind) : Settled s (parkAccess t p a i what) := by
  unfold Machine.parkAccess parkUnder
  dsimp only
  refine addParked (t := Prod.snd _) ?_ _
  split
  · exact h
  · exact (h.faultRecord ..).addRecord _

theorem park (h : Settled s t) (a node : Nat) (i : FaultInfo) (what : ParkedKind) : Settled s (park t a node i what) :=
  .ite h (.ite (h.updAct a _) ((h.updAct a _).parkAccess ..))

theorem spill (h : Settled s t) (n : NetToken) (a q : Nat) : Settled s (spill t n a q) := by
  unfold Machine.spill choose freeWord
  split
  · dsimp only
    have wrote {u : State} (k : Settled s u) (a : Nat) (ws : List Word) (l : List Spilled) :
        Settled s { Machine.writeAreaWords u a ws with spilled := l } := (k.writeAreaWords a ws).aside rfl rfl rfl
    refine updPart (wrote ?_ _ _ _) _ _
    exact h.aside rfl rfl rfl
  · dsimp only
    exact .ite (h.park ..) (h.aside rfl rfl rfl)

theorem waitFar (h : Settled s t) (n : NetToken) : Settled s (waitFar t n) := .ite (h.aside rfl rfl rfl) (h.spill ..)

/-! ## Activations that end -/

theorem retire (h : Settled s t) (l : List Nat) (st : ActState) (p : Nat) : Settled s (retire t l st p) := by
  unfold Machine.retire
  dsimp only
  refine foldl (dead (updPart ?_ _ _) _ _) (fun n k => k.waitFar n) _
  exact h.trans ⟨fun x mem => List.mem_of_mem_filter mem, fun _ => ⟨rfl, rfl⟩⟩

theorem endThreads (h : Settled s t) (gone : Thread → Bool) : Settled s (endThreads t gone) := by
  unfold Machine.endThreads
  dsimp only
  refine foldl ?_ (fun n k => ?_) _
  · exact h.aside rfl rfl rfl
  · exact .ite (k.dead _ _) k

theorem undoCreations (h : Settled s t) (l : List Nat) : Settled s (undoCreations t l) := by
  unfold Machine.undoCreations
  dsimp only
  have ended {u : State} (k : Settled s u) (gone : Thread → Bool) (p : List Parked) (c : Map Colour) :
      Settled s { Machine.endThreads u gone with parked := p, colours := c } := (k.endThreads gone).aside rfl rfl rfl
  refine ended ?_ _ _ _
  exact h.aside rfl rfl rfl

theorem dropParked (h : Settled s t) (q : Parked) : Settled s (dropParked t q) := by
  unfold Machine.dropParked
  split
  · exact h.aside rfl rfl rfl
  · exact h.aside rfl rfl rfl
  · split
    · exact .ite h (h.aside rfl rfl rfl)
    · exact h
  · split
    · exact h.updColour _ _
    · exact h
  all_goals exact h

theorem discardParked (h : Settled s t) (gone : Parked → Bool) : Settled s (discardParked t gone) := by
  unfold Machine.discardParked
  exact aside (foldl h (fun q k => k.dropParked q) (t.parked.filter gone)) rfl rfl rfl

theorem squash (h : Settled s t) (l : List Nat) (p : Nat) : Settled s (squash t l p) := undoCreations (h.retire ..) _

theorem endColour (h : Settled s t) (k : Nat) : Settled s (endColour t k) := by
  unfold Machine.endColour
  split
  · exact h
  · dsimp only
    exact .ite h (updColour (squash (h.discardParked _) _ _) _ _)

theorem recordOnly (h : Settled s t) (p colour serial act : Nat) (i : FaultInfo) : Settled s (recordOnly t p colour serial act i) :=
  addRecord (h.faultRecord p i false false false) _

theorem killColour (h : Settled s t) (n k : Nat) (i : FaultInfo) : Settled s (killColour n t k i) := by
  induction n generalizing t k i with
  | zero => exact h
  | succ n ih =>
    unfold Machine.killColour
    dsimp only
    refine .ite h ?_
    have ended := endColour (updColour (h.recordOnly (colourOf t k).part k (colourOf t k).serial 0 i) k fun c => { c with killed := true }) k
    generalize Machine.endColour _ _ = u at *
    have again (b : Bool) : Settled s (if b = true then { u with retries := u.retries ++ [colourOf t k] } else u) := .ite (ended.aside rfl rfl rfl) ended
    exact .ite (ih (again _) _ _) (again _)

theorem faultAct (h : Settled s t) (a : Nat) : Settled s (faultAct t a) := by
  unfold Machine.faultAct holdColour
  dsimp only
  exact updColour (undoCreations ((h.retire ..).retire ..) _) _ _

theorem freezeMaster (h : Settled s t) (v f : Nat) : Settled s (freezeMaster t v f) := egress (h.updSleeve v _) ..

theorem raise (h : Settled s t) (a node : Nat) (i : FaultInfo) : Settled s (raise t a node i) := by
  unfold Machine.raise
  dsimp only
  refine .ite h (.ite (h.retire ..) (.ite (h.updAct a _) (.ite (killColour (undoCreations (retire (h.retire ..) ..) _) ..) ?_)))
  have recorded := addRecord (faultAct (h.faultRecord (actOf t a).part (Machine.faultAt t a node i) false true (i.cls.freezes && i.src == 0)) a)
  exact .ite (freezeMaster (recorded _) _ _) (recorded _)

/-! ## Sending -/

theorem enterLoop (h : Settled s t) (f : Firing) (head : Word) (counted : Option Nat) : Settled s (enterLoop t f head counted) := by
  unfold Machine.enterLoop
  dsimp only
  split
  · exact .ite h (h.raise ..)
  · have entered (k : Nat) (x : Loop) (g : Act → Act) :
        Settled s (Machine.updAct { t with ids := t.ids + 1, loops := insertAt t.loops k x } f.act g) := by
      refine updAct ?_ _ _
      exact h.aside rfl rfl rfl
    split
    · exact .ite (entered ..) ((entered ..).raise ..)
    · exact entered ..

theorem loopRules (h : Settled s t) (f : Firing) (dst : Target) (blk : Word) (made : TagOp) (counted : Option Nat) :
    Settled s (loopRules t f dst blk made counted).2 := by
  unfold Machine.loopRules
  cases made
  case push => exact h.enterLoop ..
  case wave =>
    dsimp only
    rw [apply_ite Prod.snd]
    exact .ite (h.raise ..) h
  case pop => exact h.updAct ..
  all_goals exact h

theorem sendTarget (h : Settled s t) (f : Firing) (dst : Target) (v : TokVal) : Settled s (sendTarget t f dst v) := by
  unfold Machine.sendTarget
  split
  · exact h
  · cases targetTag f dst with
    | none => exact h
    | some r =>
      have rules := h.loopRules f dst (farBlock f.blk f.ofs) r.2 none
      exact .ite (rules.trans (of_onlySent (.sendUnder ..))) rules

theorem sendBoth (h : Settled s t) (f : Firing) (v : TokVal) : Settled s (sendBoth t f v) :=
  .ite (h.sendTarget ..) ((h.sendTarget ..).sendTarget ..)

end Settled

end Sys2Proof.Machine
end

section
/-! PROOFS. Circular buffers (R168 to R170, R354). -/

namespace Sys2Proof.Machine

open Sys2Proof

/-! ## A form that waits alone -/

theorem eraseAt_unlisted {α : Type} {m : Map α} {x : Nat} (unlisted : lookup m x = none) : eraseAt m x = m := by
  refine List.filter_eq_self.mpr fun y mem => ?_
  induction m with
  | nil => cases mem
  | cons k m ih =>
    rw [lookup] at unlisted
    split at unlisted
    · cases unlisted
    · next other =>
      obtain rfl | mem := List.mem_cons.mp mem
      · simpa using other
      · exact ih unlisted mem

theorem findSome?_insertAt {α β : Type} {m : Map α} {k : Nat} {v : α} {g : Nat × α → Option β} (none : ∀ x ∈ m, g x = none) :
    (insertAt m k v).findSome? g = g (k, v) := by
  induction m with
  | nil => cases h : g (k, v) <;> simp [insertAt, h]
  | cons y m ih =>
    have rest := fun x mem => none x (List.mem_cons_of_mem _ mem)
    have first := none y List.mem_cons_self
    have quiet : m.findSome? g = .none := List.findSome?_eq_none_iff.mpr rest
    unfold insertAt
    split
    · cases h : g (k, v) <;> simp [h, first, quiet]
    · split
      · cases h : g (k, v) <;> simp [h, quiet]
      · simp [first, ih rest]

theorem find?_insertAt {α : Type} {m : Map α} {k : Nat} {v : α} {p : Nat × α → Bool} (none : ∀ x ∈ m, p x = false) :
    (insertAt m k v).find? p = if p (k, v) then some (k, v) else .none := by
  rw [List.find?_eq_findSome?_guard, findSome?_insertAt fun x mem => by simp [Option.guard, none x mem]]
  rfl

/-- The state once the wait of a form has ended that waited alone, and the sleeve has changed. -/
theorem finishOp_waited {s : State} (unlisted : lookup s.ops s.ids = none) (f : Firing) (w : Wait) (v : Nat) (g : Sleeve → Sleeve) (x : TokVal) :
    finishOp (updSleeve (waitOp s f w).2 v g) s.ids x = sendBoth (updSleeve { s with ids := s.ids + 1 } v g) f x := by
  have waits : lookup (updSleeve (waitOp s f w).2 v g).ops s.ids = some { f := f, w := w, order := s.ids } := by
    rw [updSleeve_ops]
    exact (waitOp_waits s f w).1
  have gone : dropOp (updSleeve (waitOp s f w).2 v g) s.ids = updSleeve { s with ids := s.ids + 1 } v g := by
    have erased : eraseAt (insertAt s.ops s.ids { f := f, w := w, order := s.ids : Op }) s.ids = s.ops := by
      rw [eraseAt_insertAt, eraseAt_unlisted unlisted]
    simp only [dropOp, updSleeve_ops]
    unfold updSleeve waitOp fresh
    dsimp only
    rw [erased]
    split <;> rfl
  simp only [finishOp, waits, gone]

/-! ## Circular buffers -/

/-- No form waits at a sleeve's buffers. -/
theorem nextServed_none {s : State} {v : Nat} (alone : ∀ x ∈ s.ops, x.2.f.sleeve ≠ v) : nextServed s v = none :=
  List.findSome?_eq_none_iff.mpr fun x mem => if_neg fun both => alone x mem both.1

theorem serveBuffers_idle {s : State} {v : Nat} (alone : ∀ x ∈ s.ops, x.2.f.sleeve ≠ v) (n : Nat) : serveBuffers n s v = s := by
  cases n with
  | zero => rfl
  | succ n => rw [serveBuffers, nextServed_none alone]

section

variable {s : State} {f : Firing} {w : Wait} (alone : Claims.NoneWaits s f.sleeve) (may : performs s f.act = true)

include alone may

theorem nextServed_waited : nextServed (waitOp s f w).2 f.sleeve = (cbServe (sleeveOf s f.sleeve) w).map fun y => (s.ids, y) := by
  obtain ⟨others, -, -⟩ := alone
  refine (findSome?_insertAt fun x mem => if_neg fun both => (others x mem).1 both.1).trans (if_pos ⟨rfl, may⟩)

/-- A circular-buffer form that is blocked waits. -/
theorem serveBuffers_blocked (blocked : cbServe (sleeveOf s f.sleeve) w = none) (n : Nat) :
    serveBuffers n (waitOp s f w).2 f.sleeve = (waitOp s f w).2 := by
  cases n with
  | zero => rfl
  | succ n => rw [serveBuffers, nextServed_waited alone may, blocked]; rfl

/-- A circular-buffer form that can be served acts at once, and no other after it (R170). -/
theorem serveBuffers_served {x : Nat} {u : Sleeve} (served : cbServe (sleeveOf s f.sleeve) w = some (x, u)) (n : Nat) :
    serveBuffers (n + 1) (waitOp s f w).2 f.sleeve =
      sendBoth (updSleeve { s with ids := s.ids + 1 } f.sleeve fun _ => u) f (scalarOf (BitVec.ofNat 64 x)) := by
  have next := nextServed_waited alone may (w := w)
  obtain ⟨others, unlisted, -⟩ := alone
  rw [serveBuffers, next, served]
  dsimp only [Option.map_some]
  rw [finishOp_waited unlisted]
  refine serveBuffers_idle (fun y mem => ?_) n
  have old := (Settled.sendBoth (.refl _) f _).ops y mem
  rw [updSleeve_ops] at old
  exact (others y old).1

end

/-! ## The counts of a buffer (Table 5.10) -/

theorem countsOf_countsWord {c : Counts} (free : c.free < 8192) (fill : c.fill < 8192) (held : c.held < 8192) (pidx : c.pidx < 4096) :
    countsOf (countsWord c) = c := by
  obtain ⟨a, b, d, e⟩ := c
  simp only at free fill held pidx
  have word : (BitVec.ofNat 64 (a * 2 ^ 39 + b * 2 ^ 26 + d * 2 ^ 13 + e % 4096)).toNat = a * 2 ^ 39 + b * 2 ^ 26 + d * 2 ^ 13 + e := by
    rw [BitVec.toNat_ofNat]
    omega
  simp only [countsOf, countsWord, word, bits, Counts.mk.injEq]
  omega

theorem cbCounts_cbSet (v : Sleeve) (b : Nat) {c : Counts} (free : c.free < 8192) (fill : c.fill < 8192) (held : c.held < 8192) (pidx : c.pidx < 4096) :
    cbCounts (cbSet v b c) b = c := by
  simp only [cbCounts, cbSet, lookupD_insertAt_same]
  exact countsOf_countsWord free fill held pidx

theorem cbdSlots_bounds (d : Word) : 0 < cbdSlots d ∧ cbdSlots d ≤ 4096 := by
  have range : bits d.toNat 32 12 < 4096 := Nat.mod_lt _ (by decide)
  unfold cbdSlots
  split <;> omega

theorem cbCounts_pidx (v : Sleeve) (b : Nat) : (cbCounts v b).pidx < 4096 := Nat.mod_lt _ (by decide)

theorem cbdWidth_pos (d : Word) : 0 < cbdWidth d := by
  unfold cbdWidth
  split <;> decide

theorem markScratch_rest (v : Sleeve) (a n : Nat) (poi : Bool) : ∃ l, markScratch v a n poi = { v with scratchBad := l } := by
  unfold markScratch
  split <;> exact ⟨_, rfl⟩

theorem readScratch_congr {v u : Sleeve} (same : u.scratch = v.scratch) (a w : Nat) : readScratch u a w = readScratch v a w := by
  unfold readScratch
  rw [same]

/-! ## What a form does when it is served -/

/-- CBIN makes every slot of its buffer free. -/
theorem cbServe_cbin (v : Sleeve) (d : Word) : ∃ x, cbServe v (.cbin d) = some (bits d.toNat 60 4, x) ∧ lookupD x.cbd (bits d.toNat 60 4) 0 = d ∧
    cbCounts x (bits d.toNat 60 4) = { free := cbdSlots d } ∧ x.scratch = v.scratch := by
  obtain ⟨-, slots⟩ := cbdSlots_bounds d
  exact ⟨_, rfl, lookupD_insertAt_same .., cbCounts_cbSet _ _ (Nat.lt_of_le_of_lt slots (by decide)) (by simp) (by simp) (by simp), rfl⟩

section

variable {v : Sleeve} {j : Nat} (total : (cbCounts v j).free + (cbCounts v j).fill + (cbCounts v j).held ≤ 4096)

include total

/-- CBPT fills the next slot. -/
theorem cbServe_cbpt (free : 0 < (cbCounts v j).free) (drained : v.fwd = []) (y : TokVal) :
    let c := cbCounts v j
    let w := cbdWidth (lookupD v.cbd j 0)
    ∃ x, cbServe v (.cbpt j y) = some (c.pidx, x) ∧
      cbCounts x j = { free := c.free - 1, fill := c.fill + 1, held := c.held, pidx := (c.pidx + 1) % cbdSlots (lookupD v.cbd j 0) } ∧
      readScratch x (slotAt v j c.pidx) w = y.val.toNat % 2 ^ w ∧
      ∀ b m, 0 < m → slotAt v j c.pidx + w ≤ b ∨ b + m ≤ slotAt v j c.pidx → readScratch x b m = readScratch v b m := by
  intro c w
  obtain ⟨pos, slots⟩ := cbdSlots_bounds (lookupD v.cbd j 0)
  have next : (c.pidx + 1) % cbdSlots (lookupD v.cbd j 0) < 4096 := (Nat.mod_lt _ pos).trans_le slots
  have kept : drainAll v = v := by
    unfold drainAll
    rw [drained]
    exact congrArg (fun l => { v with fwd := l }) drained.symm
  obtain ⟨bad, marked⟩ := markScratch_rest (writeScratch v (slotAt v j c.pidx) w (slotValue w y)) (slotAt v j c.pidx) w y.poi
  have scratch : (markScratch (writeScratch v (slotAt v j c.pidx) w (slotValue w y)) (slotAt v j c.pidx) w y.poi).scratch =
      (writeScratch v (slotAt v j c.pidx) w (slotValue w y)).scratch := by rw [marked]
  have served : cbServe v (.cbpt j y) = some (c.pidx, cbSet (markScratch (writeScratch v (slotAt v j c.pidx) w (slotValue w y)) (slotAt v j c.pidx) w y.poi) j
      { c with pidx := (c.pidx + 1) % cbdSlots (lookupD v.cbd j 0), free := c.free - 1, fill := c.fill + 1 }) := by
    have some : ¬(cbCounts v j).free = 0 := by omega
    simp only [cbServe, cbPut, kept, some, if_false]
    rfl
  refine ⟨_, served, cbCounts_cbSet _ _ (by simp only [c]; omega) (by simp only [c]; omega) (by simp only [c]; omega) next, ?_, fun b m _ apart => ?_⟩
  · exact (readScratch_congr scratch _ _).trans ((readScratch_writeScratch_same (cbdWidth_pos _)).trans (Nat.mod_mod _ _))
  · exact (readScratch_congr scratch _ _).trans (readScratch_writeScratch_other (cbdWidth_pos _) apart)

/-- CBAQ takes the oldest filled slot. -/
theorem cbServe_cbaq (filled : 0 < (cbCounts v j).fill) :
    let c := cbCounts v j
    let n := cbdSlots (lookupD v.cbd j 0)
    ∃ x, cbServe v (.cbaq j) = some (slotAt v j ((c.pidx + n - c.fill % n) % n), x) ∧
      cbCounts x j = { free := c.free, fill := c.fill - 1, held := c.held + 1, pidx := c.pidx } ∧ x.scratch = v.scratch := by
  intro c n
  have some : ¬(cbCounts v j).fill = 0 := by omega
  refine ⟨_, if_neg some, cbCounts_cbSet _ _ ?_ ?_ ?_ (cbCounts_pidx v j), rfl⟩ <;> dsimp only <;> omega

/-- CBRL gives a slot back. -/
theorem cbServe_cbrl (held : 0 < (cbCounts v j).held) :
    let c := cbCounts v j
    ∃ x, cbServe v (.cbrl j) = some (c.free + 1, x) ∧ cbCounts x j = { free := c.free + 1, fill := c.fill, held := c.held - 1, pidx := c.pidx } ∧
      x.scratch = v.scratch := by
  intro c
  have some : ¬(cbCounts v j).held = 0 := by omega
  have served : cbServe v (.cbrl j) = .some (c.free + 1, cbSet v j { c with held := c.held - 1, free := c.free + 1 }) := by
    simp only [cbServe, some, if_false]
    rfl
  refine ⟨_, served, cbCounts_cbSet _ _ ?_ ?_ ?_ (cbCounts_pidx v j), rfl⟩ <;> dsimp only [c] <;> omega

end

/-! ## The forms -/

section

variable {s : State} {r : GRec} (clean : Claims.Clean s r.c r.lit)

include clean

theorem bufferForm_waits (w : Firing → Wait) :
    let b := begin s r.c r.lit
    bufferForm s r w = serveBuffers ((waitOp b b.cur (w b.cur)).2.ops.length + 1) (waitOp b b.cur (w b.cur)).2 b.cur.sleeve := by
  obtain ⟨poison, null, tag⟩ := clean
  unfold bufferForm
  rw [fire_acts poison null tag]

theorem execCbin_waits (good : cbinBad (sleeveOf (begin s r.c r.lit) (begin s r.c r.lit).cur.sleeve) (opWord (begin s r.c r.lit).cur.a) = false) :
    let b := begin s r.c r.lit
    let t := (waitOp b b.cur (.cbin (opWord b.cur.a))).2
    exec (.cbin r) s = .next (serveBuffers (t.ops.length + 1) t b.cur.sleeve) := by
  obtain ⟨poison, null, tag⟩ := clean
  show Host.Outcome.next (fire s r.c r.lit _) = _
  rw [fire_acts poison null tag, if_neg (by simp [good])]

theorem execCbin_refused (bad : cbinBad (sleeveOf (begin s r.c r.lit) (begin s r.c r.lit).cur.sleeve) (opWord (begin s r.c r.lit).cur.a) = true) :
    let b := begin s r.c r.lit
    exec (.cbin r) s = .next (raise b b.cur.act b.cur.node { cls := .protection, cause := 8 }) := by
  obtain ⟨poison, null, tag⟩ := clean
  show Host.Outcome.next (fire s r.c r.lit _) = _
  rw [fire_acts poison null tag, if_pos bad]
  rfl

end

/-- R168 to R170, R354: the circular-buffer forms. -/
theorem circularBuffers : Claims.CircularBuffers := by
  intro r s clean may alone f v d j c n acts waits
  have served {i : Instr} {w : Wait} {res : Nat} {x : Sleeve}
      (runs : exec i s = .next (serveBuffers ((waitOp (begin s r.c r.lit) f w).2.ops.length + 1) (waitOp (begin s r.c r.lit) f w).2 f.sleeve))
      (serve : cbServe v w = some (res, x)) :
      ∃ u, exec i s = .next (sendBoth u f (scalarOf (BitVec.ofNat 64 res))) ∧ sleeveOf u f.sleeve = x ∧
        u = { s with cur := f, ids := s.ids + 1, sleeves := u.sleeves } ∧ ∀ k, k ≠ f.sleeve → sleeveOf u k = sleeveOf s k := by
    have listed : (lookup { begin s r.c r.lit with ids := s.ids + 1 }.sleeves f.sleeve).isSome = true := alone.2.2
    obtain ⟨sleeves, rest⟩ := updSleeve_rest { begin s r.c r.lit with ids := s.ids + 1 } f.sleeve fun _ => x
    refine ⟨updSleeve { begin s r.c r.lit with ids := s.ids + 1 } f.sleeve fun _ => x,
      runs.trans (congrArg Host.Outcome.next (serveBuffers_served (s := begin s r.c r.lit) (f := f) alone may serve _)),
      sleeveOf_updSleeve_same listed _, ?_, fun k other => sleeveOf_updSleeve_other _ other⟩
    exact rest.trans (by rw [rest]; rfl)
  have blocked {i : Instr} {w : Wait}
      (runs : exec i s = .next (serveBuffers ((waitOp (begin s r.c r.lit) f w).2.ops.length + 1) (waitOp (begin s r.c r.lit) f w).2 f.sleeve))
      (serve : cbServe v w = none) : waits i w :=
    runs.trans (congrArg Host.Outcome.next (serveBuffers_blocked (s := begin s r.c r.lit) (f := f) alone may serve _))
  have form {i : Instr} {w : Firing → Wait} (is : exec i s = .next (bufferForm s r w)) := is.trans (congrArg Host.Outcome.next (bufferForm_waits clean w))
  refine ⟨fun good => ?_, fun bad => execCbin_refused clean bad, fun total free _ drained => ?_, fun empty => ?_, fun total filled => ?_, fun empty => ?_,
    fun total held => ?_⟩
  · obtain ⟨x, serve, holds⟩ := cbServe_cbin v d
    obtain ⟨u, ran, sleeve, rest⟩ := served (execCbin_waits clean good) serve
    exact ⟨u, ran, by rw [sleeve]; exact holds, rest⟩
  · obtain ⟨x, serve, holds⟩ := cbServe_cbpt total free drained (f.b.getD nullTok)
    obtain ⟨u, ran, sleeve, rest⟩ := served (form (i := .cbpt r) (w := fun f => .cbpt (bufferOf f) (f.b.getD nullTok)) rfl) serve
    exact ⟨u, ran, by rw [sleeve]; exact holds, rest⟩
  · exact blocked (form (i := .cbpt r) (w := fun f => .cbpt (bufferOf f) (f.b.getD nullTok)) rfl) (if_pos empty)
  · obtain ⟨x, serve, holds⟩ := cbServe_cbaq total filled
    obtain ⟨u, ran, sleeve, rest⟩ := served (form (i := .cbaq r) (w := fun f => .cbaq (bufferOf f)) rfl) serve
    exact ⟨u, ran, by rw [sleeve]; exact holds, rest⟩
  · exact blocked (form (i := .cbaq r) (w := fun f => .cbaq (bufferOf f)) rfl) (if_pos empty)
  · obtain ⟨x, serve, holds⟩ := cbServe_cbrl total held
    obtain ⟨u, ran, sleeve, rest⟩ := served (form (i := .cbrl r) (w := fun f => .cbrl (bufferOf f)) rfl) serve
    exact ⟨u, ran, by rw [sleeve]; exact holds, rest⟩

end Sys2Proof.Machine
end

section
/-! PROOFS. Stream ports (R412 to R415). -/

namespace Sys2Proof.Machine

open Sys2Proof

/-- The messages that a port holds. -/
def portMessages (s : State) (v k : Nat) : List TokVal := lookupD (sleeveOf s v).ports k []

/-- A port after its queue has changed. -/
def setPort (s : State) (v k : Nat) (l : List TokVal) : State := updSleeve s v fun x => { x with ports := insertAt x.ports k l }

/-- The first RECV that waits at a port, and the first SEND. -/
def recvAt (s : State) (v k : Nat) : Option (Nat × Op) := s.ops.find? fun x => x.2.f.sleeve == v && x.2.w == .recv k
@[inherit_doc recvAt] def sendAt (s : State) (v k : Nat) : Option (Nat × Op) :=
  s.ops.find? fun x => (match x.2.w with | .send u j _ => u == v && j == k | _ => false)

section

variable {s : State} {v k : Nat}

theorem servePort_succ (n : Nat) : servePort (n + 1) s v k = match portMessages s v k, recvAt s v k with
    | m :: l, some (o, _) => servePort n (finishOp (setPort s v k l) o m) v k
    | _, _ => match sendAt s v k with
      | some (o, x) =>
        if portRoom ≤ (portMessages s v k).length then s
        else match x.w with
          | .send _ _ m => servePort n (finishOp (setPort s v k (portMessages s v k ++ [m])) o (scalarOf 0)) v k
          | _ => s
      | none => s := rfl

theorem servePort_recv {m : TokVal} {l : List TokVal} {o : Nat} {x : Op} (queue : portMessages s v k = m :: l) (first : recvAt s v k = some (o, x)) (n : Nat) :
    servePort (n + 1) s v k = servePort n (finishOp (setPort s v k l) o m) v k := by
  rw [servePort_succ, queue, first]

theorem servePort_send {m : TokVal} {o : Nat} {x : Op} (none : recvAt s v k = .none) (first : sendAt s v k = some (o, x)) (is : x.w = .send v k m) (n : Nat) :
    servePort (n + 1) s v k = if portRoom ≤ (portMessages s v k).length then s else
      servePort n (finishOp (setPort s v k (portMessages s v k ++ [m])) o (scalarOf 0)) v k := by
  rw [servePort_succ, none, first]
  cases portMessages s v k <;> simp only [is]

theorem servePort_idle (noRecv : portMessages s v k = [] ∨ recvAt s v k = none) (noSend : sendAt s v k = none) (n : Nat) : servePort n s v k = s := by
  cases n with
  | zero => rfl
  | succ n =>
    rw [servePort_succ, noSend]
    obtain empty | none := noRecv
    · rw [empty]
    · rw [none]
      cases portMessages s v k <;> rfl

end

section

variable {s : State} {v : Nat} (alone : ∀ x ∈ s.ops, x.2.f.sleeve ≠ v ∧ ∀ k m, x.2.w ≠ .send v k m)

include alone

theorem not_recv {x : Nat × Op} (mem : x ∈ s.ops) (k : Nat) : (x.2.f.sleeve == v && x.2.w == .recv k) = false := by
  simp [(alone x mem).1]

theorem not_send {x : Nat × Op} (mem : x ∈ s.ops) (k : Nat) : (match x.2.w with | .send u j _ => u == v && j == k | _ => false) = false := by
  split
  · next u j m is =>
    have other := (alone x mem).2 k m
    rw [is] at other
    simp only [Bool.and_eq_false_imp, beq_iff_eq]
    rintro rfl
    simpa using other
  · rfl

/-- Nothing is served at a port where no form waits. -/
theorem servePort_alone (k n : Nat) : servePort n s v k = s := by
  refine servePort_idle (.inr ?_) ?_ n
  · exact List.find?_eq_none.mpr fun x mem => by simp [not_recv alone mem k]
  · exact List.find?_eq_none.mpr fun x mem => by simpa using not_send alone mem k

theorem recvAt_waited (f : Firing) (w : Wait) (k : Nat) :
    recvAt (waitOp s f w).2 v k = if (f.sleeve == v && w == .recv k) then some (s.ids, { f := f, w := w, order := s.ids }) else none :=
  find?_insertAt fun _ mem => not_recv alone mem k

theorem sendAt_waited (f : Firing) (w : Wait) (k : Nat) : sendAt (waitOp s f w).2 v k =
    if (match w with | .send u j _ => u == v && j == k | _ => false) then some (s.ids, { f := f, w := w, order := s.ids }) else none :=
  find?_insertAt fun _ mem => not_send alone mem k

/-- A form that has been served at a port where no other waits: nothing is served after it. -/
theorem servePort_served (unlisted : lookup s.ops s.ids = none) (f : Firing) (w : Wait) (k n : Nat) (l : List TokVal) (x : TokVal) :
    servePort n (finishOp (setPort (waitOp s f w).2 v k l) s.ids x) v k = sendBoth (setPort { s with ids := s.ids + 1 } v k l) f x := by
  unfold setPort
  rw [finishOp_waited unlisted]
  refine servePort_alone (fun y mem => ?_) k n
  have old := (Settled.sendBoth (.refl _) f x).ops y mem
  rw [updSleeve_ops] at old
  exact alone y old

end

/-- What a change of a port's queue leaves as it was. -/
theorem setPort_changed {s : State} {v : Nat} (listed : (lookup s.sleeves v).isSome = true) (k : Nat) (l : List TokVal) :
    let u := setPort s v k l
    lookupD (sleeveOf u v).ports k [] = l ∧ (∀ i, i ≠ k → lookupD (sleeveOf u v).ports i [] = lookupD (sleeveOf s v).ports i []) ∧
      u = { s with sleeves := u.sleeves } ∧ ∀ i, i ≠ v → sleeveOf u i = sleeveOf s i := by
  have port : sleeveOf (setPort s v k l) v = { sleeveOf s v with ports := insertAt (sleeveOf s v).ports k l } := sleeveOf_updSleeve_same listed _
  obtain ⟨sleeves, rest⟩ := updSleeve_rest s v fun x => { x with ports := insertAt x.ports k l }
  refine ⟨?_, fun i other => ?_, ?_, fun i other => sleeveOf_updSleeve_other _ other⟩
  · rw [port]
    exact lookupD_insertAt_same ..
  · rw [port]
    exact lookupD_insertAt_other _ _ _ other
  · exact rest.trans (by unfold setPort; rw [rest])

section

variable {s : State} {r : GRec} (clean : Claims.Clean s r.c 0)

include clean

theorem execSend_refused (none : sendDest (begin s r.c 0) (begin s r.c 0).cur r.lit = .none) :
    let b := begin s r.c 0
    exec (.send r) s = .next (raise b b.cur.act b.cur.node { cls := .blockShape }) := by
  obtain ⟨poison, null, tag⟩ := clean
  show Host.Outcome.next (fire s r.c 0 _) = _
  rw [fire_acts poison null tag, none]

theorem execSend_waits {v k : Nat} (dest : sendDest (begin s r.c 0) (begin s r.c 0).cur r.lit = some (v, k)) :
    let b := begin s r.c 0
    let t := (waitOp b b.cur (.send v k (opA b.cur))).2
    exec (.send r) s = .next (servePort (2 * t.ops.length + 2) t v k) := by
  obtain ⟨poison, null, tag⟩ := clean
  show Host.Outcome.next (fire s r.c 0 _) = _
  rw [fire_acts poison null tag, dest]

theorem execRecv_refused (none : quadCount (sleeveOf (begin s r.c 0) (begin s r.c 0).cur.sleeve) ≤ r.lit.toNat) :
    let b := begin s r.c 0
    exec (.recv r) s = .next (raise b b.cur.act b.cur.node { cls := .blockShape }) := by
  obtain ⟨poison, null, tag⟩ := clean
  show Host.Outcome.next (fire s r.c 0 _) = _
  rw [fire_acts poison null tag, if_pos none]

theorem execRecv_waits (some : r.lit.toNat < quadCount (sleeveOf (begin s r.c 0) (begin s r.c 0).cur.sleeve)) :
    let b := begin s r.c 0
    let t := (waitOp b b.cur (.recv r.lit.toNat)).2
    exec (.recv r) s = .next (servePort (2 * t.ops.length + 2) t b.cur.sleeve r.lit.toNat) := by
  obtain ⟨poison, null, tag⟩ := clean
  show Host.Outcome.next (fire s r.c 0 _) = _
  rw [fire_acts poison null tag, if_neg (Nat.not_le.mpr some)]

end

section

variable {s : State} {v : Nat} (alone : Claims.NoneWaits s v)

include alone

/-- A SEND that waits alone: its message goes to the end of the queue where there is room (R412, R413). -/
theorem servePort_sends (f : Firing) (k : Nat) (m : TokVal) (n : Nat) : servePort (n + 1) (waitOp s f (.send v k m)).2 v k =
    if portRoom ≤ (portMessages s v k).length then (waitOp s f (.send v k m)).2
    else sendBoth (setPort { s with ids := s.ids + 1 } v k (portMessages s v k ++ [m])) f (scalarOf 0) := by
  obtain ⟨others, unlisted, -⟩ := alone
  have first : sendAt (waitOp s f (.send v k m)).2 v k = some (s.ids, { f := f, w := .send v k m, order := s.ids }) :=
    (sendAt_waited others f _ k).trans (if_pos (by simp))
  have none : recvAt (waitOp s f (.send v k m)).2 v k = .none := (recvAt_waited others f _ k).trans (if_neg (by simp))
  rw [servePort_send none first rfl, servePort_served others unlisted]
  rfl

/-- A RECV that waits alone: it takes the oldest message (R414). -/
theorem servePort_receives {f : Firing} (own : f.sleeve = v) {k : Nat} {m : TokVal} {l : List TokVal} (queue : portMessages s v k = m :: l) (n : Nat) :
    servePort (n + 1) (waitOp s f (.recv k)).2 v k = sendBoth (setPort { s with ids := s.ids + 1 } v k l) f m := by
  obtain ⟨others, unlisted, -⟩ := alone
  have first : recvAt (waitOp s f (.recv k)).2 v k = some (s.ids, { f := f, w := .recv k, order := s.ids }) :=
    (recvAt_waited others f _ k).trans (if_pos (by simp [own]))
  rw [servePort_recv (s := (waitOp s f (.recv k)).2) queue first, servePort_served others unlisted]

/-- A RECV at an empty port waits. -/
theorem servePort_empty (f : Firing) {k : Nat} (queue : portMessages s v k = []) (n : Nat) :
    servePort n (waitOp s f (.recv k)).2 v k = (waitOp s f (.recv k)).2 := by
  obtain ⟨others, -, -⟩ := alone
  exact servePort_idle (s := (waitOp s f (.recv k)).2) (.inl queue) ((sendAt_waited others f _ k).trans (if_neg (by simp))) n

end

/-- R412 to R415: SEND and RECV. -/
theorem streamPorts : Claims.StreamPorts := by
  intro r s clean b f waits
  have changed {v : Nat} (alone : Claims.NoneWaits s v) (k : Nat) (l : List TokVal) := setPort_changed (s := { b with ids := s.ids + 1 }) alone.2.2 k l
  refine ⟨fun none => execSend_refused clean none, fun v k m dest alone operand => ?_, fun none => execRecv_refused clean none, fun some alone => ?_⟩
  · intro q
    have message : opA f = m := by rw [opA, operand]; rfl
    have ran := (execSend_waits clean dest).trans (congrArg Host.Outcome.next (servePort_sends (s := b) alone f k (opA f) _))
    rw [message] at ran
    refine ⟨fun room => ?_, fun full => ran.trans (congrArg Host.Outcome.next (if_pos full))⟩
    obtain ⟨port, ports, rest, sleeves⟩ := changed alone k (q ++ [m])
    exact ⟨_, ran.trans (congrArg Host.Outcome.next (if_neg (Nat.not_le.mpr room))), port, ports, rest, sleeves⟩
  · refine ⟨fun m l queue => ?_, fun empty => (execRecv_waits clean some).trans (congrArg Host.Outcome.next (servePort_empty (s := b) alone f empty _))⟩
    obtain ⟨port, ports, rest, sleeves⟩ := changed alone r.lit.toNat l
    exact ⟨_, (execRecv_waits clean some).trans (congrArg Host.Outcome.next (servePort_receives (s := b) alone rfl queue _)), port, ports, rest, sleeves⟩

/-- Settles O25: a form that waits alone is served at once or not at all, and what it sends makes no other form wait. -/
theorem buffersAndPorts : Obligations.BuffersAndPorts := ⟨circularBuffers, streamPorts⟩

end Sys2Proof.Machine
end

section
/-! PROOFS. LDS, LDS.E and LDI on full and not full words (R162, R163, R166, R397). -/

namespace Sys2Proof.Machine

open Sys2Proof

/-! ## Words -/

theorem wordBits_congr {s t : State} (mem : t.mem = s.mem) (k : Nat) : wordBits t k = wordBits s k := readDev_congr mem ..

theorem wordElem_congr {s t : State} (mem : t.mem = s.mem) (poison : t.poison = s.poison) (k ofs : Nat) (ty : Ty) (zero : Bool) :
    wordElem t k ofs ty zero = wordElem s k ofs ty zero := by
  unfold wordElem
  rw [wordBits_congr mem, poison]

theorem wordState_set (s : State) (k : Nat) (x : WordState) : wordState (setWordState s k (some x)) k = some x := lookup_insertAt_same ..

theorem wordState_full (s : State) (k : Nat) : wordState (setWordState s k none) k = none := lookup_eraseAt_same ..

theorem wordState_set_other {s : State} {k j : Nat} (other : j ≠ k) (x : Option WordState) : wordState (setWordState s k x) j = wordState s j := by
  cases x with
  | none => exact lookup_eraseAt_other _ other
  | some x => exact lookup_insertAt_other _ _ other

/-- The issue of a record resolves its LSID, whatever else has changed beside the activations. -/
theorem resolveLsid_resolves_of {s u : State} (acts : u.acts = s.acts) (r : MRec) : Claims.Resolves s (resolveLsid u s.cur.act r) r := by
  intro listed
  unfold resolveLsid
  rw [actOf_updAct_same (by rw [acts]; exact listed), actOf_congr acts]
  exact ⟨rfl, by simp [r.own.isLt]⟩

/-! ## A form at the bank of a word -/

/-- A form that reads a word is at its bank: its address has resolved, and no step before the word holds it (Table 5.2). -/
structure AtWord (s : State) (r : MRec) (p : Part) (l : List Part) (apr a : Nat) : Prop where
  clean    : Claims.Clean s r.c 0
  quiet    : Claims.Quiet s
  resolved : resolve (begin s r.c 0) (begin s r.c 0).cur { use := .sync, width := r.c.ty.width, sync := true } [elemAddr r (begin s r.c 0).cur] = .ok (p :: l)
  free     : blockedLine (begin s r.c 0) (begin s r.c 0).cur { use := .sync, width := r.c.ty.width, sync := true } (p :: l) = none
  apart    : aliasHeld (begin s r.c 0) (begin s r.c 0).cur r.own.toNat (p :: l) = false
  passes   : Claims.Passes (begin s r.c 0) (formAt (begin s r.c 0).cur) (spotsOf (p :: l))
  place    : partLoc s p = .dev apr a

/-- The state in which a form reads a word: its sector is in the L2. -/
def atWord (s : State) (r : MRec) (apr a : Nat) : State := touch (begin s r.c 0) (.dev apr a) true

section

variable {s : State} {r : MRec} {p : Part} {l : List Part} {apr a : Nat} (bank : AtWord s r p l apr a)

include bank

theorem atWord_cachesOnly : CachesOnly (begin s r.c 0) (atWord s r apr a) := touch_cachesOnly (s := begin s r.c 0) bank.quiet _ _

theorem wordForm_atWord (writes : Bool) (body : Firing → Part → Nat → State → State) :
    wordForm s r writes body = body (begin s r.c 0).cur p (wordKey s p) (atWord s r apr a) := by
  obtain ⟨⟨poison, null, tag⟩, -, resolved, free, apart, ⟨unheld, passes⟩, place⟩ := bank
  have past : goPast (begin s r.c 0) (formAt (begin s r.c 0).cur) = begin s r.c 0 := if_neg (by rw [unheld]; decide)
  have there : partLoc (begin s r.c 0) p = .dev apr a := place
  unfold wordForm
  rw [fireMem_acts poison null tag]
  dsimp only
  rw [resolved]
  dsimp only
  rw [apart, if_neg (by decide)]
  cases writes with
  | false =>
    rw [if_neg (by decide), free]
    dsimp only
    rw [there]
    rfl
  | true =>
    rw [if_pos rfl, atStep1, if_pos passes, past, free]
    dsimp only
    rw [there]
    rfl

/-- The word and its state are read as they stand. -/
theorem atWord_word (k ofs : Nat) (ty : Ty) (zero : Bool) :
    wordState (resolveLsid (atWord s r apr a) s.cur.act r) k = wordState s k ∧
      wordElem (resolveLsid (atWord s r apr a) s.cur.act r) k ofs ty zero = wordElem s k ofs ty zero := by
  obtain ⟨acts, resolved⟩ := resolveLsid_rest (atWord s r apr a) s.cur.act r
  rw [resolved]
  rw [atWord_cachesOnly bank]
  exact ⟨rfl, wordElem_congr rfl rfl k ofs ty zero⟩

/-- What a form leaves behind that waits from the bank of a word on. -/
theorem atWord_waits (w : Wait) :
    let t := (waitOp (resolveLsid (atWord s r apr a) s.cur.act r) (begin s r.c 0).cur w).2
    (lookup t.ops s.ids = some { f := (begin s r.c 0).cur, w := w, order := s.ids } ∧ (∀ j, j ≠ s.ids → lookup t.ops j = lookup s.ops j) ∧
      t.net = s.net ∧ Claims.SameMemory s t ∧ Claims.Resolves s t r) ∧ t.fe = s.fe := by
  have caches := atWord_cachesOnly bank
  have resolves := resolveLsid_resolves_of (s := s) (u := atWord s r apr a) (by rw [caches]; rfl) r
  obtain ⟨acts, resolved⟩ := resolveLsid_rest (atWord s r apr a) s.cur.act r
  have rest : resolveLsid (atWord s r apr a) s.cur.act r = { begin s r.c 0 with
      acts := acts, l2 := (atWord s r apr a).l2, victim := (atWord s r apr a).victim, misses := (atWord s r apr a).misses } := by
    rw [resolved, caches]
  obtain ⟨listed, others⟩ := waitOp_waits (resolveLsid (atWord s r apr a) s.cur.act r) (begin s r.c 0).cur w
  rw [rest] at listed others resolves ⊢
  exact ⟨⟨listed, others, rfl, sameMemory_of rfl rfl rfl, resolves⟩, rfl⟩

/-- LDS and LDS.E of a Full word, and of one that is not. -/
theorem ldsForm_atWord (empties : Bool) :
    let f := (begin s r.c 0).cur
    let u := resolveLsid (atWord s r apr a) s.cur.act r
    ldsForm s r empties = if (wordState s (wordKey s p)).isNone then
      let t := (waitOp u f (.data (wordElem s (wordKey s p) (p.va.toNat % 64) r.c.ty (r.c.fn.getLsbD 3)))).2
      if empties then setWordState t (wordKey s p) (some .empty) else t
    else (waitOp u f (.lds (wordKey s p) (p.va.toNat % 64) r.c.ty (r.c.fn.getLsbD 3) empties)).2 := by
  intro f u
  obtain ⟨state, value⟩ := atWord_word bank (wordKey s p) (p.va.toNat % 64) r.c.ty (r.c.fn.getLsbD 3)
  rw [← state, ← value]
  unfold ldsForm
  rw [wordForm_atWord bank]
  rfl

end

/-! ## Deferral entries (R164) -/

theorem deferralSize_congr {s t : State} (same : t.regs.dfrn = s.regs.dfrn) : deferralSize t = deferralSize s := by
  unfold deferralSize
  rw [same]

theorem lookup_isSome_of_mem {α : Type} {m : Map α} {k : Nat} (listed : (lookup m k).isSome = true) : k ∈ m.map (·.1) := by
  obtain ⟨v, found⟩ := Option.isSome_iff_exists.mp listed
  exact List.mem_map.mpr ⟨(k, v), lookup_mem found, rfl⟩

/-- Among more numbers than a table has entries one has no entry. -/
theorem exists_unlisted {α : Type} (m : Map α) {n : Nat} (more : m.length < n) : ∃ k < n, lookup m k = none := by
  by_contra all
  have subset : List.range n ⊆ m.map (·.1) := fun k mem => lookup_isSome_of_mem (Option.isSome_iff_ne_none.mpr fun none =>
    all ⟨k, List.mem_range.mp mem, none⟩)
  have short := (List.subperm_of_subset List.nodup_range subset).length_le
  simp only [List.length_range, List.length_map] at short
  omega

/-- The numbers among which a free deferral entry is sought: there is a free one among them if there is one at all. -/
theorem exists_free_deferral {s : State} (free : ∃ i, i < deferralSize s ∧ lookup s.dfr i = none) (n : Nat) :
    ∃ k < min (deferralSize s) (s.dfr.length + n + 1), lookup s.dfr k = none := by
  obtain ⟨i, inside, none⟩ := free
  by_cases small : deferralSize s ≤ s.dfr.length + n + 1
  · exact ⟨i, by omega, none⟩
  · obtain ⟨k, low, none⟩ := exists_unlisted s.dfr (n := s.dfr.length + n + 1) (by omega)
    exact ⟨k, by omega, none⟩

theorem freeDeferral_eq (s : State) : ∃ n, freeDeferral s =
    ((rotate (List.range (min (deferralSize s) (s.dfr.length + n + 1))) n).find? fun k => (lookup s.dfr k).isNone, { s with free := s.free + 1 }) := by
  unfold freeDeferral choose
  dsimp only
  rw [deferralSize_congr (s := s) (t := { s with free := s.free + 1 }) rfl]
  exact ⟨_, rfl⟩

theorem freeDeferral_some {s : State} (free : ∃ i, i < deferralSize s ∧ lookup s.dfr i = none) :
    ∃ i, freeDeferral s = (some i, { s with free := s.free + 1 }) ∧ i < deferralSize s ∧ lookup s.dfr i = none := by
  obtain ⟨n, sought⟩ := freeDeferral_eq s
  obtain ⟨k, low, none⟩ := exists_free_deferral free n
  have found : ((rotate (List.range (min (deferralSize s) (s.dfr.length + n + 1))) n).find? fun k => (lookup s.dfr k).isNone).isSome = true :=
    List.find?_isSome.mpr ⟨k, (rotate_perm _ n).mem_iff.mpr (List.mem_range.mpr low), by rw [none]; rfl⟩
  obtain ⟨i, first⟩ := Option.isSome_iff_exists.mp found
  have inside := List.mem_range.mp ((rotate_perm _ n).mem_iff.mp (List.mem_of_find?_eq_some first))
  have unlisted := List.find?_some (p := fun k => (lookup s.dfr k).isNone) first
  exact ⟨i, by rw [sought, first], by omega, Option.isNone_iff_eq_none.mp unlisted⟩

theorem freeDeferral_none {s : State} (full : ∀ i, i < deferralSize s → lookup s.dfr i ≠ none) :
    freeDeferral s = (none, { s with free := s.free + 1 }) := by
  obtain ⟨n, sought⟩ := freeDeferral_eq s
  rw [sought, List.find?_eq_none.mpr]
  intro k mem
  have inside := List.mem_range.mp ((rotate_perm _ n).mem_iff.mp mem)
  simpa using full k (by omega)

/-- Activations, tokens, waiting forms and deferred ones are the same in both states. -/
structure SameForms (s t : State) : Prop where
  acts : t.acts = s.acts
  net  : t.net = s.net
  ops  : t.ops = s.ops
  dfr  : t.dfr = s.dfr

namespace SameForms

variable {s t u : State}

theorem trans (h : SameForms s t) (k : SameForms t u) : SameForms s u :=
  ⟨k.acts.trans h.acts, k.net.trans h.net, k.ops.trans h.ops, k.dfr.trans h.dfr⟩

theorem of_level (h : LevelFrom s t) : SameForms s t := by
  rw [h.rest]
  exact ⟨rfl, rfl, rfl, rfl⟩

theorem of_bank (h : BankAside s t) : SameForms s t := by
  rw [h]
  exact ⟨rfl, rfl, rfl, rfl⟩

theorem bankWrite (s : State) (wr : Writer) (e : Word) (loc : Loc) (w v : Nat) : SameForms s (bankWrite s wr e loc w v) := by
  have wrote (t : State) : SameForms t (writeLoc t loc w v) := by cases loc <;> exact ⟨rfl, rfl, rfl, rfl⟩
  exact ((of_level ((LevelFrom.refl s).touch loc true)).trans (wrote _)).trans (of_bank (bankWrite_after ..))

end SameForms

/-- What an LDI that takes a free entry changes beside the entry and the state of the word: memory, and what writes to it bring about. -/
theorem appendDeferral_enters (s : State) (f : Firing) (p : Part) (k i : Nat) (r : MRec) :
    ∃ u, SameForms s u ∧ appendDeferral s f p k i r = setWordState { u with dfr := insertAt u.dfr i f } k (some .deferred) := by
  unfold appendDeferral freeWord
  dsimp only
  have words (a : Nat) (ws : List Word) : LevelFrom s (writeAreaWords { s with free := s.free + 1 } a ws) :=
    .trans (t := { s with free := s.free + 1 }) ⟨rfl⟩ (.writeAreaWords (.refl _) ..)
  exact ⟨_, .trans (.of_level (.ite (((words ..).soilArea ..).writeArea ..) (words ..))) (.bankWrite ..), rfl⟩

/-- An LDI that takes a free entry: the form is listed under it, and its word is Deferred (R163, R164). -/
theorem appendDeferral_defers (s : State) (f : Firing) (p : Part) (k i : Nat) (r : MRec) :
    let t := appendDeferral s f p k i r
    lookup t.dfr i = some f ∧ wordState t k = some .deferred ∧ t.acts = s.acts ∧ t.net = s.net ∧ t.ops = s.ops := by
  obtain ⟨u, same, entered⟩ := appendDeferral_enters s f p k i r
  rw [entered]
  exact ⟨lookup_insertAt_same .., wordState_set .., same.acts, same.net, same.ops⟩

/-! ## The forms -/

section

variable {s : State} {r : MRec} {p : Part} {l : List Part} {apr a : Nat} (bank : AtWord s r p l apr a)

include bank

/-- LDI of a Full word waits for its element as LDS does. -/
theorem execLdi_full (full : wordState s (wordKey s p) = none) :
    exec (.ldi r) s = .next (waitOp (resolveLsid (atWord s r apr a) s.cur.act r) (begin s r.c 0).cur
      (.data (wordElem s (wordKey s p) (p.va.toNat % 64) r.c.ty (r.c.fn.getLsbD 3)))).2 := by
  obtain ⟨-, value⟩ := atWord_word bank (wordKey s p) (p.va.toNat % 64) r.c.ty (r.c.fn.getLsbD 3)
  have state : wordState (atWord s r apr a) (wordKey s p) = none := by
    rw [atWord_cachesOnly bank]
    exact full
  refine (congrArg Host.Outcome.next (wordForm_atWord bank true _)).trans ?_
  rw [state, ← value]
  rfl

/-- LDI of a word that is not Full looks for a free deferral entry. -/
theorem execLdi_defers (other : wordState s (wordKey s p) ≠ none) :
    exec (.ldi r) s = .next (match freeDeferral (atWord s r apr a) with
      | (none, t) => park t s.cur.act (begin s r.c 0).cur.node { cls := .tagExhaust, info := 2 } (.form (entryOf t (begin s r.c 0).cur))
      | (some i, t) => appendDeferral (resolveLsid t s.cur.act r) (begin s r.c 0).cur p (wordKey s p) i r) := by
  have state : (wordState (atWord s r apr a) (wordKey s p)).isNone = false := by
    rw [atWord_cachesOnly bank]
    exact Option.isNone_eq_false_iff.mpr (Option.isSome_iff_ne_none.mpr other)
  refine (congrArg Host.Outcome.next (wordForm_atWord bank true _)).trans ?_
  rw [state]
  rfl

theorem atWord_deferrals : (atWord s r apr a).dfr = s.dfr ∧ deferralSize (atWord s r apr a) = deferralSize s := by
  have caches := atWord_cachesOnly bank
  exact ⟨by rw [caches]; rfl, deferralSize_congr (by rw [caches]; rfl)⟩

/-- LDI with a free deferral entry takes one. -/
theorem execLdi_free (other : wordState s (wordKey s p) ≠ none) (free : ∃ i, i < deferralSize s ∧ lookup s.dfr i = none) :
    ∃ t i, exec (.ldi r) s = .next t ∧ i < deferralSize s ∧ lookup s.dfr i = none ∧ lookup t.dfr i = some (begin s r.c 0).cur ∧
      wordState t (wordKey s p) = some .deferred ∧ t.net = s.net ∧ t.ops = s.ops ∧ Claims.Resolves s t r := by
  obtain ⟨dfr, size⟩ := atWord_deferrals bank
  have ran := execLdi_defers bank other
  obtain ⟨i, found, inside, unlisted⟩ := freeDeferral_some (s := atWord s r apr a) (by rw [dfr, size]; exact free)
  rw [found] at ran
  rw [size] at inside
  rw [dfr] at unlisted
  obtain ⟨listed, state, acts, net, ops⟩ := appendDeferral_defers (resolveLsid { atWord s r apr a with free := (atWord s r apr a).free + 1 } s.cur.act r)
    (begin s r.c 0).cur p (wordKey s p) i r
  obtain ⟨acts', resolved⟩ := resolveLsid_rest { atWord s r apr a with free := (atWord s r apr a).free + 1 } s.cur.act r
  have caches := atWord_cachesOnly bank
  refine ⟨_, i, ran, inside, unlisted, listed, state, net.trans ?_, ops.trans ?_, fun actListed => ?_⟩
  · rw [resolved, caches]
    rfl
  · rw [resolved, caches]
    rfl
  · obtain ⟨issued, done⟩ := resolveLsid_resolves_of (s := s) (u := { atWord s r apr a with free := (atWord s r apr a).free + 1 })
      (by rw [caches]; rfl) r actListed
    rw [actOf_congr acts]
    exact ⟨issued, done⟩

/-- LDI without a free deferral entry parks with TAG_EXHAUST. -/
theorem execLdi_parks (other : wordState s (wordKey s p) ≠ none) (none : ∀ i, i < deferralSize s → lookup s.dfr i ≠ none) :
    ∃ u, exec (.ldi r) s = .next (park u s.cur.act (begin s r.c 0).cur.node { cls := .tagExhaust, info := 2 } (.form (entryOf u (begin s r.c 0).cur))) ∧
      u.mem = s.mem ∧ u.fe = s.fe ∧ u.dfr = s.dfr := by
  obtain ⟨dfr, size⟩ := atWord_deferrals bank
  have ran := execLdi_defers bank other
  rw [freeDeferral_none (by rw [dfr, size]; exact none)] at ran
  refine ⟨_, ran, ?_⟩
  rw [atWord_cachesOnly bank]
  exact ⟨rfl, rfl, rfl⟩

end

/-- R162, R163, R166, R397: LDS, LDS.E and LDI at the bank. -/
theorem fullEmptyLoads : Claims.FullEmptyLoads := by
  intro r s p l apr a clean q b f n resolved free apart passes place k x waits
  have bank : AtWord s r p l apr a := ⟨clean, q, resolved, free, apart, passes, place⟩
  have execLds (empties : Bool) : exec (if empties then .ldsE r else .lds r) s = .next (ldsForm s r empties) := by cases empties <;> rfl
  have ran (empties : Bool) := (execLds empties).trans (congrArg Host.Outcome.next (ldsForm_atWord bank empties))
  refine ⟨fun full => ?_, fun other => ⟨?_, ?_, execLdi_free bank other, execLdi_parks bank other⟩⟩
  · have isFull : (wordState s (wordKey s p)).isNone = true := by rw [full]; rfl
    obtain ⟨waited, fe⟩ := atWord_waits bank (.data x)
    refine ⟨⟨_, (ran false).trans (by rw [if_pos isFull]; rfl), waited, fe⟩, ⟨_, execLdi_full bank full, waited, fe⟩,
      ⟨_, (ran true).trans (by rw [if_pos isFull]; rfl), ?_, wordState_set .., fun j other => ?_⟩⟩
    · obtain ⟨listed, others, net, memory, resolves⟩ := waited
      exact ⟨listed, others, net, ⟨memory.device, memory.pod, memory.scratch⟩, resolves⟩
    · rw [wordState_set_other other]
      exact congrArg (lookup · j) fe
  all_goals have notFull : ¬(wordState s (wordKey s p)).isNone = true := fun isNone => other (Option.isNone_iff_eq_none.mp isNone)
  · exact ⟨_, (ran false).trans (by rw [if_neg notFull]), atWord_waits bank _⟩
  · exact ⟨_, (ran true).trans (by rw [if_neg notFull]), atWord_waits bank _⟩

end Sys2Proof.Machine
end

section
/-! PROOFS. STE, STF and STI at the bank of a word, and the answers to the forms that wait at it (R163, R165, R166). -/

namespace Sys2Proof.Machine

open Sys2Proof

/-! ## The forms that wait at a word -/

/-- What a listed form waits for at word `k`. -/
def waiterAt (k : Nat) (o : Nat × Op) : Option (Nat × Op × Nat × Ty × Bool × Bool) :=
  match o.2.w with
  | .lds w ofs ty z em => if w = k then some (o.1, o.2, ofs, ty, z, em) else none
  | _ => none

theorem waitersOf_eq (s : State) (k : Nat) : Claims.waitersOf s k = s.ops.filterMap (waiterAt k) := rfl

theorem waiterAt_none {k : Nat} {o : Nat × Op} (other : ∀ ofs ty z em, o.2.w ≠ .lds k ofs ty z em) : waiterAt k o = none := by
  unfold waiterAt
  split
  · next w ofs ty z em waits => exact if_neg fun same => other ofs ty z em (by rw [waits, same])
  · rfl

theorem waiterAt_some {k n ofs : Nat} {o : Nat × Op} {p : Op} {ty : Ty} {z em : Bool} (waits : waiterAt k o = some (n, p, ofs, ty, z, em)) :
    o = (n, p) ∧ p.w = .lds k ofs ty z em := by
  unfold waiterAt at waits
  split at waits
  · next w ofs' ty' z' em' is =>
    split at waits
    · next same =>
      cases waits
      exact ⟨rfl, same ▸ is⟩
    · cases waits
  · cases waits

theorem answerWaiters_skip {s : State} {k : Nat} {o : Nat × Op} (other : waiterAt k o = none) (l : List (Nat × Op)) :
    answerWaiters s k (o :: l) = answerWaiters s k l := by
  obtain ⟨n, o⟩ := o
  rw [answerWaiters]
  split
  · next w ofs ty z em waits =>
    have apart : w ≠ k := fun same => by
      simp only [waiterAt, waits, same, if_true] at other
      cases other
    rw [if_neg fun all => apart all.1]
  · rfl

theorem answerWaiters_idle {l : List (Nat × Op)} {k : Nat} (none : l.filterMap (waiterAt k) = []) (s : State) : answerWaiters s k l = s := by
  induction l with
  | nil => rfl
  | cons o l ih =>
    have all := List.filterMap_eq_nil_iff.mp none
    rw [answerWaiters_skip (all o List.mem_cons_self), ih (List.filterMap_eq_nil_iff.mpr fun x mem => all x (List.mem_cons_of_mem _ mem))]

/-- The first of the forms that wait at a Full word gets its element; after an LDS.E no other does. -/
theorem answerWaiters_first {l : List (Nat × Op)} {k n ofs : Nat} {o : Op} {ty : Ty} {z em : Bool} {ws : List (Nat × Op × Nat × Ty × Bool × Bool)}
    (first : l.filterMap (waiterAt k) = (n, o, ofs, ty, z, em) :: ws) : (n, o) ∈ l ∧ ∃ rest, rest.filterMap (waiterAt k) = ws ∧
      ∀ s : State, lookup s.ops n = some o → (partOf s o.f.part).pstate = .running →
        let t := sendBoth (dropOp s n) o.f (wordElem s k ofs ty z)
        answerWaiters s k l = if em then setWordState t k (some .empty) else answerWaiters t k rest := by
  induction l with
  | nil => cases first
  | cons x l ih =>
    cases waits : waiterAt k x with
    | none =>
      rw [List.filterMap_cons_none waits] at first
      obtain ⟨listed, rest, more, answers⟩ := ih first
      exact ⟨List.mem_cons_of_mem _ listed, rest, more, fun s here running => (answerWaiters_skip waits l).trans (answers s here running)⟩
    | some y =>
      rw [List.filterMap_cons_some waits] at first
      obtain ⟨rfl, more⟩ := List.cons.inj first
      obtain ⟨rfl, is⟩ := waiterAt_some waits
      refine ⟨List.mem_cons_self, l, more, fun s here running => ?_⟩
      have served : finishOp s n (wordElem s k ofs ty z) = sendBoth (dropOp s n) o.f (wordElem s k ofs ty z) := by
        unfold finishOp
        rw [here]
      rw [answerWaiters, is]
      dsimp only
      rw [if_pos ⟨rfl, by rw [here]; rfl, running⟩, served]

/-! ## The word of a store -/

section

variable {s : State} {sid apr a k : Nat} {x : Store} {e : StoreElem}

section

variable (word : cdaOf apr (a / 8) / 8 = k)

include word

/-- STE at the bank. -/
theorem bankStore_empty (q : Claims.Quiet s) (empty : x.kind = .empty) :
    ∃ u, bankStore s sid x e (.dev apr a) = partDone (if (wordState u k).isNone then setWordState u k (some .empty) else u) sid ∧ BankAside s u := by
  subst word
  unfold bankStore
  rw [empty]
  exact ⟨_, rfl, .trans (.of_cachesOnly (touch_cachesOnly q (.dev apr a) true)) (bankDelta_aside ..)⟩

/-- STI of a Full word at the bank. -/
theorem bankStore_doubleWrite (single : x.kind = .single) (full : wordState s k = none) :
    let u := touch s (.dev apr a) true
    bankStore s sid x e (.dev apr a) =
      partDone (holdAfterCommit u x (storeFault u x e .doubleWrite 0 (BitVec.ofNat 64 (wordBits u k))) sid) sid := by
  subst word
  have again : doubleWrites s x (.dev apr a) = true := by simp [doubleWrites, single, full]
  unfold bankStore
  rw [single]
  dsimp only
  rw [if_pos again]

/-- STF, and STI of a word that is not Full, at the bank. -/
theorem bankStore_fills (fills : x.kind = .fill ∨ x.kind = .single ∧ wordState s k ≠ none) :
    bankStore s sid x e (.dev apr a) =
      partDone (makeFull (bankWrite s (writerOf x sid e.big) e.leaf (.dev apr a) e.width e.pat.toNat) k (wordBits s k)) sid := by
  subst word
  have once : doubleWrites s x (.dev apr a) = false := by
    obtain fill | ⟨single, other⟩ := fills
    · simp [doubleWrites, fill]
    · simpa [doubleWrites, single] using Option.isSome_iff_ne_none.mpr other
  have kind : x.kind = .fill ∨ x.kind = .single := fills.imp_right And.left
  unfold bankStore
  obtain kind | kind := kind
  all_goals
    rw [kind]
    dsimp only
    rw [if_neg (by rw [once]; decide)]

end

theorem makeFull_empty {u : State} (other : wordState u k ≠ some .deferred) (old : Nat) :
    makeFull u k old = answerWaiters (setWordState u k none) k u.ops := by
  unfold makeFull
  dsimp only
  rw [if_neg other]
  rfl

/-- What the bits of a store at the bank of its word leave as it was. -/
theorem written_rest {u : State} {v : Nat} (aside : BankAside (writeDev s apr a e.width v) u) :
    u.fe = s.fe ∧ u.net = s.net ∧ u.acts = s.acts ∧ u.ops = s.ops ∧ u.dfr = s.dfr ∧ u.parts = s.parts ∧ u.packed = s.packed ∧
      u.podMem = s.podMem ∧ ∃ gdlt hldr, u.regs = { s.regs with gdlt := gdlt, hldr := hldr } := by
  rw [aside]
  exact ⟨rfl, rfl, rfl, rfl, rfl, rfl, rfl, rfl, _, _, rfl⟩

/-- The bits of a store as they read once they are written (R141). -/
theorem written_bits {u t : State} (aside : BankAside (writeDev s apr a e.width e.pat.toNat) u) (mem : t.mem = u.mem) (some : apr ≤ 2) (pos : 0 < e.width)
    (exist : Claims.Exists apr a e.width) : readDev t apr a e.width = e.pat.toNat % 2 ^ e.width ∧
      ∀ apr' o, Claims.Outside apr a e.width apr' o → devByte t apr' o = devByte s apr' o := by
  have written : t.mem = (writeDev s apr a e.width e.pat.toNat).mem := mem.trans aside.memory.1
  refine ⟨?_, fun apr' o outside => ?_⟩
  · rw [readDev_congr written]
    exact readDev_writeDev_same some pos exist
  · rw [devByte_congr written]
    exact devByte_writeDev_outside pos outside

end

/-- A Full word is emptied, and any other is left as it is (R165). -/
theorem emptied (s : State) (k : Nat) : ∃ fe, (if (wordState s k).isNone then setWordState s k (some .empty) else s) = { s with fe := fe } ∧
    lookup fe k = some ((wordState s k).getD .empty) ∧ ∀ j, j ≠ k → lookup fe j = wordState s j := by
  cases state : wordState s k with
  | none => exact ⟨_, rfl, lookup_insertAt_same .., fun j other => lookup_insertAt_other _ _ other⟩
  | some y => exact ⟨s.fe, rfl, state, fun j _ => rfl⟩

/-- R163, R165, R166: STE, STF and STI at the bank. -/
theorem fullEmptyStores : Claims.FullEmptyStores := by
  intro s sid apr a x e q listed may parts passes fits kept free place low pos exist k
  have ran (memory : x.kind ≠ .scratch) := execStorePerform_atBank listed may parts memory ⟨passes, fits, kept, free, place⟩
  refine ⟨fun empty => ?_, fun fills notDeferred alone => ?_, fun single full => ?_⟩
  · obtain ⟨u, stored, aside⟩ := bankStore_empty (sid := sid) (e := e) (word := rfl) q empty
    obtain ⟨fe, left, same, others⟩ := emptied u k
    obtain ⟨stores, stalled, entries, done⟩ := partDone_rest { u with fe := fe } sid
    have states (j : Nat) : wordState u j = wordState s j := by
      rw [aside]
      rfl
    rw [left, done, aside] at stored
    refine ⟨_, (ran (by rw [empty]; decide)).trans (congrArg _ stored), sameMemory_of rfl rfl rfl, rfl, rfl, ?_, fun j other => ?_⟩
    · exact same.trans (by rw [states])
    · exact (others j other).trans (states j)
  · have kind : x.kind ≠ .scratch := by obtain fill | ⟨single, -⟩ := fills <;> simp [*]
    have aside := bankWrite_device q (writerOf x sid e.big) e.leaf apr a e.width e.pat.toNat
    have stored := (ran kind).trans (congrArg _ (bankStore_fills rfl fills))
    generalize bankWrite s (writerOf x sid e.big) e.leaf (.dev apr a) e.width e.pat.toNat = u at aside stored
    obtain ⟨fe, net, -, ops, -⟩ := written_rest aside
    have idle : u.ops.filterMap (waiterAt k) = [] := by
      rw [ops]
      exact List.filterMap_eq_nil_iff.mpr fun o mem => waiterAt_none (alone o mem)
    obtain ⟨stores, stalled, entries, done⟩ := partDone_rest (setWordState u k none) sid
    have state : wordState u k ≠ some .deferred := fun is => notDeferred ((congrArg (lookup · k) fe).symm.trans is)
    rw [makeFull_empty state, answerWaiters_idle idle, done] at stored
    obtain ⟨bits, others⟩ := written_bits (t := { u with stores := stores, stalled := stalled, entries := entries }) aside rfl low pos exist
    exact ⟨_, stored, bits, others, fun j other => (wordState_set_other other none).trans (congrArg (lookup · j) fe), wordState_full .., net, ops⟩
  · have caches := touch_cachesOnly q (.dev apr a) true
    have stored := (ran (by rw [single]; decide)).trans (congrArg _ (bankStore_doubleWrite rfl single full))
    rw [wordBits_congr (by rw [caches]) k] at stored
    refine ⟨_, stored, ?_⟩
    rw [caches]
    exact ⟨sameMemory_of rfl rfl rfl, rfl, rfl⟩

end Sys2Proof.Machine
end

section
/-! PROOFS. The answers to the forms that wait at a word which a store makes Full (R163 to R166). -/

namespace Sys2Proof.Machine

open Sys2Proof

theorem lookup_of_mem {α : Type} {m : Map α} {k : Nat} {v : α} (distinct : (m.map (·.1)).Nodup) (mem : (k, v) ∈ m) : lookup m k = some v := by
  induction m with
  | nil => cases mem
  | cons x m ih =>
    obtain ⟨fresh, rest⟩ := List.nodup_cons.mp distinct
    rw [lookup]
    obtain rfl | mem := List.mem_cons.mp mem
    · exact if_pos rfl
    · rw [if_neg fun same : x.1 = k => fresh (List.mem_map.mpr ⟨(k, v), mem, same.symm⟩)]
      exact ih rest mem

/-- What `Filled` says stands in a later state with the same memory, words, tokens and activations. -/
theorem filled_later {s u t : State} {e : StoreElem} {apr a : Nat} (filled : Claims.Filled s u e apr a) (mem : t.mem = u.mem) (fe : t.fe = u.fe)
    (net : t.net = u.net) (acts : t.acts = u.acts) : Claims.Filled s t e apr a := by
  obtain ⟨bits, others, full, net', acts'⟩ := filled
  exact ⟨(readDev_congr mem ..).trans bits, fun apr' o outside => (devByte_congr mem ..).trans (others apr' o outside),
    (congrArg (lookup · _) fe).trans full, net.trans net', acts.trans acts'⟩

section

variable {s : State} {sid apr a k : Nat} {x : Store} {e : StoreElem} (fills : Claims.Fills s sid x e apr a) (word : cdaOf apr (a / 8) / 8 = k)

include fills word

/-- STORE_PERFORM of a store that makes its word Full: once its bits are written, what waits at the word is answered. -/
theorem execStorePerform_fills (other : wordState s k ≠ none) : ∃ u,
    exec (.storePerform sid) s = .next (partDone (makeFull u k (wordBits s k)) sid) ∧
      BankAside (writeDev s apr a e.width e.pat.toNat) u ∧ Claims.Filled s (setWordState u k none) e apr a := by
  subst word
  obtain ⟨⟨listed, may, parts, kind⟩, ⟨place, low, pos, exist⟩, ⟨passes, fits, kept, free⟩, quiet⟩ := fills
  have memory : x.kind ≠ .scratch := by obtain fill | single := kind <;> simp [*]
  have aside := bankWrite_device quiet (writerOf x sid e.big) e.leaf apr a e.width e.pat.toNat
  obtain ⟨fe, net, acts, -⟩ := written_rest aside
  obtain ⟨bits, others⟩ := written_bits (t := setWordState (bankWrite s (writerOf x sid e.big) e.leaf (.dev apr a) e.width e.pat.toNat)
    (cdaOf apr (a / 8) / 8) none) aside rfl low pos exist
  refine ⟨_, ?_, aside, bits, others, wordState_full .., net, acts⟩
  rw [execStorePerform_atBank listed may parts memory ⟨passes, fits, kept, free, place⟩,
    bankStore_fills rfl (kind.imp_right fun single => ⟨single, other⟩)]

/-- With an Empty word, the forms that wait at it are answered from the first on. -/
theorem execStorePerform_empty {n ofs : Nat} {o : Op} {ty : Ty} {z em : Bool} {ws : List (Nat × Op × Nat × Ty × Bool × Bool)}
    (empty : wordState s k = some .empty) (first : Claims.waitersOf s k = (n, o, ofs, ty, z, em) :: ws)
    (distinct : (s.ops.map (·.1)).Nodup) (running : (partOf s o.f.part).pstate = .running) :
    ∃ u rest, Claims.Filled s u e apr a ∧ u.ops = s.ops ∧ rest.filterMap (waiterAt k) = ws ∧
      let t := sendBoth (dropOp u n) o.f (wordElem u k ofs ty z)
      exec (.storePerform sid) s = .next (partDone (if em then setWordState t k (some .empty)
        else answerWaiters t k rest) sid) := by
  obtain ⟨u, ran, aside, filled⟩ := execStorePerform_fills fills word (by rw [empty]; decide)
  obtain ⟨fe, -, -, ops, -, parts, -⟩ := written_rest aside
  have state : wordState u k = some .empty := (congrArg (lookup · _) fe).trans empty
  obtain ⟨listed, rest, more, answers⟩ := answerWaiters_first first
  refine ⟨_, rest, filled, ops, more, ?_⟩
  rw [ran, makeFull_empty (by rw [state]; decide), ops]
  exact congrArg (fun t => Host.Outcome.next (partDone t sid)) (answers (setWordState u k none)
    ((congrArg (lookup · n) ops).trans (lookup_of_mem distinct listed)) (by rw [partOf_congr (t := setWordState u k none) parts]; exact running))

end

/-! ## An entry of the deferral area (R164) -/

theorem deferralAt_congr {s t : State} (same : t.regs.dfrb = s.regs.dfrb) (i : Nat) : deferralAt t i = deferralAt s i := by
  unfold deferralAt
  rw [same]

theorem gatherBits_bytes {rd rd' : Nat → Byte} {a w : Nat} (same : ∀ o, a / 8 ≤ o → o ≤ (a + w - 1) / 8 → rd' o = rd o) :
    gatherBits rd' a w = gatherBits rd a w := by
  refine Nat.eq_of_testBit_eq fun j => ?_
  rw [testBit_gatherBits, testBit_gatherBits]
  by_cases inside : j < w
  · unfold bitAt
    rw [same _ (by omega) (by omega)]
  · simp [inside]

theorem gatherBits_high (rd : Nat → Byte) (a n w : Nat) : gatherBits rd (a + n) w = gatherBits rd a (n + w) / 2 ^ n := by
  refine Nat.eq_of_testBit_eq fun j => ?_
  rw [testBit_gatherBits, Nat.testBit_div_two_pow, testBit_gatherBits, Nat.add_assoc a n j, Nat.add_comm j n]
  simp

theorem readArea_device {s : State} {a : Nat} (device : a < 8 * deviceBytes) (w : Nat) : readArea s a w = gatherBits (devByte s 0) a w := if_pos device

/-- A deferral entry of memory holds the words of a form that has deferred (R164). -/
structure EntryAt (s : State) (i : Nat) (f : Firing) (ofs : Nat) (ty : Ty) (z : Bool) (w : Word) : Prop where
  listed : lookup s.dfr i = some f
  offset : ofs < 64
  block  : f.blk = (f.blk.extractLsb' 14 46 ++ 0#14).signExtend 64
  node   : f.node < 128
  device : deferralAt s i + 256 ≤ 8 * deviceBytes
  words  : ∀ j, j < 3 → readArea s (deferralAt s i + 64 * j) 64 = ((deferralWords f ofs ty z w).getD j 0).toNat

theorem EntryAt.of_same {s t : State} {i ofs : Nat} {f : Firing} {ty : Ty} {z : Bool} {w : Word} (entry : EntryAt s i f ofs ty z w) (dfr : t.dfr = s.dfr)
    (base : t.regs.dfrb = s.regs.dfrb) (bytes : ∀ j, j < 32 → devByte t 0 (deferralAt s i / 8 + j) = devByte s 0 (deferralAt s i / 8 + j)) :
    EntryAt t i f ofs ty z w := by
  obtain ⟨listed, offset, block, node, device, words⟩ := entry
  refine ⟨by rw [dfr]; exact listed, offset, block, node, by rw [deferralAt_congr base]; exact device, fun j few => ?_⟩
  rw [deferralAt_congr base, ← words j few, readArea_device (by omega), readArea_device (by omega)]
  refine gatherBits_bytes fun o low high => ?_
  obtain ⟨n, rfl⟩ : ∃ n, o = deferralAt s i / 8 + n := ⟨o - deferralAt s i / 8, by omega⟩
  exact bytes n (by omega)

section

variable (f : Firing) {ofs : Nat} (ty : Ty) (z : Bool) (w : Word)

/-- The word of an entry that links it and says which element its form takes. -/
theorem deferralWords_link (offset : ofs < 64) : let v := ((deferralWords f ofs ty z w).getD 2 0).toNat
    v / 2 ^ 32 = noDeferral ∧ bits v 26 6 = ofs ∧ Ty.ofCode (BitVec.ofNat 4 (bits v 22 4)) = some ty ∧ (bits v 21 1 = 1 ↔ z = true) := by
  have code := ty.code.isLt
  have typed : Ty.ofCode ty.code = some ty := by cases ty <;> rfl
  have word : ((deferralWords f ofs ty z w).getD 2 0).toNat = noDeferral * 2 ^ 32 + ofs * 2 ^ 26 + ty.code.toNat * 2 ^ 22 + (if z then 2 ^ 21 else 0) := by
    simp only [deferralWords, List.getD_cons_succ, List.getD_cons_zero, BitVec.toNat_ofNat, noDeferral]
    split <;> omega
  intro v
  have value : v = noDeferral * 2 ^ 32 + ofs * 2 ^ 26 + ty.code.toNat * 2 ^ 22 + (if z then 2 ^ 21 else 0) := word
  clear_value v
  subst value
  have field : bits (noDeferral * 2 ^ 32 + ofs * 2 ^ 26 + ty.code.toNat * 2 ^ 22 + (if z then 2 ^ 21 else 0)) 22 4 = ty.code.toNat := by
    unfold bits noDeferral
    split <;> omega
  refine ⟨?_, ?_, ?_, ?_⟩
  · unfold noDeferral
    split <;> omega
  · unfold bits noDeferral
    split <;> omega
  · rw [field, BitVec.ofNat_toNat, BitVec.setWidth_eq]
    exact typed
  · unfold bits noDeferral
    cases z <;> simp <;> omega

/-- The word of an entry that names the record of its form. -/
theorem deferralWords_record (ofs : Nat) (node : f.node < 128) : let v := ((deferralWords f ofs ty z w).getD 1 0).toNat
    bits v 18 46 = f.blk.toNat % 2 ^ 60 / 2 ^ 14 ∧ bits v 11 7 = f.node := by
  have word : ((deferralWords f ofs ty z w).getD 1 0).toNat = f.blk.toNat % 2 ^ 60 / 2 ^ 14 * 2 ^ 18 + f.node * 2 ^ 11 := by
    simp only [deferralWords, List.getD_cons_succ, List.getD_cons_zero, BitVec.toNat_ofNat, tokenWord1, Nat.mod_eq_of_lt node, Port.code]
    simp
    omega
  intro v
  have value : v = _ := word
  clear_value v
  subst value
  unfold bits
  omega

end

section

variable {s : State} {i ofs : Nat} {f : Firing} {ty : Ty} {z : Bool} {w : Word} (entry : EntryAt s i f ofs ty z w)

include entry

theorem deferralNext_entry : deferralNext s i = noDeferral := by
  obtain ⟨-, offset, -, -, device, words⟩ := entry
  have link := words 2 (by decide)
  obtain ⟨next, -⟩ := deferralWords_link f ty z w offset
  rw [readArea_device (by omega)] at link
  unfold deferralNext
  rw [readArea_device (by omega), show deferralAt s i + 160 = deferralAt s i + 64 * 2 + 32 by omega, gatherBits_high, link, next]

/-- The firing that an entry names is that of the form that deferred. -/
theorem deferralFiring_entry : let g := deferralFiring s i
    g.part = f.part ∧ g.tag = f.tag ∧ g.blk = f.blk ∧ g.node = f.node ∧ g.act = f.act := by
  obtain ⟨listed, -, block, node, -, words⟩ := entry
  obtain ⟨blk, index⟩ := deferralWords_record f ty z w ofs node
  have tag := words 0 (by decide)
  rw [Nat.mul_zero, Nat.add_zero, show (deferralWords f ofs ty z w).getD 0 0 = f.tag from rfl] at tag
  have record := words 1 (by decide)
  rw [← record] at blk index
  have whole : (BitVec.ofNat 64 (bits (readArea s (deferralAt s i + 64 * 1) 64) 18 46 * 2 ^ 14)).extractLsb' 0 60 = f.blk.extractLsb' 14 46 ++ 0#14 := by
    rw [blk]
    refine BitVec.eq_of_toNat_eq ?_
    rw [BitVec.toNat_append, BitVec.extractLsb'_toNat, BitVec.extractLsb'_toNat, BitVec.toNat_ofNat, Nat.shiftRight_eq_div_pow, Nat.shiftLeft_eq]
    simp
    omega
  unfold deferralFiring
  rw [Nat.mul_one] at whole index
  simp only [listed, Option.isSome_some, if_true, Option.getD_some, tag, whole, index, ← block, BitVec.ofNat_toNat, BitVec.setWidth_eq, and_self]

/-- The answer to a form that has deferred: its element to its targets, and its entry freed (R164). -/
theorem answerDeferral_entry (q : Claims.Quiet s) (k : Nat) (running : (partOf s f.part).pstate = .running) :
    ∃ t, CachesOnly s t ∧ EntryAt t i f ofs ty z w ∧ answerDeferral s i k =
      sendBoth { t with dfr := eraseAt s.dfr i } (deferralFiring t i) (wordElem { t with dfr := eraseAt s.dfr i } k ofs ty z) := by
  obtain ⟨t, read⟩ : ∃ t, t = touchArea s (deferralAt s i) 256 := ⟨_, rfl⟩
  have caches : CachesOnly s t := by
    rw [read]
    exact touchArea_cachesOnly q _ _
  have base : t.regs.dfrb = s.regs.dfrb := by rw [caches]
  have dfr : t.dfr = s.dfr := by rw [caches]
  have touched : EntryAt t i f ofs ty z w := entry.of_same dfr base fun j _ => devByte_congr (by rw [caches]) ..
  refine ⟨t, caches, touched, ?_⟩
  obtain ⟨part, -⟩ := deferralFiring_entry touched
  have thawed : (partOf t (deferralFiring t i).part).pstate ≠ .frozen := by
    rw [part, partOf_congr (s := s) (by rw [caches]), running]
    decide
  have link := touched.words 2 (by decide)
  obtain ⟨-, place, typed, zero⟩ := deferralWords_link f ty z w touched.offset
  rw [← link, deferralAt_congr base, show 64 * 2 = 128 from rfl] at place typed zero
  have flag : decide (bits (readArea t (deferralAt s i + 128) 64) 21 1 = 1) = z := Bool.eq_iff_iff.mpr (decide_eq_true_iff.trans zero)
  have value : wordElem t k ofs ty z = wordElem { t with dfr := eraseAt s.dfr i } k ofs ty z := wordElem_congr rfl rfl ..
  unfold answerDeferral
  rw [← read]
  dsimp only
  rw [if_neg thawed, deferralAt_congr base, typed, place, Option.getD_some, flag, value, dfr]

/-- A list of one entry is answered by the answer to that entry. -/
theorem answerList_entry (q : Claims.Quiet s) (k : Nat) (running : (partOf s f.part).pstate = .running) (inside : i < deferralSize s)
    (short : deferralSize s ≤ noDeferral) : answerList (deferralSize s) s i k = answerDeferral s i k := by
  obtain ⟨n, size⟩ : ∃ n, deferralSize s = n + 1 := ⟨deferralSize s - 1, by omega⟩
  obtain ⟨t, caches, -, answer⟩ := answerDeferral_entry entry q k running
  obtain ⟨regs, -⟩ := (Settled.sendBoth (.refl { t with dfr := eraseAt s.dfr i }) (deferralFiring t i) _).quiet (caches.quiet q)
  have same : deferralSize (answerDeferral s i k) = deferralSize s := deferralSize_congr (by rw [answer, regs, caches])
  rw [size, answerList, if_neg (by omega), deferralNext_entry entry]
  dsimp only
  cases n with
  | zero => rfl
  | succ n => rw [answerList, if_pos (by rw [same]; exact short)]

end

/-! ## The answers -/

theorem makeFull_deferred {u : State} {k : Nat} (deferred : wordState u k = some .deferred) (old : Nat) :
    let v := setWordState u k none
    makeFull u k old = answerWaiters (answerList (deferralSize v) v (old / 2 ^ 32) k) k (answerList (deferralSize v) v (old / 2 ^ 32) k).ops := by
  unfold makeFull
  dsimp only
  rw [if_pos deferred]

/-- R163, R164: the form that has deferred on the word of a store is answered from its entry. -/
theorem execStorePerform_deferred {s : State} {sid apr a k i ofs : Nat} {x : Store} {e : StoreElem} {f : Firing} {ty : Ty} {z : Bool} {w : Word}
    (fills : Claims.Fills s sid x e apr a) (word : cdaOf apr (a / 8) / 8 = k) (deferred : wordState s k = some .deferred)
    (head : wordBits s k / 2 ^ 32 = i) (inside : i < deferralSize s) (short : deferralSize s ≤ noDeferral)
    (running : (partOf s f.part).pstate = .running) (entry : EntryAt s i f ofs ty z w)
    (apart : ∀ j, j < 32 → Claims.Outside apr a e.width 0 (deferralAt s i / 8 + j)) :
    ∃ u g, Claims.Filled s u e apr a ∧ u.ops = s.ops ∧ u.dfr = eraseAt s.dfr i ∧
      g.part = f.part ∧ g.tag = f.tag ∧ g.blk = f.blk ∧ g.node = f.node ∧ g.act = f.act ∧
      let t := sendBoth u g (wordElem u k ofs ty z)
      (Claims.waitersOf t k = [] → exec (.storePerform sid) s = .next (partDone t sid)) := by
  obtain ⟨u, ran, aside, filled⟩ := execStorePerform_fills fills word (by rw [deferred]; decide)
  obtain ⟨fe, -, -, ops, dfr, parts, packed, -, gdlt, hldr, regs⟩ := written_rest aside
  rw [makeFull_deferred ((congrArg (lookup · _) fe).trans deferred), head] at ran
  generalize unlocked : setWordState u k none = v at ran filled
  have quiet : Claims.Quiet v := by
    obtain ⟨heat, map, none⟩ := fills.quiet
    rw [← unlocked]
    exact ⟨by rw [← heat]; exact congrArg (·.heatb.getLsbD 0) regs, by rw [← map]; exact congrArg (·.cmbas.getLsbD 0) regs, packed.trans none⟩
  have same : v.regs = u.regs := by
    rw [← unlocked]
    rfl
  have size : deferralSize v = deferralSize s := deferralSize_congr (by rw [same, regs])
  have kept : EntryAt v i f ofs ty z w :=
    entry.of_same (by rw [← unlocked]; exact dfr) (by rw [same, regs]) fun j few => filled.2.1 0 _ (apart j few)
  have partRunning : (partOf v f.part).pstate = .running := by
    rw [partOf_congr (s := s) (by rw [← unlocked]; exact parts), running]
  obtain ⟨t, caches, there, answer⟩ := answerDeferral_entry kept quiet k partRunning
  rw [answerList_entry kept quiet _ partRunning (by rw [size]; exact inside) (by rw [size]; exact short), answer] at ran
  obtain ⟨mem, words, net, acts, waiting⟩ : t.mem = v.mem ∧ t.fe = v.fe ∧ t.net = v.net ∧ t.acts = v.acts ∧ t.ops = v.ops := by
    rw [caches]
    exact ⟨rfl, rfl, rfl, rfl, rfl⟩
  refine ⟨{ t with dfr := eraseAt v.dfr i }, deferralFiring t i, filled_later filled mem words net acts, waiting.trans ?_, ?_, ?_⟩
  · rw [← unlocked]
    exact ops
  · rw [← unlocked]
    exact congrArg (eraseAt · i) dfr
  · obtain ⟨part, tag, blk, node, act⟩ := deferralFiring_entry there
    refine ⟨part, tag, blk, node, act, fun none => ?_⟩
    rw [ran, answerWaiters_idle none]

/-- R163 to R166: the forms that wait at a word, and an LDI that has deferred on it, once a store makes the word Full. -/
theorem fullEmptyAnswers : Claims.FullEmptyAnswers := by
  intro s sid apr a x e fills k
  refine ⟨fun n o ofs ty z em empty one distinct running => ?_, fun n o ofs ty z m p ofs' ty' z' em' empty two distinct running => ?_,
    fun n o ofs ty z m p ofs' ty' z' em' empty two distinct running => ?_,
    fun i ofs ty z w f deferred head inside short alone running listed offset block node device apart words =>
      execStorePerform_deferred fills rfl deferred head inside short running ⟨listed, offset, block, node, device, words⟩ apart⟩
  · obtain ⟨u, rest, filled, ops, more, ran⟩ := execStorePerform_empty fills rfl empty one distinct running
    refine ⟨u, filled, ops, ?_⟩
    rw [ran, answerWaiters_idle more]
  · obtain ⟨u, rest, filled, ops, -, ran⟩ := execStorePerform_empty fills rfl empty two distinct running
    exact ⟨u, filled, ops, ran⟩
  · obtain ⟨u, rest, filled, ops, more, ran⟩ := execStorePerform_empty fills rfl empty two distinct running
    refine ⟨u, filled, ops, ?_⟩
    intro v here running'
    obtain ⟨-, last, none, answers⟩ := answerWaiters_first more
    rw [ran, if_neg (by decide), answers _ here running', answerWaiters_idle none]

/-- Settles O21: the loads and the stores of full and empty words at their banks, and the answers when a word is made Full. -/
theorem fullEmptyWords : Obligations.FullEmptyWords := ⟨fullEmptyLoads, fullEmptyStores, fullEmptyAnswers⟩

end Sys2Proof.Machine
end
